-- ==== Sys2Proof/Word.lean ====
section
/-! DEFINITION. The word types of the machine and their plainest arithmetic. -/

namespace Sys2Proof

/-- A byte of memory. -/
abbrev Byte := BitVec 8
/-- A lane or uniform register word (R14, R21). -/
abbrev Word := BitVec 32
/-- A c register or a pc (R34, R35). -/
abbrev Word64 := BitVec 64
/-- One bit for each of the 96 lanes of a group (R245). -/
abbrev LaneMask := BitVec 96

/-- Lanes of a group (R245). -/
abbrev laneCount : Nat := 96

/-- Bits `h:l` of a number (R7, R10). -/
def bitsOf (x h l : Nat) : Nat := (x >>> l) % 2 ^ (h + 1 - l)

/-- One bit of a number. -/
def bitAt (x i : Nat) : Bool := x.testBit i

/-- The signed reading of the low `w` bits of a number. -/
def sext (w x : Nat) : Int :=
  if x % 2 ^ w < 2 ^ (w - 1) then (x % 2 ^ w : Int) else (x % 2 ^ w : Int) - 2 ^ w

/-- `trunc(x, w)` of R10 on an integer. -/
def wrap (w : Nat) (x : Int) : Nat := (x % (2 ^ w : Int)).toNat

/-- Ceiling division. -/
def cdiv (a b : Nat) : Nat := (a + b - 1) / b

/-- The little-endian number of a byte list (R7). -/
def leNat : List Byte → Nat
  | [] => 0
  | b :: bs => b.toNat + 256 * leNat bs

/-- `n` little-endian bytes of a number (R7). -/
def leBytes : Nat → Nat → List Byte
  | 0, _ => []
  | n + 1, x => BitVec.ofNat 8 x :: leBytes n (x / 256)

end Sys2Proof
end

