-- ==== Sys2Proof/Syntax.lean ====
section
/-! DEFINITION. The instructions and device steps of spec/opcode_table.json, one constructor a row. -/

namespace Sys2Proof

/-- The operand fields of a 32-bit form (R80). -/
structure Short where
  d : BitVec 7
  a : BitVec 7
  b : BitVec 7
  deriving DecidableEq, Repr

/-- The operand fields of a 64- or 96-bit form: word 0 (R80), word 1 (R84) and the literal word of a 96-bit form. -/
structure Long where
  d : BitVec 7
  a : BitVec 7
  b : BitVec 7
  imm : BitVec 13
  asel : BitVec 2
  bsel : BitVec 2
  ty : BitVec 4
  sc : BitVec 3
  qn : BitVec 1
  qg : BitVec 3
  la : BitVec 4
  lit : Option Word
  deriving DecidableEq, Repr

/-- Who issues: a path of a group (its dual-path stack entry), a group's level-0 handler, or a control-thread
context (R36, R256, R257). A group is numbered core * 32 + slot, a context core * 4 + team slot. -/
inductive Agent where
  | path (g ix : Nat)
  | handler (g : Nat)
  | ctl (t : Nat)
  deriving DecidableEq, Repr

/-- One lane of an atomic at its home (R175): the operation code of R176, its type code, the address and the
operands. `fl` selects the float class. -/
structure AtomRq where
  colour : Nat
  addr : Nat
  op : Nat
  ty : Nat
  fl : Bool
  a : Nat
  c : Nat
  deriving DecidableEq, Repr

/-- OP, MCNT, NELEM and TY that a member of a collective names (R322). -/
structure CollKind where
  op : Nat
  mcnt : Nat
  nelem : Nat
  ty : Nat
  deriving DecidableEq, Repr

/-- A message a peer member sends for a collective (R322 to R327): one unit's contribution or result, with what the member
names and the sealed operand under which it comes, its tag and the address of its bytes (R47). -/
structure PeerMsg where
  src : Nat
  unit : Nat
  result : Bool
  data : List Byte
  kind : CollKind
  cap : BitVec 128
  tag : Bool
  addr : Nat
  deriving DecidableEq, Repr

/-- An inbound request of the host or of a peer (R50, R276). -/
inductive InRq where
  | read (addr len : Nat)
  | write (addr : Nat) (data : List Byte)
  | atomic (rq : AtomRq)
  deriving DecidableEq, Repr

/-- The SPDM requests of R442. -/
inductive SpdmRq where
  | getCertificate
  | getMeasurements (nonce : List Byte)
  | challenge (nonce : List Byte)
  | keyExchange (f : Nat) (share : List Byte)
  | other (code : Nat)
  deriving DecidableEq, Repr

/-- What NEGOTIATE finds with the partner (R438): the lanes that pass at both ends, those that pass at 224 Gb/s and at
112 Gb/s, whether the partner requests interleaved FEC, whether its lane order is reversed. -/
structure LinkOffer where
  lanes : BitVec 8
  fast : BitVec 8
  slow : BitVec 8
  fec : Bool
  rev : Bool
  deriving DecidableEq, Repr

/-- What a partner port presents in ATTEST (R439): its identity, whether its chain ends at Coeldin's root, whether its
signature of the transcript verifies. -/
structure LinkProof where
  dev : Nat
  port : Nat
  chainOk : Bool
  sigOk : Bool
  deriving DecidableEq, Repr

/-- A flit as a port receives it (R440): its counter, whether its GCM tag verifies, and the counter of the first flit of
this end that the partner has not acknowledged. -/
structure FlitIn where
  ctr : Nat
  macOk : Bool
  ack : Nat
  deriving DecidableEq, Repr

/-- The unit in which a soft error is found (R445): a word of the register pool of a core, a k or q word, a byte's unit
of a scratchpad, control store or HBM, a word of a tile store, a granule of an L1 line or of a line in L2, an entry of
an L1 or L2 tag array. -/
inductive ErrAt where
  | v (g row lane : Nat)
  | k (g n : Nat)
  | q (g n lane : Nat)
  /-- a lane's quad tag, by row / 4; a uniform quad's tag -/
  | vtag (g quad lane : Nat)
  | ktag (g quad : Nat)
  | store (addr : Nat)
  | tile (core word : Nat)
  | l1 (core line colour gran : Nat)
  | l2 (addr : Nat)
  | l1Tag (core line colour : Nat)
  | l2Tag (core line : Nat) (dirty : Bool)
  deriving DecidableEq, Repr

/-- The rows of spec/opcode_table.json: the instruction forms of R95 and the device steps. The 32-bit forms of JOIN,
RET, EXIT, YIELD and NOP name no operand field (R118), so their constructors carry none. -/
inductive Instr where
  | iadd32 (o : Short)
  | iadd64 (w : Long)
  | isub32 (o : Short)
  | isub64 (w : Long)
  | iadc32 (o : Short)
  | iadc64 (w : Long)
  | imul32 (o : Short)
  | imul64 (w : Long)
  | imulh32 (o : Short)
  | imulh64 (w : Long)
  | imad (w : Long)
  | imadw (w : Long)
  | idiv (w : Long)
  | irem (w : Long)
  | imin32 (o : Short)
  | imin64 (w : Long)
  | imax32 (o : Short)
  | imax64 (w : Long)
  | iabs32 (o : Short)
  | iabs64 (w : Long)
  | ineg32 (o : Short)
  | ineg64 (w : Long)
  | sel (w : Long)
  | iset (w : Long)
  | icmp (w : Long)
  | and32 (o : Short)
  | and64 (w : Long)
  | or32 (o : Short)
  | or64 (w : Long)
  | xor32 (o : Short)
  | xor64 (w : Long)
  | andn32 (o : Short)
  | andn64 (w : Long)
  | not32 (o : Short)
  | not64 (w : Long)
  | mov32 (o : Short)
  | mov64 (w : Long)
  | movl (w : Long)
  | shl32 (o : Short)
  | shl64 (w : Long)
  | shr32 (o : Short)
  | shr64 (w : Long)
  | sar32 (o : Short)
  | sar64 (w : Long)
  | rot32 (o : Short)
  | rot64 (w : Long)
  | shf (w : Long)
  | bfx (w : Long)
  | bfi (w : Long)
  | perm (w : Long)
  | popc32 (o : Short)
  | popc64 (w : Long)
  | clz32 (o : Short)
  | clz64 (w : Long)
  | ctz32 (o : Short)
  | ctz64 (w : Long)
  | brev32 (o : Short)
  | brev64 (w : Long)
  | iaddUb (o : Short)
  | isubUb (o : Short)
  | imulUb (o : Short)
  | andUb (o : Short)
  | orUb (o : Short)
  | xorUb (o : Short)
  | shlUb (o : Short)
  | shrUb (o : Short)
  | uadd32 (o : Short)
  | uadd64 (w : Long)
  | usub32 (o : Short)
  | usub64 (w : Long)
  | umul32 (o : Short)
  | umul64 (w : Long)
  | umad (w : Long)
  | uand32 (o : Short)
  | uand64 (w : Long)
  | uor32 (o : Short)
  | uor64 (w : Long)
  | uxor32 (o : Short)
  | uxor64 (w : Long)
  | umov32 (o : Short)
  | umov64 (w : Long)
  | ushl32 (o : Short)
  | ushl64 (w : Long)
  | ushr32 (o : Short)
  | ushr64 (w : Long)
  | usar32 (o : Short)
  | usar64 (w : Long)
  | umin32 (o : Short)
  | umin64 (w : Long)
  | umax32 (o : Short)
  | umax64 (w : Long)
  | ucmp (w : Long)
  | usel (w : Long)
  | ubfx (w : Long)
  | upopc32 (o : Short)
  | upopc64 (w : Long)
  | uclz32 (o : Short)
  | uclz64 (w : Long)
  | plop (w : Long)
  | p2k32 (o : Short)
  | p2k64 (w : Long)
  | k2p32 (o : Short)
  | k2p64 (w : Long)
  | pmov32 (o : Short)
  | pmov64 (w : Long)
  | fadd32 (o : Short)
  | fadd64 (w : Long)
  | fsub32 (o : Short)
  | fsub64 (w : Long)
  | fmul32 (o : Short)
  | fmul64 (w : Long)
  | ffma (w : Long)
  | fmin32 (o : Short)
  | fmin64 (w : Long)
  | fmax32 (o : Short)
  | fmax64 (w : Long)
  | fset (w : Long)
  | fcmp (w : Long)
  | fclass (w : Long)
  | frnd32 (o : Short)
  | frnd64 (w : Long)
  | fscale32 (o : Short)
  | fscale64 (w : Long)
  | fexpt32 (o : Short)
  | fexpt64 (w : Long)
  | fcvt (w : Long)
  | icvt (w : Long)
  | ficvt (w : Long)
  | frcp (w : Long)
  | frsq (w : Long)
  | fsqrt (w : Long)
  | fdiv (w : Long)
  | fexp2 (w : Long)
  | flog2 (w : Long)
  | fsin (w : Long)
  | fcos (w : Long)
  | ftanh (w : Long)
  | hadd232 (o : Short)
  | hadd264 (w : Long)
  | hmul232 (o : Short)
  | hmul264 (w : Long)
  | hfma2 (w : Long)
  | dot4 (w : Long)
  | dot2 (w : Long)
  | mxq (w : Long)
  | mxdq (w : Long)
  | shfl (w : Long)
  | vote (w : Long)
  | rdfl (w : Long)
  | rdln (w : Long)
  | redg (w : Long)
  | scang (w : Long)
  | matchg (w : Long)
  | lid32 (o : Short)
  | lid64 (w : Long)
  | ld (w : Long)
  | st (w : Long)
  | ldu (w : Long)
  | stu (w : Long)
  | ldc (w : Long)
  | stc (w : Long)
  | pref (w : Long)
  | atom (w : Long)
  | cas (w : Long)
  | atomf (w : Long)
  | red (w : Long)
  | cadd32 (o : Short)
  | cadd64 (w : Long)
  | cset32 (o : Short)
  | cset64 (w : Long)
  | cbnd (w : Long)
  | cperm32 (o : Short)
  | cperm64 (w : Long)
  | cget (w : Long)
  | cseal (w : Long)
  | cunseal (w : Long)
  | ctest (w : Long)
  | cclr32 (o : Short)
  | cclr64 (w : Long)
  | fence (w : Long)
  | fencex (w : Long)
  | cflush (w : Long)
  | cinv (w : Long)
  | icinv (w : Long)
  | bra32 (o : Short)
  | bra96 (w : Long)
  | brc32 (o : Short)
  | brc96 (w : Long)
  | brx (w : Long)
  | brd (w : Long)
  | join64 (w : Long)
  | call32 (o : Short)
  | call96 (w : Long)
  | calli (w : Long)
  | ret64 (w : Long)
  | winb32 (o : Short)
  | winb64 (w : Long)
  | exit64 (w : Long)
  | take (w : Long)
  | yield64 (w : Long)
  | nop64 (w : Long)
  | hint (n : BitVec 30)
  | cpl (w : Long)
  | sheaf (w : Long)
  | wsheaf (w : Long)
  | tcopy (w : Long)
  | wchk (w : Long)
  | apnd (w : Long)
  | wseq (w : Long)
  | dpost (w : Long)
  | mma (w : Long)
  | mzero (w : Long)
  | mload (w : Long)
  | mstore (w : Long)
  | mdrain (w : Long)
  | coll (w : Long)
  | rcopy (w : Long)
  | crec (w : Long)
  | binit (w : Long)
  | barv (w : Long)
  | bwait (w : Long)
  | bsync (w : Long)
  | claim (w : Long)
  | release (w : Long)
  | tclaim (w : Long)
  | trelease (w : Long)
  | trap (w : Long)
  | rtt (w : Long)
  | sysrd (w : Long)
  | syswr (w : Long)
  | clock32 (o : Short)
  | clock64 (w : Long)
  | pmrd (w : Long)
  | sleep (w : Long)
  | gstop (w : Long)
  | grd (w : Long)
  | gwr (w : Long)
  | gres (w : Long)
  | gstat (w : Long)
  | tlaunch (w : Long)
  | chctlAbandonFaulted (t ch : Nat)
  | chctlAbandonAll (t ch : Nat)
  | loadResult (ag : Agent) (n : Nat)
  | atomicAtHome (core : Nat) (rq : AtomRq)
  | hostWindowCompletion (id status : Nat) (data : List (List Byte))
  | lateFault (ag : Agent)
  | noticeRecord (t : Nat)
  | level2Fault (t : Nat)
  | groupRetirement (g : Nat)
  | starvationRaise (g : Nat)
  | hintCyclesExpiry (ag : Agent)
  | sleepEnd (ag : Agent)
  | chainEntryAcceptance (t ch : Nat)
  | copyChunk (t ch n c : Nat)
  | lineOperation (g n : Nat)
  | gcmRecord (t n j : Nat)
  | tileFetch (t n : Nat)
  | mmaKblock (t n : Nat)
  | tileStoreRowOperation (t n : Nat)
  | drainRowStaging (t n : Nat)
  | collMessage (t n : Nat) (m : PeerMsg)
  | abortNotice (t n cause sub : Nat)
  | switchReductionResult (t n u : Nat) (data : List Byte)
  | switchStateLost (t n : Nat) (us : List Nat)
  | peerAcknowledgement (t n c : Nat)
  | engineCompletionRecord (t ch n : Nat)
  | cacheWalk (w : Nat)
  | walkResume (w : Nat)
  | walkEnd (w : Nat)
  | drainRequest (core colour : Nat)
  | releaseRecordRetirement (line colour : Nat)
  | teamStart (core : Nat)
  | l1RegionScan (core : Nat)
  | teamEnd (t : Nat)
  | forward (w : Nat)
  | taskCompletion (k : Nat)
  | preemptionRequest (ts : List Nat)
  | teamSave (t : Nat)
  | teamRestore (n core tslot : Nat)
  | qsub (f q addr : Nat) (data : Option (List Byte))
  | qctlRelease (f q n : Nat)
  | qctlCancel (f q n : Nat)
  | recordExamination (q : Nat)
  | admission (k : Nat)
  | teamDeal (k : Nat)
  | glean (core : Nat)
  | gleanAnswer (core : Nat)
  | gleanAnswerArrival (core : Nat)
  | quantumEnd
  | holderChange
  | tokenTick
  | fcfgEnable (f : Nat) (w : Word)
  | fcfgDisable (f : Nat) (w : Word)
  | registerWrite (f off : Nat) (w : Word)
  | extAdd (f i : Nat) (img : BitVec 128)
  | extRevoke (f i : Nat)
  | revocationPoint (i : Nat)
  | extFree (f i : Nat)
  | colSet (f colour fn prot kslot : Nat)
  | imgBind (f colour i : Nat)
  | keyRelease (f colour addr : Nat) (blob : Option (List Byte))
  | keyZero (f colour : Nat)
  | preempt (f fn : Nat)
  | sweep (f : Nat)
  | mcmdUnlistedOp (f op : Nat)
  | managementCommandEnd (f : Nat)
  | sweepPassComplete
  | functionLevelReset (f : Nat)
  | stopInterface (f : Nat)
  | scrubReceipt (f : Nat)
  | spdmRequest (rq : SpdmRq)
  | ideIntegrityFailure (f : Nat)
  | flitReplay
  | hostInboundRequest (f : Nat) (rq : InRq)
  | peerInboundRequest (dev : Nat) (cap : BitVec 128) (tag : Bool) (rq : InRq)
  | powerUp
  | conventionalReset
  | pcieTraining (flit : Bool)
  | go
  | firmwareVerify (img : Option (List Byte))
  | configApply (blob : Option (List Byte))
  | hbmTraining (ok : Bool)
  | fabricBringUp (ok : Bool)
  | fewickStageEnd
  | stageTimeLimit
  | partnerSignal (p : Nat)
  | detectTimeout (p : Nat)
  | detectRetry (p : Nat)
  | negotiate (p : Nat) (offer : LinkOffer)
  | attest (p : Nat) (proof : LinkProof)
  | flitReceived (p : Nat) (fl : FlitIn)
  | flitResend (p : Nat)
  | retryLimit (p : Nat)
  | portRetrain (p : Nat)
  | portDisable (p : Nat)
  | pacing (on : Bool)
  | softError (loc : ErrAt) (multi : Bool)
  | parityError (core : Nat)
  | coreRetirement (core : Nat)
  | patrolScrub (addr : Nat)
  | snapshotRequest
  | snapshotWrite
  | watchWindowEnd
  | segmentClose (r : Nat)
  | checkpoint
  | checkpointRestore (img : Option (List Byte))
  | checkpointImageWrite
  | powerOff
  | lockInterface (f : Nat)
  | startInterface (f : Nat)
  | join32
  | ret32
  | exit32
  | yield32
  | nop32
  deriving DecidableEq, Repr

end Sys2Proof
end

