-- ==== Sys2Proof/WellFormed.lean ====
section
/-! DEFINITION. Which fields an instruction can hold: what R94 refuses whatever the executing stream. -/

namespace Sys2Proof

/-- The shape of an instruction: its operand fields, or a device step, which has no encoding. -/
inductive Shape where
  | short (o : Short)
  | long (w : Long)
  | hint (n : BitVec 30)
  | event
  deriving DecidableEq, Repr

/-- The lengths a 64/96-bit row has (the Lengths column of its page). -/
inductive Lens where
  | only64
  | only96
  | both
  deriving DecidableEq, Repr

/-- Where an instruction stands in the opcode map (R95): row, slot, the group-window code of R96 if it has one, the
lengths its page gives, whether its page gives the literal word a role of its own (step 5 of R94). -/
structure Slot where
  maj : BitVec 6
  f : BitVec 3
  gop : Option (BitVec 3)
  lens : Lens
  litRole : Bool
  deriving DecidableEq, Repr

/-- Shape and slot of each instruction (R95, R96); a device step has neither. -/
def Instr.parts : Instr → Shape × Slot
  | .iadd32 o => (.short o, ⟨0x00, 1, none, .both, false⟩)
  | .iadd64 w => (.long w, ⟨0x00, 1, none, .both, false⟩)
  | .isub32 o => (.short o, ⟨0x00, 2, none, .both, false⟩)
  | .isub64 w => (.long w, ⟨0x00, 2, none, .both, false⟩)
  | .iadc32 o => (.short o, ⟨0x00, 3, none, .both, false⟩)
  | .iadc64 w => (.long w, ⟨0x00, 3, none, .both, false⟩)
  | .imul32 o => (.short o, ⟨0x00, 4, none, .both, false⟩)
  | .imul64 w => (.long w, ⟨0x00, 4, none, .both, false⟩)
  | .imulh32 o => (.short o, ⟨0x00, 5, none, .both, false⟩)
  | .imulh64 w => (.long w, ⟨0x00, 5, none, .both, false⟩)
  | .imad w => (.long w, ⟨0x00, 6, none, .both, false⟩)
  | .imadw w => (.long w, ⟨0x00, 7, none, .both, false⟩)
  | .idiv w => (.long w, ⟨0x01, 0, none, .both, false⟩)
  | .irem w => (.long w, ⟨0x01, 1, none, .both, false⟩)
  | .imin32 o => (.short o, ⟨0x01, 2, none, .both, false⟩)
  | .imin64 w => (.long w, ⟨0x01, 2, none, .both, false⟩)
  | .imax32 o => (.short o, ⟨0x01, 3, none, .both, false⟩)
  | .imax64 w => (.long w, ⟨0x01, 3, none, .both, false⟩)
  | .iabs32 o => (.short o, ⟨0x01, 4, none, .both, false⟩)
  | .iabs64 w => (.long w, ⟨0x01, 4, none, .both, false⟩)
  | .ineg32 o => (.short o, ⟨0x01, 5, none, .both, false⟩)
  | .ineg64 w => (.long w, ⟨0x01, 5, none, .both, false⟩)
  | .sel w => (.long w, ⟨0x01, 6, none, .both, false⟩)
  | .iset w => (.long w, ⟨0x01, 7, none, .both, false⟩)
  | .icmp w => (.long w, ⟨0x02, 0, none, .both, false⟩)
  | .and32 o => (.short o, ⟨0x02, 1, none, .both, false⟩)
  | .and64 w => (.long w, ⟨0x02, 1, none, .both, false⟩)
  | .or32 o => (.short o, ⟨0x02, 2, none, .both, false⟩)
  | .or64 w => (.long w, ⟨0x02, 2, none, .both, false⟩)
  | .xor32 o => (.short o, ⟨0x02, 3, none, .both, false⟩)
  | .xor64 w => (.long w, ⟨0x02, 3, none, .both, false⟩)
  | .andn32 o => (.short o, ⟨0x02, 4, none, .both, false⟩)
  | .andn64 w => (.long w, ⟨0x02, 4, none, .both, false⟩)
  | .not32 o => (.short o, ⟨0x02, 5, none, .both, false⟩)
  | .not64 w => (.long w, ⟨0x02, 5, none, .both, false⟩)
  | .mov32 o => (.short o, ⟨0x02, 6, none, .both, false⟩)
  | .mov64 w => (.long w, ⟨0x02, 6, none, .both, false⟩)
  | .movl w => (.long w, ⟨0x02, 7, none, .only96, false⟩)
  | .shl32 o => (.short o, ⟨0x03, 0, none, .both, false⟩)
  | .shl64 w => (.long w, ⟨0x03, 0, none, .both, false⟩)
  | .shr32 o => (.short o, ⟨0x03, 1, none, .both, false⟩)
  | .shr64 w => (.long w, ⟨0x03, 1, none, .both, false⟩)
  | .sar32 o => (.short o, ⟨0x03, 2, none, .both, false⟩)
  | .sar64 w => (.long w, ⟨0x03, 2, none, .both, false⟩)
  | .rot32 o => (.short o, ⟨0x03, 3, none, .both, false⟩)
  | .rot64 w => (.long w, ⟨0x03, 3, none, .both, false⟩)
  | .shf w => (.long w, ⟨0x03, 4, none, .both, false⟩)
  | .bfx w => (.long w, ⟨0x03, 5, none, .both, false⟩)
  | .bfi w => (.long w, ⟨0x03, 6, none, .both, false⟩)
  | .perm w => (.long w, ⟨0x03, 7, none, .both, false⟩)
  | .popc32 o => (.short o, ⟨0x04, 0, none, .both, false⟩)
  | .popc64 w => (.long w, ⟨0x04, 0, none, .both, false⟩)
  | .clz32 o => (.short o, ⟨0x04, 1, none, .both, false⟩)
  | .clz64 w => (.long w, ⟨0x04, 1, none, .both, false⟩)
  | .ctz32 o => (.short o, ⟨0x04, 2, none, .both, false⟩)
  | .ctz64 w => (.long w, ⟨0x04, 2, none, .both, false⟩)
  | .brev32 o => (.short o, ⟨0x04, 3, none, .both, false⟩)
  | .brev64 w => (.long w, ⟨0x04, 3, none, .both, false⟩)
  | .iaddUb o => (.short o, ⟨0x0B, 0, none, .both, false⟩)
  | .isubUb o => (.short o, ⟨0x0B, 1, none, .both, false⟩)
  | .imulUb o => (.short o, ⟨0x0B, 2, none, .both, false⟩)
  | .andUb o => (.short o, ⟨0x0B, 3, none, .both, false⟩)
  | .orUb o => (.short o, ⟨0x0B, 4, none, .both, false⟩)
  | .xorUb o => (.short o, ⟨0x0B, 5, none, .both, false⟩)
  | .shlUb o => (.short o, ⟨0x0B, 6, none, .both, false⟩)
  | .shrUb o => (.short o, ⟨0x0B, 7, none, .both, false⟩)
  | .uadd32 o => (.short o, ⟨0x0C, 0, none, .both, false⟩)
  | .uadd64 w => (.long w, ⟨0x0C, 0, none, .both, false⟩)
  | .usub32 o => (.short o, ⟨0x0C, 1, none, .both, false⟩)
  | .usub64 w => (.long w, ⟨0x0C, 1, none, .both, false⟩)
  | .umul32 o => (.short o, ⟨0x0C, 2, none, .both, false⟩)
  | .umul64 w => (.long w, ⟨0x0C, 2, none, .both, false⟩)
  | .umad w => (.long w, ⟨0x0C, 3, none, .both, false⟩)
  | .uand32 o => (.short o, ⟨0x0C, 4, none, .both, false⟩)
  | .uand64 w => (.long w, ⟨0x0C, 4, none, .both, false⟩)
  | .uor32 o => (.short o, ⟨0x0C, 5, none, .both, false⟩)
  | .uor64 w => (.long w, ⟨0x0C, 5, none, .both, false⟩)
  | .uxor32 o => (.short o, ⟨0x0C, 6, none, .both, false⟩)
  | .uxor64 w => (.long w, ⟨0x0C, 6, none, .both, false⟩)
  | .umov32 o => (.short o, ⟨0x0C, 7, none, .both, false⟩)
  | .umov64 w => (.long w, ⟨0x0C, 7, none, .both, false⟩)
  | .ushl32 o => (.short o, ⟨0x0D, 0, none, .both, false⟩)
  | .ushl64 w => (.long w, ⟨0x0D, 0, none, .both, false⟩)
  | .ushr32 o => (.short o, ⟨0x0D, 1, none, .both, false⟩)
  | .ushr64 w => (.long w, ⟨0x0D, 1, none, .both, false⟩)
  | .usar32 o => (.short o, ⟨0x0D, 2, none, .both, false⟩)
  | .usar64 w => (.long w, ⟨0x0D, 2, none, .both, false⟩)
  | .umin32 o => (.short o, ⟨0x0D, 3, none, .both, false⟩)
  | .umin64 w => (.long w, ⟨0x0D, 3, none, .both, false⟩)
  | .umax32 o => (.short o, ⟨0x0D, 4, none, .both, false⟩)
  | .umax64 w => (.long w, ⟨0x0D, 4, none, .both, false⟩)
  | .ucmp w => (.long w, ⟨0x0D, 5, none, .both, false⟩)
  | .usel w => (.long w, ⟨0x0D, 6, none, .both, false⟩)
  | .ubfx w => (.long w, ⟨0x0D, 7, none, .both, false⟩)
  | .upopc32 o => (.short o, ⟨0x0E, 0, none, .both, false⟩)
  | .upopc64 w => (.long w, ⟨0x0E, 0, none, .both, false⟩)
  | .uclz32 o => (.short o, ⟨0x0E, 1, none, .both, false⟩)
  | .uclz64 w => (.long w, ⟨0x0E, 1, none, .both, false⟩)
  | .plop w => (.long w, ⟨0x0E, 2, none, .both, true⟩)
  | .p2k32 o => (.short o, ⟨0x0E, 3, none, .both, false⟩)
  | .p2k64 w => (.long w, ⟨0x0E, 3, none, .only64, false⟩)
  | .k2p32 o => (.short o, ⟨0x0E, 4, none, .both, false⟩)
  | .k2p64 w => (.long w, ⟨0x0E, 4, none, .both, false⟩)
  | .pmov32 o => (.short o, ⟨0x0E, 5, none, .both, false⟩)
  | .pmov64 w => (.long w, ⟨0x0E, 5, none, .only64, false⟩)
  | .fadd32 o => (.short o, ⟨0x10, 0, none, .both, false⟩)
  | .fadd64 w => (.long w, ⟨0x10, 0, none, .both, false⟩)
  | .fsub32 o => (.short o, ⟨0x10, 1, none, .both, false⟩)
  | .fsub64 w => (.long w, ⟨0x10, 1, none, .both, false⟩)
  | .fmul32 o => (.short o, ⟨0x10, 2, none, .both, false⟩)
  | .fmul64 w => (.long w, ⟨0x10, 2, none, .both, false⟩)
  | .ffma w => (.long w, ⟨0x10, 3, none, .both, false⟩)
  | .fmin32 o => (.short o, ⟨0x10, 4, none, .both, false⟩)
  | .fmin64 w => (.long w, ⟨0x10, 4, none, .both, false⟩)
  | .fmax32 o => (.short o, ⟨0x10, 5, none, .both, false⟩)
  | .fmax64 w => (.long w, ⟨0x10, 5, none, .both, false⟩)
  | .fset w => (.long w, ⟨0x10, 6, none, .both, false⟩)
  | .fcmp w => (.long w, ⟨0x10, 7, none, .both, false⟩)
  | .fclass w => (.long w, ⟨0x11, 0, none, .both, false⟩)
  | .frnd32 o => (.short o, ⟨0x11, 1, none, .both, false⟩)
  | .frnd64 w => (.long w, ⟨0x11, 1, none, .both, false⟩)
  | .fscale32 o => (.short o, ⟨0x11, 2, none, .both, false⟩)
  | .fscale64 w => (.long w, ⟨0x11, 2, none, .both, false⟩)
  | .fexpt32 o => (.short o, ⟨0x11, 3, none, .both, false⟩)
  | .fexpt64 w => (.long w, ⟨0x11, 3, none, .both, false⟩)
  | .fcvt w => (.long w, ⟨0x11, 4, none, .both, false⟩)
  | .icvt w => (.long w, ⟨0x11, 5, none, .both, false⟩)
  | .ficvt w => (.long w, ⟨0x11, 6, none, .both, false⟩)
  | .frcp w => (.long w, ⟨0x12, 0, none, .both, false⟩)
  | .frsq w => (.long w, ⟨0x12, 1, none, .both, false⟩)
  | .fsqrt w => (.long w, ⟨0x12, 2, none, .both, false⟩)
  | .fdiv w => (.long w, ⟨0x12, 3, none, .both, false⟩)
  | .fexp2 w => (.long w, ⟨0x12, 4, none, .both, false⟩)
  | .flog2 w => (.long w, ⟨0x12, 5, none, .both, false⟩)
  | .fsin w => (.long w, ⟨0x12, 6, none, .both, false⟩)
  | .fcos w => (.long w, ⟨0x12, 7, none, .both, false⟩)
  | .ftanh w => (.long w, ⟨0x13, 0, none, .both, false⟩)
  | .hadd232 o => (.short o, ⟨0x14, 0, none, .both, false⟩)
  | .hadd264 w => (.long w, ⟨0x14, 0, none, .both, false⟩)
  | .hmul232 o => (.short o, ⟨0x14, 1, none, .both, false⟩)
  | .hmul264 w => (.long w, ⟨0x14, 1, none, .both, false⟩)
  | .hfma2 w => (.long w, ⟨0x14, 2, none, .both, false⟩)
  | .dot4 w => (.long w, ⟨0x14, 3, none, .both, false⟩)
  | .dot2 w => (.long w, ⟨0x14, 4, none, .both, false⟩)
  | .mxq w => (.long w, ⟨0x14, 5, none, .both, false⟩)
  | .mxdq w => (.long w, ⟨0x14, 6, none, .both, false⟩)
  | .shfl w => (.long w, ⟨0x20, 0, none, .both, false⟩)
  | .vote w => (.long w, ⟨0x20, 1, none, .only64, false⟩)
  | .rdfl w => (.long w, ⟨0x20, 2, none, .only64, false⟩)
  | .rdln w => (.long w, ⟨0x20, 3, none, .both, false⟩)
  | .redg w => (.long w, ⟨0x20, 4, none, .only64, false⟩)
  | .scang w => (.long w, ⟨0x20, 5, none, .only64, false⟩)
  | .matchg w => (.long w, ⟨0x20, 6, none, .only64, false⟩)
  | .lid32 o => (.short o, ⟨0x20, 7, none, .both, false⟩)
  | .lid64 w => (.long w, ⟨0x20, 7, none, .only64, false⟩)
  | .ld w => (.long w, ⟨0x28, 0, none, .both, false⟩)
  | .st w => (.long w, ⟨0x28, 1, none, .both, false⟩)
  | .ldu w => (.long w, ⟨0x28, 2, none, .both, false⟩)
  | .stu w => (.long w, ⟨0x28, 3, none, .both, false⟩)
  | .ldc w => (.long w, ⟨0x28, 4, none, .both, false⟩)
  | .stc w => (.long w, ⟨0x28, 5, none, .both, false⟩)
  | .pref w => (.long w, ⟨0x28, 6, none, .both, false⟩)
  | .atom w => (.long w, ⟨0x29, 0, none, .both, false⟩)
  | .cas w => (.long w, ⟨0x29, 1, none, .both, false⟩)
  | .atomf w => (.long w, ⟨0x29, 2, none, .both, false⟩)
  | .red w => (.long w, ⟨0x29, 3, none, .both, false⟩)
  | .cadd32 o => (.short o, ⟨0x2A, 0, none, .both, false⟩)
  | .cadd64 w => (.long w, ⟨0x2A, 0, none, .both, false⟩)
  | .cset32 o => (.short o, ⟨0x2A, 1, none, .both, false⟩)
  | .cset64 w => (.long w, ⟨0x2A, 1, none, .both, false⟩)
  | .cbnd w => (.long w, ⟨0x2A, 2, none, .both, false⟩)
  | .cperm32 o => (.short o, ⟨0x2A, 3, none, .both, false⟩)
  | .cperm64 w => (.long w, ⟨0x2A, 3, none, .both, false⟩)
  | .cget w => (.long w, ⟨0x2A, 4, none, .only64, false⟩)
  | .cseal w => (.long w, ⟨0x2A, 5, none, .only64, false⟩)
  | .cunseal w => (.long w, ⟨0x2A, 6, none, .only64, false⟩)
  | .ctest w => (.long w, ⟨0x2A, 7, none, .both, false⟩)
  | .cclr32 o => (.short o, ⟨0x2B, 0, none, .both, false⟩)
  | .cclr64 w => (.long w, ⟨0x2B, 0, none, .only64, false⟩)
  | .fence w => (.long w, ⟨0x2C, 0, none, .only64, false⟩)
  | .fencex w => (.long w, ⟨0x2C, 1, none, .only64, false⟩)
  | .cflush w => (.long w, ⟨0x2C, 2, none, .both, false⟩)
  | .cinv w => (.long w, ⟨0x2C, 3, none, .both, false⟩)
  | .icinv w => (.long w, ⟨0x2C, 4, none, .both, false⟩)
  | .bra32 o => (.short o, ⟨0x38, 0, none, .both, false⟩)
  | .bra96 w => (.long w, ⟨0x38, 0, none, .only96, true⟩)
  | .brc32 o => (.short o, ⟨0x38, 1, none, .both, false⟩)
  | .brc96 w => (.long w, ⟨0x38, 1, none, .only96, true⟩)
  | .brx w => (.long w, ⟨0x38, 2, none, .only64, false⟩)
  | .brd w => (.long w, ⟨0x38, 3, none, .only96, false⟩)
  | .join32 => (.short ⟨0, 0, 0⟩, ⟨0x38, 4, none, .both, false⟩)
  | .join64 w => (.long w, ⟨0x38, 4, none, .only64, false⟩)
  | .call32 o => (.short o, ⟨0x38, 5, none, .both, false⟩)
  | .call96 w => (.long w, ⟨0x38, 5, none, .only96, true⟩)
  | .calli w => (.long w, ⟨0x38, 6, none, .only64, false⟩)
  | .ret32 => (.short ⟨0, 0, 0⟩, ⟨0x38, 7, none, .both, false⟩)
  | .ret64 w => (.long w, ⟨0x38, 7, none, .only64, false⟩)
  | .winb32 o => (.short o, ⟨0x39, 0, none, .both, false⟩)
  | .winb64 w => (.long w, ⟨0x39, 0, none, .only64, false⟩)
  | .exit32 => (.short ⟨0, 0, 0⟩, ⟨0x39, 1, none, .both, false⟩)
  | .exit64 w => (.long w, ⟨0x39, 1, none, .only64, false⟩)
  | .take w => (.long w, ⟨0x39, 2, none, .only64, false⟩)
  | .yield32 => (.short ⟨0, 0, 0⟩, ⟨0x39, 3, none, .both, false⟩)
  | .yield64 w => (.long w, ⟨0x39, 3, none, .only64, false⟩)
  | .nop32 => (.short ⟨0, 0, 0⟩, ⟨0x39, 4, none, .both, false⟩)
  | .nop64 w => (.long w, ⟨0x39, 4, none, .only64, false⟩)
  | .hint n => (.hint n, ⟨0, 0, none, .both, false⟩)
  | .cpl w => (.long w, ⟨0x3C, 0, none, .both, false⟩)
  | .sheaf w => (.long w, ⟨0x3C, 1, none, .only64, false⟩)
  | .wsheaf w => (.long w, ⟨0x3C, 2, none, .both, false⟩)
  | .tcopy w => (.long w, ⟨0x3C, 3, none, .only64, false⟩)
  | .wchk w => (.long w, ⟨0x3C, 4, none, .both, false⟩)
  | .apnd w => (.long w, ⟨0x3C, 5, none, .only64, false⟩)
  | .wseq w => (.long w, ⟨0x3C, 6, none, .both, false⟩)
  | .dpost w => (.long w, ⟨0x3C, 7, none, .both, false⟩)
  | .mma w => (.long w, ⟨0x3D, 0, none, .both, false⟩)
  | .mzero w => (.long w, ⟨0x3D, 1, none, .only64, false⟩)
  | .mload w => (.long w, ⟨0x3D, 2, none, .only64, false⟩)
  | .mstore w => (.long w, ⟨0x3D, 3, none, .only64, false⟩)
  | .mdrain w => (.long w, ⟨0x3D, 4, none, .only64, false⟩)
  | .coll w => (.long w, ⟨0x3D, 5, none, .only64, false⟩)
  | .rcopy w => (.long w, ⟨0x3D, 6, none, .only64, false⟩)
  | .crec w => (.long w, ⟨0x3D, 7, none, .only64, false⟩)
  | .binit w => (.long w, ⟨0x3E, 0, none, .both, false⟩)
  | .barv w => (.long w, ⟨0x3E, 1, none, .only64, false⟩)
  | .bwait w => (.long w, ⟨0x3E, 2, none, .only64, false⟩)
  | .bsync w => (.long w, ⟨0x3E, 3, none, .only64, false⟩)
  | .claim w => (.long w, ⟨0x3E, 4, none, .both, false⟩)
  | .release w => (.long w, ⟨0x3E, 5, none, .both, false⟩)
  | .tclaim w => (.long w, ⟨0x3E, 6, none, .both, false⟩)
  | .trelease w => (.long w, ⟨0x3E, 7, none, .only64, false⟩)
  | .trap w => (.long w, ⟨0x3F, 0, none, .only64, false⟩)
  | .rtt w => (.long w, ⟨0x3F, 1, none, .only64, false⟩)
  | .sysrd w => (.long w, ⟨0x3F, 2, none, .only64, false⟩)
  | .syswr w => (.long w, ⟨0x3F, 3, none, .only64, false⟩)
  | .clock32 o => (.short o, ⟨0x3F, 4, none, .both, false⟩)
  | .clock64 w => (.long w, ⟨0x3F, 4, none, .only64, false⟩)
  | .pmrd w => (.long w, ⟨0x3F, 5, none, .only64, false⟩)
  | .sleep w => (.long w, ⟨0x3F, 6, none, .both, false⟩)
  | .gstop w => (.long w, ⟨0x3F, 7, some 0, .both, false⟩)
  | .grd w => (.long w, ⟨0x3F, 7, some 1, .both, false⟩)
  | .gwr w => (.long w, ⟨0x3F, 7, some 2, .both, false⟩)
  | .gres w => (.long w, ⟨0x3F, 7, some 3, .both, false⟩)
  | .gstat w => (.long w, ⟨0x3F, 7, some 4, .both, false⟩)
  | .tlaunch w => (.long w, ⟨0x3F, 7, some 5, .both, false⟩)
  | .chctlAbandonFaulted _ _ => (.event, ⟨0, 0, none, .both, false⟩)
  | .chctlAbandonAll _ _ => (.event, ⟨0, 0, none, .both, false⟩)
  | .loadResult _ _ => (.event, ⟨0, 0, none, .both, false⟩)
  | .atomicAtHome _ _ => (.event, ⟨0, 0, none, .both, false⟩)
  | .hostWindowCompletion _ _ _ => (.event, ⟨0, 0, none, .both, false⟩)
  | .lateFault _ => (.event, ⟨0, 0, none, .both, false⟩)
  | .noticeRecord _ => (.event, ⟨0, 0, none, .both, false⟩)
  | .level2Fault _ => (.event, ⟨0, 0, none, .both, false⟩)
  | .groupRetirement _ => (.event, ⟨0, 0, none, .both, false⟩)
  | .starvationRaise _ => (.event, ⟨0, 0, none, .both, false⟩)
  | .hintCyclesExpiry _ => (.event, ⟨0, 0, none, .both, false⟩)
  | .sleepEnd _ => (.event, ⟨0, 0, none, .both, false⟩)
  | .chainEntryAcceptance _ _ => (.event, ⟨0, 0, none, .both, false⟩)
  | .copyChunk _ _ _ _ => (.event, ⟨0, 0, none, .both, false⟩)
  | .lineOperation _ _ => (.event, ⟨0, 0, none, .both, false⟩)
  | .gcmRecord _ _ _ => (.event, ⟨0, 0, none, .both, false⟩)
  | .tileFetch _ _ => (.event, ⟨0, 0, none, .both, false⟩)
  | .mmaKblock _ _ => (.event, ⟨0, 0, none, .both, false⟩)
  | .tileStoreRowOperation _ _ => (.event, ⟨0, 0, none, .both, false⟩)
  | .drainRowStaging _ _ => (.event, ⟨0, 0, none, .both, false⟩)
  | .collMessage _ _ _ => (.event, ⟨0, 0, none, .both, false⟩)
  | .abortNotice _ _ _ _ => (.event, ⟨0, 0, none, .both, false⟩)
  | .switchReductionResult _ _ _ _ => (.event, ⟨0, 0, none, .both, false⟩)
  | .switchStateLost _ _ _ => (.event, ⟨0, 0, none, .both, false⟩)
  | .peerAcknowledgement _ _ _ => (.event, ⟨0, 0, none, .both, false⟩)
  | .engineCompletionRecord _ _ _ => (.event, ⟨0, 0, none, .both, false⟩)
  | .cacheWalk _ => (.event, ⟨0, 0, none, .both, false⟩)
  | .walkResume _ => (.event, ⟨0, 0, none, .both, false⟩)
  | .walkEnd _ => (.event, ⟨0, 0, none, .both, false⟩)
  | .drainRequest _ _ => (.event, ⟨0, 0, none, .both, false⟩)
  | .releaseRecordRetirement _ _ => (.event, ⟨0, 0, none, .both, false⟩)
  | .teamStart _ => (.event, ⟨0, 0, none, .both, false⟩)
  | .l1RegionScan _ => (.event, ⟨0, 0, none, .both, false⟩)
  | .teamEnd _ => (.event, ⟨0, 0, none, .both, false⟩)
  | .forward _ => (.event, ⟨0, 0, none, .both, false⟩)
  | .taskCompletion _ => (.event, ⟨0, 0, none, .both, false⟩)
  | .preemptionRequest _ => (.event, ⟨0, 0, none, .both, false⟩)
  | .teamSave _ => (.event, ⟨0, 0, none, .both, false⟩)
  | .teamRestore _ _ _ => (.event, ⟨0, 0, none, .both, false⟩)
  | .qsub _ _ _ _ => (.event, ⟨0, 0, none, .both, false⟩)
  | .qctlRelease _ _ _ => (.event, ⟨0, 0, none, .both, false⟩)
  | .qctlCancel _ _ _ => (.event, ⟨0, 0, none, .both, false⟩)
  | .recordExamination _ => (.event, ⟨0, 0, none, .both, false⟩)
  | .admission _ => (.event, ⟨0, 0, none, .both, false⟩)
  | .teamDeal _ => (.event, ⟨0, 0, none, .both, false⟩)
  | .glean _ => (.event, ⟨0, 0, none, .both, false⟩)
  | .gleanAnswer _ => (.event, ⟨0, 0, none, .both, false⟩)
  | .gleanAnswerArrival _ => (.event, ⟨0, 0, none, .both, false⟩)
  | .quantumEnd => (.event, ⟨0, 0, none, .both, false⟩)
  | .holderChange => (.event, ⟨0, 0, none, .both, false⟩)
  | .tokenTick => (.event, ⟨0, 0, none, .both, false⟩)
  | .fcfgEnable _ _ => (.event, ⟨0, 0, none, .both, false⟩)
  | .fcfgDisable _ _ => (.event, ⟨0, 0, none, .both, false⟩)
  | .registerWrite _ _ _ => (.event, ⟨0, 0, none, .both, false⟩)
  | .extAdd _ _ _ => (.event, ⟨0, 0, none, .both, false⟩)
  | .extRevoke _ _ => (.event, ⟨0, 0, none, .both, false⟩)
  | .revocationPoint _ => (.event, ⟨0, 0, none, .both, false⟩)
  | .extFree _ _ => (.event, ⟨0, 0, none, .both, false⟩)
  | .colSet _ _ _ _ _ => (.event, ⟨0, 0, none, .both, false⟩)
  | .imgBind _ _ _ => (.event, ⟨0, 0, none, .both, false⟩)
  | .keyRelease _ _ _ _ => (.event, ⟨0, 0, none, .both, false⟩)
  | .keyZero _ _ => (.event, ⟨0, 0, none, .both, false⟩)
  | .preempt _ _ => (.event, ⟨0, 0, none, .both, false⟩)
  | .sweep _ => (.event, ⟨0, 0, none, .both, false⟩)
  | .mcmdUnlistedOp _ _ => (.event, ⟨0, 0, none, .both, false⟩)
  | .managementCommandEnd _ => (.event, ⟨0, 0, none, .both, false⟩)
  | .sweepPassComplete => (.event, ⟨0, 0, none, .both, false⟩)
  | .functionLevelReset _ => (.event, ⟨0, 0, none, .both, false⟩)
  | .stopInterface _ => (.event, ⟨0, 0, none, .both, false⟩)
  | .scrubReceipt _ => (.event, ⟨0, 0, none, .both, false⟩)
  | .spdmRequest _ => (.event, ⟨0, 0, none, .both, false⟩)
  | .ideIntegrityFailure _ => (.event, ⟨0, 0, none, .both, false⟩)
  | .flitReplay => (.event, ⟨0, 0, none, .both, false⟩)
  | .hostInboundRequest _ _ => (.event, ⟨0, 0, none, .both, false⟩)
  | .peerInboundRequest _ _ _ _ => (.event, ⟨0, 0, none, .both, false⟩)
  | .powerUp => (.event, ⟨0, 0, none, .both, false⟩)
  | .conventionalReset => (.event, ⟨0, 0, none, .both, false⟩)
  | .pcieTraining _ => (.event, ⟨0, 0, none, .both, false⟩)
  | .go => (.event, ⟨0, 0, none, .both, false⟩)
  | .firmwareVerify _ => (.event, ⟨0, 0, none, .both, false⟩)
  | .configApply _ => (.event, ⟨0, 0, none, .both, false⟩)
  | .hbmTraining _ => (.event, ⟨0, 0, none, .both, false⟩)
  | .fabricBringUp _ => (.event, ⟨0, 0, none, .both, false⟩)
  | .fewickStageEnd => (.event, ⟨0, 0, none, .both, false⟩)
  | .stageTimeLimit => (.event, ⟨0, 0, none, .both, false⟩)
  | .partnerSignal _ => (.event, ⟨0, 0, none, .both, false⟩)
  | .detectTimeout _ => (.event, ⟨0, 0, none, .both, false⟩)
  | .detectRetry _ => (.event, ⟨0, 0, none, .both, false⟩)
  | .negotiate _ _ => (.event, ⟨0, 0, none, .both, false⟩)
  | .attest _ _ => (.event, ⟨0, 0, none, .both, false⟩)
  | .flitReceived _ _ => (.event, ⟨0, 0, none, .both, false⟩)
  | .flitResend _ => (.event, ⟨0, 0, none, .both, false⟩)
  | .retryLimit _ => (.event, ⟨0, 0, none, .both, false⟩)
  | .portRetrain _ => (.event, ⟨0, 0, none, .both, false⟩)
  | .portDisable _ => (.event, ⟨0, 0, none, .both, false⟩)
  | .pacing _ => (.event, ⟨0, 0, none, .both, false⟩)
  | .softError _ _ => (.event, ⟨0, 0, none, .both, false⟩)
  | .parityError _ => (.event, ⟨0, 0, none, .both, false⟩)
  | .coreRetirement _ => (.event, ⟨0, 0, none, .both, false⟩)
  | .patrolScrub _ => (.event, ⟨0, 0, none, .both, false⟩)
  | .snapshotRequest => (.event, ⟨0, 0, none, .both, false⟩)
  | .snapshotWrite => (.event, ⟨0, 0, none, .both, false⟩)
  | .watchWindowEnd => (.event, ⟨0, 0, none, .both, false⟩)
  | .segmentClose _ => (.event, ⟨0, 0, none, .both, false⟩)
  | .checkpoint => (.event, ⟨0, 0, none, .both, false⟩)
  | .checkpointRestore _ => (.event, ⟨0, 0, none, .both, false⟩)
  | .checkpointImageWrite => (.event, ⟨0, 0, none, .both, false⟩)
  | .powerOff => (.event, ⟨0, 0, none, .both, false⟩)
  | .lockInterface _ => (.event, ⟨0, 0, none, .both, false⟩)
  | .startInterface _ => (.event, ⟨0, 0, none, .both, false⟩)

/-- Shape of an instruction. -/
def Instr.shape (i : Instr) : Shape := i.parts.1
/-- Opcode-map slot of an instruction. -/
def Instr.slot (i : Instr) : Slot := i.parts.2

/-- What R94 asks of the word-1 fields in every stream: the form is one the page has, BSEL = 0b11 exactly where a
literal word is the B operand (step 5), ASEL not reserved (step 6), and the group-window code (step 3). A literal word
where the page has length 64 alone is refused as well: no step names that case (DESIGN CHOICE, log 53). -/
def Long.ok (w : Long) (s : Slot) : Bool :=
  (match w.lit with
    | none => s.lens != .only96 && w.bsel != 3
    | some _ => s.lens != .only64 && (w.bsel == 3 || s.litRole)) &&
  w.asel != 3 &&
  (match s.gop with
    | none => true
    | some g => w.imm >>> 10 == g.zeroExtend 13)

/-- An instruction whose fields an encoding can carry. Device steps are not encoded and are always well formed. -/
def Instr.wf (i : Instr) : Bool :=
  match i.shape with
  | .long w => w.ok i.slot
  | _ => true

/-- The bytes of an instruction (R78); 0 for a device step. -/
def Instr.bytes (i : Instr) : Nat :=
  match i.shape with
  | .short _ => 4
  | .hint _ => 4
  | .long w => if w.lit.isSome then 12 else 8
  | .event => 0

end Sys2Proof
end

