-- ==== Sys2Proof/Decode.lean ====
section
/-! DEFINITION. Decoding of instruction words (R78 to R96), and the encoder. -/

namespace Sys2Proof

/-- Why words are no instruction: each raises ILLEGAL (R94). -/
inductive DecodeErr where
  /-- an unassigned slot of R95 (step 3) -/
  | unassigned
  /-- a reserved group-window code of R96 (step 3) -/
  | reservedGop
  /-- the 32-bit form of a long-latency instruction (step 5) -/
  | longLatency32
  /-- a length or BSEL that step 5 or the page refuses -/
  | badForm
  /-- ASEL = 0b11 (step 6) -/
  | reservedAsel
  /-- fewer words given than the length needs -/
  | tooShort
  deriving DecidableEq, Repr

/-- Length in words from bits 1:0 of the first word (R78). -/
def wordLen (w0 : Word) : Nat :=
  if w0.extractLsb' 0 2 = 1 then 2 else if w0.extractLsb' 0 2 = 2 then 3 else 1

/-- The operand fields of word 0 (R80). -/
def shortOf (w0 : Word) : Short :=
  { d := w0.extractLsb' 8 7, a := w0.extractLsb' 15 7, b := w0.extractLsb' 22 7 }

/-- The fields of words 0 and 1 (R80, R84). -/
def longOf (w0 w1 : Word) (lit : Option Word) : Long :=
  { d := w0.extractLsb' 8 7, a := w0.extractLsb' 15 7, b := w0.extractLsb' 22 7
    imm := w1.extractLsb' 19 13, asel := w1.extractLsb' 17 2, bsel := w1.extractLsb' 15 2
    ty := w1.extractLsb' 11 4, sc := w1.extractLsb' 8 3, qn := w1.extractLsb' 7 1
    qg := w1.extractLsb' 4 3, la := w1.extractLsb' 0 4, lit := lit }

/-- The group-window slot (R96). -/
def gopRow (w : Long) : Except DecodeErr Instr :=
  match (w.imm.extractLsb' 10 3).toNat with
  | 0 => .ok (.gstop w)
  | 1 => .ok (.grd w)
  | 2 => .ok (.gwr w)
  | 3 => .ok (.gres w)
  | 4 => .ok (.gstat w)
  | 5 => .ok (.tlaunch w)
  | _ => .error .reservedGop

/-- The 32-bit instruction of a slot (R95). -/
def shortRow (maj f : Nat) (o : Short) : Except DecodeErr Instr :=
  match maj, f with
  | 0x00, 1 => .ok (.iadd32 o)
  | 0x00, 2 => .ok (.isub32 o)
  | 0x00, 3 => .ok (.iadc32 o)
  | 0x00, 4 => .ok (.imul32 o)
  | 0x00, 5 => .ok (.imulh32 o)
  | 0x00, 6 => .error .longLatency32
  | 0x00, 7 => .error .longLatency32
  | 0x01, 0 => .error .longLatency32
  | 0x01, 1 => .error .longLatency32
  | 0x01, 2 => .ok (.imin32 o)
  | 0x01, 3 => .ok (.imax32 o)
  | 0x01, 4 => .ok (.iabs32 o)
  | 0x01, 5 => .ok (.ineg32 o)
  | 0x01, 6 => .error .longLatency32
  | 0x01, 7 => .error .longLatency32
  | 0x02, 0 => .error .longLatency32
  | 0x02, 1 => .ok (.and32 o)
  | 0x02, 2 => .ok (.or32 o)
  | 0x02, 3 => .ok (.xor32 o)
  | 0x02, 4 => .ok (.andn32 o)
  | 0x02, 5 => .ok (.not32 o)
  | 0x02, 6 => .ok (.mov32 o)
  | 0x02, 7 => .error .longLatency32
  | 0x03, 0 => .ok (.shl32 o)
  | 0x03, 1 => .ok (.shr32 o)
  | 0x03, 2 => .ok (.sar32 o)
  | 0x03, 3 => .ok (.rot32 o)
  | 0x03, 4 => .error .longLatency32
  | 0x03, 5 => .error .longLatency32
  | 0x03, 6 => .error .longLatency32
  | 0x03, 7 => .error .longLatency32
  | 0x04, 0 => .ok (.popc32 o)
  | 0x04, 1 => .ok (.clz32 o)
  | 0x04, 2 => .ok (.ctz32 o)
  | 0x04, 3 => .ok (.brev32 o)
  | 0x0B, 0 => .ok (.iaddUb o)
  | 0x0B, 1 => .ok (.isubUb o)
  | 0x0B, 2 => .ok (.imulUb o)
  | 0x0B, 3 => .ok (.andUb o)
  | 0x0B, 4 => .ok (.orUb o)
  | 0x0B, 5 => .ok (.xorUb o)
  | 0x0B, 6 => .ok (.shlUb o)
  | 0x0B, 7 => .ok (.shrUb o)
  | 0x0C, 0 => .ok (.uadd32 o)
  | 0x0C, 1 => .ok (.usub32 o)
  | 0x0C, 2 => .ok (.umul32 o)
  | 0x0C, 3 => .error .longLatency32
  | 0x0C, 4 => .ok (.uand32 o)
  | 0x0C, 5 => .ok (.uor32 o)
  | 0x0C, 6 => .ok (.uxor32 o)
  | 0x0C, 7 => .ok (.umov32 o)
  | 0x0D, 0 => .ok (.ushl32 o)
  | 0x0D, 1 => .ok (.ushr32 o)
  | 0x0D, 2 => .ok (.usar32 o)
  | 0x0D, 3 => .ok (.umin32 o)
  | 0x0D, 4 => .ok (.umax32 o)
  | 0x0D, 5 => .error .longLatency32
  | 0x0D, 6 => .error .longLatency32
  | 0x0D, 7 => .error .longLatency32
  | 0x0E, 0 => .ok (.upopc32 o)
  | 0x0E, 1 => .ok (.uclz32 o)
  | 0x0E, 2 => .error .longLatency32
  | 0x0E, 3 => .ok (.p2k32 o)
  | 0x0E, 4 => .ok (.k2p32 o)
  | 0x0E, 5 => .ok (.pmov32 o)
  | 0x10, 0 => .ok (.fadd32 o)
  | 0x10, 1 => .ok (.fsub32 o)
  | 0x10, 2 => .ok (.fmul32 o)
  | 0x10, 3 => .error .longLatency32
  | 0x10, 4 => .ok (.fmin32 o)
  | 0x10, 5 => .ok (.fmax32 o)
  | 0x10, 6 => .error .longLatency32
  | 0x10, 7 => .error .longLatency32
  | 0x11, 0 => .error .longLatency32
  | 0x11, 1 => .ok (.frnd32 o)
  | 0x11, 2 => .ok (.fscale32 o)
  | 0x11, 3 => .ok (.fexpt32 o)
  | 0x11, 4 => .error .longLatency32
  | 0x11, 5 => .error .longLatency32
  | 0x11, 6 => .error .longLatency32
  | 0x12, 0 => .error .longLatency32
  | 0x12, 1 => .error .longLatency32
  | 0x12, 2 => .error .longLatency32
  | 0x12, 3 => .error .longLatency32
  | 0x12, 4 => .error .longLatency32
  | 0x12, 5 => .error .longLatency32
  | 0x12, 6 => .error .longLatency32
  | 0x12, 7 => .error .longLatency32
  | 0x13, 0 => .error .longLatency32
  | 0x14, 0 => .ok (.hadd232 o)
  | 0x14, 1 => .ok (.hmul232 o)
  | 0x14, 2 => .error .longLatency32
  | 0x14, 3 => .error .longLatency32
  | 0x14, 4 => .error .longLatency32
  | 0x14, 5 => .error .longLatency32
  | 0x14, 6 => .error .longLatency32
  | 0x20, 0 => .error .longLatency32
  | 0x20, 1 => .error .longLatency32
  | 0x20, 2 => .error .longLatency32
  | 0x20, 3 => .error .longLatency32
  | 0x20, 4 => .error .longLatency32
  | 0x20, 5 => .error .longLatency32
  | 0x20, 6 => .error .longLatency32
  | 0x20, 7 => .ok (.lid32 o)
  | 0x28, 0 => .error .longLatency32
  | 0x28, 1 => .error .longLatency32
  | 0x28, 2 => .error .longLatency32
  | 0x28, 3 => .error .longLatency32
  | 0x28, 4 => .error .longLatency32
  | 0x28, 5 => .error .longLatency32
  | 0x28, 6 => .error .longLatency32
  | 0x29, 0 => .error .longLatency32
  | 0x29, 1 => .error .longLatency32
  | 0x29, 2 => .error .longLatency32
  | 0x29, 3 => .error .longLatency32
  | 0x2A, 0 => .ok (.cadd32 o)
  | 0x2A, 1 => .ok (.cset32 o)
  | 0x2A, 2 => .error .longLatency32
  | 0x2A, 3 => .ok (.cperm32 o)
  | 0x2A, 4 => .error .longLatency32
  | 0x2A, 5 => .error .longLatency32
  | 0x2A, 6 => .error .longLatency32
  | 0x2A, 7 => .error .longLatency32
  | 0x2B, 0 => .ok (.cclr32 o)
  | 0x2C, 0 => .error .longLatency32
  | 0x2C, 1 => .error .longLatency32
  | 0x2C, 2 => .error .longLatency32
  | 0x2C, 3 => .error .longLatency32
  | 0x2C, 4 => .error .longLatency32
  | 0x38, 0 => .ok (.bra32 o)
  | 0x38, 1 => .ok (.brc32 o)
  | 0x38, 2 => .error .longLatency32
  | 0x38, 3 => .error .longLatency32
  | 0x38, 4 => .ok .join32
  | 0x38, 5 => .ok (.call32 o)
  | 0x38, 6 => .error .longLatency32
  | 0x38, 7 => .ok .ret32
  | 0x39, 0 => .ok (.winb32 o)
  | 0x39, 1 => .ok .exit32
  | 0x39, 2 => .error .longLatency32
  | 0x39, 3 => .ok .yield32
  | 0x39, 4 => .ok .nop32
  | 0x3C, 0 => .error .longLatency32
  | 0x3C, 1 => .error .longLatency32
  | 0x3C, 2 => .error .longLatency32
  | 0x3C, 3 => .error .longLatency32
  | 0x3C, 4 => .error .longLatency32
  | 0x3C, 5 => .error .longLatency32
  | 0x3C, 6 => .error .longLatency32
  | 0x3C, 7 => .error .longLatency32
  | 0x3D, 0 => .error .longLatency32
  | 0x3D, 1 => .error .longLatency32
  | 0x3D, 2 => .error .longLatency32
  | 0x3D, 3 => .error .longLatency32
  | 0x3D, 4 => .error .longLatency32
  | 0x3D, 5 => .error .longLatency32
  | 0x3D, 6 => .error .longLatency32
  | 0x3D, 7 => .error .longLatency32
  | 0x3E, 0 => .error .longLatency32
  | 0x3E, 1 => .error .longLatency32
  | 0x3E, 2 => .error .longLatency32
  | 0x3E, 3 => .error .longLatency32
  | 0x3E, 4 => .error .longLatency32
  | 0x3E, 5 => .error .longLatency32
  | 0x3E, 6 => .error .longLatency32
  | 0x3E, 7 => .error .longLatency32
  | 0x3F, 0 => .error .longLatency32
  | 0x3F, 1 => .error .longLatency32
  | 0x3F, 2 => .error .longLatency32
  | 0x3F, 3 => .error .longLatency32
  | 0x3F, 4 => .ok (.clock32 o)
  | 0x3F, 5 => .error .longLatency32
  | 0x3F, 6 => .error .longLatency32
  | 0x3F, 7 => .error .longLatency32
  | _, _ => .error .unassigned

/-- The 64- or 96-bit instruction of a slot (R95); row 0x0B has the effect of the lane row (R83). -/
def longRow (maj f : Nat) (w : Long) : Except DecodeErr Instr :=
  match maj, f with
  | 0x00, 1 => .ok (.iadd64 w)
  | 0x00, 2 => .ok (.isub64 w)
  | 0x00, 3 => .ok (.iadc64 w)
  | 0x00, 4 => .ok (.imul64 w)
  | 0x00, 5 => .ok (.imulh64 w)
  | 0x00, 6 => .ok (.imad w)
  | 0x00, 7 => .ok (.imadw w)
  | 0x01, 0 => .ok (.idiv w)
  | 0x01, 1 => .ok (.irem w)
  | 0x01, 2 => .ok (.imin64 w)
  | 0x01, 3 => .ok (.imax64 w)
  | 0x01, 4 => .ok (.iabs64 w)
  | 0x01, 5 => .ok (.ineg64 w)
  | 0x01, 6 => .ok (.sel w)
  | 0x01, 7 => .ok (.iset w)
  | 0x02, 0 => .ok (.icmp w)
  | 0x02, 1 => .ok (.and64 w)
  | 0x02, 2 => .ok (.or64 w)
  | 0x02, 3 => .ok (.xor64 w)
  | 0x02, 4 => .ok (.andn64 w)
  | 0x02, 5 => .ok (.not64 w)
  | 0x02, 6 => .ok (.mov64 w)
  | 0x02, 7 => .ok (.movl w)
  | 0x03, 0 => .ok (.shl64 w)
  | 0x03, 1 => .ok (.shr64 w)
  | 0x03, 2 => .ok (.sar64 w)
  | 0x03, 3 => .ok (.rot64 w)
  | 0x03, 4 => .ok (.shf w)
  | 0x03, 5 => .ok (.bfx w)
  | 0x03, 6 => .ok (.bfi w)
  | 0x03, 7 => .ok (.perm w)
  | 0x04, 0 => .ok (.popc64 w)
  | 0x04, 1 => .ok (.clz64 w)
  | 0x04, 2 => .ok (.ctz64 w)
  | 0x04, 3 => .ok (.brev64 w)
  | 0x0B, 0 => .ok (.iadd64 w)
  | 0x0B, 1 => .ok (.isub64 w)
  | 0x0B, 2 => .ok (.imul64 w)
  | 0x0B, 3 => .ok (.and64 w)
  | 0x0B, 4 => .ok (.or64 w)
  | 0x0B, 5 => .ok (.xor64 w)
  | 0x0B, 6 => .ok (.shl64 w)
  | 0x0B, 7 => .ok (.shr64 w)
  | 0x0C, 0 => .ok (.uadd64 w)
  | 0x0C, 1 => .ok (.usub64 w)
  | 0x0C, 2 => .ok (.umul64 w)
  | 0x0C, 3 => .ok (.umad w)
  | 0x0C, 4 => .ok (.uand64 w)
  | 0x0C, 5 => .ok (.uor64 w)
  | 0x0C, 6 => .ok (.uxor64 w)
  | 0x0C, 7 => .ok (.umov64 w)
  | 0x0D, 0 => .ok (.ushl64 w)
  | 0x0D, 1 => .ok (.ushr64 w)
  | 0x0D, 2 => .ok (.usar64 w)
  | 0x0D, 3 => .ok (.umin64 w)
  | 0x0D, 4 => .ok (.umax64 w)
  | 0x0D, 5 => .ok (.ucmp w)
  | 0x0D, 6 => .ok (.usel w)
  | 0x0D, 7 => .ok (.ubfx w)
  | 0x0E, 0 => .ok (.upopc64 w)
  | 0x0E, 1 => .ok (.uclz64 w)
  | 0x0E, 2 => .ok (.plop w)
  | 0x0E, 3 => .ok (.p2k64 w)
  | 0x0E, 4 => .ok (.k2p64 w)
  | 0x0E, 5 => .ok (.pmov64 w)
  | 0x10, 0 => .ok (.fadd64 w)
  | 0x10, 1 => .ok (.fsub64 w)
  | 0x10, 2 => .ok (.fmul64 w)
  | 0x10, 3 => .ok (.ffma w)
  | 0x10, 4 => .ok (.fmin64 w)
  | 0x10, 5 => .ok (.fmax64 w)
  | 0x10, 6 => .ok (.fset w)
  | 0x10, 7 => .ok (.fcmp w)
  | 0x11, 0 => .ok (.fclass w)
  | 0x11, 1 => .ok (.frnd64 w)
  | 0x11, 2 => .ok (.fscale64 w)
  | 0x11, 3 => .ok (.fexpt64 w)
  | 0x11, 4 => .ok (.fcvt w)
  | 0x11, 5 => .ok (.icvt w)
  | 0x11, 6 => .ok (.ficvt w)
  | 0x12, 0 => .ok (.frcp w)
  | 0x12, 1 => .ok (.frsq w)
  | 0x12, 2 => .ok (.fsqrt w)
  | 0x12, 3 => .ok (.fdiv w)
  | 0x12, 4 => .ok (.fexp2 w)
  | 0x12, 5 => .ok (.flog2 w)
  | 0x12, 6 => .ok (.fsin w)
  | 0x12, 7 => .ok (.fcos w)
  | 0x13, 0 => .ok (.ftanh w)
  | 0x14, 0 => .ok (.hadd264 w)
  | 0x14, 1 => .ok (.hmul264 w)
  | 0x14, 2 => .ok (.hfma2 w)
  | 0x14, 3 => .ok (.dot4 w)
  | 0x14, 4 => .ok (.dot2 w)
  | 0x14, 5 => .ok (.mxq w)
  | 0x14, 6 => .ok (.mxdq w)
  | 0x20, 0 => .ok (.shfl w)
  | 0x20, 1 => .ok (.vote w)
  | 0x20, 2 => .ok (.rdfl w)
  | 0x20, 3 => .ok (.rdln w)
  | 0x20, 4 => .ok (.redg w)
  | 0x20, 5 => .ok (.scang w)
  | 0x20, 6 => .ok (.matchg w)
  | 0x20, 7 => .ok (.lid64 w)
  | 0x28, 0 => .ok (.ld w)
  | 0x28, 1 => .ok (.st w)
  | 0x28, 2 => .ok (.ldu w)
  | 0x28, 3 => .ok (.stu w)
  | 0x28, 4 => .ok (.ldc w)
  | 0x28, 5 => .ok (.stc w)
  | 0x28, 6 => .ok (.pref w)
  | 0x29, 0 => .ok (.atom w)
  | 0x29, 1 => .ok (.cas w)
  | 0x29, 2 => .ok (.atomf w)
  | 0x29, 3 => .ok (.red w)
  | 0x2A, 0 => .ok (.cadd64 w)
  | 0x2A, 1 => .ok (.cset64 w)
  | 0x2A, 2 => .ok (.cbnd w)
  | 0x2A, 3 => .ok (.cperm64 w)
  | 0x2A, 4 => .ok (.cget w)
  | 0x2A, 5 => .ok (.cseal w)
  | 0x2A, 6 => .ok (.cunseal w)
  | 0x2A, 7 => .ok (.ctest w)
  | 0x2B, 0 => .ok (.cclr64 w)
  | 0x2C, 0 => .ok (.fence w)
  | 0x2C, 1 => .ok (.fencex w)
  | 0x2C, 2 => .ok (.cflush w)
  | 0x2C, 3 => .ok (.cinv w)
  | 0x2C, 4 => .ok (.icinv w)
  | 0x38, 0 => .ok (.bra96 w)
  | 0x38, 1 => .ok (.brc96 w)
  | 0x38, 2 => .ok (.brx w)
  | 0x38, 3 => .ok (.brd w)
  | 0x38, 4 => .ok (.join64 w)
  | 0x38, 5 => .ok (.call96 w)
  | 0x38, 6 => .ok (.calli w)
  | 0x38, 7 => .ok (.ret64 w)
  | 0x39, 0 => .ok (.winb64 w)
  | 0x39, 1 => .ok (.exit64 w)
  | 0x39, 2 => .ok (.take w)
  | 0x39, 3 => .ok (.yield64 w)
  | 0x39, 4 => .ok (.nop64 w)
  | 0x3C, 0 => .ok (.cpl w)
  | 0x3C, 1 => .ok (.sheaf w)
  | 0x3C, 2 => .ok (.wsheaf w)
  | 0x3C, 3 => .ok (.tcopy w)
  | 0x3C, 4 => .ok (.wchk w)
  | 0x3C, 5 => .ok (.apnd w)
  | 0x3C, 6 => .ok (.wseq w)
  | 0x3C, 7 => .ok (.dpost w)
  | 0x3D, 0 => .ok (.mma w)
  | 0x3D, 1 => .ok (.mzero w)
  | 0x3D, 2 => .ok (.mload w)
  | 0x3D, 3 => .ok (.mstore w)
  | 0x3D, 4 => .ok (.mdrain w)
  | 0x3D, 5 => .ok (.coll w)
  | 0x3D, 6 => .ok (.rcopy w)
  | 0x3D, 7 => .ok (.crec w)
  | 0x3E, 0 => .ok (.binit w)
  | 0x3E, 1 => .ok (.barv w)
  | 0x3E, 2 => .ok (.bwait w)
  | 0x3E, 3 => .ok (.bsync w)
  | 0x3E, 4 => .ok (.claim w)
  | 0x3E, 5 => .ok (.release w)
  | 0x3E, 6 => .ok (.tclaim w)
  | 0x3E, 7 => .ok (.trelease w)
  | 0x3F, 0 => .ok (.trap w)
  | 0x3F, 1 => .ok (.rtt w)
  | 0x3F, 2 => .ok (.sysrd w)
  | 0x3F, 3 => .ok (.syswr w)
  | 0x3F, 4 => .ok (.clock64 w)
  | 0x3F, 5 => .ok (.pmrd w)
  | 0x3F, 6 => .ok (.sleep w)
  | 0x3F, 7 => gopRow w
  | _, _ => .error .unassigned

/-- A long form is accepted only if its fields are ones R94 admits in every stream. -/
def checkLong (i : Instr) : Except DecodeErr Instr :=
  match i.shape with
  | .long w => if w.asel = 3 then .error .reservedAsel else if w.ok i.slot then .ok i else .error .badForm
  | _ => .ok i

/-- Decoding an instruction from its words (R78, R94 steps 2, 3, 5 and the stream-independent part of 6). Words after
the instruction's length are not read. -/
def decode (ws : List Word) : Except DecodeErr Instr :=
  match ws with
  | [] => .error .tooShort
  | w0 :: rest =>
    let maj := (w0.extractLsb' 2 6).toNat
    let f := (w0.extractLsb' 29 3).toNat
    match (w0.extractLsb' 0 2).toNat, rest with
    | 0, _ => shortRow maj f (shortOf w0)
    | 1, w1 :: _ => longRow maj f (longOf w0 w1 none) >>= checkLong
    | 2, w1 :: w2 :: _ => longRow maj f (longOf w0 w1 (some w2)) >>= checkLong
    | 3, _ => .ok (.hint (w0.extractLsb' 2 30))
    | _, _ => .error .tooShort

/-- Word 0 of an encoding (R80). -/
def word0 (s : Slot) (d a b : BitVec 7) (len : BitVec 2) : Word := s.f ++ b ++ a ++ d ++ s.maj ++ len
/-- Word 1 of an encoding (R84). -/
def word1 (w : Long) : Word := w.imm ++ w.asel ++ w.bsel ++ w.ty ++ w.sc ++ w.qn ++ w.qg ++ w.la

/-- The words of an instruction (R78 to R84); none for a device step. -/
def encode (i : Instr) : Option (List Word) :=
  let s := i.slot
  match i.shape with
  | .short o => some [word0 s o.d o.a o.b 0]
  | .hint n => some [n ++ (3 : BitVec 2)]
  | .long w =>
    match w.lit with
    | none => some [word0 s w.d w.a w.b 1, word1 w]
    | some l => some [word0 s w.d w.a w.b 2, word1 w, l]
  | .event => none

/-- The number of bytes of the longest instruction (R78). -/
abbrev maxInstrBytes : Nat := 12

/-- The little-endian words of a byte list (R7, R78). -/
def wordsOf : List Byte → List Word
  | a :: b :: c :: d :: r => (d ++ c ++ b ++ a) :: wordsOf r
  | _ => []

/-- Decoding an instruction from the bytes at its pc. -/
def decodeBytes (bs : List Byte) : Except DecodeErr Instr := decode (wordsOf bs)

/-- The bytes of an instruction whose table bits are w: words in ascending order, each little-endian, zeros above. -/
def tableBytes (nbits w : Nat) : List Byte := leBytes maxInstrBytes (w % 2 ^ nbits)

/-- The instruction the decoder reads from an instruction with the bits `w` of the opcode table, `nbits` long, all bits
above them zero. -/
def decodeTableWord (nbits w : Nat) : Option Instr :=
  match decodeBytes (tableBytes nbits w) with
  | .ok i => some i
  | .error _ => none

end Sys2Proof
end

