-- ==== Sys2Proof/Config.lean ====
section
/-! DEFINITION. Free values and what the spec takes from outside itself: constants with no body, so nothing can be
proved of their values. -/

namespace Sys2Proof.Config

/-- The n-th value that the spec leaves open, drawn by the counter `State.fresh` (log 2). -/
opaque free : Nat → Nat

/-- The status with which the host completes an engine's read: turns still to come, values drawn so far, address; 0 for
success (R330, log 48). -/
opaque hostStatus : Nat → Nat → Nat → Nat

/-- Which of the results within its error bound an approximate special function delivers: function code and operand
image (R145, log 13). -/
opaque approx : Nat → Nat → Nat

/-- The random value drawn at the n-th power-up: 0 the device context key, 1 BOOT (R398, R455, log 9). -/
opaque drawn : Nat → Nat → Nat

/-! Cryptographic functions named by the spec and defined by standards outside it (log 14). -/

/-- SHA-512 of a byte string. -/
opaque sha512 : List Byte → BitVec 512
/-- AES-256-GCM decryption: key, IV, additional data, ciphertext, tag; none where the tag does not verify. -/
opaque gcmOpen : BitVec 256 → List Byte → List Byte → List Byte → List Byte → Option (List Byte)
/-- AES-256-GCM encryption: key, IV, additional data, plaintext; ciphertext and tag. -/
opaque gcmSeal : BitVec 256 → List Byte → List Byte → List Byte → List Byte × List Byte
/-- AES-256-XTS encryption of one data unit under a 512-bit key and a tweak. -/
opaque xtsSeal : BitVec 512 → Nat → List Byte → List Byte
/-- AES-256-XTS decryption of one data unit. -/
opaque xtsOpen : BitVec 512 → Nat → List Byte → List Byte
/-- ML-KEM-1024 decapsulation with the device's key of a power-up, then the HKDF-SHA-512 key-encryption key of R412:
power-up, ciphertext, info. -/
opaque kek : Nat → List Byte → List Byte → BitVec 256
/-- ECDSA P-521 signature with the device identity key over a digest: 132 bytes. -/
opaque sign : BitVec 512 → List Byte
/-- Whether a signed object's ECDSA P-521 signature and certificate chain verify to Coeldin's root (R435, R436). -/
opaque verify : List Byte → Bool
/-- Whether a checkpoint manifest's signature verifies under this device's identity key (R458). -/
opaque verifyOwn : List Byte → Bool
/-- The answer of the SPDM responder to a request it supports, as bytes (R442). -/
opaque spdm : Nat → List Byte → List Byte

/-! Fields of the boot objects whose byte layout the spec does not give (R435, R436, log 10). -/

/-- Security version of a firmware image. -/
opaque fwVersion : List Byte → Nat
/-- Minimum security version in the part's fuses (R435). -/
opaque fuseVersion : Nat
/-- Whether a blob's binding is this device's identity public key's digest (R436). -/
opaque blobBound : List Byte → Bool
/-- Greatest number of spare cores a layer of the blob's spare map uses, and of spare lanes a pipe uses. -/
opaque blobSpares : List Byte → Nat × Nat
/-- The blob's core spare map: physical position of each logical core. -/
opaque blobPhys : List Byte → List Nat
/-- PWAYS, DEVID, PODMOD, HOPS of a blob. -/
opaque blobNums : List Byte → Nat × Nat × Nat × Nat
/-- Port p of a blob: enabled, expected device, expected port, interleaved FEC requested. -/
opaque blobPort : List Byte → Nat → Bool × Nat × Nat × Bool
/-- The port over which a message to a device leaves, among the UP ports (a mask), by the pod link table of the blob with
this digest (R436, R440); 12 or above, or a port not UP, where the device is reachable over none of them. Device 16384
stands for the switch that serves a collective (R325). -/
opaque route : BitVec 512 → Nat → Nat → Nat
/-- The set of its L2 slice that a line falls into (R316, log 57). -/
opaque l2Set : Nat → Nat
/-- Device identifier of this device's certificate (R411). -/
opaque certId : Word64

end Sys2Proof.Config
end

