-- ==== Sys2Proof/Machine/Num.lean ====
section
/-! DEFINITION. Number formats, rounding and exact arithmetic on their values (03_number_formats). -/

namespace Sys2Proof.Machine

/-! Integer and bit types (R56, R89). -/

/-- An integer or bit type: its width and whether it is two's complement; `bits` marks a b type (R56). -/
structure ITy where
  w : Nat
  signed : Bool
  isBits : Bool
  deriving DecidableEq, Repr

/-- The integer class of the TY codes (R89); b128 is code 12. -/
def ityOf (ty : Nat) : Option ITy :=
  match ty with
  | 0 => some ⟨8, true, false⟩
  | 1 => some ⟨16, true, false⟩
  | 2 => some ⟨32, true, false⟩
  | 3 => some ⟨64, true, false⟩
  | 4 => some ⟨8, false, false⟩
  | 5 => some ⟨16, false, false⟩
  | 6 => some ⟨32, false, false⟩
  | 7 => some ⟨64, false, false⟩
  | 8 => some ⟨8, false, true⟩
  | 9 => some ⟨16, false, true⟩
  | 10 => some ⟨32, false, true⟩
  | 11 => some ⟨64, false, true⟩
  | 12 => some ⟨128, false, true⟩
  | _ => none

/-- The mathematical integer an operand image of a type stands for (R10, R56). -/
def ITy.val (t : ITy) (x : Nat) : Int :=
  if t.signed then sext t.w x else ((x % 2 ^ t.w : Nat) : Int)

/-- Least and greatest value of a type (R57). -/
def ITy.lo (t : ITy) : Int := if t.signed then -(2 ^ (t.w - 1) : Int) else 0
/-- Greatest value of a type (R57). -/
def ITy.hi (t : ITy) : Int := if t.signed then 2 ^ (t.w - 1) - 1 else 2 ^ t.w - 1

/-- A result of a type from the exact integer: wrapped, or clamped under .sat (R57). -/
def ITy.fit (t : ITy) (sat : Bool) (x : Int) : Nat :=
  if sat then wrap t.w (max t.lo (min t.hi x)) else wrap t.w x

/-- The register image of a result: an s type below 32 bits fills bits 31:w with its sign (R56). -/
def ITy.image (t : ITy) (x : Nat) : Nat :=
  if t.w < 32 ∧ t.signed then wrap 32 (sext t.w x) else x % 2 ^ t.w

/-! Floating-point formats (R58 to R60). -/

/-- A binary floating-point format: exponent and mantissa bits, bias, and whether it has infinities and NaNs. -/
structure Fmt where
  eb : Nat
  mb : Nat
  bias : Nat
  hasInf : Bool
  hasNan : Bool
  deriving DecidableEq, Repr

def f64 : Fmt := ⟨11, 52, 1023, true, true⟩
def f32 : Fmt := ⟨8, 23, 127, true, true⟩
def f16 : Fmt := ⟨5, 10, 15, true, true⟩
def bf16 : Fmt := ⟨8, 7, 127, true, true⟩
def e5m2 : Fmt := ⟨5, 2, 15, true, true⟩
def e4m3 : Fmt := ⟨4, 3, 7, false, true⟩
def e3m2 : Fmt := ⟨3, 2, 3, false, false⟩
def e2m3 : Fmt := ⟨2, 3, 1, false, false⟩
def e2m1 : Fmt := ⟨2, 1, 1, false, false⟩

/-- The element format of a float-class TY code (R89): packed types give their element. -/
def fmtOf (ty : Nat) : Option Fmt :=
  match ty with
  | 0 => some f64
  | 1 => some f32
  | 2 => some f16
  | 3 => some bf16
  | 4 => some f16
  | 5 => some bf16
  | 6 => some e5m2
  | 7 => some e4m3
  | 8 => some e3m2
  | 9 => some e2m3
  | 10 => some e2m1
  | _ => none

def Fmt.width (F : Fmt) : Nat := 1 + F.eb + F.mb
/-- The exponent of the last place of the subnormals. -/
def Fmt.emin (F : Fmt) : Int := 1 - (F.bias : Int) - F.mb
/-- Whether NaNs of the format may be signalling (R62). -/
def Fmt.hasSig (F : Fmt) : Bool := F.mb ≥ 7
/-- The all-ones exponent field. -/
def Fmt.ones (F : Fmt) : Nat := 2 ^ F.eb - 1
/-- The image of the largest finite magnitude (R59, R60). -/
def Fmt.maxBits (F : Fmt) : Nat :=
  if F.hasInf then F.ones * 2 ^ F.mb - 1 else if F.hasNan then 2 ^ (F.eb + F.mb) - 2 else 2 ^ (F.eb + F.mb) - 1
/-- The image of +infinity. -/
def Fmt.infBits (F : Fmt) : Nat := F.ones * 2 ^ F.mb
/-- The canonical NaN (R62); 0 where the format has none. -/
def Fmt.nanBits (F : Fmt) : Nat :=
  if F.hasInf then F.ones * 2 ^ F.mb + 2 ^ (F.mb - 1) else if F.hasNan then 2 ^ (F.eb + F.mb) - 1 else 0
/-- A magnitude image with a sign. -/
def Fmt.signed (F : Fmt) (neg : Bool) (x : Nat) : Nat := if neg then 2 ^ (F.eb + F.mb) + x else x

/-- The value of an image: a NaN, an infinity, or the number (-1)^neg * m * 2^e (R59). -/
inductive FVal where
  | nan (sig : Bool)
  | inf (neg : Bool)
  | num (neg : Bool) (m : Nat) (e : Int)
  deriving DecidableEq, Repr

/-- The value of an image (R59, R62). -/
def Fmt.decode (F : Fmt) (x : Nat) : FVal :=
  let s := x.testBit (F.eb + F.mb)
  let e := bitsOf x (F.eb + F.mb - 1) F.mb
  let m := x % 2 ^ F.mb
  if e = F.ones ∧ F.hasInf then
    if m = 0 then .inf s else .nan (F.hasSig && !m.testBit (F.mb - 1))
  else if e = F.ones ∧ F.hasNan ∧ m = 2 ^ F.mb - 1 then .nan false
  else if e = 0 then .num s m F.emin
  else .num s (2 ^ F.mb + m) (F.emin + e - 1)

def FVal.isNan : FVal → Bool
  | .nan _ => true
  | _ => false
def FVal.isSig : FVal → Bool
  | .nan b => b
  | _ => false
def FVal.isInf : FVal → Bool
  | .inf _ => true
  | _ => false
def FVal.isZero : FVal → Bool
  | .num _ 0 _ => true
  | _ => false
/-- The sign, false for a NaN. -/
def FVal.neg : FVal → Bool
  | .nan _ => false
  | .inf s => s
  | .num s _ _ => s
def FVal.negate : FVal → FVal
  | .nan b => .nan b
  | .inf s => .inf !s
  | .num s m e => .num (!s) m e
def FVal.abs : FVal → FVal
  | .nan b => .nan b
  | .inf _ => .inf false
  | .num _ m e => .num false m e

/-! The flags of k56 (R26) as bits of a number. -/
def flNV : Nat := 16
def flDZ : Nat := 8
def flOF : Nat := 4
def flUF : Nat := 2
def flNX : Nat := 1

/-- The number of bits of a magnitude. -/
def bitLen (m : Nat) : Nat := if m = 0 then 0 else Nat.log2 m + 1

/-- Whether rounding mode `rm` (R64) takes the next magnitude up, given the kept part's last bit, the discarded
part `rem` of `2 ^ sh`, and the sign. -/
def roundsUp (rm : Nat) (neg odd : Bool) (rem sh : Nat) : Bool :=
  match rm with
  | 0 => 2 * rem > 2 ^ sh || (2 * rem == 2 ^ sh && odd)
  | 1 => false
  | 2 => neg && rem != 0
  | 3 => !neg && rem != 0
  | _ => 2 * rem ≥ 2 ^ sh && rem != 0

/-- `m * 2^e` rounded to a multiple of `2^q`: the multiple, and whether it is inexact. -/
def roundAt (rm : Nat) (neg : Bool) (m : Nat) (e q : Int) : Nat × Bool :=
  if q ≤ e then (m <<< (e - q).toNat, false)
  else
    let sh := (q - e).toNat
    let n := m >>> sh
    let rem := m % 2 ^ sh
    (if roundsUp rm neg (n.testBit 0) rem sh then n + 1 else n, rem != 0)

/-- What an overflow delivers (R65). -/
def overflowBits (F : Fmt) (rm : Nat) (neg : Bool) : Nat :=
  let toMax : Bool := !(F.hasInf || F.hasNan) || rm == 1 || (rm == 2 && !neg) || (rm == 3 && neg)
  if toMax then F.signed neg F.maxBits
  else if F.hasInf then F.signed neg F.infBits else F.nanBits

/-- Rounding an exact number to a format: image and flags (R64, R65, R68). -/
def roundPack (F : Fmt) (rm : Nat) (sat : Bool) (neg : Bool) (m : Nat) (e : Int) : Nat × Nat :=
  if m = 0 then (F.signed neg 0, 0)
  else
    let qU : Int := e + bitLen m - (F.mb + 1)
    let q := max F.emin qU
    let (n, inexact) := roundAt rm neg m e q
    let bits := (q - F.emin).toNat * 2 ^ F.mb + n
    if bits > F.maxBits then
      if sat then (F.signed neg F.maxBits, flNX) else (overflowBits F rm neg, flOF ||| flNX)
    else
      let (nU, _) := roundAt rm neg m e qU
      let tiny : Bool := qU < F.emin && (nU * 2 ^ 0 < 2 ^ ((F.emin + F.mb) - qU).toNat)
      (F.signed neg bits, if inexact then (if tiny then flUF ||| flNX else flNX) else 0)

/-- Delivering a value of arithmetic in a format that has infinities: image and flags. -/
def FVal.pack (F : Fmt) (rm : Nat) (sat : Bool) : FVal → Nat × Nat
  | .nan _ => (F.nanBits, 0)
  | .inf s => (F.signed s F.infBits, 0)
  | .num s m e => roundPack F rm sat s m e

/-- Conversion of a value to a format (R65, R66). -/
def FVal.convert (F : Fmt) (rm : Nat) (sat : Bool) : FVal → Nat × Nat
  | .nan sig => if F.hasNan then (F.nanBits, if sig then flNV else 0) else (0, flNV)
  | .inf s =>
    if sat then (F.signed s F.maxBits, 0)
    else if F.hasInf then (F.signed s F.infBits, 0)
    else if F.hasNan then (F.nanBits, flNV) else (F.signed s F.maxBits, flNV)
  | .num s m e => roundPack F rm sat s m e

/-- A signed number `x * 2^e`. A zero takes the sign given. -/
def FVal.ofInt (zneg : Bool) (x : Int) (e : Int) : FVal :=
  if x = 0 then .num zneg 0 e else .num (x < 0) x.natAbs e

/-- The signed mantissa of a number. -/
def sgnInt (neg : Bool) (m : Nat) : Int := if neg then -(m : Int) else m

/-- NV for a signalling operand (R62). -/
def sigFlag (a b : FVal) : Nat := if a.isSig || b.isSig then flNV else 0

/-- The exact sum under a rounding mode (R64; IEEE zero signs): value and flags. -/
def FVal.add (rm : Nat) (a b : FVal) : FVal × Nat :=
  match a, b with
  | .nan _, _ => (.nan false, sigFlag a b)
  | _, .nan _ => (.nan false, sigFlag a b)
  | .inf s, .inf t => if s = t then (.inf s, 0) else (.nan false, flNV)
  | .inf s, _ => (.inf s, 0)
  | _, .inf t => (.inf t, 0)
  | .num s m e, .num t n f =>
    let g := min e f
    let x := sgnInt s (m <<< (e - g).toNat) + sgnInt t (n <<< (f - g).toNat)
    let z : Bool := if m = 0 ∧ n = 0 ∧ s = t then s else rm == 2
    (FVal.ofInt z x g, 0)

/-- The exact product: value and flags. -/
def FVal.mul (a b : FVal) : FVal × Nat :=
  match a, b with
  | .nan _, _ => (.nan false, sigFlag a b)
  | _, .nan _ => (.nan false, sigFlag a b)
  | .inf s, .inf t => (.inf (s != t), 0)
  | .inf s, .num t n _ => if n = 0 then (.nan false, flNV) else (.inf (s != t), 0)
  | .num s m _, .inf t => if m = 0 then (.nan false, flNV) else (.inf (s != t), 0)
  | .num s m e, .num t n f => (.num (s != t) (m * n) (e + f), 0)

/-- The exact a * b + c: value and flags. -/
def FVal.fma (rm : Nat) (a b c : FVal) : FVal × Nat :=
  let (p, f1) := a.mul b
  let (r, f2) := p.add rm c
  (r, f1 ||| f2 ||| (if c.isSig then flNV else 0))

/-- The quotient to `p` + 3 bits with a sticky last bit: value and flags (R68). -/
def FVal.div (p : Nat) (a b : FVal) : FVal × Nat :=
  match a, b with
  | .nan _, _ => (.nan false, sigFlag a b)
  | _, .nan _ => (.nan false, sigFlag a b)
  | .inf _, .inf _ => (.nan false, flNV)
  | .inf s, .num t _ _ => (.inf (s != t), 0)
  | .num s _ _, .inf t => (.num (s != t) 0 0, 0)
  | .num s m e, .num t n f =>
    if n = 0 then (if m = 0 then (.nan false, flNV) else (.inf (s != t), flDZ))
    else if m = 0 then (.num (s != t) 0 0, 0)
    else
      let k := p + 3 + bitLen n
      let x := m <<< k
      (.num (s != t) (2 * (x / n) + (if x % n = 0 then 0 else 1)) (e - f - k - 1), 0)

/-- Integer square root, bit by bit. -/
def isqrtFrom : Nat → Nat → Nat → Nat
  | 0, r, _ => r
  | i + 1, r, n => if (r + 2 ^ i) * (r + 2 ^ i) ≤ n then isqrtFrom i (r + 2 ^ i) n else isqrtFrom i r n

/-- The greatest r with r * r ≤ n. -/
def isqrt (n : Nat) : Nat := isqrtFrom (bitLen n / 2 + 1) 0 n

/-- The square root to `p` + 3 bits with a sticky last bit: value and flags (R68). -/
def FVal.sqrt (p : Nat) (a : FVal) : FVal × Nat :=
  match a with
  | .nan sig => (.nan false, if sig then flNV else 0)
  | .inf false => (.inf false, 0)
  | .inf true => (.nan false, flNV)
  | .num s m e =>
    if m = 0 then (.num s 0 0, 0)
    else if s then (.nan false, flNV)
    else
      let m1 := if e % 2 = 0 then m else 2 * m
      let e1 := if e % 2 = 0 then e else e - 1
      let x := m1 <<< (2 * (p + 3))
      let r := isqrt x
      (.num false (2 * r + (if r * r = x then 0 else 1)) (e1 / 2 - (p + 3) - 1), 0)

/-- IEEE comparison; none where unordered. -/
def FVal.cmp (a b : FVal) : Option Ordering :=
  match a, b with
  | .nan _, _ => none
  | _, .nan _ => none
  | .inf s, .inf t => some (if s = t then .eq else if s then .lt else .gt)
  | .inf s, .num _ _ _ => some (if s then .lt else .gt)
  | .num _ _ _, .inf t => some (if t then .gt else .lt)
  | .num s m e, .num t n f =>
    let g := min e f
    some (compare (sgnInt s (m <<< (e - g).toNat)) (sgnInt t (n <<< (f - g).toNat)))

/-- A number rounded to an integer: value and whether inexact (R64). -/
def roundInt (rm : Nat) (neg : Bool) (m : Nat) (e : Int) : Int × Bool :=
  let (n, ix) := roundAt rm neg m e 0
  (sgnInt neg n, ix)

/-- Float to integer type (R67): image of width w and flags. -/
def FVal.toITy (t : ITy) (rm : Nat) : FVal → Nat × Nat
  | .nan _ => (0, flNV)
  | .inf s => (wrap t.w (if s then t.lo else t.hi), flNV)
  | .num s m e =>
    let (x, ix) := roundInt rm s m e
    if x < t.lo then (wrap t.w t.lo, flNV)
    else if x > t.hi then (wrap t.w t.hi, flNV)
    else (wrap t.w x, if ix then flNX else 0)

/-- Integer to float (R67). -/
def ofIntTo (F : Fmt) (rm : Nat) (sat : Bool) (x : Int) : Nat × Nat :=
  roundPack F rm sat (x < 0) x.natAbs 0

/-- floor(log2 |x|) of a non-zero number. -/
def FVal.ilog (m : Nat) (e : Int) : Int := e + bitLen m - 1

/-- A register image of a format: rounding a value and its flags. -/
def fop (F : Fmt) (rm : Nat) (r : FVal × Nat) : Nat × Nat :=
  let (x, fl) := r.1.pack F rm false
  (x, fl ||| r.2)

def fadd (F : Fmt) (rm a b : Nat) : Nat × Nat := fop F rm ((F.decode a).add rm (F.decode b))
def fsub (F : Fmt) (rm a b : Nat) : Nat × Nat := fop F rm ((F.decode a).add rm (F.decode b).negate)
def fmul (F : Fmt) (rm a b : Nat) : Nat × Nat := fop F rm ((F.decode a).mul (F.decode b))
def ffma (F : Fmt) (rm a b c : Nat) : Nat × Nat := fop F rm ((F.decode a).fma rm (F.decode b) (F.decode c))

end Sys2Proof.Machine
end

