-- ==== Sys2Proof/Machine/Cap.lean ====
section
/-! DEFINITION. Capability values: layout, bounds, derivation, sealing and the check of a use (02_capabilities). -/

namespace Sys2Proof.Machine

/-- A capability value with its tag (R37). -/
structure CapV where
  bits : BitVec 128
  tag : Bool
  deriving DecidableEq, Repr

/-- The cleared register: all fields zero, tag clear (R37). -/
def CapV.zero : CapV := ⟨0, false⟩

/-- Bits h:l of the value. -/
def CapV.fld (c : CapV) (h l : Nat) : Nat := bitsOf c.bits.toNat h l
def CapV.form (c : CapV) : Nat := c.fld 83 80
def CapV.perms (c : CapV) : Nat := c.fld 79 68
def CapV.colour (c : CapV) : Nat := c.fld 67 56
def CapV.cursor (c : CapV) : Nat := c.fld 55 0
def CapV.untag (c : CapV) : CapV := { c with tag := false }

/-- A value with bits h:l replaced. -/
def setBits (x h l v : Nat) : Nat :=
  (x >>> (h + 1)) * 2 ^ (h + 1) + (v % 2 ^ (h + 1 - l)) * 2 ^ l + x % 2 ^ l

def CapV.setFld (c : CapV) (h l v : Nat) : CapV := { c with bits := BitVec.ofNat 128 (setBits c.bits.toNat h l v) }
def CapV.withForm (c : CapV) (f : Nat) : CapV := c.setFld 83 80 f

/-! Permission bits (R42). -/
def pLD : Nat := 0x001
def pST : Nat := 0x002
def pLC : Nat := 0x004
def pSC : Nat := 0x008
def pEX : Nat := 0x010
def pAT : Nat := 0x020
def pEN : Nat := 0x040
def pSE : Nat := 0x080
def pUS : Nat := 0x100
def pGL : Nat := 0x200
def pSY : Nat := 0x400

/-- Whether every permission of `need` is there. -/
def CapV.has (c : CapV) (need : Nat) : Bool := c.perms &&& need == need

/-- The size of the flat space (R37, R269). -/
def spaceTop : Nat := 2 ^ 56

/-- The raw bounds fields: exponent, base distance, top distance, and the width of the distances (R38, R46). -/
structure BFields where
  e : Nat
  bd : Int
  td : Int
  n : Nat
  deriving DecidableEq, Repr

def CapV.bfields (c : CapV) : BFields :=
  if c.form = 1 then ⟨c.fld 113 108, sext 12 (c.fld 107 96), sext 12 (c.fld 95 84), 12⟩
  else ⟨c.fld 127 122, sext 19 (c.fld 121 103), sext 19 (c.fld 102 84), 19⟩

/-- DEST of the peer encoding (R46). -/
def CapV.dest (c : CapV) : Nat := c.fld 127 114

/-- A decoding of bounds: base, top, the representable region and validity (R38). -/
structure Bounds where
  base : Int
  top : Int
  rlo : Int
  rhi : Int
  valid : Bool
  deriving DecidableEq, Repr

def CapV.decodeBounds (c : CapV) : Bounds :=
  let b := c.bfields
  let g : Int := 2 ^ b.e
  let m : Int := 2 ^ (b.n - 1)
  let anchor : Int := ((c.cursor >>> b.e) <<< b.e : Nat)
  let base := anchor - b.bd * g
  let top := anchor + b.td * g
  let rlo := max (base - m * g) (top - (m - 1) * g)
  let rhi := min (base + (m - 1) * g) (top + m * g) + g
  ⟨base, top, rlo, rhi, b.e ≤ 39 && 0 ≤ base && base ≤ top && top ≤ spaceTop⟩

/-- The decoded base for checks and CGET: 0 where the decoding is not valid (R38). -/
def CapV.base (c : CapV) : Nat := let b := c.decodeBounds; if b.valid then b.base.toNat else 0
/-- The decoded top (R38). -/
def CapV.top (c : CapV) : Nat := let b := c.decodeBounds; if b.valid then b.top.toNat else 0
/-- Whether a cursor lies in the representable region [max(rlo,0), min(rhi,2^56)) (R38). -/
def CapV.inRegion (c : CapV) (n : Int) : Bool :=
  let b := c.decodeBounds
  max b.rlo 0 ≤ n && n < min b.rhi spaceTop

/-- The value with new bounds fields, in the layout its form has (R38, R46). -/
def CapV.setBounds (c : CapV) (n e : Nat) (bd td : Int) (dest : Nat) : CapV :=
  if n = 12 then
    (((c.setFld 127 114 dest).setFld 113 108 e).setFld 107 96 (wrap 12 bd)).setFld 95 84 (wrap 12 td)
  else ((c.setFld 127 122 e).setFld 121 103 (wrap 19 bd)).setFld 102 84 (wrap 19 td)

/-- The smallest exponent, from `e` up, whose length limit covers `len` (R39). -/
def smallestE (n len : Nat) : Nat → Nat → Nat
  | 0, e => e
  | fuel + 1, e => if len ≤ (2 ^ (n - 1) - 1) * 2 ^ e then e else smallestE n len fuel (e + 1)

/-- The smallest exponent for which the outward-rounded bounds fit (R41). -/
def roundE (n b t : Nat) : Nat → Nat → Nat
  | 0, e => e
  | fuel + 1, e =>
    if cdiv t (2 ^ e) * 2 ^ e - b / 2 ^ e * 2 ^ e ≤ (2 ^ (n - 1) - 1) * 2 ^ e then e else roundE n b t fuel (e + 1)

/-- The exponent of the canonical encoding of bounds, if they are representable (R39). -/
def canonicalE (n b t : Nat) : Option Nat :=
  let e := smallestE n (t - b) 56 0
  if b % 2 ^ e = 0 ∧ t % 2 ^ e = 0 ∧ e ≤ 39 then some e else none

/-- The value with bounds b, t encoded at exponent e and the value's cursor (R39). -/
def CapV.encodeAt (c : CapV) (n e b t dest : Nat) : CapV :=
  let anchor : Int := ((c.cursor >>> e) <<< e : Nat)
  c.setBounds n e ((anchor - b) / 2 ^ e) ((t - anchor) / 2 ^ e) dest

/-- A canonical re-encoding in the value's own layout; the value itself where it is not representable. -/
def CapV.reencode (c : CapV) (b t : Nat) : CapV :=
  let n := if c.form = 1 then 12 else 19
  match canonicalE n b t with
  | some e => c.encodeAt n e b t c.dest
  | none => c

/-- The canonical encoding of a value's own bounds at its cursor, where they decode (R39). -/
def CapV.canonical (c : CapV) : CapV := if c.decodeBounds.valid then c.reencode c.base c.top else c

/-- A mint: canonical bounds at the cursor (R39, R43). -/
def CapV.mint (form perms colour base top cursor : Nat) : CapV :=
  let c : CapV := ⟨BitVec.ofNat 128 (form * 2 ^ 80 + perms * 2 ^ 68 + colour * 2 ^ 56 + cursor), true⟩
  c.reencode base top

/-- The subcause codes of R49. -/
def subTAG : Nat := 1
def subBOUNDS : Nat := 2
def subPERM : Nat := 3
def subFORM : Nat := 4
def subCOLOUR : Nat := 5
def subSEALED : Nat := 6

/-- Why a derivation or a check refuses: ILLEGAL, CAPABILITY with a subcause, or INEXACT. -/
inductive CapErr where
  | illegal
  | cap (sub : Nat)
  | inexact
  deriving DecidableEq, Repr

def isSealedForm (f : Nat) : Bool := f == 1 || f == 2 || f == 4

/-- A tagged source of a derivation must be of an unsealed form (R40 to R42). -/
def CapV.guard (c : CapV) : Option CapErr :=
  if c.tag && c.form ≥ 5 then some .illegal
  else if c.tag && isSealedForm c.form then some (.cap subSEALED) else none

/-- Cursor arithmetic to the integer n (R40). -/
def CapV.setCursor (c : CapV) (n : Int) : Except CapErr CapV :=
  match c.guard with
  | some e => .error e
  | none =>
    let b := c.bfields
    let nc := wrap 56 n
    let d : Int := ((nc >>> b.e : Nat) : Int) - ((c.cursor >>> b.e : Nat) : Int)
    .ok { (c.setFld 55 0 nc).setBounds b.n b.e (b.bd + d) (b.td - d) c.dest with tag := c.tag && c.inRegion n }

/-- Narrowing to `len` bytes from the cursor (R41). -/
def CapV.narrow (c : CapV) (len : Nat) (exact : Bool) : Except CapErr CapV :=
  let b := c.cursor
  let t := b + len
  match c.guard with
  | some e => .error e
  | none =>
    let w := if c.form = 1 then 12 else 19
    let e := roundE w b t 56 0
    let b' := b / 2 ^ e * 2 ^ e
    let t' := cdiv t (2 ^ e) * 2 ^ e
    let out : CapV := if t > spaceTop then c.untag else (c.encodeAt w e b' t' c.dest).untag
    let nb := if exact then b else b'
    let nt := if exact then t else t'
    if c.tag = false ∨ nb < c.base ∨ nt > c.top then .ok out
    else if exact then
      match canonicalE 19 b t with
      | some _ => .ok (c.reencode b t)
      | none => .error .inexact
    else .ok (c.reencode b' t')

/-- The AND of a mask into PERMS (R42). -/
def CapV.andPerms (c : CapV) (mask : Nat) : Except CapErr CapV :=
  match c.guard with
  | some e => .error e
  | none => .ok (c.setFld 79 68 (c.perms &&& mask))

/-- The peer window size (R46, R269). -/
def peerWindow : Nat := 2 ^ 41

/-- The first failing condition of a list, in order. -/
def firstErr : List (Bool × CapErr) → Option CapErr
  | [] => none
  | (b, e) :: r => if b then some e else firstErr r

/-- Sealing c under s to form f (R44). -/
def CapV.seal (c s : CapV) (f : Nat) : Except CapErr CapV :=
  let w := c.cursor / peerWindow
  match firstErr [
    (c.form ≥ 5, .illegal), (s.form ≥ 5, .illegal),
    (!c.tag || !s.tag, .cap subTAG),
    (isSealedForm c.form || isSealedForm s.form, .cap subSEALED),
    (s.form != 0, .cap subFORM),
    (!s.has pSE, .cap subPERM),
    (c.colour != s.colour, .cap subCOLOUR),
    (c.base < s.base || c.top > s.top, .cap subBOUNDS),
    (f == 1 && !(c.form == 0 && c.cursor.testBit 55 && w * peerWindow ≤ c.base && c.top ≤ (w + 1) * peerWindow),
      .cap subFORM),
    (f == 2 && !(c.form == 0 && c.top == c.base + 64 && c.base % 64 == 0), .cap subFORM),
    (f == 4 && c.form != 3, .cap subFORM)] with
  | some e => .error e
  | none =>
    if f = 1 then
      match canonicalE 12 c.base c.top with
      | none => .error .inexact
      | some e =>
        let lo : Int := max ((c.top : Int) - 2 ^ (e + 11) + 2 ^ e) ((w * peerWindow : Nat) : Int)
        let hi : Int := min ((c.base : Int) + 2 ^ (e + 11)) (((w + 1) * peerWindow : Nat) : Int)
        if lo ≤ c.cursor ∧ (c.cursor : Int) < hi then
          .ok ((c.withForm 1).encodeAt 12 e c.base c.top (bitsOf c.cursor 54 41))
        else .error .inexact
    else .ok (c.withForm f)

/-- Unsealing c under u (R45). -/
def CapV.unseal (c u : CapV) : Except CapErr CapV :=
  match firstErr [
    (c.form ≥ 5, .illegal), (u.form ≥ 5, .illegal),
    (!c.tag || !u.tag, .cap subTAG),
    (!isSealedForm c.form || isSealedForm u.form, .cap subSEALED),
    (u.form != 0, .cap subFORM),
    (!u.has pUS, .cap subPERM),
    (c.colour != u.colour, .cap subCOLOUR),
    (c.base < u.base || c.top > u.top, .cap subBOUNDS)] with
  | some e => .error e
  | none =>
    if c.form = 4 then .ok (c.withForm 3)
    else if c.form = 2 then .ok ((c.withForm 0).reencode c.base c.top)
    else .ok ((c.withForm 0).reencode c.base c.top)

/-- The unsealing by an agent with its own authority: the Fewick port of R47 and the engine of R48. -/
def CapV.unsealed (c : CapV) : CapV :=
  if c.form = 4 then c.withForm 3 else (c.withForm 0).reencode c.base c.top

/-- The form-3 capability that CALLI installs for a form-4 entry: its cursor at the base (R48). -/
def CapV.entry (c : CapV) : CapV := (((c.withForm 3).setFld 55 0 c.base).reencode c.base c.top)

/-- What a use asks of a capability (R49): the forms it accepts and the permissions it needs. -/
structure CapUse where
  forms : List Nat
  perms : Nat
  deriving DecidableEq, Repr

/-- Steps 1 to 7 of R49 for the bytes [a, a + size); `colourOk` is whether the colour table has the colour valid. -/
def CapV.check (c : CapV) (u : CapUse) (agentColour : Nat) (colourOk : Bool) (morePerm : Bool) (a : Int) (size : Nat) :
    Option CapErr :=
  firstErr [
    (!c.tag, .cap subTAG),
    (c.form ≥ 5, .illegal),
    (isSealedForm c.form && !u.forms.contains c.form && !u.forms.any isSealedForm, .cap subSEALED),
    (!u.forms.contains c.form, .cap subFORM),
    (c.colour != agentColour || !colourOk, .cap subCOLOUR),
    (!c.has u.perms || morePerm, .cap subPERM),
    (a < c.base || a + size > c.top, .cap subBOUNDS)]

end Sys2Proof.Machine
end

