-- ==== Sys2Proof/Machine/Store.lean ====
section
/-! DEFINITION. Sparse containers in one canonical form: tables by ascending key, and stores of words that list no
zero entry. -/

namespace Sys2Proof.Machine

/-- A finite table keyed by a number, keys strictly rising. -/
abbrev Tbl (α : Type) := List (Nat × α)

/-- The entry of a key. -/
def Tbl.get {α : Type} : Tbl α → Nat → Option α
  | [], _ => none
  | (k, a) :: r, x => if k = x then some a else Tbl.get r x

/-- The table with the entry of a key set. -/
def Tbl.set {α : Type} : Tbl α → Nat → α → Tbl α
  | [], x, b => [(x, b)]
  | (k, a) :: r, x, b =>
    if x < k then (x, b) :: (k, a) :: r
    else if k = x then (x, b) :: r
    else (k, a) :: Tbl.set r x b

/-- The table without the entry of a key. -/
def Tbl.erase {α : Type} (t : Tbl α) (x : Nat) : Tbl α := t.filter (fun e => e.1 != x)

/-- The table whose entry of a key, if there is one, is changed. -/
def Tbl.modify {α : Type} (t : Tbl α) (x : Nat) (f : α → α) : Tbl α :=
  t.map (fun e => if e.1 = x then (e.1, f e.2) else e)

/-- The entries whose key satisfies a test. -/
def Tbl.keep {α : Type} (t : Tbl α) (p : Nat → Bool) : Tbl α := t.filter (fun e => p e.1)

/-- Keys strictly rise from a bound. -/
def Tbl.above {α : Type} : Nat → Tbl α → Bool
  | _, [] => true
  | lo, (k, _) :: r => lo ≤ k && Tbl.above (k + 1) r

/-- The canonical form of a table. -/
def Tbl.wf {α : Type} (t : Tbl α) : Bool := Tbl.above 0 t

/-- A sparse array of w-bit words in which an unlisted entry reads zero. -/
abbrev Store (w : Nat) := Tbl (BitVec w)

/-- The word of an index. -/
def Store.read {w : Nat} (s : Store w) (i : Nat) : BitVec w := (Tbl.get s i).getD 0

/-- The store with a word written; writing zero removes the entry. -/
def Store.write {w : Nat} (s : Store w) (i : Nat) (x : BitVec w) : Store w :=
  if x = 0 then Tbl.erase s i else Tbl.set s i x

/-- The canonical form of a store: rising keys, no zero entry. -/
def Store.wf {w : Nat} (s : Store w) : Bool := Tbl.wf s && s.all (fun e => e.2 != 0)

/-- The store with the indexes of [lo, hi) reading zero. -/
def Store.clear {w : Nat} (s : Store w) (lo hi : Nat) : Store w := Tbl.keep s (fun k => k < lo || hi ≤ k)

/-- Memory: the bytes of the flat address space that are not zero (R269). -/
abbrev Memory := List Host.Cell

/-- The byte at an address: what an unlisted address reads as is zero. -/
def Memory.read (m : Memory) (a : Nat) : Byte := Store.read (w := 8) m a
/-- A byte written. -/
def Memory.write (m : Memory) (a : Nat) (b : Byte) : Memory := Store.write (w := 8) m a b
/-- The canonical form of memory. -/
abbrev Memory.wf (m : Memory) : Bool := Store.wf (w := 8) m

/-- `n` bytes from an address. -/
def Memory.readN (m : Memory) (a : Nat) : Nat → List Byte
  | 0 => []
  | n + 1 => m.read a :: Memory.readN m (a + 1) n

/-- Bytes written from an address. -/
def Memory.writeN (m : Memory) (a : Nat) : List Byte → Memory
  | [] => m
  | b :: bs => Memory.writeN (m.write a b) (a + 1) bs

end Sys2Proof.Machine
end

