-- ==== Sys2Proof/Machine/State.lean ====
section
/-! DEFINITION. The machine's state: plain data, every piece of state the spec names (INVENTORY.md, '## State'). -/

namespace Sys2Proof.Machine

/-- The model has no fault of its own: what the spec reports is a trap, a late fault or a record, all next states. -/
inductive Fault where
  /-- raised by nobody; kept so that the type is not empty (safe) -/
  | unused
  deriving DecidableEq, Repr

/-- Why a step has no meaning. -/
inductive Refusal where
  /-- raised by exec for an instruction without a meaning (safe: the run stops) -/
  | notModelled (mnemonic : String)
  /-- raised by every instruction's meaning when no agent is selected or the selected one cannot issue: an instruction
  form issues only as some agent's (safe: the run stops) -/
  | noAgent
  /-- raised by a device step whose conditions in the spec do not hold in the state: the step does not come about
  (safe: the run stops) -/
  | notEnabled
  deriving DecidableEq, Repr

/-- What a step answers. -/
abbrev Res (State : Type) := Host.Outcome State Fault Refusal

/-- A row of the register pool: one word for each of 96 lanes (R14). -/
abbrev Row := List Word

/-- KIND of a dual-path stack entry (R35). -/
inductive Kind where
  | conv
  | live
  | defer
  | park
  deriving DecidableEq, Repr

/-- At what a PARK entry stopped (R121, R127, R254). -/
inductive ParkAt where
  | none
  | join
  | op
  | win
  deriving DecidableEq, Repr

/-- One write of a result, before or after it reaches its bank (R32, R91). -/
inductive RegWrite where
  /-- a v row (stack row, or 4096 + trap-frame row) in the lanes of a mask -/
  | v (row : Nat) (mask : LaneMask) (vals : Row)
  /-- the tags of a quad of v rows (row / 4) in the lanes of a mask -/
  | vtag (quad : Nat) (mask tags : LaneMask)
  | q (n : Nat) (mask vals : LaneMask)
  | k (n : Nat) (val : Word)
  | ktag (quad : Nat) (tag : Bool)
  | c (n : Nat) (val : Word64)
  | ctag (pair : Nat) (tag : Bool)
  deriving DecidableEq, Repr

/-- A k result held in a path's forwarding window: register, or 64 + quad for a quad's tag, the value, and how many
instructions of the path have issued since (R32, R33). -/
structure WinEntry where
  reg : Nat
  val : Word
  age : Nat
  deriving DecidableEq, Repr

/-- A fault found after its instruction issued, not yet taken (R93, R174, R333). -/
structure LateFault where
  cause : Nat
  sub : Nat
  detail : Nat
  lanes : LaneMask
  pc : Word64
  deriving DecidableEq, Repr

/-- A v or q result that only the forwarding window of its path holds as yet (R32, R241): the row or predicate, its live
lanes, and how many instructions of the path have issued since. Its value already stands in the group's rows, as every
reader of the path sees it. -/
inductive Held where
  | v (row : Nat) (mask : LaneMask) (age : Nat)
  | q (n : Nat) (mask : LaneMask) (age : Nat)
  deriving DecidableEq, Repr

/-- What named hints have set for a path's fetch and loads (R243): the lines that a fetch requests ahead, 3 by default;
the bounds of the hot loop in lines; what the next branch is taken for (BRTAKEN, BRNOT); where loads and stores allocate;
LASTUSE. -/
structure Steer where
  depth : Nat
  loop : Option (Nat × Nat)
  branch : Option Bool
  streamIn : Bool
  streamOut : Bool
  lastUse : Bool
  deriving DecidableEq, Repr

/-- No hint. -/
def Steer.none : Steer :=
  { depth := 3, loop := Option.none, branch := Option.none, streamIn := false, streamOut := false, lastUse := false }

/-- A long-latency result not yet written (R91): its LA, instructions of its shadow still to issue, whether its data is
there, what it writes, the host-window request it waits on. -/
structure Pending where
  la : Nat
  left : Nat
  ready : Bool
  writes : List RegWrite
  req : Option Nat
  /-- flags that it raises when it completes (R68, R91) -/
  flags : Nat
  /-- flags raised in its shadow, which a k56 that it writes gains (R68) -/
  gained : Nat
  deriving DecidableEq, Repr

/-- At what a path waits (R194, R338). -/
inductive WaitWhy where
  | claim (n : Nat)
  | tclaim (n : Nat)
  | barrier (h : Nat) (phase : Word)
  | permit (ch : Nat)
  | bitmap
  | wseq
  | wchk
  | sheaf
  | take
  | drain
  | ring
  | dqueue
  | queue
  | walker
  | trelease
  | cpl
  | engines
  | stop
  | result
  | sleep (till : Nat)
  | exit
  deriving DecidableEq, Repr

/-- A wait with the number of its beginning, which orders beginnings (R338). -/
structure Wait where
  why : WaitWhy
  since : Nat
  no : Nat
  deriving DecidableEq, Repr

/-- A path: an entry of the dual-path stack (R35), or a handler's or a control-thread context's one thread. -/
structure Path where
  kind : Kind
  pc : Word64
  rpc : Word64
  mask : LaneMask
  code : CapV
  win : List WinEntry
  held : List Held
  pend : List Pending
  late : List LateFault
  parkAt : ParkAt
  released : Bool
  wait : Option Wait
  /-- the BSYNC, by its pc, that has arrived and waits, and its phase (R219) -/
  arrived : Option (Word64 × Word)
  /-- the relative WSEQ, by its pc, that waits, and its target (R201) -/
  target : Option (Word64 × Word)
  lastIssue : Nat
  crit : Nat
  spin : Nat
  steer : Steer
  deriving DecidableEq, Repr

/-- A path at a pc with nothing outstanding. -/
def Path.fresh (kind : Kind) (pc : Word64) (mask : LaneMask) (code : CapV) : Path :=
  { kind := kind, pc := pc, rpc := 0, mask := mask, code := code, win := [], held := [], pend := [],
    late := [], parkAt := .none, released := false, wait := none, arrived := none, target := none, lastIssue := 0,
    crit := 0, spin := 0, steer := Steer.none }

/-- The level-0 handler of a group (R331): its path, the index of the trapping entry, the trapping path's code
capability, and for SPILL and FILL the window (base, length) that the faulting instruction names (R334). -/
structure Handler where
  path : Path
  ix : Nat
  code : CapV
  want : Option (Int × Nat)
  deriving DecidableEq, Repr

/-- One lane's copy of a CPL (R208): whether its bytes remain at the destination (no higher lane writes there), and
whether a tag may pass (R53). -/
structure CopyLane where
  lane : Nat
  src : Nat
  dst : Nat
  keep : Bool
  tagged : Bool
  deriving DecidableEq, Repr

/-- One outstanding line operation of a CPL (R304): the number of its CPL in the group, its sheaf, its lanes in
ascending order, the bytes of each, and whether the copy engine has begun it (R303). -/
structure LineOp where
  cpl : Nat
  sheaf : Word
  lanes : List CopyLane
  width : Nat
  begun : Bool
  deriving DecidableEq, Repr

/-- A lane copy that failed at the memory side (R209). -/
structure CopyFail where
  sheaf : Word
  cause : Nat
  sub : Nat
  detail : Nat
  lanes : LaneMask
  deriving DecidableEq, Repr

/-- A staged drain row (R320): the sequence number of its MDRAIN and the words of its lanes. -/
structure DrainRow where
  seq : Word
  row : Row
  deriving DecidableEq, Repr

/-- Whether a group runs (R231): running, stopped through the window, at a level-1 trap, retired. -/
inductive Run where
  | running
  | stopped
  | trapped
  | retired
  deriving DecidableEq, Repr

/-- A poisoned register word (R339). -/
inductive Poison where
  | v (row lane : Nat)
  | k (n : Nat)
  | q (n lane : Nat)
  /-- a lane's quad tag, by row / 4 -/
  | vtag (quad lane : Nat)
  /-- a uniform quad's tag -/
  | ktag (quad : Nat)
  deriving DecidableEq, Repr

/-- Counters of PMRD that belong to a group or context (R228). -/
structure Perf where
  since : Nat
  instrs : Nat
  beats : Nat
  waits : Nat
  deriving DecidableEq, Repr

/-- A group (R13 to R36, R245, R335). -/
structure Group where
  team : Nat
  k53 : Word
  k54 : Word
  held : Nat
  lo : Nat
  base : Nat
  fsz : Nat
  tf : Bool
  v : Tbl Row
  vtag : Tbl LaneMask
  k : Store 32
  ktag : BitVec 12
  q : Store 96
  stack : List Path
  handler : Option Handler
  /-- results still on the way whose entry is gone (R121, R126) -/
  orphans : List Pending
  /-- what it has given to the engines: chain and number of a command, or 3 and the number of a walk (R191) -/
  appended : List (Nat × Nat)
  launched : LaneMask
  gone : LaneMask
  k55 : Word
  cplNo : Nat
  ops : List LineOp
  fails : List CopyFail
  drain : List DrainRow
  run : Run
  stopReq : Bool
  cause : Word
  resume : Agent
  step : Bool
  /-- single-step is to stop the group once its results are there (R335) -/
  stepDue : Bool
  poison : List Poison
  starve : Nat
  /-- the cycle in which it last started an instruction, plus one (R251) -/
  startedAt : Nat
  raised : Option Nat
  readySince : Nat
  issued : Nat
  perf : Perf
  code : CapV
  trapv : Nat
  priv : Nat
  psize : Nat
  boost : Nat
  deriving DecidableEq, Repr

/-- A control-thread context (R34, R133, R257). -/
structure Ctx where
  c : Store 64
  ctag : BitVec 32
  cfw : Word
  path : Path
  exited : Bool
  trapped : Option (Nat × Nat × Nat)
  /-- what it has given to the engines: chain and number of a command, or 3 and the number of a walk (R126, R191) -/
  appended : List (Nat × Nat)
  /-- the cycle in which it last issued, plus one (R238) -/
  startedAt : Nat
  perf : Perf
  deriving DecidableEq, Repr

/-- A command of a chain (R196 to R200): its block and tags, where it stands, and what it has done. -/
structure Cmd where
  seq : Word
  blk : BitVec 512
  tags : BitVec 4
  accepted : Bool
  status : Nat
  done : Nat
  cause : Nat
  sub : Nat
  faddr : Nat
  nfail : Nat
  index : Nat
  mfl : Nat
  units : List Nat
  rows : Nat
  bm : Option Nat
  nc : Nat
  cr : Bool
  /-- the status it completes with once its turn and its record have come; 0 while it works -/
  fin : Nat
  /-- its completion record has been queued or written -/
  rung : Bool
  parts : Tbl (List Byte)
  /-- COLL: the entries of MTAB, each with its tag as bit 128 -/
  mtab : List Nat
  slotGen : Nat
  sent : List Nat
  /-- copies: chunks that the engine has begun (R303, R310), and whether the command is among those in execution -/
  begun : List Nat
  exec : Bool
  /-- COLL: CPH of its barrier when it ended, and how many waits had begun by then (R219) -/
  phase : Word
  endNo : Nat
  /-- FAULT: DETAIL of its cause (R330) -/
  detail : Nat
  /-- GCM: first record index, counter base, salt, key slot (R206) -/
  k0 : Int
  cb : Nat
  salt : Nat
  kslot : Nat
  deriving DecidableEq, Repr

/-- A command chain (R196, R197). -/
structure Chain where
  tseq : Word
  cseq : Word
  halted : Bool
  cmds : List Cmd
  deriving DecidableEq, Repr

/-- A completion-ring record waiting for space: an engine's or a notice (R222, R223, R335). -/
structure RingRec where
  bits : BitVec 192
  chain : Option Nat
  seq : Word
  deriving DecidableEq, Repr

/-- A region record as the region check unit holds it (R352, R372). -/
structure Region where
  base : Nat
  top : Nat
  mode : Nat
  aop : Nat
  nofwd : Bool
  colour : Nat
  deriving DecidableEq, Repr

/-- The last of several acts to which the spec gives an order within one cycle: one more than its cycle, 0 for none, and
its place in that order. -/
structure Stamp where
  cycle : Nat
  rank : Nat
  deriving DecidableEq, Repr

/-- A team on a core (R245 to R249, R364). -/
structure Team where
  task : Nat
  index : Nat
  colour : Nat
  fn : Nat
  cls : Nat
  core : Nat
  tslot : Nat
  groups : List Nat
  roles : List (Nat × Nat)
  scratch : Nat
  scratchLen : Nat
  allocLen : Nat
  param : CapV
  spad : CapV
  cstore : CapV
  regions : List Region
  chains : List Chain
  ridx : Nat
  taken : Nat
  ringQ : List RingRec
  /-- the last record that has entered the ring (R262) -/
  ringLast : Stamp
  tiles : List (Nat × Nat)
  tileMax : Nat
  owners : Tbl (Nat × Word)
  join : Option (Word × CapV × List Nat)
  started : Nat
  halt : Bool
  partialEnd : Option (Nat × Nat)
  /-- the bytes of its function's context save area that are reserved for its image: offset and length (R397) -/
  area : Option (Nat × Nat)
  deriving DecidableEq, Repr

/-- A hardware barrier (R217). -/
structure Barrier where
  owner : Option Nat
  arrN : Nat
  bytN : Nat
  arr : Nat
  byt : Nat
  cph : Word
  deriving DecidableEq, Repr

/-- A decision-queue entry (R221, R261). -/
structure Decision where
  team : Nat
  kind : Nat
  index : Nat
  payload : Word
  deriving DecidableEq, Repr

/-- A team in a core's queue: never started, or saved (R363 to R365). -/
structure QTeam where
  task : Nat
  index : Nat
  cls : Nat
  saved : Option Nat
  deriving DecidableEq, Repr

/-- A core (R2, R217, R221, R303, R367). -/
structure Core where
  dq : List Decision
  /-- the context that has yielded and whose successor issues next, where the agenda names no agent (R132, log 1) -/
  yielded : Option Nat
  teamq : List QTeam
  /-- teams that have come back while the queue held 16, first come first; each enters as a position is free (R363, log 47) -/
  spill : List QTeam
  scanned : Option Nat
  glean : BitVec 16
  gleanFails : Nat
  gleanTo : Option Nat
  gleanAns : Option (List QTeam)
  /-- the last glean that this core has answered (R368) -/
  answered : Stamp
  /-- an error has been found for which the core is to be retired (R450, R451): it issues nothing further -/
  retire : Bool
  dead : Bool
  /-- colours that the core held when it was retired (R457) -/
  heldBy : List Nat
  /-- corrected errors of the last second: structure code and clock (R451) -/
  ces : List (Nat × Nat)
  /-- the engines' rotations (R303): the TSLOT last served with a chunk and with a line operation, whether the copy engine
  last began a line operation; the TSLOT last given the matrix unit and the command in its arithmetic stage (team, sequence
  number); the TSLOT whose message the collective engine last sent -/
  chunkTurn : Nat
  lineTurn : Nat
  lineLast : Bool
  mxTurn : Nat
  mxBusy : Option (Nat × Word)
  clTurn : Nat
  l1miss : Nat
  l2req : Nat
  deriving DecidableEq, Repr

/-- A core that holds nothing. -/
def Core.empty : Core :=
  { dq := [], yielded := none, teamq := [], spill := [], scanned := none, glean := 0, gleanFails := 0, gleanTo := none, gleanAns := none,
    answered := ⟨0, 0⟩, retire := false, dead := false, heldBy := [], ces := [], chunkTurn := 3, lineTurn := 3, lineLast := false, mxTurn := 3,
    mxBusy := none, clTurn := 3, l1miss := 0, l2req := 0 }

/-- An L1 data line (R163, R268): 128 bytes, the tags of its granules, which bytes are dirty. -/
structure Line where
  data : List Byte
  tags : BitVec 8
  dirty : BitVec 128
  /-- poisoned granules (R446) -/
  poison : BitVec 8
  /-- the line is replaced before any other (STREAMIN, STREAMOUT and LASTUSE of R243) -/
  first : Bool
  deriving DecidableEq, Repr

/-- A line that tile fetch units keep in its L2 slice (R315 to R317): whether in the protected ways, and who holds it: team,
sequence number and K-block. -/
structure Pin where
  line : Nat
  prot : Bool
  holders : List (Nat × Nat × Nat)
  deriving DecidableEq, Repr

/-- A line of a B tile that a slice has read for tile fetch units of a cluster (R317): the cores that have had it, when it
was first asked for, and its value. -/
structure SharedLine where
  line : Nat
  cluster : Nat
  colour : Nat
  cores : List Nat
  at_ : Nat
  data : List Byte
  deriving DecidableEq, Repr

/-- Storage and caches (R52, R268 to R271, R290). -/
structure Mem where
  /-- bytes at their homes -/
  bytes : Memory
  /-- tags by granule (address / 16) -/
  tags : Store 1
  /-- poisoned units at their homes: first byte and size (R446) -/
  poison : List (Nat × Nat)
  /-- L1 lines by l1Key -/
  l1 : Tbl Line
  /-- instruction-cache lines by icKey -/
  ic : Tbl (List Byte)
  /-- towers that hold a clean copy of a line (R270, R383), by line -/
  l2 : Store 4
  /-- release records by line and colour (R290): line * 4096 + colour -/
  rel : Store 256
  /-- tile-store words (R214): core * 131072 + word -/
  tile : Store 32
  /-- ranges a zeroised key left unreadable (R414): (base, top, number of the free values read there) -/
  dark : List (Nat × Nat × Nat)
  /-- HBM stored sealed (R416): (base, top, key slot * 2^32 + generation) -/
  sealed : List (Nat × Nat × Nat)
  /-- pinned lines (R316) -/
  pins : List Pin
  /-- fetches that wait for a pin, oldest first: team, sequence number and K-block (R316) -/
  pinQ : List (Nat × Nat × Nat)
  /-- lines of B tiles read lately (R317) -/
  shared : List SharedLine
  deriving DecidableEq, Repr

/-- What an agenda turn does: a device step, letting an agent issue, letting a pipe of a core choose (R250) or its control
thread's port (R238), dropping a cache line. -/
inductive Act where
  | event (i : Instr)
  | issue (a : Agent)
  | pick (core pipe : Nat)
  | rotate (core : Nat)
  | evict (core line colour : Nat)
  | evictCode (core : Nat) (ctl : Bool) (line : Nat)
  | visit (w n : Nat)
  deriving DecidableEq, Repr

/-- A turn of the agenda: cycles that pass, then what happens. -/
structure Turn where
  dt : Nat
  act : Act
  deriving DecidableEq, Repr

/-! Tasks (R349 to R368, R372 to R383). -/

/-- A dependence of a task (R351, R360, R379): the producer's key, whether it is implicit, whether satisfied. -/
structure Dep where
  on : Nat
  implicit : Bool
  sat : Bool
  deriving DecidableEq, Repr

/-- A task (R349, R357). Its key is queue * 2^32 + sequence number; `order` is its place among all appends (R379). -/
structure Task where
  record : BitVec 2048
  tags : BitVec 16
  minted : Bool
  fn : Nat
  colour : Nat
  cls : Nat
  order : Nat
  examined : Bool
  eligible : Option Nat
  admitted : Bool
  deps : List Dep
  dealt : Nat
  ended : Nat
  started : Nat
  total : Nat
  regions : List Region
  edge : List (Nat × Nat)
  edgeBegun : Bool
  cores : List Nat
  wmask : BitVec 16
  status : Nat
  cause : Nat
  sub : Nat
  complete : Bool
  ringOk : Bool
  partialRun : Option (Nat × Nat)
  place : List Nat
  deriving DecidableEq, Repr

/-- A task queue's registers (R354). -/
structure Queue where
  qseq : Word
  qdone : Word
  qcnt : Nat
  full : Bool
  badaddr : Bool
  /-- the last append (R355) -/
  last : Stamp := ⟨0, 0⟩
  deriving DecidableEq, Repr

/-- A queue at reset. -/
def Queue.empty : Queue := { qseq := 0, qdone := 0, qcnt := 0, full := false, badaddr := false }

/-- The saved image of a team (R396): addresses count from the base of its scratchpad, its control-store region and its
core's tile store; `key` is the number of the team while it was resident. -/
structure Save where
  team : Team
  key : Nat
  groups : List (Nat × Group)
  ctx : Ctx
  bars : List (Nat × Barrier)
  decisions : List Decision
  bytes : List Host.Cell
  tags : Store 1
  cbytes : List Host.Cell
  ctags : Store 1
  tiles : List (Nat × Word)
  arrivals : List Nat
  /-- poisoned units of the scratchpad and of the control-store region -/
  poison : List (Nat × Nat)
  cpoison : List (Nat × Nat)
  deriving DecidableEq, Repr

/-- The kind of a cache walk (R385). -/
inductive WalkKind where
  | flush
  | inv
  | edge
  | forward
  deriving DecidableEq, Repr

/-- A cache walk (R385 to R387): its range and cursor, class and age (the cycle in which it first started, plus one; 0
before), the walker that runs it, and what its end does. `team` is the issuing team, or 2^32 plus the number of the
image that holds it while it is saved. For a forward `scope` is the set of target towers. -/
structure Walk where
  kind : WalkKind
  tower : Nat
  lo : Nat
  hi : Nat
  cursor : Nat
  cls : Nat
  age : Nat
  on : Option Nat
  core : Nat
  scope : Nat
  colour : Nat
  team : Nat
  bar : Nat
  task : Nat
  visited : Nat
  deriving DecidableEq, Repr

/-- Tasks, queues, saved teams and walks. -/
structure Sched where
  queues : Tbl Queue
  tasks : Tbl Task
  order : Nat
  saves : Tbl Save
  saveNo : Nat
  walks : Tbl Walk
  walkNo : Nat
  holder : Option Nat
  quantumEnd : Nat
  held : List Nat
  deriving DecidableEq, Repr

/-! Functions, colours, extents, keys (R392 to R423). -/

/-- A unit of work that is charged (R401): a chunk of a copy, a line operation of a group, the piece `u` of a
collective whose message goes to member `r`. -/
inductive Work where
  | chunk (t ch n c : Nat)
  | line (g cpl src dst : Nat)
  | msg (t n r u : Nat)
  deriving DecidableEq, Repr

/-- A transfer that waits for tokens (R401): which unit of work, its bytes, and whether a tick has let it start. -/
structure Waiting where
  unit : Work
  bytes : Nat
  paid : Bool
  deriving DecidableEq, Repr

/-- An entry of a scrub receipt (R457). -/
structure Scrub where
  cls : Nat
  method : Nat
  colour : Nat
  unit : Nat
  base : Nat
  length : Nat
  count : Nat
  deriving DecidableEq, Repr

/-- A function's registers (R392, R404, R442, R457). -/
structure Fn where
  queues : BitVec 128
  chsets : BitVec 64
  clusters : BitVec 32
  en : Bool
  ts : Bool
  pmask : BitVec 4
  quantum : BitVec 24
  tlim : BitVec 6
  rlim : BitVec 12
  rate : BitVec 14
  depth : BitVec 15
  borrow : BitVec 17
  rateNext : BitVec 14
  depthNext : BitVec 15
  borrowNext : BitVec 17
  csax : BitVec 10
  cfgerr : Bool
  thr : Bool
  tokens : Nat
  debt : Nat
  waiting : List Waiting
  args : BitVec 448
  cookie : Word
  mstatus : Nat
  mop : Nat
  /-- the status with which the running command ends; 0 while it works -/
  mend : Nat
  /-- the extent, colour or function that the running command waits on -/
  mextent : Option Nat
  /-- PREEMPT: the teams still to be saved, each with its task and index -/
  mteams : List (Nat × Nat × Nat)
  tdi : Nat
  insecure : Bool
  flr : Nat
  flrStart : Nat
  scrub : List Scrub
  rnonce : BitVec 128
  deriving DecidableEq, Repr

/-- A colour-table entry (R406) with what IMG_BIND recorded (R413). -/
structure Colour where
  valid : Bool
  prot : Bool
  bound : Bool
  keyed : Bool
  func : Nat
  kslot : Nat
  digest : BitVec 512
  bext : Nat
  deriving DecidableEq, Repr

/-- An extent-table entry (R408) with its in-flight counter (R418) and the left-out mark of R420. -/
structure Ext where
  state : Nat
  hi : Bool
  pi : Bool
  mode : Nat
  chset : Nat
  colour : Nat
  lenp : Nat
  basep : Nat
  inflight : Nat
  late : Nat
  leftOut : Bool
  deriving DecidableEq, Repr

/-- A key slot (R410). -/
structure KeySlot where
  loaded : Bool
  key : BitVec 512
  high : Word64
  gen : Word
  deriving DecidableEq, Repr

/-- Protection state of the package. -/
structure Sec where
  fns : Tbl Fn
  colours : Tbl Colour
  exts : Tbl Ext
  slots : Tbl KeySlot
  pways : Nat
  passDone : Word
  passRun : Word
  gathered : List Nat
  pool : Nat
  /-- token ticks since the clock started (R402) -/
  ticks : Nat
  deriving DecidableEq, Repr

/-! Bring-up and links (R432 to R443). -/

/-- What a message asks of a peer (R47): the sealed operand with its tag, whether it writes, the runs of bytes that it
names there, the data it carries; and of a collective OP, MCNT, NELEM and TY (R322). -/
structure PeerReq where
  cap : BitVec 128
  tag : Bool
  write : Bool
  runs : List (Nat × Nat)
  data : List Byte
  coll : Option CollKind
  deriving DecidableEq, Repr

/-- A flit that its receiver has not acknowledged (R440): its counter, the message that it carries (destination, team,
sequence number, unit, request), how often it was resent, when it was first sent. -/
structure Flight where
  ctr : Nat
  dev : Nat
  team : Nat
  seq : Nat
  unit : Nat
  req : PeerReq
  resends : Nat
  at_ : Nat
  deriving DecidableEq, Repr

/-- A Fewick port (R437 to R441). `since` is the clock at which its state began, `fails` the number of attempts to reach
UP since the retry limit last passed. -/
structure Port where
  state : Nat
  reason : Nat
  enabled : Bool
  expDev : Nat
  expPort : Nat
  fecReq : Bool
  lanes : Nat
  rate : Nat
  fec : Bool
  rev : Bool
  retrain : Word
  pdev : Nat
  pport : Nat
  ctr : Nat
  rx : Nat
  flights : List Flight
  fails : Nat
  since : Nat
  deriving DecidableEq, Repr

/-- A port before the configuration blob is applied. -/
def Port.off : Port :=
  { state := 0, reason := 0, enabled := false, expDev := 0, expPort := 0, fecReq := false, lanes := 0, rate := 0,
    fec := false, rev := false, retrain := 0, pdev := 0, pport := 0, ctr := 0, rx := 0, flights := [],
    fails := 0, since := 0 }

/-- Bring-up registers and what bring-up records (R432 to R436). -/
structure Bring where
  stage : Nat
  fstage : Nat
  fail : Nat
  pace : Bool
  pcie : Bool
  go : Bool
  fwaddr : Word64
  cfgaddr : Word64
  fwlen : Word
  cfglen : Word
  fwDigest : BitVec 512
  cfgDigest : BitVec 512
  devid : Nat
  podmod : Nat
  hops : Nat
  phys : List Nat
  /-- the clock when the stage began, for its time limit -/
  since : Nat
  /-- power-ups so far, which select the random values drawn at a power-up -/
  boots : Nat
  ports : Tbl Port
  deriving DecidableEq, Repr

/-! Faults and records (R445 to R458). -/

/-- A summary entry of the watch log (R454). -/
structure Watched where
  tower : Nat
  range : Nat
  colour : Nat
  path : Nat
  agent : Nat
  op : Nat
  count : Nat
  bytes : Nat
  first : Nat
  last : Nat
  deriving DecidableEq, Repr

/-- A log ring (R455, R456): its register, the records of the open segment, and what was lost. -/
structure LogRing where
  en : Bool
  colour : Word
  tail : Word
  head : Word
  nseg : Word
  base : Word64
  recs : List (BitVec 512)
  firstAt : Nat
  prev : BitVec 512
  lost : Tbl (Nat × Nat × Nat)
  deriving DecidableEq, Repr

/-- A log ring at reset. -/
def LogRing.empty : LogRing :=
  { en := false, colour := 0, tail := 0, head := 0, nseg := 0, base := 0, recs := [], firstAt := 0, prev := 0,
    lost := [] }

/-- A snapshot to be written (R449): what asks for it, the core, the cause word, and entries that no table holds any
more (commands of a team that firmware ended). -/
structure SnapTrig where
  trig : Nat
  core : Nat
  word : Word
  ents : List (BitVec 512)
  deriving DecidableEq, Repr

/-- Error counters, snapshots, watch log, receipts, checkpoint. -/
structure Ras where
  ue : Store 32
  ce : Store 32
  snapBase : Word64
  sseq : Word
  trigs : List SnapTrig
  watch : Store 256
  sums : List Watched
  overs : List Watched
  /-- windows that have ended, whose records are not yet written: number, summary and overflow entries -/
  ended : List (Nat × List Watched × List Watched)
  rings : Tbl LogRing
  rcptBase : Word64
  rcptLen : Word
  rcptHead : Word
  rcptTail : Word
  rseq : Word64
  ckTarget : BitVec 56
  ckLimit : Word64
  ckFmask : BitVec 16
  ckSlot : BitVec 8
  ckStatus : Nat
  ckDone : Word64
  ckTotal : Word64
  ckOp : Nat
  deriving DecidableEq, Repr

/-! The outside (R163, R181, R300, R404, R442). -/

/-- Where the data of a host-window request goes: a v row, a k or a c register. -/
inductive HostDst where
  | v (row : Nat)
  | k (n : Nat)
  | c (n : Nat)
  deriving DecidableEq, Repr

/-- An outstanding host-window request (R163, R181): the agent and pc that issued it, the lanes whose data is still to
come, the size and sign of an access, where it goes, and for a CAS the predicate and the expected values. -/
structure HostReq where
  ag : Agent
  pc : Word64
  lanes : List Nat
  size : Nat
  signed : Bool
  dst : HostDst
  /-- 0 load, 1 atomic, 2 compare and swap -/
  kind : Nat
  cq : Nat
  expect : List Nat
  fn : Nat
  /-- an acquire: its scope (R285, R300) -/
  acq : Option Nat
  deriving DecidableEq, Repr

/-- What the device sends out. -/
inductive Out where
  | hostRead (id addr len : Nat)
  | hostWrite (addr : Nat) (data : List Byte)
  | hostAtomic (id addr op width : Nat) (x y : Nat)
  | msix (f vec : Nat)
  | answer (f : Nat) (data : List Byte) (status : Nat)
  | spdm (data : List Byte)
  | abortNotice (dev t seq cause sub : Nat)
  | peer (p ctr dev t seq unit : Nat) (req : PeerReq)
  | resend (p ctr : Nat) (data : List Byte)
  | ack (p ctr : Nat)
  | image (target : Nat) (data : List Byte)
  | mark (core payload : Nat)
  deriving DecidableEq, Repr

/-- Requests outstanding at the host, and what was sent. -/
structure IO where
  reqs : Tbl HostReq
  reqNo : Nat
  out : List Out
  deriving DecidableEq, Repr

/-- The machine. -/
structure State where
  /-- turns still to come (the model's own: log 1) -/
  agenda : List Turn
  /-- who issues when the agenda is empty (the model's own: log 1) -/
  cur : Option Agent
  /-- free values drawn so far (the model's own: log 2) -/
  fresh : Nat
  /-- waits begun so far (the model's own: log 1) -/
  waitNo : Nat
  /-- the package cycle counter (R227) -/
  clock : Nat
  groups : Tbl Group
  ctxs : Tbl Ctx
  teams : Tbl Team
  cores : Tbl Core
  bars : Tbl Barrier
  mem : Mem
  sched : Sched
  sec : Sec
  bring : Bring
  ras : Ras
  io : IO
  deriving DecidableEq, Repr

/-- An outcome of a step of this machine. -/
abbrev Out1 := Host.Outcome State Fault Refusal

/-- Function f's registers at reset (R392, R404, R457). -/
def Fn.reset (f : Nat) : Fn :=
  { queues := if f = 0 then BitVec.allOnes 128 else 0, chsets := if f = 0 then BitVec.allOnes 64 else 0,
    clusters := if f = 0 then BitVec.allOnes 32 else 0, en := f = 0, ts := false, pmask := 0, quantum := 100,
    tlim := if f = 0 then 32 else 0, rlim := if f = 0 then 2048 else 0, rate := 0, depth := 0, borrow := 0,
    rateNext := 0, depthNext := 0, borrowNext := 0, csax := 0x3FF, cfgerr := false, thr := false, tokens := 0, debt := 0,
    waiting := [], args := 0, cookie := 0, mstatus := 0, mop := 0, mend := 0, mextent := none, mteams := [], tdi := 0, insecure := false,
    flr := 0, flrStart := 0, scrub := [], rnonce := 0 }

/-- Storage at power-up: nothing listed. -/
def Mem.reset : Mem :=
  { bytes := [], tags := [], poison := [], l1 := [], ic := [], l2 := [], rel := [], tile := [], dark := [], sealed := [], pins := [],
    pinQ := [], shared := [] }

/-- Queues, tasks and walks at reset (R354). -/
def Sched.reset : Sched :=
  { queues := [], tasks := [], order := 0, saves := [], saveNo := 0, walks := [], walkNo := 0, holder := none,
    quantumEnd := 0, held := [] }

/-- Colour 0 from bring-up (R406). -/
def Colour.zero : Colour :=
  { valid := true, prot := false, bound := false, keyed := false, func := 0, kslot := 0, digest := 0, bext := 0 }

/-- A colour-table entry that is not VALID (R406). -/
def Colour.none : Colour :=
  { valid := false, prot := false, bound := false, keyed := false, func := 0, kslot := 0, digest := 0, bext := 0 }

/-- Protection state at reset. -/
def Sec.reset : Sec :=
  { fns := [(0, Fn.reset 0)], colours := [(0, Colour.zero)], exts := [], slots := [], pways := 0, passDone := 0,
    passRun := 0, gathered := [], pool := 0, ticks := 0 }

/-- Bring-up registers at reset (R433, R434). -/
def Bring.reset : Bring :=
  { stage := 1, fstage := 0, fail := 0, pace := false, pcie := false, go := false, fwaddr := 0, cfgaddr := 0,
    fwlen := 0, cfglen := 0, fwDigest := 0, cfgDigest := 0, devid := 0, podmod := 0, hops := 0, phys := [],
    since := 0, boots := 0, ports := [] }

/-- Records' registers at reset (R447 to R458). -/
def Ras.reset : Ras :=
  { ue := [], ce := [], snapBase := 0, sseq := 0, trigs := [], watch := [], sums := [], overs := [],
    ended := [], rings := [], rcptBase := 0, rcptLen := 0, rcptHead := 0, rcptTail := 0, rseq := 0, ckTarget := 0,
    ckLimit := 0, ckFmask := 0, ckSlot := 0, ckStatus := 0, ckDone := 0, ckTotal := 0, ckOp := 0 }

/-- Right after power-up (R432): bring-up at stage 1, every register at its reset value, nothing resident. -/
def State.reset : State :=
  { agenda := [], cur := none, fresh := 0, waitNo := 0, clock := 0, groups := [], ctxs := [], teams := [],
    cores := [], bars := [], mem := Mem.reset, sched := Sched.reset, sec := Sec.reset, bring := Bring.reset,
    ras := Ras.reset, io := { reqs := [], reqNo := 0, out := [] } }

end Sys2Proof.Machine
end

