-- ==== Sys2Proof/Machine/Ops.lean ====
section
/-! DEFINITION. The named operations over the state: records, register banks, the forwarding window and shadows,
path stacks, trap entry. -/

namespace Sys2Proof.Machine

/-! Records of the state. -/

def State.group (s : State) (g : Nat) : Option Group := Tbl.get s.groups g
def State.setGroup (s : State) (g : Nat) (G : Group) : State := { s with groups := Tbl.set s.groups g G }
def State.ctx (s : State) (t : Nat) : Option Ctx := Tbl.get s.ctxs t
def State.setCtx (s : State) (t : Nat) (C : Ctx) : State := { s with ctxs := Tbl.set s.ctxs t C }
def State.team (s : State) (t : Nat) : Option Team := Tbl.get s.teams t
def State.setTeam (s : State) (t : Nat) (T : Team) : State := { s with teams := Tbl.set s.teams t T }
def State.core (s : State) (i : Nat) : Core := (Tbl.get s.cores i).getD Core.empty
def State.setCore (s : State) (i : Nat) (c : Core) : State := { s with cores := Tbl.set s.cores i c }
def State.fn (s : State) (f : Nat) : Fn := (Tbl.get s.sec.fns f).getD (Fn.reset f)
def State.setFn (s : State) (f : Nat) (x : Fn) : State := { s with sec := { s.sec with fns := Tbl.set s.sec.fns f x } }
def State.colour (s : State) (c : Nat) : Colour := (Tbl.get s.sec.colours c).getD Colour.none
def State.queue (s : State) (q : Nat) : Queue := (Tbl.get s.sched.queues q).getD Queue.empty
def State.setQueue (s : State) (q : Nat) (x : Queue) : State :=
  { s with sched := { s.sched with queues := Tbl.set s.sched.queues q x } }
def State.slot (s : State) (n : Nat) : KeySlot := (Tbl.get s.sec.slots n).getD { loaded := false, key := 0, high := 0, gen := 0 }
def State.setSlot (s : State) (n : Nat) (x : KeySlot) : State := { s with sec := { s.sec with slots := Tbl.set s.sec.slots n x } }

def Ext.lo (e : Ext) : Nat := e.basep * 4096
def Ext.hi' (e : Ext) : Nat := (e.basep + e.lenp) * 4096
def State.task (s : State) (k : Nat) : Option Task := Tbl.get s.sched.tasks k
def State.setTask (s : State) (k : Nat) (x : Task) : State :=
  { s with sched := { s.sched with tasks := Tbl.set s.sched.tasks k x } }
def State.send (s : State) (o : Out) : State := { s with io := { s.io with out := s.io.out ++ [o] } }
/-- A value the spec leaves open, and the state with the counter advanced (log 2). -/
def State.draw (s : State) : Nat × State := (Config.free s.fresh, { s with fresh := s.fresh + 1 })

/-- The core of a group number. -/
def coreOfGroup (g : Nat) : Nat := g / 32
/-- The core of a team or context number. -/
def coreOfTeam (t : Nat) : Nat := t / 4

/-- Whether a colour passes the colour-table part of a check (R407). -/
def State.colourOk (s : State) (c : Nat) : Bool :=
  let x := s.colour c
  x.valid && (!x.prot || x.keyed)

/-! Lanes. -/

/-- Every lane. -/
abbrev allLanes : LaneMask := BitVec.allOnes 96
/-- The lanes of a mask as booleans, lane 0 first. -/
def laneBits (m : LaneMask) : List Bool := (List.range laneCount).map m.getLsbD
/-- The mask of a boolean list. -/
def maskOf : List Bool → LaneMask
  | bs => BitVec.ofNat 96 (bs.foldr (fun b n => 2 * n + (if b then 1 else 0)) 0)
/-- The lanes of a mask in ascending order. -/
def lanesOf (m : LaneMask) : List Nat := (List.range laneCount).filter m.getLsbD
/-- The mask of one lane. -/
def laneMask1 (l : Nat) : LaneMask := BitVec.ofNat 96 (2 ^ l)
/-- The mask of a lane list. -/
def maskOfLanes (ls : List Nat) : LaneMask := ls.foldl (fun m l => m ||| laneMask1 l) 0
/-- The first active lane of a mask (R121); 96 where it is empty. -/
def firstLane (m : LaneMask) : Nat := ((lanesOf m).head?).getD 96
/-- Word i of a mask: lanes 32i to 32i + 31. -/
def maskWord (m : LaneMask) (i : Nat) : Word := m.extractLsb' (32 * i) 32
/-- The row of zeros. -/
def zeroRow : Row := List.replicate laneCount 0
/-- A list of 96 equal values. -/
def splat {α : Type} (x : α) : List α := List.replicate laneCount x

/-! Register banks (R14 to R31). -/

/-- The first trap-frame row's number among the rows of a group: past every stack row of a span, which CLAIM may take
beyond row 4,095 (R14, R17). -/
abbrev trapRow : Nat := 8192

/-- LEN of the window (R14, R17). -/
def Group.len (G : Group) : Nat := if G.tf then 16 else min 128 G.held
/-- The row that vN names (R14, R17). -/
def Group.rowNo (G : Group) (n : Nat) : Nat := if G.tf then trapRow + n else G.base + n
/-- A row of exactly 96 words. -/
def fullRow (x : Row) : Row := x.take laneCount ++ List.replicate (laneCount - x.length) 0
def Group.row (G : Group) (r : Nat) : Row := fullRow ((Tbl.get G.v r).getD zeroRow)
def Group.quadTags (G : Group) (quad : Nat) : LaneMask := (Tbl.get G.vtag quad).getD 0
/-- The frame word k52 (R23). -/
def Group.frameWord (G : Group) : Word :=
  BitVec.ofNat 32 ((if G.tf then 2 ^ 31 else 0) + G.base * 2 ^ 16 + G.len * 2 ^ 8 + G.fsz)
/-- The lanes of a group that have not retired (R126). -/
def Group.alive (G : Group) : LaneMask := G.launched &&& ~~~G.gone
/-- A predicate; q7 reads true (R31). -/
def Group.pred (G : Group) (n : Nat) : LaneMask := if n = 7 then allLanes else Store.read G.q n

/-- A k register of the bank, as the group window and every path read it (R21 to R28). -/
def Group.kBank (G : Group) (n : Nat) : Word :=
  if n = 52 then G.frameWord else if n = 53 then G.k53 else if n = 54 then G.k54 else if n = 55 then G.k55
  else if n = 63 then 0 else Store.read G.k n

/-- k56 and k57 keep only the bits R26 gives them, and a write of RM 4 to 7 leaves RM; k63 is zero (R28). -/
def fixFlagWrite (n : Nat) (old new : Word) : Word :=
  if n = 56 then new &&& 0x1F
  else if n = 57 then (new &&& 0x1F00) ||| (if new.toNat % 8 < 4 then new &&& 7 else old &&& 7)
  else if n = 63 then 0
  else new

/-- Whether a write of a k register is taken by the bank (R21, R28): k52 to k55 and k63 ignore it, k60 to k62 are the
path's mask. -/
def kTaken (n : Nat) : Bool := n < 52 || (56 ≤ n && n < 60)

def Group.setK (G : Group) (n : Nat) (x : Word) : Group :=
  if kTaken n then
    { G with
      k := Store.write G.k n (fixFlagWrite n (Store.read G.k n) x)
      ktag := if n < 48 then G.ktag &&& ~~~(BitVec.ofNat 12 (2 ^ (n / 4))) else G.ktag
      poison := G.poison.filter (fun e => e != .k n && !(e == .ktag (n / 4) && n < 48)) }
  else G

/-- A v row written in the lanes of a mask: the quad's tags clear there (R19) and poison goes (R339). -/
def Group.writeRow (G : Group) (r : Nat) (m : LaneMask) (x : Row) : Group :=
  let old := G.row r
  { G with
    v := Tbl.set G.v r (((laneBits m).zip ((fullRow x).zip old)).map (fun (b, n, o) => if b then n else o))
    vtag := Tbl.set G.vtag (r / 4) (G.quadTags (r / 4) &&& ~~~m)
    poison := G.poison.filter (fun e => match e with
      | .v r' l => !(r' == r && m.getLsbD l)
      | .vtag quad l => !(quad == r / 4 && m.getLsbD l)
      | _ => true) }

/-- A result written to the banks (R32). -/
def Group.write (G : Group) : RegWrite → Group
  | .v r m x => G.writeRow r m x
  | .vtag quad m t =>
    { G with
      vtag := Tbl.set G.vtag quad ((G.quadTags quad &&& ~~~m) ||| (t &&& m))
      poison := G.poison.filter (fun e => match e with | .vtag quad' l => !(quad' == quad && m.getLsbD l) | _ => true) }
  | .q n m x =>
    if n < 7 then
      { G with
        q := Store.write G.q n ((Store.read G.q n &&& ~~~m) ||| (x &&& m))
        poison := G.poison.filter (fun e => match e with | .q n' l => !(n' == n && m.getLsbD l) | _ => true) }
    else G
  | .k n x => G.setK n x
  | .ktag quad t =>
    { G with
      ktag := if t then G.ktag ||| BitVec.ofNat 12 (2 ^ quad) else G.ktag &&& ~~~(BitVec.ofNat 12 (2 ^ quad))
      poison := G.poison.filter (· != .ktag quad) }
  | .c _ _ => G
  | .ctag _ _ => G

/-- c63 reads zero (R34). -/
def Ctx.reg (C : Ctx) (n : Nat) : Word64 := if n = 63 then 0 else Store.read C.c n
def Ctx.tag (C : Ctx) (pair : Nat) : Bool := pair < 31 && C.ctag.getLsbD pair

/-- A result written to a context's registers (R34). -/
def Ctx.write (C : Ctx) : RegWrite → Ctx
  | .c n x =>
    if n = 63 then C
    else { C with c := Store.write C.c n x, ctag := C.ctag &&& ~~~(BitVec.ofNat 32 (2 ^ (n / 2))) }
  | .ctag pair t =>
    if t ∧ pair < 31 then { C with ctag := C.ctag ||| BitVec.ofNat 32 (2 ^ pair) }
    else { C with ctag := C.ctag &&& ~~~(BitVec.ofNat 32 (2 ^ pair)) }
  | _ => C

/-! The forwarding window (R32, R33): k results only; v and q results meet no other reader before a flush (log 4). -/

/-- The window key of a k register or of a quad's tag. -/
def winTag (quad : Nat) : Nat := 64 + quad

/-- A write into the window: the k results of one instruction, at an age. A k write also clears the quad's tag. -/
def winPut (w : List WinEntry) (age : Nat) : RegWrite → List WinEntry
  | .k n x =>
    if kTaken n then
      let w := w.filter (·.reg != n)
      let w := if n < 48 then w.filter (·.reg != winTag (n / 4)) ++ [⟨winTag (n / 4), 0, age⟩] else w
      w ++ [⟨n, x, age⟩]
    else w
  | .ktag quad t => w.filter (·.reg != winTag quad) ++ [⟨winTag quad, if t then 1 else 0, age⟩]
  | _ => w

/-- The register write of a window entry. -/
def WinEntry.toWrite (e : WinEntry) : RegWrite :=
  if e.reg < 64 then .k e.reg e.val else .ktag (e.reg - 64) (e.val != 0)

/-- Window entries written to the bank: registers before tags, so that a quad keeps its tag (R19). -/
def Group.drainWin (G : Group) (w : List WinEntry) : Group :=
  let G := (w.filter (·.reg < 64)).foldl (fun G e => G.write e.toWrite) G
  (w.filter (64 ≤ ·.reg)).foldl (fun G e => G.write e.toWrite) G

/-- The value of a k register as a path reads it (R27, R33). -/
def Group.kOf (G : Group) (p : Path) (n : Nat) : Word :=
  if 60 ≤ n ∧ n < 63 then maskWord p.mask (n - 60)
  else match p.win.find? (·.reg == n) with
    | some e => e.val
    | none => G.kBank n

/-- The tag of a uniform quad as a path reads it. -/
def Group.kpTag (G : Group) (p : Path) (quad : Nat) : Bool :=
  match p.win.find? (·.reg == winTag quad) with
  | some e => e.val != 0
  | none => G.ktag.getLsbD quad

/-- Whether a write is held in the window rather than written to a bank at once. -/
def RegWrite.isK : RegWrite → Bool
  | .k _ _ => true
  | .ktag _ _ => true
  | _ => false

/-- k60 to k62 written by a path (R27): the lanes of a word replaced or cleared. -/
def maskWrite (tf : Bool) (alive m : LaneMask) (i : Nat) (x : Word) : LaneMask :=
  let field : LaneMask := (BitVec.ofNat 96 (2 ^ 32 - 1)) <<< (32 * i)
  let new : LaneMask := (x.setWidth 96) <<< (32 * i)
  if tf then (m &&& ~~~field) ||| (new &&& alive &&& field) else m &&& (~~~field ||| new)

/-- How many instructions ago a held result issued. -/
def Held.age : Held → Nat
  | .v _ _ a => a
  | .q _ _ a => a
/-- The lanes that a held result still owns after a newer one of the same register. -/
def Held.under (new old : Held) : Held :=
  match new, old with
  | .v r m _, .v r' m' a => if r = r' then .v r' (m' &&& ~~~m) a else old
  | .q n m _, .q n' m' a => if n = n' then .q n' (m' &&& ~~~m) a else old
  | _, _ => old
def Held.empty : Held → Bool
  | .v _ m _ => m == 0
  | .q _ m _ => m == 0
/-- A v or q result entering the window: what it overwrites there never reaches the bank (R32, R241). -/
def heldPut (l : List Held) (h : Held) : List Held :=
  (l.map h.under ++ [h]).filter (fun e => !e.empty && e.age < 8)
/-- One more instruction has issued: results eight old are in the bank. -/
def Held.older : Held → Held
  | .v r m a => .v r m (a + 1)
  | .q n m a => .q n m (a + 1)

/-- One result of a path as seen by the group: k results enter the window (or the bank once eight instructions old),
k60 to k62 change the path's mask, the rest goes to the bank (R27, R32). -/
def putWrite (age : Nat) (st : Group × Path) (w : RegWrite) : Group × Path :=
  let (G, p) := st
  match w with
  | .k n x =>
    if 60 ≤ n ∧ n < 63 then (G, { p with mask := maskWrite G.tf G.alive p.mask (n - 60) x })
    else if age ≥ 8 then (G.write w, p)
    else (G, { p with win := winPut p.win age (.k n (fixFlagWrite n (G.kOf p n) x)) })
  | .ktag _ _ => if age ≥ 8 then (G.write w, p) else (G, { p with win := winPut p.win age w })
  | .v r m _ => (G.write w, { p with held := heldPut p.held (.v r m age) })
  | .q n m _ => (G.write w, { p with held := heldPut p.held (.q n m age) })
  | _ => (G.write w, p)

def putWrites (age : Nat) (st : Group × Path) (ws : List RegWrite) : Group × Path := ws.foldl (putWrite age) st

/-- One more instruction of the path has issued: entries eight old go to the bank (R32). -/
def ageWin (st : Group × Path) : Group × Path :=
  let (G, p) := st
  let w := p.win.map (fun e => { e with age := e.age + 1 })
  (G.drainWin (w.filter (8 ≤ ·.age)),
    { p with win := w.filter (·.age < 8), held := (p.held.map Held.older).filter (·.age < 8) })

/-! Shadows (R91). -/

/-- The row, lanes and register that a write covers, for the cancelling of R91. -/
def cancelBy (new : RegWrite) (old : RegWrite) : Option RegWrite :=
  match new, old with
  | .v r m _, .v r' m' x => if r = r' then some (.v r' (m' &&& ~~~m) x) else some old
  | .v r m _, .vtag quad m' t => if r / 4 = quad then some (.vtag quad (m' &&& ~~~m) t) else some old
  | .vtag quad m _, .vtag quad' m' t => if quad = quad' then some (.vtag quad' (m' &&& ~~~m) t) else some old
  | .q n m _, .q n' m' x => if n = n' then some (.q n' (m' &&& ~~~m) x) else some old
  | .k n _, .k n' _ => if n = n' then none else some old
  | .k n _, .ktag quad _ => if n / 4 = quad ∧ n < 48 then none else some old
  | .ktag quad _, .ktag quad' _ => if quad = quad' then none else some old
  | .c n _, .c n' _ => if n = n' then none else some old
  | .c n _, .ctag pair _ => if n / 2 = pair then none else some old
  | .ctag pair _, .ctag pair' _ => if pair = pair' then none else some old
  | _, _ => some old

/-- Whether a write is one of k56. -/
def RegWrite.isFlags : RegWrite → Bool
  | .k 56 _ => true
  | _ => false

/-- A pending result with what a shadow instruction wrote discarded (R91): its flags too where that wrote k56 (log 49). -/
def Pending.cancel (news : List RegWrite) (p : Pending) : Pending :=
  { p with
    flags := if news.any RegWrite.isFlags then 0 else p.flags
    writes := p.writes.filterMap (fun o =>
      news.foldl (fun acc n => match acc with | some o' => cancelBy n o' | none => none) (some o)) }

/-- A pending result's writes as they land: a k56 gains the flags raised in the shadow. -/
def Pending.landing (q : Pending) : List RegWrite :=
  q.writes.map (fun w => match w with
    | .k 56 x => .k 56 (x ||| BitVec.ofNat 32 q.gained)
    | w => w)

/-- Flags reach k56 (R26, R68, R70): the bank, the path's own window entry of k56 where it has one, and a k56 that an
older result of the path has still to write: one at least `age` instructions old. -/
def Group.raise (G : Group) (p : Path) (age fl : Nat) : Group × Path :=
  let b : Word := BitVec.ofNat 32 (fl % 32)
  if fl % 32 = 0 then (G, p)
  else
  ({ G with k := Store.write G.k 56 (Store.read G.k 56 ||| b) },
   { p with
     win := p.win.map (fun e => if e.reg == 56 then { e with val := e.val ||| b } else e)
     pend := p.pend.map (fun q => if age ≤ q.la - q.left then { q with gained := q.gained ||| fl % 32 } else q) })

/-! Agents. -/

/-- The thread of an agent. -/
def State.path (s : State) : Agent → Option Path
  | .path g ix => match s.group g with
    | some G => G.stack[ix]?
    | none => none
  | .handler g => match s.group g with
    | some G => G.handler.map (·.path)
    | none => none
  | .ctl t => (s.ctx t).map (·.path)

def Group.setPathAt (G : Group) (ag : Agent) (p : Path) : Group :=
  match ag with
  | .path _ ix => { G with stack := G.stack.set ix p }
  | .handler _ => { G with handler := G.handler.map (fun h => { h with path := p }) }
  | .ctl _ => G

def State.setPath (s : State) (ag : Agent) (p : Path) : State :=
  match ag with
  | .path g _ => match s.group g with
    | some G => s.setGroup g (G.setPathAt ag p)
    | none => s
  | .handler g => match s.group g with
    | some G => s.setGroup g (G.setPathAt ag p)
    | none => s
  | .ctl t => match s.ctx t with
    | some C => s.setCtx t { C with path := p }
    | none => s

/-- One result of a path written, as at its place in program order, and then its flags (R68, R91). -/
def landOne (st : Group × Path) (q : Pending) : Group × Path :=
  let st := putWrites (q.la - q.left) st q.landing
  st.1.raise st.2 (q.la - q.left + 1) q.flags

/-- Completing a path's results of a group (R91 to R93): those that `which` selects are written; the others stay. -/
def settle (which : Pending → Bool) (st : Group × Path) : Group × Path :=
  let ps := st.2.pend
  (ps.filter which).foldl landOne (st.1, { st.2 with pend := ps.filter (fun q => !which q) })

/-- The control float word gathers flags (R133). -/
def Ctx.raise (C : Ctx) (fl : Nat) : Ctx := { C with cfw := C.cfw ||| BitVec.ofNat 32 (fl % 32) }

/-- One result of a context written, and its flags. -/
def landOneCtx (C : Ctx) (q : Pending) : Ctx := (q.writes.foldl Ctx.write C).raise q.flags

/-- The same for a context. -/
def settleCtx (which : Pending → Bool) (C : Ctx) : Ctx :=
  let ps := C.path.pend
  (ps.filter which).foldl landOneCtx
    { C with path := { C.path with pend := ps.filter (fun q => !which q) } }

/-- All of a path's results that are there written, and its window flushed (R32, R93). -/
def Group.quiet (G : Group) (p : Path) : Group × Path :=
  let (G, p) := settle (·.ready) (G, p)
  (G.drainWin p.win, { p with win := [], held := [] })

/-- A number put into a list in ascending order of a key. -/
def insertKey (key : Nat → Nat) (x : Nat) : List Nat → List Nat
  | [] => [x]
  | y :: l => if key x ≤ key y then x :: y :: l else y :: insertKey key x l
/-- Numbers in ascending order of a key. -/
def sortKey (key : Nat → Nat) (l : List Nat) : List Nat := l.foldr (insertKey key) []

/-- Stack entries in the order of their first active lanes, lowest first: where several windows reach the bank together,
the value of the highest remains (R33). -/
def Group.flushOrder (G : Group) (ixs : List Nat) : List Nat :=
  sortKey (fun ix => ((G.stack[ix]?).map (fun p => firstLane p.mask)).getD 96) ixs

/-- Some entries of the stack settled and flushed together (R32, R33). -/
def Group.quietIn (G : Group) (ixs : List Nat) : Group :=
  (G.flushOrder ixs).foldl (fun (G : Group) ix =>
    match G.stack[ix]? with
    | some p => let (G, p) := G.quiet p; { G with stack := G.stack.set ix p }
    | none => G) G

/-- Every path of a group settled and flushed (R32, R93, R331). -/
def Group.quietAll (G : Group) : Group :=
  let G := G.quietIn (List.range G.stack.length)
  match G.handler with
  | some h => let (G, p) := G.quiet h.path; { G with handler := some { h with path := p } }
  | none => G

/-- Whether every outstanding result of every path of a group has its data (R93). -/
def Group.allReady (G : Group) : Bool :=
  G.orphans.isEmpty && G.stack.all (fun p => p.pend.all (·.ready)) &&
  (match G.handler with | some h => h.path.pend.all (·.ready) | none => true)

/-! The dual-path stack (R35, R36, R121 to R124). -/

/-- Whether mask a lies inside b. -/
def subMask (a b : LaneMask) : Bool := a &&& ~~~b == 0

/-- The parent of entry ix (R121): the nearest CONV entry below it whose MASK contains its own. -/
def parentIx (st : List Path) (ix : Nat) : Option Nat :=
  match st[ix]? with
  | none => none
  | some p => ((List.range ix).reverse).find? (fun j =>
      match st[j]? with
      | some c => c.kind == .conv && subMask p.mask c.mask
      | none => false)

/-- The children of entry c: the entries whose parent it is (R121). -/
def childrenOf (st : List Path) (c : Nat) : List Nat :=
  (List.range st.length).filter (fun ix => c < ix && parentIx st ix == some c)

/-- An entry has ended (R121). -/
def Path.ended (p : Path) : Bool := p.mask == 0 || (p.kind == .park && p.parkAt == .join)

/-- Whether every entry other than ix and its ancestors has ended (R127). -/
def othersEnded (st : List Path) (ix : Nat) : Bool :=
  (List.range st.length).all (fun j =>
    j == ix || (match st[j]?, st[ix]? with
      | some p, some me => p.ended || (p.kind == .conv && j < ix && subMask me.mask p.mask)
      | _, _ => true))

/-- The side's candidate from entry ix down (R124 steps 2 and 3); `fuel` bounds the depth. -/
def candidate (st : List Path) : Nat → Nat → Option Nat
  | 0, _ => none
  | fuel + 1, ix =>
    match st[ix]? with
    | none => none
    | some p =>
      match p.kind with
      | .park => if p.parkAt == .win && othersEnded st ix then some ix else none
      | .conv =>
        let kids := (childrenOf st ix).filter (fun j =>
          match st[j]? with
          | some c => !c.ended && (c.kind != .park || (c.parkAt == .win && othersEnded st j))
          | none => false)
        if (childrenOf st ix).isEmpty then some ix
        else
          match kids.foldl (fun (b : Option Nat) j =>
            match b with
            | none => some j
            | some i => if firstLane ((st[j]?.map (·.mask)).getD 0) < firstLane ((st[i]?.map (·.mask)).getD 0)
                then some j else some i) none with
          | some j => candidate st fuel j
          | none => none
      | _ => some ix

/-- The issue candidates of a stack (R124): at most two. -/
def candidates (st : List Path) : List Nat :=
  match (List.range st.length).find? (fun c => !(childrenOf st c).isEmpty) with
  | none => if st.isEmpty then [] else [st.length - 1]
  | some c0 =>
    let sides := (childrenOf st c0).filterMap (fun s => (candidate st 33 s).map (fun x => (s, x)))
    if sides.length ≥ 2 ∧ sides.all (fun (s, x) => s != x) then
      match sides.foldl (fun (b : Option (Nat × Nat)) sx =>
        match b with
        | none => some sx
        | some t => if firstLane ((st[sx.1]?.map (·.mask)).getD 0) < firstLane ((st[t.1]?.map (·.mask)).getD 0)
            then some sx else some t) none with
      | some (_, x) => [x]
      | none => []
    else sides.map (·.2)

/-- select() (R124): LIVE and DEFER set from the candidates; CONV and PARK entries stay, except that a parked window
instruction that may issue becomes LIVE again (R127). -/
def select (st : List Path) : List Path :=
  let cs := candidates st
  (List.range st.length).zip st |>.map (fun (ix, p) =>
    match p.kind with
    | .conv => p
    | .park => if cs.contains ix then { p with kind := .live, parkAt := .none } else p
    | _ => { p with kind := if cs.contains ix then .live else .defer })

/-- A path taken out of the stack, its window flushed into the bank (R32, R121); a result still on the way reaches the
bank when it comes. -/
def Group.removeAt (G : Group) (ix : Nat) : Group :=
  match G.stack[ix]? with
  | none => G
  | some p =>
    let (G, p) := G.quiet p
    { G with stack := G.stack.eraseIdx ix, orphans := G.orphans ++ p.pend }

/-- Several entries taken out, their windows flushed together. -/
def Group.removeAll (G : Group) (ixs : List Nat) : Group :=
  (sortKey id ixs).reverse.foldl Group.removeAt (G.quietIn ixs)

/-- The merge check of a parent (R123), repeated upward; `fuel` bounds the depth. -/
def mergeCheck : Nat → Group → Nat → Group
  | 0, G, _ => G
  | fuel + 1, G, c =>
    let kids := childrenOf G.stack c
    match G.stack[c]? with
    | none => G
    | some pc =>
      if pc.rpc == 0 then G
      else if kids.all (fun j => match G.stack[j]? with | some p => p.ended | none => true) then
        let m : LaneMask := kids.foldl (fun m j => m ||| ((G.stack[j]?.map (·.mask)).getD 0)) 0
        let par := parentIx G.stack c
        let G := G.removeAll kids
        if m = 0 then
          let G := G.removeAt c
          match par with
          | some q => mergeCheck fuel G q
          | none => G
        else
          let p' : Path := { pc with
            mask := m, pc := pc.rpc, rpc := 0, kind := if par.isSome then .defer else .conv, parkAt := .none,
            released := false }
          { G with stack := G.stack.set c p' }
      else G

/-- An entry whose MASK has become zero is removed, and its parent's merge check runs (R121). `par` is the parent it
had while its MASK was not zero. -/
def Group.dropEmpty (G : Group) (ix : Nat) (par : Option Nat) : Group :=
  let G := G.removeAt ix
  let G := match par with
    | some c => mergeCheck 33 G c
    | none => G
  { G with stack := select G.stack }

/-- Every entry whose MASK has become zero removed, and the merge checks that follow (R121, R123); an entry that is no
open divergence, or one of which a child has not ended, stays as it is. -/
def Group.purge (G : Group) : Group :=
  let G := G.removeAll ((List.range G.stack.length).filter (fun j => (G.stack[j]?).any (·.mask == 0)))
  let G := (List.range G.stack.length).reverse.foldl (mergeCheck 33) G
  { G with stack := select G.stack }

/-- The topmost entry with a mask: entries that run have masks of their own. -/
def lastWith (st : List Path) (m : LaneMask) : Option Nat :=
  ((List.range st.length).filter (fun j => (st[j]?).any (·.mask == m))).getLast?

/-! Parked operations (R254, R255). -/

/-- An entry parked at an instruction that it has not yet been released to issue. -/
def Path.stalled (p : Path) : Bool := p.kind == .park && (p.parkAt == .op || p.parkAt == .win) && !p.released

/-- One merge of two sibling entries parked at the same pc, if there is one (R255 step 1). -/
def mergePair (G : Group) : Option Group :=
  let parked := (List.range G.stack.length).filter (fun j => (G.stack[j]?.map Path.stalled).getD false)
  let pairs := parked.flatMap (fun i => (parked.filter (i < ·)).map (fun j => (i, j)))
  match pairs.find? (fun (i, j) =>
    match G.stack[i]?, G.stack[j]? with
    | some a, some b => a.pc == b.pc && a.parkAt == b.parkAt && parentIx G.stack i == parentIx G.stack j
    | _, _ => false) with
  | none => none
  | some (i, j) =>
    let G := G.quietIn [i, j]
    match G.stack[i]?, G.stack[j]? with
    | some a, some b => some { G with stack := (G.stack.set i { a with mask := a.mask ||| b.mask }).eraseIdx j }
    | _, _ => none

def mergePairs : Nat → Group → Group
  | 0, G => G
  | n + 1, G => match mergePair G with
    | some G => mergePairs n G
    | none => G

/-- The resolution of the parked operations once no entry is LIVE or DEFER and none released is still to issue (R254,
R255): merges, then every entry parked at a group-wide operation is released; they issue lowest first active lane
first (Group.issuers). -/
def Group.resolve (G : Group) : Group :=
  let G := { G with stack := select G.stack }
  if G.stack.any (fun p => p.kind == .live || p.kind == .defer || (p.kind == .park && p.released && p.wait.isNone)) then
    G
  else
    let G := mergePairs 32 G
    { G with stack := select (G.stack.map (fun p =>
        if p.kind == .park && p.parkAt == .op then { p with released := true } else p)) }

/-- The stack at a boundary: entries that have lost their lanes are removed at once, and what waited for them goes on
(R36, R121, R254). The frozen stack below a handler stays (R331). -/
def Group.tidied (G : Group) : Group :=
  if G.tf || G.stack.all (·.mask != 0) then G else G.purge.resolve

/-- The stack after an entry's MASK has become `new`: nothing where it is as it was, else the entries that issue are
fixed again (R124), entries without lanes gone. -/
def Group.remasked (G : Group) (old new : LaneMask) : Group :=
  if G.tf || old == new then G else ({ G with stack := select G.stack } : Group).tidied

/-- The released entry that issues next: of those not yet waiting, the one of lowest first active lane (R255). -/
def nextReleased (st : List Path) : Option Nat :=
  (List.range st.length).foldl (fun (b : Option Nat) j =>
    match st[j]? with
    | some p =>
      if p.kind == .park && p.released && p.wait.isNone then
        match b with
        | some i => if firstLane p.mask < firstLane ((st[i]?.map (·.mask)).getD 0) then some j else some i
        | none => some j
      else b
    | none => b) none

/-- The entries that can issue (R124, R255, R331): the handler alone while TF is set, where it has a lane (R94); else a released operation before
everything, else the LIVE entries, the converged path and the released operations that have begun a wait. While
single-step is armed only the resumed path issues (R335). -/
def Group.issuers (g : Nat) (G : Group) : List Agent :=
  let all : List Agent :=
    if G.tf then (if G.handler.any (fun h => h.path.mask != 0) then [.handler g] else [])
    else match nextReleased G.stack with
      | some j => [.path g j]
      | none => (List.range G.stack.length).filter (fun j =>
          match G.stack[j]? with
          | some p => p.kind == .live || (p.kind == .conv && (childrenOf G.stack j).isEmpty) ||
              (p.kind == .park && p.released)
          | none => false) |>.map (Agent.path g)
  if G.step && all.contains G.resume then [G.resume] else all

/-- The late faults that are due at the group's boundary: those of the paths that issue (R93, R332). -/
def Group.lateDue (G : Group) : Bool :=
  if G.tf then G.handler.any (fun h => !h.path.late.isEmpty)
  else G.stack.any (fun p => p.kind != .defer && p.kind != .park && !p.late.isEmpty)

/-- A boundary where no path of the group has an open shadow, every result is there, and no late fault is due, whose trap
entry would come first (R93, R332). -/
def Group.canHalt (G : Group) : Bool :=
  G.orphans.isEmpty && !G.lateDue && G.stack.all (fun p => p.pend.all (fun q => q.ready && q.left == 0)) &&
  (match G.handler with
    | some h => h.path.pend.all (fun q => q.ready && q.left == 0)
    | none => true)

/-- A boundary of a context where its path has no open shadow and every result is there (R93). -/
def Ctx.canHalt (C : Ctx) : Bool := C.path.pend.all (fun q => q.ready && q.left == 0)

/-- Whether an agent of a team that stands at a halting boundary, or not, issues nothing: firmware has halted the team, or a
pre-emption has been requested or its core is to be retired and the agent has come to its boundary (R337, R395, R451; log
52). -/
def State.teamHalted (s : State) (t : Nat) (boundary : Bool) : Bool :=
  ((s.team t).any (·.halt) || (s.core (coreOfTeam t)).retire) &&
    (boundary || (s.ctx t).any (fun C => C.trapped.isSome))

/-- Whether an agent can issue at all: its team is not halted, its group runs and selects it, or its context is live. -/
def State.canIssue (s : State) : Agent → Bool
  | .ctl t => match s.ctx t with
    | some C => !C.exited && C.trapped.isNone && !s.teamHalted t C.canHalt
    | none => false
  | .path g ix => match s.group g with
    | some G => G.run == .running && (G.issuers g).contains (.path g ix) && !s.teamHalted G.team G.canHalt
    | none => false
  | .handler g => match s.group g with
    | some G => G.run == .running && (G.issuers g).contains (.handler g) && !s.teamHalted G.team G.canHalt
    | none => false

/-- The agent that issues next when the agenda is empty: the group's first issuer (log 1). -/
def State.follow (s : State) (g : Nat) : State :=
  { s with cur := match s.group g with
      | some G => if G.run == .running then (G.issuers g).head? else none
      | none => none }

/-! Taking a trap (R329 to R337). -/

/-! Cause codes (R330). -/
def cILLEGAL : Nat := 1
def cCAPABILITY : Nat := 2
def cUNDECLARED : Nat := 3
def cSPILL : Nat := 4
def cFILL : Nat := 5
def cFPE : Nat := 6
def cUNIFORM : Nat := 7
def cDEADLOCK : Nat := 8
def cINEXACT : Nat := 9
def cREPLAY : Nat := 10
def cECC : Nat := 11
def cPREEMPT : Nat := 12
def cBREAK : Nat := 13
def cSTEP : Nat := 14
def cVERSION : Nat := 15
def cEXTENT : Nat := 16
def cLINK : Nat := 17
def cRESOURCES : Nat := 18
def cHOSTERR : Nat := 19

/-- A trap about to be taken: cause, subcause, DETAIL (R330), the fault mask, whether it is a late fault and of which
pc, the resume pc where it is not the instruction itself, flags that reach k56 first (R70), and the window (base,
length) that a SPILL or FILL names (R334). -/
structure Trap where
  cause : Nat
  sub : Nat
  detail : Nat
  lanes : LaneMask
  late : Bool
  faultPc : Word64
  resume : Option Word64
  flags : Nat
  want : Option (Int × Nat)
  deriving DecidableEq, Repr

/-- A trap of a cause, at the instruction itself. -/
def Trap.of (cause sub detail : Nat) (lanes : LaneMask) : Trap :=
  { cause := cause, sub := sub, detail := detail, lanes := lanes, late := false, faultPc := 0, resume := none,
    flags := 0, want := none }

/-- ECC in the control store or the tile store is level 2's (R337). -/
def Trap.toFirmware (t : Trap) : Bool := t.cause == cECC && (t.detail == 3 || t.detail == 4)

/-- The cause word (R329). -/
def causeWord (t : Trap) (esc arm : Bool) : Word :=
  BitVec.ofNat 32 (t.detail % 2 ^ 13 * 2 ^ 19 + (if esc then 2 ^ 18 else 0) + (if t.late then 2 ^ 17 else 0) +
    (if arm then 2 ^ 16 else 0) + t.sub % 16 * 2 ^ 8 + t.cause % 256)

/-- The trap-save image (R30): the lanes of v15. -/
def trapImage (G : Group) (mask : LaneMask) (resume : Word64) : Row :=
  [G.kBank 48, G.kBank 49, G.kBank 50, G.kBank 51, maskWord mask 0, maskWord mask 1, maskWord mask 2,
    resume.extractLsb' 0 32, resume.extractLsb' 32 32, BitVec.ofNat 32 (G.held * 2 ^ 16 + G.lo)] ++
    List.replicate 86 0

/-- k48 to k50 hold the fault mask and k51 the cause (R30). -/
def Group.setCause (G : Group) (lanes : LaneMask) (cw : Word) : Group :=
  (((G.setK 48 (maskWord lanes 0)).setK 49 (maskWord lanes 1)).setK 50 (maskWord lanes 2)).setK 51 cw

/-- Every path's results written and every window flushed, entries that lose their lanes by it removed; the entry ix
keeps its own, and the answer says where it stands and the mask that its results leave (R30, R36, R93). -/
def Group.quietAt (G : Group) (ix : Nat) : Group × Nat × LaneMask :=
  let H := G.quietAll
  match G.stack[ix]?, H.stack[ix]? with
  | some p, some q =>
    let m := if q.mask = 0 then p.mask else q.mask
    let R := { H with stack := H.stack.set ix { q with mask := m } }.tidied
    (R, if R.stack.length = H.stack.length then ix else (lastWith R.stack m).getD ix, q.mask)
  | _, _ => (H, ix, 0)

/-- Entry at level 0 (R30, R331, R333): the trapping path is stack entry ix. -/
def Group.enter0 (G : Group) (ix : Nat) (t : Trap) (resume : Word64) : Group :=
  let (G, ix, left) := G.quietAt ix
  match G.stack[ix]? with
  | none => G
  | some p =>
    let arm := (parentIx G.stack ix).isSome
    let img := trapImage G left resume
    let G := G.writeRow (trapRow + 15) allLanes img
    let G := if t.late then
        G.writeRow (trapRow + 14) (laneMask1 0 ||| laneMask1 1)
          (t.faultPc.extractLsb' 0 32 :: t.faultPc.extractLsb' 32 32 :: List.replicate 94 0)
      else G
    let G := G.setCause t.lanes (causeWord t false arm)
    { G with
      tf := true
      handler := some { path := Path.fresh .conv (BitVec.ofNat 64 G.trapv) p.mask G.code, ix := ix, code := p.code,
                        want := t.want } }

/-- A notice record of a trap (R335), without RIDX. -/
def noticeRec (grp cause sub : Nat) (lanes : LaneMask) : BitVec 192 :=
  BitVec.ofNat 192 (lanes.toNat * 2 ^ 64 + grp * 2 ^ 26 + cause % 256 * 2 ^ 16 + sub % 16 * 2 ^ 8 + 4)

/-- GRP of a group (R24). -/
def Group.grp (G : Group) : Nat := bitsOf G.k53.toNat 13 10
/-- ROLE of a group (R24). -/
def Group.role (G : Group) : Nat := bitsOf G.k53.toNat 16 14
/-- SLOT of a group number. -/
def slotOf (g : Nat) : Nat := g % 32

/-- A trap passes to level 2 (R337): the cause is recorded for the firmware, whose step is `level2Fault`. -/
def State.toLevel2 (s : State) (t : Nat) (cause sub : Nat) (word : Word) : State :=
  let s := match s.ctx t with
    | some C => s.setCtx t { C with trapped := some (cause, sub, word.toNat) }
    | none => s
  match s.team t with
  | some T => s.setTeam t { T with halt := true }
  | none => s

/-- A group stopped at the boundary of an agent of its own, and that agent as it then stands. -/
def Group.stopAt (G : Group) (g : Nat) (ag : Agent) : Group × Agent :=
  match ag with
  | .path _ ix => let (G, ix, _) := G.quietAt ix; (G, .path g ix)
  | _ => (G.quietAll, ag)

/-- Delivery at level 1 (R335): the group stops at the boundary, a notice record waits for ring space; with no control
thread the trap passes to level 2. -/
def State.deliver1 (s : State) (g : Nat) (ag : Agent) (t : Trap) (esc arm : Bool) (resume : Word64) : State :=
  match s.group g with
  | none => s
  | some G =>
    let (G, ag) := G.stopAt g ag
    let cw := causeWord t esc arm
    let s := s.setGroup g { G with run := .trapped, cause := cw, resume := ag }
    let s := match s.path ag with
      | some p => s.setPath ag { p with pc := resume, wait := none }
      | none => s
    let live := match s.ctx G.team with
      | some C => !C.exited && C.trapped.isNone
      | none => false
    if live then
      match s.team G.team with
      | some T => s.setTeam G.team
          { T with ringQ := T.ringQ ++ [{ bits := noticeRec G.grp t.cause t.sub t.lanes, chain := none, seq := 0 }] }
      | none => s
    else s.toLevel2 G.team t.cause t.sub cw

/-- TAKING A TRAP (R93, R331 to R337), the one operation every trap goes through: at level 0, 1 or 2. A trap whose group
still has results on the way waits for them. -/
def State.takeTrap (s : State) (ag : Agent) (t : Trap) : State :=
  if t.toFirmware then
    match ag with
    | .path g ix => match s.group g with
      | some G => s.toLevel2 G.team t.cause t.sub (causeWord t false (parentIx G.stack ix).isSome)
      | none => s
    | .handler g => match s.group g with
      | some G => s.toLevel2 G.team t.cause t.sub (causeWord t false false)
      | none => s
    | .ctl x => s.toLevel2 x t.cause t.sub (causeWord t false false)
  else
  match ag with
  | .ctl x => match s.ctx x with
    | some C =>
      if !C.path.pend.all (·.ready) then
        s.setPath ag { C.path with wait := some { why := .result, since := s.clock, no := s.waitNo } }
      else
      let C := settleCtx (fun _ => true) C
      (s.setCtx x { C with path := { C.path with wait := none } }).toLevel2 x t.cause t.sub (causeWord t false false)
    | none => s
  | .path g ix => match s.group g with
    | none => s
    | some G => match G.stack[ix]? with
      | none => s
      | some p =>
        if !G.allReady then
          s.setPath ag { p with wait := some { why := .result, since := s.clock, no := s.waitNo } }
        else
          let (G, p) := G.raise p 0 t.flags
          let G := { G with stack := G.stack.set ix { p with wait := none } }
          let resume := t.resume.getD p.pc
          if G.trapv = 0 then
            (s.setGroup g G).deliver1 g ag t false (parentIx G.stack ix).isSome resume
          else
            let s := s.setGroup g (G.enter0 ix t resume)
            { s with cur := if s.cur = some ag then some (.handler g) else s.cur }
  | .handler g => match s.group g with
    | none => s
    | some G => match G.handler with
      | none => s
      | some h =>
        if !G.allReady then
          s.setPath ag { h.path with wait := some { why := .result, since := s.clock, no := s.waitNo } }
        else
          let (G, p) := G.raise h.path 0 t.flags
          let G := { G with handler := some { h with path := p } }
          (s.setGroup g G).deliver1 g ag t true false (t.resume.getD p.pc)

end Sys2Proof.Machine
end

