-- ==== Sys2Proof/Machine/Issue.lean ====
section
/-! DEFINITION. Issue of one instruction: who issues, lookahead, gathering, waits, the deadlock detector, and how a
result leaves. -/

namespace Sys2Proof.Machine

/-! What an instruction's issue depends on (R78, R84, R92, R95). -/

/-- Row and slot, length, lookahead, A selector and guard. -/
structure Op where
  maj : Nat
  f : Nat
  bytes : Nat
  la : Nat
  asel : Nat
  qn : Bool
  qg : Nat
  deriving DecidableEq, Repr

/-- A 32-bit form: unguarded, lookahead 0 (R82). -/
def Op.short (maj f : Nat) : Op := { maj := maj, f := f, bytes := 4, la := 0, asel := 0, qn := false, qg := 7 }
/-- A 64- or 96-bit form. -/
def Op.long (maj f : Nat) (w : Long) : Op :=
  { maj := maj, f := f, bytes := if w.lit.isSome then 12 else 8, la := w.la.toNat, asel := w.asel.toNat,
    qn := w.qn == 1, qg := w.qg.toNat }

/-- The rows and slots of a list of (row, slots). -/
def Op.among (o : Op) (l : List (Nat × List Nat)) : Bool := l.any (fun (m, fs) => o.maj == m && fs.contains o.f)

/-- An instruction that closes the shadows of its path (R92). -/
def Op.closes (o : Op) : Bool :=
  (0x38 ≤ o.maj && o.maj ≤ 0x3F && !o.among [(0x38, [0, 1]), (0x39, [4]), (0x3F, [4])]) ||
  (o.maj == 0x20 && o.f != 7) || o.asel == 2

/-- A group-wide operation (R154, R194, R254). -/
def Op.groupWide (o : Op) : Bool :=
  (o.maj == 0x20 && o.f != 7) || o.asel == 2 ||
  (0x3C ≤ o.maj && o.maj ≤ 0x3F && !o.among [(0x3C, [0]), (0x3F, [0, 1, 2, 3, 4, 5, 6])])

/-- A window instruction (R127). -/
def Op.window (o : Op) : Bool := o.among [(0x38, [5, 6, 7]), (0x39, [0])]

/-- Valid in the control stream (R95). -/
def Op.inControl (o : Op) : Bool :=
  o.maj > 0x3F || (o.maj == 0x0C) || (o.maj == 0x0D) || o.among [(0x0E, [0, 1])] || (o.maj == 0x10) ||
  o.among [(0x11, [1, 4, 5, 6]), (0x28, [2, 3])] || (o.maj == 0x29) || (o.maj == 0x2A) || (o.maj == 0x2B) ||
  (o.maj == 0x2C) || o.among [(0x38, [0, 1, 2, 5, 6, 7]), (0x39, [1, 3, 4]), (0x3C, [3, 4, 5, 6, 7]),
    (0x3D, [0, 1, 2, 3, 4, 7]), (0x3E, [0, 1, 2, 3, 6, 7]), (0x3F, [0, 2, 3, 4, 5, 6, 7])]

/-- Valid in the group stream (R95). -/
def Op.inGroup (o : Op) : Bool := !o.among [(0x3C, [7]), (0x3D, [0, 1, 2, 3, 4]), (0x3E, [0]), (0x3F, [7])]

/-- Long-latency and honouring LA (R91, R95); TAKE, BRX, CALLI and BRD ignore it (R120, R122, R128, R131). -/
def Op.honoursLa (o : Op) : Bool :=
  o.among [(0x00, [6, 7]), (0x01, [0, 1, 6, 7]), (0x02, [0, 7]), (0x03, [4, 5, 6, 7]), (0x0C, [3]),
    (0x0D, [5, 6, 7]), (0x0E, [2]), (0x10, [3, 6, 7]), (0x11, [0, 4, 5, 6]), (0x13, [0]),
    (0x14, [2, 3, 4, 5, 6]), (0x20, [0, 1, 2, 3, 4, 5, 6]), (0x2A, [2, 4, 5, 6, 7]),
    (0x3F, [0, 1, 2, 3, 5, 6, 7])] ||
  o.maj == 0x12 || o.maj == 0x28 || o.maj == 0x29 || o.maj == 0x2C || (0x3C ≤ o.maj && o.maj ≤ 0x3E)

/-- The lookahead that takes effect. -/
def Op.lookahead (o : Op) : Nat := if o.honoursLa then o.la else 0

/-- An instruction that acts once, for which a guard is ILLEGAL (R87): the uniform instructions and rows 0x38 to 0x3F
but TRAP. -/
def Op.once (o : Op) : Bool :=
  o.maj == 0x0C || o.maj == 0x0D || o.among [(0x0E, [0, 1])] ||
  (0x38 ≤ o.maj && o.maj ≤ 0x3F && !o.among [(0x3F, [0])])

/-- An instruction that acts once for its path though its row may act per lane: LDU and STU (R167), the fences and walks
(R182 row 0x2C), the uniform capability forms (R182). -/
def Op.actsOnce (o : Op) : Bool :=
  o.once || o.maj == 0x2C || o.among [(0x28, [2, 3])] || ((o.maj == 0x2A || o.maj == 0x2B) && o.asel == 1)

/-- An instruction that takes one issue cycle whatever the mask (R234, R236, R237): those that act once but CPL, and P2K. -/
def Op.oneCycle (o : Op) : Bool := (o.actsOnce && !o.among [(0x3C, [0])]) || o.among [(0x0E, [3])]

/-- The drain port is accepted as A only in the element-wise float rows (R86). -/
def Op.dqRow (o : Op) : Bool := (0x10 ≤ o.maj && o.maj ≤ 0x13) || o.among [(0x14, [0, 1, 2])]

/-- No guard. -/
def Op.unguarded (o : Op) : Bool := o.qg == 7 && !o.qn

/-! The issuing agent. -/

/-- A group of no team. -/
def Group.blank : Group :=
  { team := 0, k53 := 0, k54 := 0, held := 8, lo := 0, base := 0, fsz := 0, tf := false, v := [], vtag := [], k := [],
    ktag := 0, q := [], stack := [], handler := none, orphans := [], appended := [], launched := allLanes, gone := 0, k55 := 0, cplNo := 0, ops := [],
    fails := [], drain := [], run := .running, stopReq := false, cause := 0, resume := .path 0 0,
    step := false, stepDue := false, poison := [], starve := 0, startedAt := 0, raised := none, readySince := 0, issued := 0,
    perf := { since := 0, instrs := 0, beats := 0, waits := 0 }, code := CapV.zero, trapv := 0, priv := 0, psize := 0,
    boost := 0 }

/-- A context of no team. -/
def Ctx.blank : Ctx :=
  { c := [], ctag := 0, cfw := 0, path := Path.fresh .conv 0 1 CapV.zero, exited := false, trapped := none,
    appended := [], startedAt := 0, perf := { since := 0, instrs := 0, beats := 0, waits := 0 } }

/-- An instruction that is issuing: the state, the agent, its group or context, its path, core and team. -/
structure Iss where
  s : State
  ag : Agent
  ctl : Bool
  id : Nat
  G : Group
  C : Ctx
  p : Path
  core : Nat
  team : Nat
  T : Team
  /-- the wait of the path before it issued -/
  w0 : Option Wait
  /-- the lanes active for the instruction: the fault mask of its ILLEGAL (R69, R94) -/
  lanes : LaneMask
  deriving DecidableEq, Repr

/-- The view of an agent in a state. -/
def State.view (s : State) (ag : Agent) : Option Iss :=
  match ag, s.path ag with
  | _, none => none
  | .ctl t, some p =>
    match s.ctx t, s.team t with
    | some C, some T =>
      some { s := s, ag := ag, ctl := true, id := t, G := Group.blank, C := C, p := p, core := coreOfTeam t, team := t,
             T := T, w0 := p.wait, lanes := p.mask }
    | _, _ => none
  | .path g _, some p =>
    match s.group g with
    | some G => match s.team G.team with
      | some T => some { s := s, ag := ag, ctl := false, id := g, G := G, C := Ctx.blank, p := p,
                         core := coreOfGroup g, team := G.team, T := T, w0 := p.wait, lanes := p.mask }
      | none => none
    | none => none
  | .handler g, some p =>
    match s.group g with
    | some G => match s.team G.team with
      | some T => some { s := s, ag := ag, ctl := false, id := g, G := G, C := Ctx.blank, p := p,
                         core := coreOfGroup g, team := G.team, T := T, w0 := p.wait, lanes := p.mask }
      | none => none
    | none => none

/-- The agent that issues in a state, as it stands. -/
def State.issuing (s : State) : Option Iss :=
  match s.cur with
  | none => none
  | some ag => if s.canIssue ag then s.view ag else none

/-- The colour of the agent (R245, R259). -/
def Iss.colour (i : Iss) : Nat := i.T.colour
/-- The lanes active for an instruction (R69, R87). -/
def Iss.active (i : Iss) (o : Op) : LaneMask :=
  if o.qn then i.p.mask &&& ~~~(i.G.pred o.qg) else i.p.mask &&& i.G.pred o.qg
/-- The path is the group's converged path and no entry has children (R254). -/
def Iss.converged (i : Iss) : Bool :=
  match i.ag with
  | .path _ ix => ix == 0 && i.G.stack.length == 1
  | _ => true

/-! What an instruction's body answers. -/

/-- What keeps an instruction from its effect: a trap, a trap that also changes the state, or a wait (R194) with what
its beginning records in the state. -/
inductive Stop where
  | trap (t : Trap)
  | fault (t : Trap) (note : State → State)
  | wait (why : WaitWhy) (note : State → State)

/-- The effect of an instruction: the state with its effects elsewhere, its register results, the flags raised, where
the path goes, and whether the results wait for a host-window request. -/
structure Done where
  s : State
  ws : List RegWrite
  flags : Nat
  pc : Option Word64
  req : Option Nat
  /-- the body has already placed the path (BRD, JOIN, EXIT, RTT) -/
  moved : Bool
  deriving DecidableEq, Repr

/-- Results and nothing else. -/
def Iss.results (i : Iss) (ws : List RegWrite) : Done :=
  { s := i.s, ws := ws, flags := 0, pc := none, req := none, moved := false }

/-- An effect in the state and nothing else. -/
def Done.only (s : State) : Done := { s := s, ws := [], flags := 0, pc := none, req := none, moved := false }

/-- A body. -/
abbrev Body := Iss → Except Stop Done

/-- The view with the lanes active for the instruction named. -/
def Iss.aim (i : Iss) (o : Op) : Iss := { i with lanes := if i.ctl || o.actsOnce then i.p.mask else i.active o }
/-- ILLEGAL before any effect, with every lane active for the instruction in the fault mask (R69, R94). -/
def Iss.illegal {α : Type} (i : Iss) : Except Stop α := .error (.trap (Trap.of cILLEGAL 0 0 i.lanes))
/-- A trap of the lanes given. -/
def Iss.trap {α : Type} (_ : Iss) (cause sub : Nat) (lanes : LaneMask) : Except Stop α :=
  .error (.trap (Trap.of cause sub 0 lanes))
/-- ILLEGAL unless a condition holds. -/
def Iss.need (i : Iss) (b : Bool) : Except Stop Unit := if b then .ok () else i.illegal

/-! The deadlock detector (R338). -/

/-- Free rows of a core's pool (R220). -/
def State.freeRows (s : State) (core : Nat) : Nat :=
  2048 - ((s.groups.filter (fun e => coreOfGroup e.1 == core && e.2.run != .retired)).map
    (fun e => e.2.held + 16)).sum

/-- The tile-store units of a core that teams hold (R214). -/
def State.tilesHeld (s : State) (core : Nat) : List (Nat × Nat) :=
  (s.teams.filter (fun e => coreOfTeam e.1 == core)).flatMap (fun e => e.2.tiles)
/-- Whether a unit is free. -/
def State.tileFree (s : State) (core u : Nat) : Bool :=
  u < 32 && (s.tilesHeld core).all (fun (b, n) => u < b || b + n ≤ u)
/-- The lowest run of n free units (R214). -/
def State.tileRun (s : State) (core n : Nat) : Option Nat :=
  (List.range 33).find? (fun b => b + n ≤ 32 && (List.range n).all (fun j => s.tileFree core (b + j)))

/-- A barrier of a core (R217). -/
def State.bar (s : State) (core h : Nat) : Barrier :=
  (Tbl.get s.bars (core * 512 + h)).getD { owner := none, arrN := 0, bytN := 0, arr := 0, byt := 0, cph := 0 }
def State.setBar (s : State) (core h : Nat) (b : Barrier) : State :=
  { s with bars := Tbl.set s.bars (core * 512 + h) b }

/-- Whether the kind of a wait belongs to the detector (R338). -/
def WaitWhy.counts : WaitWhy → Bool
  | .claim _ => true
  | .tclaim _ => true
  | .barrier _ _ => true
  | _ => false

/-- The agents of a core that can issue, each with its path: groups' issuers and live contexts. -/
def State.coreAgents (s : State) (core : Nat) : List (Agent × Path) :=
  ((s.groups.filter (fun e => coreOfGroup e.1 == core && e.2.run == .running)).flatMap
    (fun e => (e.2.issuers e.1).filterMap (fun a => (s.path a).map (fun p => (a, p))))) ++
  ((s.ctxs.filter (fun e => coreOfTeam e.1 == core && !e.2.exited && e.2.trapped.isNone)).map
    (fun e => (Agent.ctl e.1, e.2.path)))

/-- A member of the detector's sets: a group (or context), and the waits of its paths. -/
structure Waiter where
  ctl : Bool
  id : Nat
  waits : List (Agent × Wait)
  deriving DecidableEq, Repr

/-- W of R338: the groups and contexts all of whose issuing paths wait at CLAIM, TCLAIM, BWAIT or BSYNC. -/
def State.waiters (s : State) (core : Nat) : List Waiter :=
  let ws (l : List (Agent × Path)) : Option (List (Agent × Wait)) :=
    if l.isEmpty then none
    else l.mapM (fun (a, p) => match p.wait with
      | some w => if w.why.counts && p.late.isEmpty then some (a, w) else none
      | none => none)
  ((s.groups.filter (fun e => coreOfGroup e.1 == core && e.2.run == .running)).filterMap (fun e =>
    (ws ((e.2.issuers e.1).filterMap (fun a => (s.path a).map (fun p => (a, p))))).map
      (fun l => { ctl := false, id := e.1, waits := l }))) ++
  ((s.ctxs.filter (fun e => coreOfTeam e.1 == core && !e.2.exited && e.2.trapped.isNone)).filterMap (fun e =>
    (ws [(Agent.ctl e.1, e.2.path)]).map (fun l => { ctl := true, id := e.1, waits := l })))

/-- The group numbers of a team that have not retired. -/
def State.liveGroups (s : State) (t : Nat) : List Nat :=
  (s.groups.filter (fun e => e.2.team == t && e.2.run != .retired)).map (·.1)

/-- Whether a team's context is live. -/
def State.liveCtx (s : State) (t : Nat) : Bool :=
  match s.ctx t with
  | some C => !C.exited && C.trapped.isNone
  | none => false

/-- Whether every live group and the live context of a team are in D. -/
def State.allIn (s : State) (D : List Waiter) (t : Nat) : Bool :=
  (s.liveGroups t).all (fun g => D.any (fun x => !x.ctl && x.id == g)) &&
  (!s.liveCtx t || D.any (fun x => x.ctl && x.id == t))

/-- Whether a command is complete (R197). -/
def Cmd.complete (c : Cmd) : Bool := c.status == 2 || c.status == 3 || c.status == 6

/-- Whether an incomplete command or walk of a team names a barrier (R192, R215). -/
def State.namesBar (s : State) (t h : Nat) : Bool :=
  (match s.team t with
    | some T => T.chains.any (fun ch => ch.cmds.any (fun c =>
        !c.complete && bitsOf c.blk.toNat 507 504 == 7 && bitsOf c.blk.toNat 344 336 == h))
    | none => false) ||
  s.sched.walks.any (fun e => e.2.team == t && e.2.bar == h && (e.2.kind == .flush || e.2.kind == .inv))

/-- Whether sequence number a precedes b (R197). -/
def seqBefore (a b : Word) : Bool := let d := (b - a).toNat; 1 ≤ d && d < 2 ^ 31

/-- Whether a command of the collective chain ends a wait at a barrier (R219): a COLL of that barrier that ended FAULT or
ABANDONED while the agent waited, whose wait is number `no`, or that ended in the phase in which the barrier still
stands (DEDUCED, log 56: an older failure, before the wait began and in a phase since completed, ends none). -/
def State.endsWait (s : State) (core h : Nat) (no : Option Nat) (c : Cmd) : Bool :=
  bitsOf c.blk.toNat 507 504 == 7 && bitsOf c.blk.toNat 344 336 == h && (c.status == 4 || c.status == 6) &&
    (c.phase == (s.bar core h).cph || no.any (· < c.endNo))

/-- Whether wait number `no` at phase p of a barrier is over, though its agent has not issued again: the phase has
completed, or a COLL of the owning team has ended FAULT or ABANDONED (R219). -/
def State.waitOver (s : State) (t core h : Nat) (p : Word) (no : Nat) : Bool :=
  seqBefore p (s.bar core h).cph ||
  (s.team t).any (fun T => (T.chains[2]?).any (fun ch => ch.cmds.any (s.endsWait core h (some no))))

/-- Whether one wait of a member of D is stuck (R338). -/
def State.stuckWait (s : State) (core : Nat) (D : List Waiter) (w : Wait) : Bool :=
  let earlier : List Wait := (s.coreAgents core).filterMap (fun (_, p) => match p.wait with
    | some x => if x.no < w.no then some x else none
    | none => none)
  match w.why with
  | .claim n =>
    (s.freeRows core < n || earlier.any (fun x => match x.why with | .claim m => s.freeRows core < m | _ => false)) &&
    (s.groups.filter (fun e => coreOfGroup e.1 == core && e.2.run != .retired && 8 < e.2.held)).all
      (fun e => D.any (fun x => !x.ctl && x.id == e.1))
  | .tclaim n =>
    ((s.tileRun core n).isNone ||
      earlier.any (fun x => match x.why with | .tclaim m => (s.tileRun core m).isNone | _ => false)) &&
    (s.teams.filter (fun e => coreOfTeam e.1 == core && !e.2.tiles.isEmpty)).all (fun e => s.allIn D e.1)
  | .barrier h p =>
    match (s.bar core h).owner with
    | some t => s.allIn D t && !s.namesBar t h && !s.waitOver t core h p w.no
    | none => false
  | _ => false

/-- The greatest set of stuck members (R338): those not stuck leave until none does. -/
def State.stuckSet (s : State) (core : Nat) : Nat → List Waiter → List Waiter
  | 0, D => D
  | n + 1, D => s.stuckSet core n (D.filter (fun x => x.waits.all (fun (_, w) => s.stuckWait core D w)))

/-- KIND and barrier number of a DEADLOCK trap as DETAIL (R330). -/
def deadlockDetail (why : WaitWhy) : Nat :=
  match why with
  | .claim _ => 1 * 2 ^ 9
  | .tclaim _ => 2 * 2 ^ 9
  | .barrier h _ => 3 * 2 ^ 9 + h
  | _ => 0

/-- Whether wait a began after wait b; within one cycle the higher slot (R338). -/
def laterWait (a b : Nat × Agent × Wait) : Bool :=
  b.2.2.since < a.2.2.since || (b.2.2.since == a.2.2.since && b.1 < a.1)

/-- One run of the detector of a core: the agent that receives DEADLOCK, if any. -/
def State.deadlocked (s : State) (core : Nat) : Option (Agent × Wait) :=
  let W := s.waiters core
  let D := s.stuckSet core W.length W
  let pick (l : List Waiter) : Option (Agent × Wait) :=
    ((l.flatMap (fun x => x.waits.map (fun (a, w) => (x.id, a, w)))).foldl (fun (b : Option (Nat × Agent × Wait)) e =>
      match b with
      | none => some e
      | some b => if laterWait e b then some e else some b) none).map (·.2)
  if D.any (fun x => !x.ctl) then pick (D.filter (fun x => !x.ctl)) else pick D

/-- The detector run until no set is stuck (R338): each time one agent traps. -/
def State.detectN (core : Nat) : Nat → State → State
  | 0, s => s
  | n + 1, s =>
    match s.deadlocked core with
    | none => s
    | some (a, w) =>
      match s.path a with
      | none => s
      | some p => State.detectN core n (s.takeTrap a (Trap.of cDEADLOCK 0 (deadlockDetail w.why) p.mask))

/-- The detector of a core, evaluated whenever a wait begins or a holding changes (R338). -/
def State.detect (s : State) (core : Nat) : State := State.detectN core 36 s

/-! Waiting. -/

/-- The path of an agent waits (R194); a wait of the same kind goes on. -/
def State.startWait (s : State) (ag : Agent) (why : WaitWhy) : State :=
  match s.path ag with
  | none => s
  | some p =>
    if p.wait.map (·.why) = some why then s
    else { s.setPath ag { p with wait := some { why := why, since := s.clock, no := s.waitNo } } with
           waitNo := s.waitNo + 1 }

/-! Before the body. -/

/-- Results of the path that are due: those whose shadow has ended, or all for an instruction that closes shadows. -/
def Op.due (o : Op) (q : Pending) : Bool := o.closes || q.left == 0

/-- The due results of the issuing path written; none where one of them has no data yet. -/
def Iss.settled (i : Iss) (o : Op) : Option State :=
  if i.p.pend.any (fun q => o.due q && !q.ready) then none
  else if i.p.pend.any o.due then
    if i.ctl then some (i.s.setCtx i.id (settleCtx o.due i.C))
    else
      let (G, p) := settle o.due (i.G, i.p)
      some (i.s.setGroup i.id (G.setPathAt i.ag p))
  else some i.s

/-- A path reaches an operation that needs the others first (R127, R254): it parks, and the parked operations are
resolved. -/
def Iss.park (i : Iss) (at_ : ParkAt) : State :=
  let G := i.G.setPathAt i.ag { i.p with kind := .park, parkAt := at_, released := false, wait := none }
  (i.s.setGroup i.id G.resolve).follow i.id

/-- Whether the path must park before the instruction (R127, R254). -/
def Iss.mustPark (i : Iss) (o : Op) : Option ParkAt :=
  match i.ag with
  | .path _ ix =>
    if o.groupWide && !i.converged && !(i.p.kind == .park && i.p.released) then some .op
    else if o.window && (parentIx i.G.stack ix).isSome && !othersEnded i.G.stack ix then some .win
    else none
  | _ => none

/-- Lanes' beats of a mask (R233). -/
def beats (m : LaneMask) : Nat := ((List.range 3).filter (fun b => maskWord m b != 0)).length

/-- BSYNC, which keeps the phase of its arrival while it waits (R219). -/
def Op.isBsync (o : Op) : Bool := o.maj == 0x3E && o.f == 3
/-- WSEQ, which keeps its relative target while it waits (R201). -/
def Op.isWseq (o : Op) : Bool := o.maj == 0x3C && o.f == 6

/-- The accounts of one issue: window entries age, shadows shorten, counters advance, a released entry leaves PARK
(R32, R91, R228, R251, R255). -/
def Iss.tick (i : Iss) (o : Op) : State :=
  if i.ctl then
    let p := i.C.path
    i.s.setCtx i.id { i.C with
      path := { p with pend := p.pend.map (fun q => { q with left := q.left - 1 }), wait := none,
                       lastIssue := i.C.perf.instrs + 1, arrived := if o.isBsync then p.arrived else none,
                       target := if o.isWseq then p.target else none }
      startedAt := i.s.clock + 1
      perf := { i.C.perf with instrs := i.C.perf.instrs + 1, beats := i.C.perf.beats + 1 } }
  else
    let p := { i.p with
      pend := i.p.pend.map (fun q => { q with left := q.left - 1 }), wait := none, released := false,
      parkAt := .none, kind := if i.p.kind == .park then .defer else i.p.kind, lastIssue := i.G.issued + 1,
      arrived := if o.isBsync then i.p.arrived else none, target := if o.isWseq then i.p.target else none }
    let (G, p) := ageWin (i.G, p)
    let G := { G.setPathAt i.ag p with
      issued := G.issued + 1, starve := 0, raised := none, startedAt := i.s.clock + 1,
      perf := { G.perf with instrs := G.perf.instrs + 1,
                            beats := G.perf.beats + (if o.oneCycle then 1 else beats i.p.mask) } }
    let G := if i.p.kind == .park then { G with stack := select G.stack } else G
    i.s.setGroup i.id G

/-- A path that waits for nothing: a halted path executes its instruction again from the start (R194). -/
def Path.unwait (p : Path) : Path := { p with wait := none }

/-- The group stops through the window (R231): results written, windows flushed, waits dropped. -/
def Group.halted (g : Nat) (G : Group) : Group :=
  let G := G.quietAll.tidied
  { G with
    run := .stopped, stopReq := false
    resume := if G.tf then .handler g else ((G.issuers g).head?).getD (.path g 0)
    stack := G.stack.map Path.unwait
    handler := G.handler.map (fun h => { h with path := h.path.unwait }) }

/-- Single-step (R335): a group that has issued its one instruction stops with STEP, once its results are there. -/
def State.stepStop (s : State) (g : Nat) (ag : Agent) : State :=
  match s.group g with
  | some G =>
    if G.step && G.run == .running then
      if !G.allReady then s.setGroup g { G with stepDue := true }
      else
        let s := s.setGroup g { G with stepDue := false }
        let ag := if s.canIssue ag then ag else ((G.issuers g).head?).getD ag
        let pc := (s.path ag).map (·.pc)
        s.deliver1 g ag (Trap.of cSTEP 0 0 (((s.path ag).map (·.mask)).getD 0)) G.tf
          (match ag with | .path _ ix => (parentIx G.stack ix).isSome | _ => false) (pc.getD 0)
    else s
  | none => s

/-- Everything before the body: a stop through the window (R93); a late fault is taken at the boundary (R93), and a STEP
that was due (R335); due results are written, or waited for (R91, R92); the decode checks that depend on the state (R94);
parking (R127, R254); the accounts of an issue. The left side is a state in which the body does not run. -/
def Iss.begin (i : Iss) (o : Op) (legal : Iss → Bool) : Except State Iss :=
  if !i.ctl && i.G.stopReq && i.G.canHalt then .error { i.s.setGroup i.id (i.G.halted i.id) with cur := none }
  else
  match i.p.late with
  | f :: rest =>
    let s := i.s.setPath i.ag { i.p with late := rest }
    let s' := s.takeTrap i.ag { Trap.of f.cause f.sub f.detail f.lanes with late := true, faultPc := f.pc }
    .error (if (s'.path i.ag).any (fun p => p.wait.any (fun w => w.why == .result)) then i.s.startWait i.ag .result
            else s')
  | [] =>
    if !i.ctl && i.G.stepDue then
      .error (if i.G.allReady then i.s.stepStop i.id i.ag else i.s.startWait i.ag .result)
    else
    match i.settled o with
    | none => .error (i.s.startWait i.ag .result)
    | some s1 =>
      match s1.view i.ag with
      | none => .error s1
      | some i1 =>
        let streamOk := if i1.ctl then o.inControl else o.inGroup
        if i1.p.mask ≠ i.p.mask ∨ i1.p.mask = 0 then
          .error (if i1.ctl then s1 else (s1.setGroup i1.id (if i1.p.mask ≠ i.p.mask then i1.G.remasked i.p.mask i1.p.mask else i1.G.tidied)).follow i1.id)
        else if !(streamOk && (i1.ctl || !o.once || o.unguarded) && (o.asel != 2 || (!i1.ctl && o.dqRow)) && legal i1) then
          .error (s1.takeTrap i1.ag (Trap.of cILLEGAL 0 0 (i1.aim o).lanes))
        else
          match i1.mustPark o with
          | some a => .error (i1.park a)
          | none =>
            let s2 := i1.tick o
            match s2.view i1.ag with
            | none => .error s2
            | some i2 => .ok { i2.aim o with w0 := i1.p.wait }

/-! After the body. -/

/-- Results applied to a path of a group: what they overwrite in open shadows is discarded there (R91), then they are
written, or held with their shadow; no register written, no shadow. -/
def landGroup (la : Nat) (req : Option Nat) (ws : List RegWrite) (fl : Nat) (st : Group × Path) : Group × Path :=
  let (G, p) := st
  let p := { p with pend := p.pend.map (fun q => q.cancel ws) }
  if (la = 0 || ws.isEmpty) && req.isNone then
    let st := putWrites 0 (G, p) ws
    st.1.raise st.2 1 fl
  else (G, { p with pend := p.pend ++ [{ la := la, left := la, ready := req.isNone, writes := ws, req := req,
                                         flags := fl % 32, gained := 0 }] })

/-- The same for a context. -/
def landCtx (la : Nat) (req : Option Nat) (ws : List RegWrite) (fl : Nat) (C : Ctx) : Ctx :=
  let p := { C.path with pend := C.path.pend.map (fun q => q.cancel ws) }
  if (la = 0 || ws.isEmpty) && req.isNone then (ws.foldl Ctx.write { C with path := p }).raise fl
  else { C with path := { p with pend := p.pend ++ [{ la := la, left := la, ready := req.isNone, writes := ws,
                                                      req := req, flags := fl % 32, gained := 0 }] } }

/-- Whether a taken instruction of row 0x38 restores what hints had set for the path (R243): BRA, BRC, BRX, CALL, CALLI,
RET. -/
def Op.branches (o : Op) : Bool := o.among [(0x38, [0, 1, 2, 5, 6, 7])]

/-- A load, which takes LASTUSE with it (R243). -/
def Op.loads (o : Op) : Bool := o.among [(0x28, [0, 2, 4])]

/-- What hints have set for a path after an instruction (R243): the next branch takes BRTAKEN and BRNOT with it, and a taken
branch restores the prefetch depth and the allocation. -/
def Steer.after (t : Steer) (branch taken : Bool) : Steer :=
  if branch && taken then { t with depth := 3, branch := Option.none, streamIn := false, streamOut := false }
  else if branch then { t with branch := Option.none } else t

/-- The path of a group after an instruction: at its next pc. -/
def Path.goto (p : Path) (o : Op) (to_ : Option Word64) (next : Word64) : Path :=
  let t := p.steer.after o.branches to_.isSome
  { p with pc := to_.getD next, steer := { t with lastUse := t.lastUse && !o.loads } }

/-- A group and the issuing path after an instruction: put back, and the stack fixed again where its MASK has changed
(R121, R124). -/
def Iss.putBack (i : Iss) (s : State) (G : Group) (p : Path) : State :=
  let G := G.setPathAt i.ag p
  (if p.mask = i.p.mask then s.setGroup i.id G
   else (s.setGroup i.id (G.remasked i.p.mask p.mask)).follow i.id).stepStop i.id i.ag

/-- The effect of an instruction reaches the state. -/
def Iss.finish (i : Iss) (o : Op) (d : Done) : State :=
  if d.moved then if i.ctl then d.s else (d.s.stepStop i.id i.ag)
  else
    let next := i.p.pc + BitVec.ofNat 64 o.bytes
    if i.ctl then
      match d.s.ctx i.id with
      | none => d.s
      | some C =>
        let C := landCtx o.lookahead d.req d.ws d.flags C
        d.s.setCtx i.id { C with path := C.path.goto o d.pc next }
    else
      match d.s.group i.id, d.s.path i.ag with
      | some G, some p =>
        let st := landGroup o.lookahead d.req d.ws d.flags (G, p)
        i.putBack d.s st.1 (st.2.goto o d.pc next)
      | _, _ => d.s

/-- What becomes of a body's answer: its effect, its trap, or its wait. -/
def Iss.close (i0 i : Iss) (o : Op) : Except Stop Done → State
  | .ok d => i.finish o d
  | .error (.trap t) => i0.s.takeTrap i0.ag t
  | .error (.fault t note) => (note i0.s).takeTrap i0.ag t
  | .error (.wait why note) => ((note i0.s).startWait i0.ag why).detect i0.core

/-- The state before the accounts of the issue: what a trap or a wait leaves. -/
def Iss.before (i : Iss) (o : Op) : Iss :=
  match i.settled o with
  | some s => (s.view i.ag).getD i
  | none => i

/-- ONE INSTRUCTION of the agent that issues: refused where no agent does, else always a next state. `legal` holds
the decode checks of R94 that its page and its stream add. -/
def runInstr (o : Op) (legal : Iss → Bool) (body : Body) (s : State) : Out1 :=
  match s.issuing with
  | none => .refused .noAgent
  | some i =>
    match i.begin o legal with
    | .error s' => .next s'
    | .ok i2 => .next ((i.before o).close i2 o (body i2))

end Sys2Proof.Machine
end

