-- ==== Sys2Proof/Machine/Operands.lean ====
section
/-! DEFINITION. The operand forms: register fields, source selectors, immediates and literals (R15, R18, R19, R81 to
R88), and the register writes of results. -/

namespace Sys2Proof

/-! A 32-bit form read as a long form (R82): its sources are registers, its selectors and type the row's defaults. -/

/-- The long form with the same effect as a 32-bit form: type code, SC code, BSEL code. -/
def Short.wide (o : Short) (ty : Nat) (sc : Nat) (bsel : Nat) : Long :=
  { d := o.d, a := o.a, b := o.b, imm := 0, asel := 0, bsel := BitVec.ofNat 2 bsel, ty := BitVec.ofNat 4 ty,
    sc := BitVec.ofNat 3 sc, qn := 0, qg := 7, la := 0, lit := none }
/-- Bits h:l of word 1 that lie in IMM13 (bits 31:19), by their place in word 1. -/
def Long.bits (w : Long) (h l : Nat) : Nat := bitsOf (w.imm.toNat * 2 ^ 19) h l
/-- C of the AR3 overlay (R88). -/
def Long.c (w : Long) : Nat := w.bits 25 19
/-- SUB of the AR3 overlay (R88). -/
def Long.sub (w : Long) : Nat := w.bits 31 26
/-- IMM13 as an integer. -/
def Long.immI (w : Long) : Int := sext 13 w.imm.toNat
/-- OFF10 of the RM overlay as an integer (R88). -/
def Long.off10 (w : Long) : Int := sext 10 (w.bits 28 19)
/-- ORD of the RM, AM and CM overlays. -/
def Long.ord (w : Long) : Nat := w.bits 31 30
/-- The literal word; 0 where the form has none. -/
def Long.litNat (w : Long) : Nat := (w.lit.map (·.toNat)).getD 0
/-- SAT of the AR overlay for integer types (R88). -/
def Long.sat (w : Long) : Bool := w.sc.getLsbD 0
/-- An immediate of an integer type (R85): IMM13 sign-extended and truncated. -/
def Long.immVal (w : Long) (wd : Nat) : Nat := wrap wd w.immI
/-- A literal of an integer type (R85): sign-extended for s64, zero-extended for n64 and b64, and for b128, of which the
spec says nothing (DESIGN CHOICE, log 53). -/
def Long.litVal (w : Long) (t : Machine.ITy) : Nat :=
  if t.w = 64 ∧ t.signed then wrap 64 (sext 32 w.litNat) else w.litNat % 2 ^ t.w

end Sys2Proof

namespace Sys2Proof.Machine

/-! Register fields (R15, R18, R22, R81). -/

/-- A v register, pair or quad of width `wd` named by a field is inside its limits. -/
def Iss.vOk (i : Iss) (wd n : Nat) : Bool :=
  if wd = 64 then n % 2 == 0 && n + 1 < i.G.len
  else if wd = 128 then n % 4 == 0 && n + 3 < i.G.len
  else n < i.G.len

/-- A k register, pair or quad named by a field. -/
def kOk (wd n : Nat) : Bool :=
  if wd = 64 then n % 2 == 0 else if wd = 128 then n % 64 % 4 == 0 && n % 64 ≤ 44 else true

/-- A c register, or an even pair for 128 bits. -/
def cOk (wd n : Nat) : Bool := if wd = 128 then n % 2 == 0 else true

/-! Sources, and poison (R339). -/

/-- A register that an instruction reads. -/
inductive SrcReg where
  | v (n : Nat)
  | k (n : Nat)
  | q (n : Nat)
  /-- the tag of the quad of a v or k register -/
  | vtag (n : Nat)
  | ktag (n : Nat)
  deriving DecidableEq, Repr

/-- The registers of a field of width `wd`; a quad's tag with a quad. -/
def srcRegs (isK : Bool) (wd n : Nat) : List SrcReg :=
  let n := if isK then n % 64 else n
  let cnt := if wd = 64 then 2 else if wd = 128 then 4 else 1
  (List.range cnt).map (fun j => if isK then .k (n + j) else .v (n + j)) ++
    (if wd = 128 then [if isK then .ktag n else .vtag n] else [])

/-- The lanes of `act` that read a poisoned word of a register. -/
def Iss.poisoned (i : Iss) (act : LaneMask) (r : SrcReg) : LaneMask :=
  match r with
  | .v n => act &&& maskOfLanes (i.G.poison.filterMap (fun e => match e with
      | .v row l => if row == i.G.rowNo n then some l else none
      | _ => none))
  | .k n => if i.G.poison.contains (.k n) && !i.p.win.any (·.reg == n) then act else 0
  | .vtag n => act &&& maskOfLanes (i.G.poison.filterMap (fun e => match e with
      | .vtag quad l => if quad == i.G.rowNo n / 4 then some l else none
      | _ => none))
  | .ktag n => if i.G.poison.contains (.ktag (n / 4)) && !i.p.win.any (·.reg == winTag (n / 4)) then act else 0
  | .q n => act &&& maskOfLanes (i.G.poison.filterMap (fun e => match e with
      | .q n' l => if n' == n then some l else none
      | _ => none))

/-- The first read of a poisoned word by an active lane raises ECC with DETAIL 1 (R339). -/
def Iss.ecc (i : Iss) (act : LaneMask) (rs : List SrcReg) : Except Stop Unit :=
  if i.G.poison.isEmpty then .ok ()
  else
    let m := rs.foldl (fun m r => m ||| i.poisoned act r) 0
    if m = 0 then .ok () else .error (.trap (Trap.of cECC 0 1 m))

/-! Values. -/

/-- A word of the v window. -/
def Iss.vRow (i : Iss) (n : Nat) : Row := i.G.row (i.G.rowNo n)
/-- A k register as the path reads it. -/
def Iss.kReg (i : Iss) (n : Nat) : Word := i.G.kOf i.p (n % 64)
/-- A c register. -/
def Iss.cReg (i : Iss) (n : Nat) : Word64 := i.C.reg (n % 64)

/-- Several words as one number, least significant first. -/
def catWords : List Word → Nat
  | [] => 0
  | x :: xs => x.toNat + 2 ^ 32 * catWords xs

/-- The values of a v pair. -/
def Iss.vVals2 (i : Iss) (n : Nat) : List Nat :=
  ((i.vRow n).zip (i.vRow (n + 1))).map (fun (a, b) => a.toNat + 2 ^ 32 * b.toNat)

/-- The values of a v register, pair or quad of width `wd`, lane 0 first. -/
def Iss.vVals (i : Iss) (wd n : Nat) : List Nat :=
  if wd = 64 then i.vVals2 n
  else if wd = 128 then
    ((i.vVals2 n).zip (i.vVals2 (n + 2))).map (fun (a, b) => a + 2 ^ 64 * b)
  else (i.vRow n).map (fun x => x.toNat % 2 ^ min wd 32)

/-- The value of a k register or pair of width `wd` (R56, R81). -/
def Iss.kVal (i : Iss) (wd n : Nat) : Nat :=
  if wd = 64 then (i.kReg n).toNat + 2 ^ 32 * (i.kReg (n + 1)).toNat
  else if wd = 128 then catWords ((List.range 4).map (fun j => i.kReg (n % 64 + j)))
  else (i.kReg n).toNat % 2 ^ min wd 32

/-- The A source of a lane integer instruction is a register inside its limits (R85, R103). -/
def Iss.aOk (i : Iss) (w : Long) (wd : Nat) : Bool :=
  if w.asel = 0 then i.vOk wd w.a.toNat else if w.asel = 1 then kOk wd w.a.toNat else false
/-- The B source of a lane instruction (R85). -/
def Iss.bOk (i : Iss) (w : Long) (wd : Nat) : Bool :=
  if w.bsel = 0 then i.vOk wd w.b.toNat else if w.bsel = 1 then kOk wd w.b.toNat else true

/-- The A source, one value a lane. -/
def Iss.aVals (i : Iss) (w : Long) (wd : Nat) : List Nat :=
  if w.asel = 1 then splat (i.kVal wd w.a.toNat) else i.vVals wd w.a.toNat
/-- The B source of an integer type, one value a lane. -/
def Iss.bVals (i : Iss) (w : Long) (t : ITy) : List Nat :=
  if w.bsel = 0 then i.vVals t.w w.b.toNat
  else if w.bsel = 1 then splat (i.kVal t.w w.b.toNat)
  else if w.bsel = 2 then splat (w.immVal t.w)
  else splat (w.litVal t)

end Sys2Proof.Machine

namespace Sys2Proof

/-- The registers that A reads. -/
def Long.aRegs (w : Long) (wd : Nat) : List Machine.SrcReg := Machine.srcRegs (w.asel == 1) wd w.a.toNat
/-- The registers that B reads. -/
def Long.bRegs (w : Long) (wd : Nat) : List Machine.SrcReg :=
  if w.bsel = 0 then Machine.srcRegs false wd w.b.toNat else if w.bsel = 1 then Machine.srcRegs true wd w.b.toNat else []
/-- The registers that C reads. -/
def Long.cRegs (w : Long) (wd : Nat) : List Machine.SrcReg := Machine.srcRegs false wd w.c

end Sys2Proof

namespace Sys2Proof.Machine

/-- The guard reads its predicate. -/
def Op.guardRegs (o : Op) : List SrcReg := if o.qg = 7 then [] else [.q o.qg]

/-! Results. -/

/-- A value of 96 lanes as a row. -/
def toRow (xs : List Nat) : Row := xs.map (BitVec.ofNat 32)

/-- The writes of a lane result of width `wd` to vN, in the lanes of a mask (R18, R19, R56). -/
def Iss.vResult (i : Iss) (wd n : Nat) (m : LaneMask) (xs : List Nat) : List RegWrite :=
  let r := i.G.rowNo n
  if wd = 64 then [.v r m (toRow xs), .v (r + 1) m (toRow (xs.map (· / 2 ^ 32)))]
  else if wd = 128 then (List.range 4).map (fun j => .v (r + j) m (toRow (xs.map (· / 2 ^ (32 * j)))))
  else [.v r m (toRow xs)]

/-- The writes of a uniform result of width `wd` to kN (R21, R56). -/
def kResult (wd n x : Nat) : List RegWrite :=
  let n := n % 64
  if wd = 64 then [.k n (BitVec.ofNat 32 x), .k (n + 1) (BitVec.ofNat 32 (x / 2 ^ 32))]
  else if wd = 128 then (List.range 4).map (fun j => .k (n + j) (BitVec.ofNat 32 (x / 2 ^ (32 * j))))
  else [.k n (BitVec.ofNat 32 x)]

/-- The writes of a 128-bit value to a uniform quad, with its tag (R22). -/
def kpResult (n x : Nat) (tag : Bool) : List RegWrite :=
  let n := n % 64
  (List.range 4).map (fun j => .k (n + j) (BitVec.ofNat 32 (x / 2 ^ (32 * j)))) ++ [.ktag (n / 4) tag]

/-- The writes of 128-bit values to a lane quad, with the lanes' tags (R19). -/
def Iss.vpResult (i : Iss) (n : Nat) (m : LaneMask) (xs : List Nat) (tags : LaneMask) : List RegWrite :=
  let r := i.G.rowNo n
  (List.range 4).map (fun j => .v (r + j) m (toRow (xs.map (· / 2 ^ (32 * j))))) ++ [.vtag (r / 4) m tags]

/-- The writes of a 128-bit value to a c pair, with its tag (R34). A write to cp31 writes only c62. -/
def cpResult (n x : Nat) (tag : Bool) : List RegWrite :=
  let n := n % 64
  [.c n (BitVec.ofNat 64 x), .c (n + 1) (BitVec.ofNat 64 (x / 2 ^ 64)), .ctag (n / 2) tag]

/-- A result of w bits in a c register: bits 63:w copy bit w-1 for s types and are zero otherwise (R115). -/
def cImage (t : ITy) (x : Nat) : Nat := if t.signed then wrap 64 (sext t.w x) else x % 2 ^ t.w

/-- A uniform quad as a capability register. -/
def Iss.kpVal (i : Iss) (n : Nat) : CapV :=
  let n := n % 64
  ⟨BitVec.ofNat 128 (catWords ((List.range 4).map (fun j => i.kReg (n + j)))), i.G.kpTag i.p (n / 4)⟩
/-- A lane's quad as a capability register. -/
def Iss.vpVal (i : Iss) (n lane : Nat) : CapV :=
  let r := i.G.rowNo n
  ⟨BitVec.ofNat 128 (catWords ((List.range 4).map (fun j => ((i.G.row (r + j))[lane]?).getD 0))),
   (i.G.quadTags (r / 4)).getLsbD lane⟩
/-- A c pair as a capability register: cp31 reads untagged, bits 127:64 zero (R34). -/
def Iss.cpVal (i : Iss) (n : Nat) : CapV :=
  let n := n % 64
  ⟨BitVec.ofNat 128 ((i.cReg n).toNat + 2 ^ 64 * (i.cReg (n + 1)).toNat), i.C.tag (n / 2)⟩

/-! Operands that act once: uniform instructions and rows 0x3C to 0x3F (R115, R194). -/

/-- A is a register of the stream: k with ASEL 0b01, c with ASEL 0b00. -/
def Iss.aOnce (i : Iss) (w : Long) (wd : Nat) : Bool :=
  if i.ctl then w.asel == 0 && cOk wd w.a.toNat else w.asel == 1 && kOk wd w.a.toNat
/-- B is a register of the stream, an immediate or a literal. -/
def Iss.bOnce (i : Iss) (w : Long) (wd : Nat) : Bool :=
  if i.ctl then w.bsel != 1 && (w.bsel != 0 || cOk wd w.b.toNat)
  else w.bsel != 0 && (w.bsel != 1 || kOk wd w.b.toNat)
/-- B is a register of the stream. -/
def Iss.bOnceReg (i : Iss) (w : Long) (wd : Nat) : Bool := w.bsel == (if i.ctl then 0 else 1) && i.bOnce w wd
/-- A field names a destination of the stream. -/
def Iss.dOnce (i : Iss) (wd n : Nat) : Bool := if i.ctl then cOk wd n else kOk wd n

/-- The value of a register of the stream at width `wd`. -/
def Iss.regOnce (i : Iss) (wd n : Nat) : Nat :=
  if i.ctl then (i.cReg n).toNat % 2 ^ min wd 64 else i.kVal wd n
/-- The A operand. -/
def Iss.aVal1 (i : Iss) (w : Long) (wd : Nat) : Nat := i.regOnce wd w.a.toNat
/-- The B operand of an integer type. -/
def Iss.bVal1 (i : Iss) (w : Long) (t : ITy) : Nat :=
  if w.bsel = 2 then w.immVal t.w else if w.bsel = 3 then w.litVal t else i.regOnce t.w w.b.toNat
/-- The registers read, for poison. -/
def Iss.once (i : Iss) (wd n : Nat) : List SrcReg := if i.ctl then [] else srcRegs true wd n
/-- The result of a register of the stream. -/
def Iss.dResult (i : Iss) (t : ITy) (n x : Nat) : List RegWrite :=
  if i.ctl then [.c (n % 64) (BitVec.ofNat 64 (cImage t x))] else kResult t.w n (t.image x)
/-- A capability operand of the stream: a kp quad or a cp pair. -/
def Iss.capOnce (i : Iss) (n : Nat) : CapV := if i.ctl then i.cpVal n else i.kpVal n
/-- A capability result of the stream. -/
def Iss.capResult (i : Iss) (n : Nat) (c : CapV) : List RegWrite :=
  if i.ctl then cpResult n c.bits.toNat c.tag else kpResult n c.bits.toNat c.tag

/-- The integer type of TY (R89). -/
def tyOf (w : Long) : ITy := (ityOf w.ty.toNat).getD ⟨32, false, true⟩
/-- TY is an integer type that a page accepts (R89, R103). -/
def tyIs (w : Long) (p : ITy → Bool) : Bool := (ityOf w.ty.toNat).any p
/-- s8 to s64 and n8 to n64. -/
def tySN (t : ITy) : Bool := !t.isBits
/-- s, n and b types to 64 bits. -/
def tyAll (t : ITy) : Bool := t.w ≤ 64
/-- s32, n32, s64, n64. -/
def tyWide (t : ITy) : Bool := !t.isBits && 32 ≤ t.w

/-- n32 (R56). -/
def tN32 : ITy := ⟨32, false, false⟩
/-- s32. -/
def tS32 : ITy := ⟨32, true, false⟩
/-- n64. -/
def tN64 : ITy := ⟨64, false, false⟩

end Sys2Proof.Machine
end

