-- ==== Sys2Proof/Machine/Flags.lean ====
section
/-! DEFINITION. Floating-point flags and the FPE trap (R26, R68 to R70), rounding modes (R64). -/

namespace Sys2Proof.Machine

/-- The rounding mode of a code (R64): 7 reads k57.RM, or RM of the control float word (R133). -/
def Iss.rmode (i : Iss) (code : Nat) : Nat :=
  if code = 7 then (if i.ctl then bitsOf i.C.cfw.toNat 10 8 else (i.kReg 57).toNat % 4) else code

/-- A rounding code that a non-conversion instruction accepts (R64). -/
def rndOk (code : Nat) : Bool := code < 4 || code == 7
/-- A rounding code that a conversion accepts: also rna (R64). -/
def rndCvtOk (code : Nat) : Bool := code ≤ 4 || code == 7

/-- The flags that the lanes of a mask raise together (R69). -/
def flagsOf (m : LaneMask) (fl : List Nat) : Nat :=
  ((laneBits m).zip fl).foldl (fun a (b, f) => if b then a ||| f else a) 0

/-- The FPE enables in the places of k56's flags (R26): k57 bits 12:8. -/
def Iss.enables (i : Iss) : Nat := if i.ctl then 0 else bitsOf (i.kReg 57).toNat 12 8

/-- The lanes that raise an enabled flag. -/
def faultLanes (en : Nat) (m : LaneMask) (fl : List Nat) : LaneMask :=
  m &&& maskOf (fl.map (fun f => f &&& en != 0))

/-- The flags of an instruction's lanes: to be ORed into k56, or FPE where an enabled one is raised, with no result
written (R70). -/
def Iss.fpe (i : Iss) (m : LaneMask) (fl : List Nat) : Except Stop Nat :=
  let all := flagsOf m fl
  if all &&& i.enables = 0 then .ok all
  else .error (.trap { Trap.of cFPE 0 (all &&& i.enables) (faultLanes i.enables m fl) with flags := all })

end Sys2Proof.Machine
end

