-- ==== Sys2Proof/Machine/MemOps.lean ====
section
/-! DEFINITION. Storage, caches and the checks of an access (R163 to R174, R268 to R276, R290 to R293, R372 to R377,
R409, R446, R453). -/

namespace Sys2Proof.Machine

/-! The flat address map (R269, R271). -/

/-- What lies at an address. -/
inductive Where where
  | hbm
  | chip (tower : Nat)
  | scratch (core : Nat)
  | cstore (core : Nat)
  | sys
  | host
  | peer (dev : Nat)
  | none
  deriving DecidableEq, Repr

def hbmTop : Nat := 0xC000000000
def chipBase : Nat := 0x100000000000
def coreBase : Nat := 0x200000000000
def sysBase : Nat := 0x300000000000
def hostBase : Nat := 0x40000000000000
def peerBase : Nat := 0x80000000000000
/-- The first byte of a core's window (R269). -/
def windowOf (core : Nat) : Nat := coreBase + core * 0x100000
/-- The first byte of a team slot's control-store region (R196, R364). -/
def cstoreOf (core tslot : Nat) : Nat := windowOf core + 0x80000 + tslot * 0x4000

def whereIs (a : Nat) : Where :=
  if a < hbmTop then .hbm
  else if chipBase ≤ a ∧ a < chipBase + 0x8000000 then .chip ((a - chipBase) / 0x2000000)
  else if coreBase ≤ a ∧ a < coreBase + 0x10000000 then
    let core := (a - coreBase) / 0x100000
    let o := (a - coreBase) % 0x100000
    if o < 0x60000 then .scratch core else if 0x80000 ≤ o ∧ o < 0x90000 then .cstore core else .none
  else if sysBase ≤ a ∧ a < sysBase + 0x100000000000 then .sys
  else if hostBase ≤ a ∧ a < peerBase then .host
  else if peerBase ≤ a ∧ a < spaceTop then .peer ((a - peerBase) / 2 ^ 41)
  else .none

/-- The tower in which an address is performed (R270, R453); 4 where there is none. -/
def towerOf (a : Nat) : Nat :=
  match whereIs a with
  | .hbm => a / 0x3000000000
  | .chip t => t
  | .scratch c => c / 64
  | .cstore c => c / 64
  | _ => 4

/-! Homes. -/

/-- The line number of an address (R268). -/
def lineOf (a : Nat) : Nat := a / 128

/-- A byte of storage. A byte that a zeroised key left unreadable is a free value (R414). -/
def Mem.home (m : Mem) (a : Nat) : Byte :=
  match m.dark.find? (fun (lo, hi, _) => lo ≤ a && a < hi) with
  | some (_, _, n) => BitVec.ofNat 8 (Config.free (2 ^ 64 * (n + 1) + a))
  | none => m.bytes.read a

/-- A granule's tag in storage; clear where the granule is poisoned (R446). -/
def Mem.homeTag (m : Mem) (gr : Nat) : Bool :=
  Store.read m.tags gr != 0 && !m.poison.any (fun (b, n) => b < 16 * gr + 16 && 16 * gr < b + n) &&
    !m.dark.any (fun (lo, hi, _) => lo < 16 * gr + 16 && 16 * gr < hi)

/-- A range cut out of a list of ranges. -/
def cutRange (lo hi : Nat) (l : List (Nat × Nat × Nat)) : List (Nat × Nat × Nat) :=
  l.flatMap (fun (a, b, n) =>
    if b ≤ lo ∨ hi ≤ a then [(a, b, n)]
    else (if a < lo then [(a, lo, n)] else []) ++ (if hi < b then [(hi, b, n)] else []))

/-- The granules that [a, a + n) touches. -/
def granules (a n : Nat) : List Nat := if n = 0 then [] else (List.range ((a + n - 1) / 16 - a / 16 + 1)).map (· + a / 16)
/-- The lines that [a, a + n) touches. -/
def linesOf (a n : Nat) : List Nat := if n = 0 then [] else (List.range ((a + n - 1) / 128 - a / 128 + 1)).map (· + a / 128)

/-- Bytes written at their home: tags of the touched granules clear (R52), clean L2 copies go (R270), units wholly
covered lose their poison (R446). -/
def Mem.homeWrite (m : Mem) (a : Nat) (bs : List Byte) : Mem :=
  let n := bs.length
  { m with
    bytes := m.bytes.writeN a bs
    tags := Store.clear m.tags (a / 16) ((a + n + 15) / 16)
    l2 := if a < hbmTop then Store.clear m.l2 (lineOf a) (lineOf (a + n + 127)) else m.l2
    poison := m.poison.filter (fun (b, k) => !(a ≤ b && b + k ≤ a + n))
    dark := if m.dark.isEmpty then [] else cutRange a (a + n) m.dark }

/-- A granule written whole with its tag (R52). -/
def Mem.homeWriteTagged (m : Mem) (a : Nat) (bs : List Byte) (tag : Bool) : Mem :=
  let m := m.homeWrite a bs
  if tag then { m with tags := Store.write m.tags (a / 16) 1 } else m

/-- A range of storage zeroed, tags and poison with it. -/
def Mem.zeroRange (m : Mem) (lo hi : Nat) : Mem :=
  { m with
    bytes := Tbl.keep m.bytes (fun k => k < lo || hi ≤ k)
    tags := Store.clear m.tags (lo / 16) ((hi + 15) / 16)
    poison := m.poison.filter (fun (b, k) => !(lo ≤ b && b + k ≤ hi))
    l2 := if lo < hbmTop then Store.clear m.l2 (lineOf lo) (lineOf (hi + 127)) else m.l2
    dark := if m.dark.isEmpty then [] else cutRange lo hi m.dark }

/-! L1 lines (R163, R268): keyed by core, line and colour. -/

def l1Key (core line colour : Nat) : Nat := (core * 2 ^ 33 + line) * 4096 + colour
def l1Core (k : Nat) : Nat := k / 4096 / 2 ^ 33
def l1Line (k : Nat) : Nat := k / 4096 % 2 ^ 33
def l1Colour (k : Nat) : Nat := k % 4096

/-- A line as filled from its home. -/
def Mem.fillLine (m : Mem) (line : Nat) : Line :=
  { data := (List.range 128).map (fun o => m.home (128 * line + o))
    tags := BitVec.ofNat 8 ((List.range 8).map (fun j => if m.homeTag (8 * line + j) then 2 ^ j else 0)).sum
    dirty := 0
    first := false
    poison := BitVec.ofNat 8 ((List.range 8).map (fun j =>
      if m.poison.any (fun (b, n) => b < 128 * line + 16 * j + 16 && 128 * line + 16 * j < b + n) then 2 ^ j
      else 0)).sum }

/-- The line of an address in a core's L1, filled where it is absent. -/
def Mem.line (m : Mem) (core line colour : Nat) : Line :=
  (Tbl.get m.l1 (l1Key core line colour)).getD (m.fillLine line)
def Mem.hits (m : Mem) (core line colour : Nat) : Bool := (Tbl.get m.l1 (l1Key core line colour)).isSome
def Mem.setLine (m : Mem) (core line colour : Nat) (l : Line) : Mem :=
  { m with l1 := Tbl.set m.l1 (l1Key core line colour) l }

/-- A line of HBM brought into a core's L1. -/
def Mem.touch (m : Mem) (core colour line : Nat) : Mem :=
  if m.hits core line colour then m else m.setLine core line colour (m.fillLine line)

/-- A line's dirty bytes written back to the home: a granule written whole keeps its tag, poison goes with the data
(R52, R54, R446). -/
def Mem.backLine (m : Mem) (line : Nat) (l : Line) : Mem :=
  if l.dirty = 0 then m
  else
    let m := (List.range 128).foldl (fun (m : Mem) o =>
      if l.dirty.getLsbD o then m.homeWrite (128 * line + o) [(l.data[o]?).getD 0] else m) m
    let full (lo n : Nat) : Bool := (List.range n).all (fun j => l.dirty.getLsbD (lo + j))
    let gr := List.range 8
    { m with
      tags := gr.foldl (fun t j => if l.tags.getLsbD j && full (16 * j) 16 then Store.write t (8 * line + j) 1 else t) m.tags
      poison := (m.poison.filter (fun (b, n) => !(128 * line ≤ b && b + n ≤ 128 * line + 128 && full (b - 128 * line) n))) ++
        (gr.filter (fun j => l.poison.getLsbD j && (List.range 16).any (fun o => l.dirty.getLsbD (16 * j + o)))).map
          (fun j => (128 * line + 16 * j, 16)) }

/-- What lower cores still hold dirty of bytes that a core writes back is not written back after them: two cores hold a
byte dirty only where no order relates their writes, and the write of the higher core remains (R8, R294, R295). -/
def Mem.outrank (m : Mem) (core line : Nat) (dirty : BitVec 128) : Mem :=
  { m with l1 := m.l1.map (fun e =>
      if l1Line e.1 == line && l1Core e.1 < core then (e.1, { e.2 with dirty := e.2.dirty &&& ~~~dirty }) else e) }

/-- The same for the bytes [a, a + n) that an engine of a core writes. -/
def Mem.outrankRange (m : Mem) (core a n : Nat) : Mem :=
  if m.l1.isEmpty then m
  else (linesOf a n).foldl (fun m l => m.outrank core l (BitVec.ofNat 128
    (((List.range 128).filter (fun o => decide (a ≤ 128 * l + o) && decide (128 * l + o < a + n))).map (2 ^ ·)).sum)) m

/-- The lines of a core that satisfy a test written back; `keep`: the copies stay, clean. -/
def Mem.backWhere (m : Mem) (p : Nat → Bool) (keep : Bool) : Mem :=
  let sel := m.l1.filter (fun e => p e.1)
  let m := sel.foldl (fun m e => (m.backLine (l1Line e.1) e.2).outrank (l1Core e.1) (l1Line e.1) e.2.dirty) m
  { m with l1 := if keep then m.l1.map (fun e => if p e.1 then (e.1, { e.2 with dirty := 0 }) else e)
                 else m.l1.filter (fun e => !p e.1) }

/-- Every dirty line of a colour in a core's L1 written back (R291 step 2, R292). -/
def Mem.drain (m : Mem) (core colour : Nat) : Mem :=
  m.backWhere (fun k => l1Core k == core && l1Colour k == colour) true
/-- A line whose clean bytes are read again from the home: data, and the tags and poison of granules without a dirty
byte. -/
def Mem.refresh (m : Mem) (line : Nat) (l : Line) : Line :=
  let new := m.fillLine line
  let mine (j : Nat) : Bool := (l.dirty.extractLsb' (16 * j) 16) != 0
  let mix (a b : BitVec 8) : BitVec 8 :=
    BitVec.ofNat 8 ((List.range 8).map (fun j => if (if mine j then a else b).getLsbD j then 2 ^ j else 0)).sum
  { l with
    data := (l.data.zip new.data).zipIdx.map (fun (x, o) => if l.dirty.getLsbD o then x.1 else x.2)
    tags := mix l.tags new.tags, poison := mix l.poison new.poison }

/-- The clean lines of a colour in a core's L1 dropped (R291 step 5). A line with dirty bytes keeps those; its other
bytes are read again, so that none of them is older than the drop. -/
def Mem.dropClean (m : Mem) (core colour : Nat) : Mem :=
  let mine (k : Nat) : Bool := l1Core k == core && l1Colour k == colour
  { m with l1 := (m.l1.filter (fun e => !(mine e.1 && e.2.dirty == 0))).map (fun e =>
      if mine e.1 then (e.1, m.refresh (l1Line e.1) e.2) else e) }
/-- A line of a core's L1 written back and dropped, in every colour (R175). -/
def Mem.release (m : Mem) (core line : Nat) : Mem :=
  m.backWhere (fun k => l1Core k == core && l1Line k == line) false

/-! The capacity of an L1 (R2): 256 KiB, 2,048 lines. -/

def l1Lines : Nat := 2048

/-- The lines that a core's L1 may give up to make room: none of `keep`; those to be replaced first, where there are
any (R243). -/
def Mem.spare (m : Mem) (core : Nat) (keep : List Nat) : List Nat :=
  let l := m.l1.filter (fun e => l1Core e.1 == core && !keep.contains (l1Line e.1))
  let first := l.filter (fun e => e.2.first)
  (if first.isEmpty then l else first).map (·.1)

/-- Lines given up until `n` are. The spec does not say which line is replaced: a free value picks (log 5). -/
def State.giveUp (core : Nat) (keep : List Nat) : Nat → State → State
  | 0, s => s
  | n + 1, s =>
    let l := s.mem.spare core keep
    if l.isEmpty then s
    else
      let (x, s) := s.draw
      let key := (l[x % l.length]?).getD 0
      State.giveUp core keep n { s with mem := s.mem.backWhere (· == key) false }

/-- Room for lines that a core's L1 is about to hold. -/
def State.room (s : State) (core colour : Nat) (lines : List Nat) : State :=
  let new := (lines.filter (fun l => !s.mem.hits core l colour)).length
  let held := (s.mem.l1.filter (fun e => l1Core e.1 == core)).length
  if new = 0 then s else State.giveUp core lines (held + new - l1Lines) s

/-- Lines marked to be replaced first (R243). -/
def Mem.markFirst (m : Mem) (core colour : Nat) (lines : List Nat) : Mem :=
  lines.foldl (fun m l =>
    if m.hits core l colour then m.setLine core l colour { m.line core l colour with first := true } else m) m

/-! Instruction caches (R242): of a core's pipes, and of its control thread. -/

def icKey (core : Nat) (ctl : Bool) (line : Nat) : Nat := (2 * core + (if ctl then 1 else 0)) * 2 ^ 50 + line
def icCore (k : Nat) : Nat := k / 2 ^ 50 / 2
def icCtl (k : Nat) : Bool := k / 2 ^ 50 % 2 == 1
def icLine (k : Nat) : Nat := k % 2 ^ 50

/-- The instruction-cache lines that satisfy a test dropped. -/
def Mem.dropCode (m : Mem) (p : Nat → Bool) : Mem := { m with ic := m.ic.filter (fun e => !p e.1) }

/-- Whether a core lies in the scope member set of another (R280). -/
def inScope (sc core other : Nat) : Bool :=
  match sc with
  | 0 => core == other
  | 1 => core == other
  | 2 => core / 8 == other / 8
  | 3 => core / 32 == other / 32
  | 4 => core / 64 == other / 64
  | 5 => core / 128 == other / 128
  | _ => true

/-! LS accesses of a core (R163, R276). -/

/-- The byte an LS read of a core returns. -/
def Mem.lsByte (m : Mem) (core colour a : Nat) : Byte :=
  if a < hbmTop then
    match Tbl.get m.l1 (l1Key core (lineOf a) colour) with
    | some l => (l.data[a % 128]?).getD 0
    | none => m.home a
  else m.home a

/-- The tag of a granule as an LS read of a core returns it. -/
def Mem.lsTag (m : Mem) (core colour gr : Nat) : Bool :=
  if 16 * gr < hbmTop then
    match Tbl.get m.l1 (l1Key core (gr / 8) colour) with
    | some l => l.tags.getLsbD (gr % 8) && !l.poison.getLsbD (gr % 8)
    | none => m.homeTag gr
  else m.homeTag gr

/-- Whether a granule is poisoned as an LS access of a core meets it (R446). -/
def Mem.lsPoison (m : Mem) (core colour gr : Nat) : Bool :=
  match (if 16 * gr < hbmTop then Tbl.get m.l1 (l1Key core (gr / 8) colour) else none) with
  | some l => l.poison.getLsbD (gr % 8)
  | none => m.poison.any (fun (b, n) => b < 16 * gr + 16 && 16 * gr < b + n)

/-- The bytes an LS read returns. -/
def Mem.lsRead (m : Mem) (core colour a : Nat) : Nat → List Byte
  | 0 => []
  | n + 1 => m.lsByte core colour a :: Mem.lsRead m core colour (a + 1) n

/-- A byte stored into an L1 line: its granule's tag clears. -/
def Line.put (l : Line) (o : Nat) (b : Byte) : Line :=
  { l with
    data := l.data.set o b
    dirty := l.dirty ||| BitVec.ofNat 128 (2 ^ o)
    tags := l.tags &&& ~~~(BitVec.ofNat 8 (2 ^ (o / 16))) }

/-- One byte of an LS store. -/
def Mem.lsPut (m : Mem) (core colour a : Nat) (b : Byte) : Mem :=
  if a < hbmTop then m.setLine core (lineOf a) colour ((m.line core (lineOf a) colour).put (a % 128) b)
  else m.homeWrite a [b]

/-- An LS store of bytes: in the issuing core's L1 for HBM, at the storage elsewhere. -/
def Mem.lsWrite (m : Mem) (core colour a : Nat) (bs : List Byte) : Mem :=
  if a < hbmTop then
    let m := (bs.zipIdx).foldl (fun m (b, j) => m.lsPut core colour (a + j) b) m
    if a % 16 = 0 ∧ bs.length = 16 then
      let l := m.line core (lineOf a) colour
      m.setLine core (lineOf a) colour { l with poison := l.poison &&& ~~~(BitVec.ofNat 8 (2 ^ (a / 16 % 8))) }
    else m
  else m.homeWrite a bs

/-- An LS store of a granule with its tag (R169). -/
def Mem.lsWriteTagged (m : Mem) (core colour a : Nat) (bs : List Byte) (tag : Bool) : Mem :=
  let m := m.lsWrite core colour a bs
  if !tag then m
  else if a < hbmTop then
    let l := m.line core (lineOf a) colour
    m.setLine core (lineOf a) colour { l with tags := l.tags ||| BitVec.ofNat 8 (2 ^ (a / 16 % 8)) }
  else { m with tags := Store.write m.tags (a / 16) 1 }

/-! Engine accesses (R276): at the home, with the issuing core's L1 copies dropped. -/

/-- An engine's write: dirty bytes of the issuing core's copies that it does not cover are written back first, the
copies are dropped. What lower cores hold dirty of its bytes precedes it (R295). -/
def Mem.engWrite (m : Mem) (core a : Nat) (bs : List Byte) : Mem :=
  let ls := linesOf a bs.length
  let m := if a < hbmTop then m.backWhere (fun k => l1Core k == core && ls.contains (l1Line k)) false else m
  (m.outrankRange core a bs.length).homeWrite a bs

/-- The bytes an engine reads. -/
def Mem.homeRead (m : Mem) (a : Nat) : Nat → List Byte
  | 0 => []
  | n + 1 => m.home a :: Mem.homeRead m (a + 1) n

/-- The poisoned unit that a range meets at its home, if any. -/
def Mem.poisonIn (m : Mem) (a n : Nat) : Option (Nat × Nat) := m.poison.find? (fun (b, k) => b < a + n && a < b + k)

/-- Where the error of a poisoned byte lies (R330): the structure that holds it. An HBM device's unit is 64 bytes, an L2
slice's is a granule. -/
def Mem.eccAt (m : Mem) (a : Nat) : Nat :=
  match whereIs a with
  | .scratch _ => 2
  | .cstore _ => 3
  | .chip _ => 8
  | _ => match m.poisonIn a 1 with
    | some (_, n) => if n = 16 then 6 else 7
    | none => 7

/-! Device system space: registers that firmware reads there, over the bytes stored (R282, R408). -/

/-- The image of an extent-table entry (R408). -/
def Ext.image (e : Ext) : Nat :=
  e.state * 2 ^ 112 + (if e.pi then 2 ^ 109 else 0) + (if e.hi then 2 ^ 108 else 0) + e.mode * 2 ^ 106 +
    e.chset * 2 ^ 100 + e.colour * 2 ^ 88 + e.lenp * 2 ^ 44 + e.basep

/-- An extent-table entry that is FREE. -/
def Ext.free : Ext :=
  { state := 0, hi := false, pi := false, mode := 0, chset := 0, colour := 0, lenp := 0, basep := 0, inflight := 0,
    late := 0, leftOut := false }

/-- A scope entry of the discovery table (R283). -/
def scopeEntry (members base perline hopcost : Nat) : List Byte :=
  leBytes 16 (2 ^ 127 + hopcost * 2 ^ 80 + perline * 2 ^ 64 + base * 2 ^ 32 + members)

/-- The discovery table (R282). -/
def State.discovery (s : State) : List Byte :=
  let b := s.bring
  leBytes 64 (b.podmod * 2 ^ 96 + b.devid * 2 ^ 64 + b.hops * 2 ^ 56 + 8 * 2 ^ 48 + 0x0201 * 2 ^ 32 + 0x43534344) ++
    scopeEntry 1 0 0 0 ++ scopeEntry 1 4 0 0 ++ scopeEntry 8 40 4 0 ++ scopeEntry 32 90 5 0 ++ scopeEntry 64 160 6 0 ++
    scopeEntry 128 320 10 0 ++ scopeEntry 256 700 14 0 ++ scopeEntry (256 * b.podmod) 2500 14 600

/-- The bytes of device system space as a read returns them: the published discovery table and the extent table are read
only, whatever is written there. -/
def State.sysRead (s : State) (a n : Nat) : List Byte :=
  (List.range n).map (fun j =>
    let x := a + j
    if sysBase + 0x1000 ≤ x ∧ x < sysBase + 0x10C0 ∧ s.bring.stage = 8 then
      (s.discovery[x - sysBase - 0x1000]?).getD 0
    else if sysBase + 0x10000 ≤ x ∧ x < sysBase + 0x14000 then
      BitVec.ofNat 8 (((Tbl.get s.sec.exts ((x - sysBase - 0x10000) / 16)).getD Ext.free).image / 2 ^ (8 * (x % 16)))
    else s.mem.home x)

/-! The extent table (R50, R409). -/

/-- The refusal of a request of a colour for one byte of HBM or a chip scratchpad: cause and subcause. -/
def State.extRefusal (s : State) (colour a : Nat) (write : Bool) : Option (Nat × Nat) :=
  match whereIs a with
  | .hbm => go s colour a write
  | .chip _ => go s colour a write
  | _ => none
where
  go (s : State) (colour a : Nat) (write : Bool) : Option (Nat × Nat) :=
    match s.sec.exts.find? (fun e => e.2.state != 0 && e.2.basep * 4096 ≤ a && a < (e.2.basep + e.2.lenp) * 4096) with
    | none => some (cCAPABILITY, subCOLOUR)
    | some (_, e) =>
      if e.state ≠ 1 then some (cEXTENT, 0)
      else if e.colour ≠ colour ∨ s.colourOk colour = false then some (cCAPABILITY, subCOLOUR)
      else if write ∧ e.mode = 1 then some (cCAPABILITY, subPERM)
      else none

/-- The first refusal of a range, at the granularity of pages. -/
def State.extRange (s : State) (colour a n : Nat) (write : Bool) : Option (Nat × Nat) :=
  if n = 0 then none
  else ((a :: (List.range ((a + n - 1) / 4096 - a / 4096)).map (fun j => (a / 4096 + j + 1) * 4096)).filterMap
    (fun x => s.extRefusal colour x write)).head?

/-! Allocations of core-local storage (R271). -/

/-- The colour of the team that holds a byte of a core's scratchpad or control store. -/
def State.allocColour (s : State) (a : Nat) : Option Nat :=
  (s.teams.find? (fun e =>
    (e.2.scratch ≤ a && a < e.2.scratch + e.2.allocLen) ||
    (cstoreOf e.2.core e.2.tslot ≤ a && a < cstoreOf e.2.core e.2.tslot + 0x4000))).map (fun e => e.2.colour)

/-- The pages of 1 KiB that a range meets, as addresses inside it. -/
def probes (a n step : Nat) : List Nat :=
  if n = 0 then [] else a :: (List.range ((a + n - 1) / step - a / step)).map (fun j => (a / step + j + 1) * step)

/-- Step 8 of R49 for an LS access of a core: what R163, R196, R271, R272 and R274 refuse. `a` lies in the space. -/
def State.rangeRefusal (s : State) (core colour a n : Nat) (write : Bool) : Option Nat :=
  let last := a + n - 1
  match whereIs a with
  | .hbm => if whereIs last = .hbm then none else some subBOUNDS
  | .chip _ => match whereIs last with
    | .chip _ => none
    | _ => some subBOUNDS
  | .sys => if whereIs last = .sys then none else some subBOUNDS
  | .host => if whereIs last = .host then none else some subBOUNDS
  | .peer _ => some subFORM
  | .none => some subBOUNDS
  | .scratch _ => match whereIs last with
    | .scratch c =>
      if c / 8 ≠ core / 8 ∨ (whereIs a != .scratch c && (a - coreBase) / 0x100000 / 8 != core / 8) then some subBOUNDS
      else if (probes a n 1024).all (fun x => s.allocColour x == some colour) then none else some subCOLOUR
    | _ => some subBOUNDS
  | .cstore c =>
    if whereIs last ≠ .cstore c ∨ c ≠ core then some subBOUNDS
    else if !(probes a n 1024).all (fun x => s.allocColour x == some colour) then some subCOLOUR
    else if write ∧ (a - coreBase) % 0x4000 < 0x3400 then some subPERM
    else none

/-! The region check unit (R372 to R377). -/

/-- The kind of an access for the region check (R373). -/
inductive RKind where
  | read
  | write
  | atomic (aop : Option Nat)
  deriving DecidableEq, Repr

/-- Whether a record's mode admits a kind (R373, R374): modes 0 NC, 1 R, 2 W, 3 RW, 4 ACC. -/
def Region.admits (r : Region) : RKind → Bool
  | .read => r.mode != 4
  | .write => r.mode == 0 || r.mode == 2 || r.mode == 3
  | .atomic op => r.mode == 0 || r.mode == 2 || r.mode == 3 || (r.mode == 4 && op == some r.aop)

/-- Whether an address is one that the region check covers (R375). -/
def regionChecked (a : Nat) : Bool :=
  match whereIs a with
  | .scratch _ => false
  | .cstore _ => false
  | _ => true

/-- The records that contain [lo, hi) and admit a kind. -/
def admitting (rs : List Region) (lo hi : Nat) (k : RKind) : List Nat :=
  (rs.zipIdx.filter (fun (r, _) => r.base < r.top && r.base ≤ lo && hi ≤ r.top && r.admits k)).map (·.2)

/-- DETAIL of an UNDECLARED access (R376). -/
def regionDetail (rs : List Region) (lo hi : Nat) : Nat :=
  match rs.zipIdx.find? (fun (r, _) => r.base < r.top && r.base < hi && lo < r.top) with
  | some (_, i) => i
  | none =>
    let gap (r : Region) : Nat := if r.top ≤ lo then lo - r.top else r.base - hi
    match rs.zipIdx.foldl (fun (b : Option (Region × Nat)) x =>
      match b with
      | none => some x
      | some y => if gap x.1 < gap y.1 then some x else some y) none with
    | some (_, i) => i
    | none => 0x1FFF

/-- The written mask with the bits of records set (R377). -/
def State.markWritten (s : State) (task : Nat) (ixs : List Nat) : State :=
  match s.task task with
  | some k => s.setTask task { k with wmask := ixs.foldl (fun m j => m ||| BitVec.ofNat 16 (2 ^ j)) k.wmask }
  | none => s

/-- Whether a running pass's filter untags a value: its decoded bounds meet an extent that the pass gathered (R420,
R421). -/
def State.revoked (s : State) (c : CapV) : Bool :=
  s.sec.passRun != 0 && c.tag && s.sec.gathered.any (fun i =>
    match Tbl.get s.sec.exts i with
    | some e => c.base < (e.basep + e.lenp) * 4096 && e.basep * 4096 < c.top
    | none => false)

/-- A value with its tag cleared where the filter meets it (R421). -/
def State.filter (s : State) (c : CapV) : CapV := if s.revoked c then c.untag else c

/-! The watch log (R453, R454). -/

/-- The bytes of accesses that lie in a range. -/
def bytesIn (base ext : Nat) (accs : List (Nat × Nat)) : Nat :=
  (accs.map (fun (a, n) => min (a + n) (base + ext) - max a base)).sum

/-- One access (its runs of bytes) matched against the ranges of a tower: operation bit 0 read, 1 write, 2 atomic,
3 refused. -/
def State.watchAt (s : State) (tower pathCode agent colour op : Nat) (accs : List (Nat × Nat)) : State :=
  if s.ras.watch.isEmpty then s
  else (s.ras.watch.filter (fun e => e.1 / 64 == tower)).foldl (fun (s : State) e =>
    let w := e.2.toNat
    let got := bytesIn (bitsOf w 55 0) (bitsOf w 127 64) accs
    if bitAt w 155 ∧ got ≠ 0 ∧ bitsOf w 139 128 = colour ∧ bitAt w (140 + pathCode) ∧ bitAt w (147 + op) then
      let key (x : Watched) : Bool := x.tower == tower && x.range == e.1 % 64 && x.colour == colour &&
        x.path == pathCode && x.agent == agent && x.op == op + 1
      let grow (x : Watched) : Watched := { x with count := x.count + 1, bytes := x.bytes + got, last := s.clock }
      let new : Watched := { tower := tower, range := e.1 % 64, colour := colour, path := pathCode, agent := agent,
                             op := op + 1, count := 1, bytes := got, first := s.clock, last := s.clock }
      let r := s.ras
      if r.sums.any key then { s with ras := { r with sums := r.sums.map (fun x => if key x then grow x else x) } }
      else if (r.sums.filter (fun x => x.tower == tower)).length < 1024 then
        { s with ras := { r with sums := r.sums ++ [new] } }
      else
        let okey (x : Watched) : Bool := x.tower == tower && x.range == e.1 % 64
        if r.overs.any okey then { s with ras := { r with overs := r.overs.map (fun x => if okey x then grow x else x) } }
        else { s with ras := { r with overs := r.overs ++ [{ new with op := 0, path := 0, agent := 0, colour := colour }] } }
    else s) s

/-- The part of accesses that lies in a line. -/
def inLine (l : Nat) (accs : List (Nat × Nat)) : List (Nat × Nat) :=
  (accs.map (fun (a, n) => (max a (128 * l), min (a + n) (128 * l + 128) - max a (128 * l)))).filter (fun x => x.2 != 0)

/-- An LS instruction's accesses: one count for each line (R454). -/
def State.watchLs (s : State) (core colour op : Nat) (accs : List (Nat × Nat)) : State :=
  if s.ras.watch.isEmpty then s
  else
    let lines := (accs.flatMap (fun (a, n) => linesOf a n)).eraseDups
    lines.foldl (fun s l =>
      let tower := if 128 * l < hbmTop ∧ op < 2 then core / 64 else towerOf (128 * l)
      s.watchAt tower 0 core colour op (inLine l accs)) s

/-- An access of another path, of several runs of bytes: one count in each tower that performs part of it (R454). -/
def State.watchEng (s : State) (path agent colour op : Nat) (accs : List (Nat × Nat)) : State :=
  if s.ras.watch.isEmpty then s
  else ((accs.map (fun x => towerOf x.1)).eraseDups).foldl (fun s t =>
    s.watchAt t path agent colour op (accs.filter (fun x => towerOf x.1 == t))) s

/-! Acquire and release (R285 to R293). -/

/-- Scopes from cluster to package, and to pod (R281, R290, R291). -/
def scopeWide (sc : Nat) : Bool := 2 ≤ sc
def scopeLazy (sc : Nat) : Bool := 2 ≤ sc && sc ≤ 6

/-- The key of a release record. -/
def relKey (line colour : Nat) : Nat := line * 4096 + colour
/-- The slice of a line's home: tower and index (R270). -/
def sliceOf (line : Nat) : Nat :=
  let a := line * 128
  (a / 0x3000000000) * 64 + (bitsOf a 12 7 ^^^ bitsOf a 18 13 ^^^ bitsOf a 24 19)
/-- The entries of a slice that are in use. -/
def Mem.sliceLoad (m : Mem) (slice : Nat) : Nat := (m.rel.filter (fun e => sliceOf (e.1 / 4096) == slice)).length

/-- The cores recorded for a line and colour. -/
def Mem.relCores (m : Mem) (line colour : Nat) : List Nat :=
  (List.range 256).filter (fun c => (Store.read m.rel (relKey line colour)).getLsbD c)

/-- Whether a release access by a core drains eagerly (R292): pod scope, an address outside HBM, or a full slice. -/
def Mem.eager (m : Mem) (core colour sc : Nat) (as : List Nat) : Bool :=
  sc == 7 || as.any (fun a => !(a < hbmTop) || !(Store.read m.rel (relKey (lineOf a) colour)).getLsbD core)

/-- A core records itself for a line and colour where the home slice has the entry or a free one (R290). -/
def Mem.record (m : Mem) (core colour line : Nat) : Mem :=
  let old := Store.read m.rel (relKey line colour)
  if old = 0 ∧ 2048 ≤ m.sliceLoad (sliceOf line) then m
  else { m with rel := Store.write m.rel (relKey line colour) (old ||| BitVec.ofNat 256 (2 ^ core)) }

/-- A release access by a core (R290, R292): recorded lazily line by line, or drained eagerly where one of its lines finds
no entry, its address is not in HBM, or its scope is pod. -/
def Mem.releaseAccess (m : Mem) (core colour sc : Nat) (as : List Nat) : Mem :=
  if !scopeWide sc then m
  else
    let m := if scopeLazy sc then
        ((as.filter (· < hbmTop)).map lineOf).eraseDups.foldl (fun m l => m.record core colour l) m
      else m
    if m.eager core colour sc as then m.drain core colour else m

/-- A release fence or object release by a core (R285, R292). -/
def Mem.releaseFence (m : Mem) (core colour sc : Nat) : Mem := if scopeWide sc then m.drain core colour else m

/-- The entry of a line and colour retired by draining its cores (R290, R291). -/
def Mem.retireRel (m : Mem) (line colour : Nat) : Mem :=
  let m := (m.relCores line colour).foldl (fun m c => m.drain c colour) m
  { m with rel := Store.write m.rel (relKey line colour) 0 }

/-- Steps 1 to 4 of an acquire access to a line (R291): the acquirer's dirty bytes of it are written back and its copy
is left, the recorded cores other than its own are drained, the entry clears. -/
def Mem.acquireLine (m : Mem) (core colour line : Nat) : Mem :=
  let m := m.backWhere (fun k => k == l1Key core line colour) false
  let m := ((m.relCores line colour).filter (· != core)).foldl (fun m c => m.drain c colour) m
  { m with rel := Store.write m.rel (relKey line colour) 0 }

/-- Step 5 of R291, and an acquire fence. -/
def Mem.acquireFence (m : Mem) (core colour sc : Nat) : Mem := if scopeWide sc then m.dropClean core colour else m

end Sys2Proof.Machine
end

