-- ==== Sys2Proof/Machine/Chain.lean ====
section
/-! DEFINITION. Command chains: entries, progress records, completion, completion records (R196 to R200, R222, R223),
and the drain port (R153, R319 to R321). -/

namespace Sys2Proof.Machine

/-- A new chain: TSEQ and CSEQ 0 (R197). -/
def Chain.new : Chain := { tseq := 0, cseq := 0, halted := false, cmds := [] }

/-- A chain of a team; CH 0 copy, 1 matrix, 2 collective. -/
def Team.chain (T : Team) (ch : Nat) : Chain := (T.chains[ch]?).getD Chain.new
def Team.setChain (T : Team) (ch : Nat) (c : Chain) : Team := { T with chains := T.chains.set ch c }
/-- A command of a chain by sequence number. -/
def Chain.cmd (c : Chain) (n : Word) : Option Cmd := c.cmds.find? (·.seq == n)
def Chain.setCmd (c : Chain) (x : Cmd) : Chain := { c with cmds := c.cmds.map (fun y => if y.seq == x.seq then x else y) }
/-- A command of a team. -/
def State.cmd (s : State) (t ch : Nat) (n : Word) : Option Cmd := (s.team t).bind (fun T => (T.chain ch).cmd n)

/-- The address of the entry of a sequence number (R196). -/
def Team.entry (T : Team) (ch : Nat) (n : Word) : Nat :=
  cstoreOf T.core T.tslot + 0x1000 * ch + 64 * ((n - 1).toNat % 64)

/-- The progress record (R200). -/
def Cmd.progress (c : Cmd) : Nat :=
  c.faddr * 2 ^ 192 + c.nfail * 2 ^ 160 + c.index * 2 ^ 128 + c.done * 2 ^ 64 + c.seq.toNat * 2 ^ 32 +
    c.mfl * 2 ^ 24 + c.cause % 256 * 2 ^ 16 + c.sub % 16 * 2 ^ 8 + c.status

/-- The command stored, and its progress record with it: bytes 32 to 63 of the entry are zero (R199). -/
def State.putCmd (s : State) (t ch : Nat) (c : Cmd) : State :=
  match s.team t with
  | none => s
  | some T =>
    let s := s.setTeam t (T.setChain ch ((T.chain ch).setCmd c))
    { s with mem := s.mem.homeWrite (T.entry ch c.seq) (leBytes 64 c.progress) }

/-- The command stored, its progress record as it stands: the record is written at acceptance and at each change of
STATUS (R309). -/
def State.noteCmd (s : State) (t ch : Nat) (c : Cmd) : State :=
  match s.team t with
  | none => s
  | some T => s.setTeam t (T.setChain ch ((T.chain ch).setCmd c))

/-- A completion record of an engine (R222), without RIDX. -/
def Cmd.ringRec (c : Cmd) (ch : Nat) : BitVec 192 :=
  BitVec.ofNat 192 (c.nfail * 2 ^ 160 + c.index * 2 ^ 128 + c.done * 2 ^ 64 + c.seq.toNat * 2 ^ 32 +
    (ch + 1) * 2 ^ 30 + c.cause % 256 * 2 ^ 16 + c.sub % 16 * 2 ^ 8 + (if c.fin = 0 then c.status else c.fin))

/-- CSEQ moved over the complete commands that follow it (R197). -/
def Chain.advance : Nat → Chain → Chain
  | 0, c => c
  | n + 1, c =>
    match c.cmd (c.cseq + 1) with
    | some x => if x.complete then Chain.advance n { c with cseq := c.cseq + 1 } else c
    | none => c

/-- A command that has ended its work completes, or queues its completion record, if its turn has come: any order on
the copy chain, sequence order on the others (R197, R223, R314). The next command whose turn it is, then. -/
def State.settleChain (t ch : Nat) : Nat → State → State
  | 0, s => s
  | n + 1, s =>
    match s.team t with
    | none => s
    | some T =>
      let c := (T.chain ch).advance 64
      let s := s.setTeam t (T.setChain ch c)
      match c.cmds.find? (fun x => x.fin != 0 && !x.complete && !x.rung && (ch == 0 || x.seq == c.cseq + 1)) with
      | none => s
      | some x =>
        if x.cr then
          let x := { x with rung := true }
          let s := s.noteCmd t ch x
          match s.team t with
          | none => s
          | some T => State.settleChain t ch n (s.setTeam t
              { T with ringQ := T.ringQ ++ [{ bits := x.ringRec ch, chain := some ch, seq := x.seq }] })
        else State.settleChain t ch n (s.putCmd t ch { x with status := x.fin })

/-- Pins of K-blocks that a test names released; a line without a holder is no longer pinned (R316). -/
def Mem.unpin (m : Mem) (which : Nat × Nat × Nat → Bool) : Mem :=
  { m with
    pins := (m.pins.map (fun p => { p with holders := p.holders.filter (fun h => !which h) })).filter (fun p => !p.holders.isEmpty)
    pinQ := m.pinQ.filter (fun h => !which h) }

/-- A command leaves its engine: a matrix command's pins are released (R316), a copy's or a collective's transfers that
wait for tokens leave the queue. -/
def State.leave (s : State) (t ch : Nat) (n : Word) : State :=
  if ch = 1 then { s with mem := s.mem.unpin (fun (u, q, _) => u == t && q == n.toNat) }
  else
    let mine (w : Work) : Bool := match w with
      | .chunk u h q _ => u == t && h == ch && q == n.toNat
      | .msg u q _ _ => u == t && ch == 2 && q == n.toNat
      | .line _ _ _ _ => false
    if s.sec.fns.any (fun e => e.2.waiting.any (fun x => mine x.unit)) then
      { s with sec := { s.sec with fns := s.sec.fns.map (fun e =>
          (e.1, { e.2 with waiting := e.2.waiting.filter (fun x => !mine x.unit) })) } }
    else s

/-- A command ends its work with a complete status: 2 DONE, 3 TAGFAIL, 6 ABANDONED. -/
def State.endCmd (s : State) (t ch : Nat) (c : Cmd) (st : Nat) : State :=
  State.settleChain t ch 66 ((s.leave t ch c.seq).noteCmd t ch { c with fin := st })

/-- A command ends with FAULT (R199, R335): the chain halts, and the record of R199 goes to the ring, with CR or
without. -/
def State.faultCmd (s : State) (t ch : Nat) (c : Cmd) (cause sub detail faddr : Nat) : State :=
  let c := { c with status := 4, cause := cause, sub := sub, detail := detail, faddr := faddr, rung := true }
  let s := (s.leave t ch c.seq).putCmd t ch c
  match s.team t with
  | none => s
  | some T =>
    s.setTeam t { T.setChain ch { T.chain ch with halted := true } with
      ringQ := T.ringQ ++ [{ bits := c.ringRec ch, chain := some ch, seq := c.seq }] }

/-- Whether an act of a rank must wait for the next cycle: one of a later rank has taken place in this one. -/
def Stamp.past (x : Stamp) (now rank : Nat) : Bool := x.cycle == now + 1 && rank < x.rank

/-- The place of a group's record among those of one cycle, behind the records of the three chains (R262). -/
def Team.ringRank (T : Team) (grp : Nat) : Nat := 3 + slotOf ((T.groups[grp]?).getD 0)
/-- Whether a record of a rank may enter the ring now: there is room, and no record of a later rank has entered in this
cycle (R226, R262). -/
def State.ringOpen (s : State) (T : Team) (rank : Nat) : Bool := decide (T.ridx - T.taken < 32) && !T.ringLast.past s.clock rank

/-- A record of a rank written to the ring's next slot (R196, R222). -/
def State.ringWrite (s : State) (t : Nat) (bits : BitVec 192) (rank : Nat) : State :=
  match s.team t with
  | none => s
  | some T =>
    let a := cstoreOf T.core T.tslot + 0x3000 + 32 * (T.ridx % 32)
    let s := s.setTeam t { T with ridx := T.ridx + 1, ringLast := ⟨s.clock + 1, rank⟩ }
    { s with mem := s.mem.homeWrite a (leBytes 32 (bits.toNat + (T.ridx + 1) % 2 ^ 64 * 2 ^ 192)) }

/-- The unconsumed records of the ring (R226). -/
def Team.ringHeld (T : Team) : Nat := T.ridx - T.taken

/-- A command whose completion record has been written: it completes, unless it faulted. -/
def State.rungCmd (s : State) (t ch : Nat) (n : Word) : State :=
  match s.cmd t ch n with
  | some c => if c.fin ≠ 0 && !c.complete then State.settleChain t ch 66 (s.putCmd t ch { c with status := c.fin }) else s
  | none => s

/-! CHCTL (R226). -/

/-- The phase of a COLL's barrier, which its end records (R219). -/
def State.collPhase (s : State) (t : Nat) (c : Cmd) : Word :=
  match s.team t with
  | some T => if bitsOf c.blk.toNat 507 504 = 7 then (s.bar T.core (bitsOf c.blk.toNat 344 336)).cph else 0
  | none => 0

/-- A command marked ABANDONED at once; with CR and no record yet, its completion record is queued. -/
def State.abandon (s : State) (t ch : Nat) (c : Cmd) : State :=
  let again := c.cr && !c.rung
  let c := { c with phase := s.collPhase t c, endNo := s.waitNo, status := 6, fin := 6, rung := c.rung || again }
  let s := (s.leave t ch c.seq).putCmd t ch c
  match again, s.team t with
  | true, some T =>
    s.setTeam t { T with ringQ := T.ringQ ++ [{ bits := c.ringRec ch, chain := some ch, seq := c.seq }] }
  | _, _ => s

/-- CHCTL value 1: the faulted entries are ABANDONED and acceptance resumes. -/
def State.abandonFaulted (s : State) (t ch : Nat) : State :=
  match s.team t with
  | none => s
  | some T =>
    let s := ((T.chain ch).cmds.filter (·.status == 4)).foldl (fun s c => s.abandon t ch c) s
    match s.team t with
    | none => s
    | some T => State.settleChain t ch 66 (s.setTeam t (T.setChain ch { T.chain ch with halted := false }))

/-- CHCTL value 2: every incomplete entry is ABANDONED and CSEQ := TSEQ. -/
def State.abandonAll (s : State) (t ch : Nat) : State :=
  match s.team t with
  | none => s
  | some T =>
    let s := ((T.chain ch).cmds.filter (fun c => !c.complete)).foldl (fun s c => s.abandon t ch c) s
    match s.team t with
    | none => s
    | some T => s.setTeam t (T.setChain ch { T.chain ch with halted := false, cseq := (T.chain ch).tseq })

/-! Tile-store regions (R211, R214). -/

/-- M of a matrix command. -/
def Cmd.mRows (c : Cmd) : Nat := 64 * 2 ^ bitsOf c.blk.toNat 369 368
/-- N of a matrix command. -/
def Cmd.nCols (c : Cmd) : Nat := 64 * 2 ^ bitsOf c.blk.toNat 371 370
/-- First unit and unit count of its region. -/
def Cmd.accUnits (c : Cmd) : Nat × Nat := (bitsOf c.blk.toNat 356 352, bitsOf c.blk.toNat 362 357)
def Cmd.opc (c : Cmd) : Nat := bitsOf c.blk.toNat 507 504
/-- Rows of a drain stream (R319). -/
def Cmd.drainRows (c : Cmd) : Nat := c.mRows * cdiv c.nCols 96
/-- Whether two unit runs meet. -/
def unitsMeet (a b : Nat × Nat) : Bool := a.1 < b.1 + b.2 && b.1 < a.1 + a.2

/-! The drain port. -/

/-- Incomplete MDRAIN commands of a team that name a group. -/
def Team.drains (T : Team) (grp : Nat) : List Cmd :=
  (T.chain 1).cmds.filter (fun c => !c.complete && c.opc == 6 && bitsOf c.blk.toNat 379 376 == grp)

/-- A drain row as the 96 lanes receive it (R319). -/
def laneRow (r : Row) : Row := (List.range laneCount).map (fun L => r.getD L 0)

/-- The oldest staged row of the group read (R153, R320): the row, and the state with it taken; else the wait, or
DEADLOCK where no row is pending and the control thread has exited. -/
def Iss.drainRow (i : Iss) (act : LaneMask) : Except Stop (Row × State) :=
  match i.G.drain with
  | r :: rest =>
    let s := i.s.setGroup i.id { i.G with drain := rest }
    match s.cmd i.team 1 r.seq with
    | some c =>
      if c.complete then .ok (laneRow r.row, s)
      else
      let c := { c with done := c.done + 1 }
      .ok (laneRow r.row, if c.done = c.drainRows then s.endCmd i.team 1 c 2 else s.noteCmd i.team 1 c)
    | none => .ok (laneRow r.row, s)
  | [] =>
    let gone := match i.s.ctx i.team with
      | some C => C.exited
      | none => true
    if (i.T.drains i.G.grp).isEmpty && gone then .error (.trap (Trap.of cDEADLOCK 0 (5 * 2 ^ 9) act))
    else .error (.wait .dqueue (fun s => s))

end Sys2Proof.Machine
end

