-- ==== Sys2Proof/Machine/Barrier.lean ====
section
/-! DEFINITION. Hardware barriers (R217 to R219, R263). -/

namespace Sys2Proof.Machine

/-- Phases completed while arrivals and bytes suffice (R217). -/
def Barrier.settle : Nat → Barrier → Barrier
  | 0, b => b
  | n + 1, b =>
    if b.owner.isSome && 1 ≤ b.arrN && b.arrN ≤ b.arr && b.bytN ≤ b.byt then
      Barrier.settle n { b with cph := b.cph + 1, arr := b.arr - b.arrN, byt := b.byt - b.bytN }
    else b

/-- Arrivals and bytes counted at a barrier (R217). -/
def State.arrive (s : State) (core h n bytes : Nat) : State :=
  let b := s.bar core h
  let b := { b with arr := b.arr + n, byt := b.byt + bytes }
  s.setBar core h (b.settle (b.arr + 1))

/-- Whether the team owns a barrier of its core. -/
def Iss.ownsBar (i : Iss) (h : Nat) : Bool := (i.s.bar i.core h).owner == some i.team
/-- HB of rows 0x3E and 0x2C. -/
def Long.hb (w : Long) : Nat := w.bits 31 23

/-- Whether the awaited phase has completed (R219). -/
def Iss.phaseDone (i : Iss) (h : Nat) (p : Word) : Bool := seqBefore p (i.s.bar i.core h).cph

/-- A COLL of the owning team that ended FAULT or ABANDONED before the awaited phase (R219). -/
def Iss.collFailed (i : Iss) (h : Nat) : Option Cmd :=
  (i.T.chain 2).cmds.find? (i.s.endsWait i.core h (i.w0.map (·.no)))

/-- The wait of BWAIT and BSYNC: it ends, traps, or goes on; `note` is what it has done by then. -/
def Iss.barWait (i : Iss) (h : Nat) (p : Word) (note : State → State) (done : Except Stop Done) : Except Stop Done :=
  if i.phaseDone h p then done
  else match i.collFailed h with
    | some c =>
      if c.status = 4 then .error (.fault (Trap.of c.cause c.sub c.detail i.p.mask) note)
      else .error (.fault (Trap.of cDEADLOCK 0 (3 * 2 ^ 9 + h) i.p.mask) note)
    | none => .error (.wait (.barrier h p) note)

/-- BINIT (R218). -/
def barInit (o : Op) (w : Long) (s : State) : Out1 :=
  let h := Long.hb w
  runInstr o (fun i => w.asel == 0 && (w.bsel == 0 || w.bsel == 3) &&
      1 ≤ (i.cReg w.a.toNat).toNat && (i.cReg w.a.toNat).toNat ≤ 65535 &&
      (match (i.s.bar i.core h).owner with
        | some t => t == i.team || (i.s.team t).isNone
        | none => true) &&
      (i.s.coreAgents i.core).all (fun (_, p) => !p.wait.any (fun x => match x.why with
        | .barrier b _ => b == h
        | _ => false)))
    (fun i =>
      let b : Barrier := { owner := some i.team, arrN := (i.cReg w.a.toNat).toNat, bytN := i.bVal1 w tN32, arr := 0,
                           byt := 0, cph := 0 }
      .ok (Done.only (i.s.setBar i.core h (b.settle 1)))) s

/-- BARV (R219): one arrival; D is CPH before it. -/
def barArrive (o : Op) (w : Long) (s : State) : Out1 :=
  let h := Long.hb w
  runInstr o (fun _ => w.bsel != 2) (fun i => do
    i.need (i.ownsBar h)
    let p := (i.s.bar i.core h).cph
    .ok { i.results (i.dResult tN32 w.d.toNat p.toNat) with s := i.s.arrive i.core h 1 0 }) s

/-- BWAIT (R219). -/
def barWaitOp (o : Op) (w : Long) (s : State) : Out1 :=
  let h := Long.hb w
  runInstr o (fun i => w.bsel != 2 && i.aOnce w 32) (fun i => do
    i.need (i.ownsBar h)
    i.ecc i.p.mask (i.once 32 w.a.toNat)
    i.barWait h (BitVec.ofNat 32 (i.aVal1 w 32)) (fun s => s) (.ok (Done.only i.s))) s

/-- The phase for which the BSYNC that the path issues has arrived already (R219). -/
def Iss.arrivedAt (i : Iss) : Option Word := (i.p.arrived.filter (fun x => x.1 == i.p.pc)).map (·.2)

/-- The path of an agent records the arrival of its BSYNC: the pc and the phase. -/
def State.setArrived (s : State) (ag : Agent) (p : Option (Word64 × Word)) : State :=
  match s.path ag with
  | some x => s.setPath ag { x with arrived := p }
  | none => s

/-- Results written by an instruction that has not completed: BSYNC's D is written when it arrives (R219). -/
def State.writeEarly (s : State) (ag : Agent) (ws : List RegWrite) : State :=
  match ag, s.path ag with
  | .ctl t, _ => match s.ctx t with
    | some C => s.setCtx t (ws.foldl Ctx.write C)
    | none => s
  | .path g _, some p => match s.group g with
    | some G => let (G, p) := putWrites 0 (G, p) ws; s.setGroup g (G.setPathAt ag p)
    | none => s
  | .handler g, some p => match s.group g with
    | some G => let (G, p) := putWrites 0 (G, p) ws; s.setGroup g (G.setPathAt ag p)
    | none => s
  | _, none => s

/-- BSYNC (R219): BARV when it first issues, then the wait for the phase it read. Until it completes, its D is written
only where no lookahead keeps the old value for its shadow (R91). -/
def barSync (o : Op) (w : Long) (s : State) : Out1 :=
  let h := Long.hb w
  runInstr o (fun _ => w.bsel != 2) (fun i => do
    i.need (i.ownsBar h)
    match i.arrivedAt with
    | some p =>
      i.barWait h p (fun s => s)
        (.ok { i.results (i.dResult tN32 w.d.toNat p.toNat) with s := i.s.setArrived i.ag none })
    | none =>
      let p := (i.s.bar i.core h).cph
      let ws := i.dResult tN32 w.d.toNat p.toNat
      let s1 := i.s.arrive i.core h 1 0
      ({ i with s := s1 } : Iss).barWait h p
        (fun s => ((s.arrive i.core h 1 0).setArrived i.ag (some (i.p.pc, p))).writeEarly i.ag
          (if o.lookahead = 0 then ws else []))
        (.ok { i.results ws with s := s1 })) s

def execBinit (w : Long) : State → Out1 := barInit (Op.long 0x3E 0 w) w
def execBarv (w : Long) : State → Out1 := barArrive (Op.long 0x3E 1 w) w
def execBwait (w : Long) : State → Out1 := barWaitOp (Op.long 0x3E 2 w) w
def execBsync (w : Long) : State → Out1 := barSync (Op.long 0x3E 3 w) w

end Sys2Proof.Machine
end

