-- ==== Sys2Proof/Machine/IntLane.lean ====
section
/-! DEFINITION. Lane integer and logic instructions, rows 0x00 to 0x04 and 0x0B (R103 to R114). -/

namespace Sys2Proof.Machine

/-- A lane instruction: the decode checks, the registers read, and the results in the active lanes (R103). -/
def laneOp (o : Op) (legal : Iss → Bool) (regs : List SrcReg) (res : Iss → List RegWrite) (s : State) : Out1 :=
  runInstr o legal (fun i => do
    i.ecc (i.active o) (o.guardRegs ++ regs)
    .ok (i.results (res i))) s

/-- The register images of a lane result of a type, in vD. -/
def Iss.laneOut (i : Iss) (o : Op) (t : ITy) (d : BitVec 7) (xs : List Nat) : List RegWrite :=
  i.vResult t.w d.toNat (i.active o) (xs.map t.image)

/-- Lane by lane over two lists. -/
def map2 (f : Nat → Nat → Nat) (xs ys : List Nat) : List Nat := (xs.zip ys).map (fun (x, y) => f x y)
/-- Lane by lane over three lists. -/
def map3 (f : Nat → Nat → Nat → Nat) (xs ys zs : List Nat) : List Nat :=
  (xs.zip (ys.zip zs)).map (fun (x, y, z) => f x y z)

/-- D := f(A, B) at the type's width. -/
def lane2 (o : Op) (w : Long) (ty : ITy → Bool) (satOk : Bool) (f : ITy → Nat → Nat → Nat) (s : State) : Out1 :=
  let t := tyOf w
  laneOp o (fun i => tyIs w ty && (satOk || !w.sat) && i.vOk t.w w.d.toNat && i.aOk w t.w && i.bOk w t.w)
    (w.aRegs t.w ++ w.bRegs t.w)
    (fun i => i.laneOut o t w.d (map2 (f t) (i.aVals w t.w) (i.bVals w t))) s

/-- D := f(A) at the type's width. -/
def lane1 (o : Op) (w : Long) (ty : ITy → Bool) (f : ITy → Nat → Nat) (s : State) : Out1 :=
  let t := tyOf w
  laneOp o (fun i => tyIs w ty && !w.sat && i.vOk t.w w.d.toNat && i.aOk w t.w) (w.aRegs t.w)
    (fun i => i.laneOut o t w.d ((i.aVals w t.w).map (f t))) s

/-- D := f(A), D one n32 register whatever the type (R105). -/
def laneCount1 (o : Op) (w : Long) (f : Nat → Nat → Nat) (s : State) : Out1 :=
  let t := tyOf w
  laneOp o (fun i => tyIs w tyAll && !w.sat && i.vOk 32 w.d.toNat && i.aOk w t.w) (w.aRegs t.w)
    (fun i => i.vResult 32 w.d.toNat (i.active o) ((i.aVals w t.w).map (f t.w))) s

/-- D := f(A, s), s an n32 from one register (R109, R111). -/
def laneShift (o : Op) (w : Long) (ty : ITy → Bool) (f : ITy → Nat → Nat → Nat) (s : State) : Out1 :=
  let t := tyOf w
  laneOp o (fun i => tyIs w ty && !w.sat && i.vOk t.w w.d.toNat && i.aOk w t.w && i.bOk w 32)
    (w.aRegs t.w ++ w.bRegs 32)
    (fun i => i.laneOut o t w.d (map2 (f t) (i.aVals w t.w) (i.bVals w tN32))) s

/-- D := f(A, B, C); B at its own type; BSEL = 0b10 is ILLEGAL (R88). -/
def lane3 (o : Op) (w : Long) (ty : ITy → Bool) (satOk : Bool) (tb : ITy → ITy) (subOk : Bool)
    (f : ITy → Nat → Nat → Nat → Nat) (s : State) : Out1 :=
  let t := tyOf w
  laneOp o (fun i => tyIs w ty && (satOk || !w.sat) && subOk && w.bsel != 2 && i.vOk t.w w.d.toNat && i.aOk w t.w &&
      i.bOk w (tb t).w && i.vOk t.w w.c)
    (w.aRegs t.w ++ w.bRegs (tb t).w ++ w.cRegs t.w)
    (fun i => i.laneOut o t w.d (map3 (f t) (i.aVals w t.w) (i.bVals w (tb t)) (i.vVals t.w w.c))) s

/-! The results (R105 to R111), each from operand images of w bits to an image of w bits. -/

def rAdd (sat : Bool) (t : ITy) (a b : Nat) : Nat := t.fit sat (t.val a + t.val b)
def rSub (sat : Bool) (t : ITy) (a b : Nat) : Nat := t.fit sat (t.val a - t.val b)
def rMul (t : ITy) (a b : Nat) : Nat := wrap t.w (t.val a * t.val b)
def rMulh (t : ITy) (a b : Nat) : Nat := wrap t.w (t.val a * t.val b / 2 ^ t.w)
def rMad (sat : Bool) (t : ITy) (a b c : Nat) : Nat := t.fit sat (t.val a * t.val b + t.val c)
def rMin (t : ITy) (a b : Nat) : Nat := wrap t.w (min (t.val a) (t.val b))
def rMax (t : ITy) (a b : Nat) : Nat := wrap t.w (max (t.val a) (t.val b))
def rAbs (t : ITy) (a : Nat) : Nat := wrap t.w ((t.val a).natAbs : Int)
def rNeg (t : ITy) (a : Nat) : Nat := wrap t.w (-(t.val a))
def rAnd (_ : ITy) (a b : Nat) : Nat := a &&& b
def rOr (_ : ITy) (a b : Nat) : Nat := a ||| b
def rXor (_ : ITy) (a b : Nat) : Nat := a ^^^ b
def rAndn (t : ITy) (a b : Nat) : Nat := a &&& (2 ^ t.w - 1 - b % 2 ^ t.w)
def rNot (t : ITy) (a : Nat) : Nat := 2 ^ t.w - 1 - a % 2 ^ t.w

/-- Quotient and remainder (R108). -/
def rDivRem (t : ITy) (a b : Nat) : Nat × Nat :=
  let x := t.val a
  let y := t.val b
  if y = 0 then (2 ^ t.w - 1, a % 2 ^ t.w)
  else if t.signed ∧ x = t.lo ∧ y = -1 then (wrap t.w x, 0)
  else (wrap t.w (x.tdiv y), wrap t.w (x - x.tdiv y * y))

def rShl (t : ITy) (a s : Nat) : Nat := if s < t.w then a * 2 ^ s % 2 ^ t.w else 0
def rShr (t : ITy) (a s : Nat) : Nat := if s < t.w then a % 2 ^ t.w / 2 ^ s else 0
def rSar (t : ITy) (a s : Nat) : Nat := wrap t.w (sext t.w a / 2 ^ min s t.w)
def rRot (t : ITy) (a s : Nat) : Nat :=
  let r := s % t.w
  let a := a % 2 ^ t.w
  (a * 2 ^ r + a / 2 ^ (t.w - r)) % 2 ^ t.w

/-- The funnel shift (R110): `left` for SHF.l. -/
def rShf (left : Bool) (t : ITy) (a s c : Nat) : Nat :=
  let n := min s t.w
  if left then (a * 2 ^ t.w + c) * 2 ^ n / 2 ^ t.w % 2 ^ t.w else (c * 2 ^ t.w + a) / 2 ^ n % 2 ^ t.w

/-- BFX (R111). -/
def rBfx (t : ITy) (a b : Nat) : Nat :=
  let pos := b % 256
  let len := min (b / 256 % 256) t.w
  if len = 0 then 0
  else
    let field := wrap len (t.val a / 2 ^ pos)
    if t.signed then wrap t.w (sext len field) else field

/-- BFI (R111). -/
def rBfi (t : ITy) (a b c : Nat) : Nat :=
  let pos := b % 256
  let len := min (b / 256 % 256) t.w
  let c := c % 2 ^ t.w
  if pos ≥ t.w then c
  else
    let top := min (pos + len) t.w
    c / 2 ^ top * 2 ^ top + (a % 2 ^ len * 2 ^ pos) % 2 ^ top + c % 2 ^ pos

/-- PERM (R104): byte i of the result, from nibble i of B. -/
def rPerm (_ : ITy) (a b c : Nat) : Nat :=
  let src := c * 2 ^ 32 + a
  ((List.range 4).map (fun i =>
    let sel := b / 2 ^ (4 * i) % 16
    let x := src / 2 ^ (8 * (sel % 8)) % 256
    (if sel ≥ 8 then (if x ≥ 128 then 255 else 0) else x) * 2 ^ (8 * i))).sum

def rPopc (w a : Nat) : Nat := ((List.range w).filter (fun j => a.testBit j)).length
def rClz (w a : Nat) : Nat := w - bitLen (a % 2 ^ w)
def rCtz (w a : Nat) : Nat := ((List.range w).find? (fun j => a.testBit j)).getD w
def rBrev (t : ITy) (a : Nat) : Nat :=
  ((List.range t.w).map (fun j => if a.testBit j then 2 ^ (t.w - 1 - j) else 0)).sum

/-! Compare overlay (R112). -/

def Long.cmpOf (w : Long) : Nat := bitsOf (w.imm.toNat) 12 10
/-- The outcome of CMP on two values in the type's order. -/
def cmpInt (c : Nat) (a b : Int) : Bool :=
  match c with
  | 0 => a == b
  | 1 => a != b
  | 2 => a < b
  | 3 => a ≤ b
  | 4 => b < a
  | _ => b ≤ a

/-- The combination with q[CQ] xor CN (R112). -/
def combine (w : Long) (i : Iss) (cs : List Bool) : List Bool :=
  let q := i.G.pred (bitsOf w.imm.toNat 9 7)
  let cn := bitAt w.imm.toNat 6
  (cs.zip (laneBits q)).map (fun (c, x) =>
    let x := x != cn
    match bitsOf w.imm.toNat 5 4 with
    | 0 => c
    | 1 => c && x
    | 2 => c || x
    | _ => c != x)

/-- The combining predicate is read where COMB is not 0. -/
def combRegs (w : Long) : List SrcReg :=
  if bitsOf w.imm.toNat 5 4 = 0 then [] else [.q (bitsOf w.imm.toNat 9 7)]

/-- The compared and combined outcome of ICMP and ISET. -/
def Iss.compare (i : Iss) (w : Long) : List Bool :=
  let t := tyOf w
  combine w i (((i.aVals w t.w).zip (i.bVals w t)).map (fun (a, b) => cmpInt (Long.cmpOf w) (t.val a) (t.val b)))

/-- ICMP and ISET: `out` is where the outcome goes. -/
def laneCompare (o : Op) (w : Long) (dOk : Iss → Bool) (out : Iss → List Bool → List RegWrite) (s : State) : Out1 :=
  let t := tyOf w
  laneOp o (fun i => tyIs w tySN && w.bsel != 2 && Long.cmpOf w < 6 && dOk i && i.aOk w t.w && i.bOk w t.w)
    (w.aRegs t.w ++ w.bRegs t.w ++ combRegs w) (fun i => out i (i.compare w)) s

/-- A lane outcome as a predicate write. -/
def Iss.qOut (i : Iss) (o : Op) (d : BitVec 7) (bs : List Bool) : List RegWrite :=
  [.q (d.toNat % 8) (i.active o) (maskOf bs)]
/-- A lane outcome as all ones or zero in one register. -/
def Iss.setOut (i : Iss) (o : Op) (d : BitVec 7) (bs : List Bool) : List RegWrite :=
  i.vResult 32 d.toNat (i.active o) (bs.map (fun b => if b then 2 ^ 32 - 1 else 0))

/-! IADC, IMADW, SEL, MOV, MOVL. -/

/-- IADC (R106): the carry predicate is SC. -/
def laneAdc (o : Op) (w : Long) (s : State) : Out1 :=
  let t := tyOf w
  let cq := w.sc.toNat
  laneOp o (fun i => tyIs w tyWide && i.vOk t.w w.d.toNat && i.aOk w t.w && i.bOk w t.w)
    (w.aRegs t.w ++ w.bRegs t.w ++ [.q cq])
    (fun i =>
      let sums := ((laneBits (i.G.pred cq)).zip ((i.aVals w t.w).zip (i.bVals w t))).map
        (fun (c, a, b) => a + b + (if c then 1 else 0))
      i.laneOut o t w.d (sums.map (· % 2 ^ t.w)) ++
        [.q cq (i.active o) (maskOf (sums.map (fun x => 2 ^ t.w ≤ x)))]) s

/-- IMADW (R107). -/
def laneMadw (o : Op) (w : Long) (s : State) : Out1 :=
  let t := tyOf w
  laneOp o (fun i => tyIs w (fun t => tyWide t && t.w = 32) && !w.sat && w.bsel != 2 && i.vOk 64 w.d.toNat &&
      i.aOk w 32 && i.bOk w 32 && i.vOk 64 w.c)
    (w.aRegs 32 ++ w.bRegs 32 ++ w.cRegs 64)
    (fun i => i.vResult 64 w.d.toNat (i.active o)
      (map3 (fun a b c => wrap 64 (t.val a * t.val b + (c : Int))) (i.aVals w 32) (i.bVals w t) (i.vVals 64 w.c))) s

/-- SEL (R113); b128 names quads. -/
def laneSel (o : Op) (w : Long) (s : State) : Out1 :=
  let t := tyOf w
  let pq := bitsOf w.imm.toNat 2 0
  let pn := bitAt w.imm.toNat 3
  laneOp o (fun i => tyIs w (fun _ => true) && w.bsel != 2 && i.vOk t.w w.d.toNat && i.aOk w t.w && i.bOk w t.w)
    (w.aRegs t.w ++ w.bRegs t.w ++ [.q pq])
    (fun i => i.laneOut o t w.d
      (((laneBits (i.G.pred pq)).zip ((i.aVals w t.w).zip (i.bVals w t))).map
        (fun (q, a, b) => if q != pn then a else b))) s

/-- MOV (R105): D := B; b128 names quads. -/
def laneMov (o : Op) (w : Long) (s : State) : Out1 :=
  let t := tyOf w
  laneOp o (fun i => tyIs w (fun _ => true) && !w.sat && i.vOk t.w w.d.toNat && i.bOk w t.w) (w.bRegs t.w)
    (fun i => i.laneOut o t w.d (i.bVals w t)) s

/-- MOVL (R114). -/
def laneMovl (o : Op) (w : Long) (s : State) : Out1 :=
  let t := tyOf w
  laneOp o (fun i => tyIs w (fun t => t.isBits && (t.w = 32 || t.w = 64)) && !w.sat && w.lit.isSome && w.bsel == 3 &&
      i.vOk t.w w.d.toNat) []
    (fun i => i.laneOut o t w.d (splat (if t.w = 64 then wrap 32 w.immI * 2 ^ 32 + w.litNat else w.litNat))) s

/-! The instructions. -/

def execIadd32 (o : Short) : State → Out1 := lane2 (Op.short 0x00 1) (o.wide 2 0 0) tySN true (rAdd false)
def execIadd64 (w : Long) : State → Out1 := lane2 (Op.long 0x00 1 w) w tySN true (rAdd w.sat)
def execIaddUb (o : Short) : State → Out1 := lane2 (Op.short 0x0B 0) (o.wide 2 0 1) tySN true (rAdd false)
def execIsub32 (o : Short) : State → Out1 := lane2 (Op.short 0x00 2) (o.wide 2 0 0) tySN true (rSub false)
def execIsub64 (w : Long) : State → Out1 := lane2 (Op.long 0x00 2 w) w tySN true (rSub w.sat)
def execIsubUb (o : Short) : State → Out1 := lane2 (Op.short 0x0B 1) (o.wide 2 0 1) tySN true (rSub false)
def execIadc32 (o : Short) : State → Out1 := laneAdc (Op.short 0x00 3) (o.wide 2 6 0)
def execIadc64 (w : Long) : State → Out1 := laneAdc (Op.long 0x00 3 w) w
def execImul32 (o : Short) : State → Out1 := lane2 (Op.short 0x00 4) (o.wide 2 0 0) tySN false rMul
def execImul64 (w : Long) : State → Out1 := lane2 (Op.long 0x00 4 w) w tySN false rMul
def execImulUb (o : Short) : State → Out1 := lane2 (Op.short 0x0B 2) (o.wide 2 0 1) tySN false rMul
def execImulh32 (o : Short) : State → Out1 := lane2 (Op.short 0x00 5) (o.wide 2 0 0) tyWide false rMulh
def execImulh64 (w : Long) : State → Out1 := lane2 (Op.long 0x00 5 w) w tyWide false rMulh
def execImad (w : Long) : State → Out1 := lane3 (Op.long 0x00 6 w) w tySN true id true (rMad w.sat)
def execImadw (w : Long) : State → Out1 := laneMadw (Op.long 0x00 7 w) w
def execIdiv (w : Long) : State → Out1 := lane2 (Op.long 0x01 0 w) w tySN false (fun t a b => (rDivRem t a b).1)
def execIrem (w : Long) : State → Out1 := lane2 (Op.long 0x01 1 w) w tySN false (fun t a b => (rDivRem t a b).2)
def execImin32 (o : Short) : State → Out1 := lane2 (Op.short 0x01 2) (o.wide 2 0 0) tySN false rMin
def execImin64 (w : Long) : State → Out1 := lane2 (Op.long 0x01 2 w) w tySN false rMin
def execImax32 (o : Short) : State → Out1 := lane2 (Op.short 0x01 3) (o.wide 2 0 0) tySN false rMax
def execImax64 (w : Long) : State → Out1 := lane2 (Op.long 0x01 3 w) w tySN false rMax
def execIabs32 (o : Short) : State → Out1 := lane1 (Op.short 0x01 4) (o.wide 2 0 0) (fun t => t.signed) rAbs
def execIabs64 (w : Long) : State → Out1 := lane1 (Op.long 0x01 4 w) w (fun t => t.signed) rAbs
def execIneg32 (o : Short) : State → Out1 := lane1 (Op.short 0x01 5) (o.wide 2 0 0) tySN rNeg
def execIneg64 (w : Long) : State → Out1 := lane1 (Op.long 0x01 5 w) w tySN rNeg
def execSel (w : Long) : State → Out1 := laneSel (Op.long 0x01 6 w) w
def execIset (w : Long) : State → Out1 :=
  laneCompare (Op.long 0x01 7 w) w (fun i => i.vOk 32 w.d.toNat) (fun i => i.setOut (Op.long 0x01 7 w) w.d)
def execIcmp (w : Long) : State → Out1 :=
  laneCompare (Op.long 0x02 0 w) w (fun _ => true) (fun i => i.qOut (Op.long 0x02 0 w) w.d)
def execAnd32 (o : Short) : State → Out1 := lane2 (Op.short 0x02 1) (o.wide 10 0 0) tyAll false rAnd
def execAnd64 (w : Long) : State → Out1 := lane2 (Op.long 0x02 1 w) w tyAll false rAnd
def execAndUb (o : Short) : State → Out1 := lane2 (Op.short 0x0B 3) (o.wide 2 0 1) tyAll false rAnd
def execOr32 (o : Short) : State → Out1 := lane2 (Op.short 0x02 2) (o.wide 10 0 0) tyAll false rOr
def execOr64 (w : Long) : State → Out1 := lane2 (Op.long 0x02 2 w) w tyAll false rOr
def execOrUb (o : Short) : State → Out1 := lane2 (Op.short 0x0B 4) (o.wide 2 0 1) tyAll false rOr
def execXor32 (o : Short) : State → Out1 := lane2 (Op.short 0x02 3) (o.wide 10 0 0) tyAll false rXor
def execXor64 (w : Long) : State → Out1 := lane2 (Op.long 0x02 3 w) w tyAll false rXor
def execXorUb (o : Short) : State → Out1 := lane2 (Op.short 0x0B 5) (o.wide 2 0 1) tyAll false rXor
def execAndn32 (o : Short) : State → Out1 := lane2 (Op.short 0x02 4) (o.wide 10 0 0) tyAll false rAndn
def execAndn64 (w : Long) : State → Out1 := lane2 (Op.long 0x02 4 w) w tyAll false rAndn
def execNot32 (o : Short) : State → Out1 := lane1 (Op.short 0x02 5) (o.wide 10 0 0) tyAll rNot
def execNot64 (w : Long) : State → Out1 := lane1 (Op.long 0x02 5 w) w tyAll rNot
def execMov32 (o : Short) : State → Out1 := laneMov (Op.short 0x02 6) (o.wide 10 0 0)
def execMov64 (w : Long) : State → Out1 := laneMov (Op.long 0x02 6 w) w
def execMovl (w : Long) : State → Out1 := laneMovl (Op.long 0x02 7 w) w
def execShl32 (o : Short) : State → Out1 := laneShift (Op.short 0x03 0) (o.wide 10 0 0) tyAll rShl
def execShl64 (w : Long) : State → Out1 := laneShift (Op.long 0x03 0 w) w tyAll rShl
def execShlUb (o : Short) : State → Out1 := laneShift (Op.short 0x0B 6) (o.wide 2 0 1) tyAll rShl
def execShr32 (o : Short) : State → Out1 := laneShift (Op.short 0x03 1) (o.wide 10 0 0) tyAll rShr
def execShr64 (w : Long) : State → Out1 := laneShift (Op.long 0x03 1 w) w tyAll rShr
def execShrUb (o : Short) : State → Out1 := laneShift (Op.short 0x0B 7) (o.wide 2 0 1) tyAll rShr
def execSar32 (o : Short) : State → Out1 := laneShift (Op.short 0x03 2) (o.wide 10 0 0) tyAll rSar
def execSar64 (w : Long) : State → Out1 := laneShift (Op.long 0x03 2 w) w tyAll rSar
def execRot32 (o : Short) : State → Out1 := laneShift (Op.short 0x03 3) (o.wide 10 0 0) tyAll rRot
def execRot64 (w : Long) : State → Out1 := laneShift (Op.long 0x03 3 w) w tyAll rRot
def execShf (w : Long) : State → Out1 :=
  lane3 (Op.long 0x03 4 w) w (fun t => t.isBits && (t.w = 32 || t.w = 64)) false (fun _ => tN32) (w.sub < 2)
    (rShf (w.sub == 1))
def execBfx (w : Long) : State → Out1 := laneShift (Op.long 0x03 5 w) w tySN rBfx
def execBfi (w : Long) : State → Out1 := lane3 (Op.long 0x03 6 w) w tyAll false (fun _ => tN32) true rBfi
def execPerm (w : Long) : State → Out1 :=
  lane3 (Op.long 0x03 7 w) w (fun t => t.isBits && t.w = 32) false (fun _ => tN32) true rPerm
def execPopc32 (o : Short) : State → Out1 := laneCount1 (Op.short 0x04 0) (o.wide 10 0 0) rPopc
def execPopc64 (w : Long) : State → Out1 := laneCount1 (Op.long 0x04 0 w) w rPopc
def execClz32 (o : Short) : State → Out1 := laneCount1 (Op.short 0x04 1) (o.wide 10 0 0) rClz
def execClz64 (w : Long) : State → Out1 := laneCount1 (Op.long 0x04 1 w) w rClz
def execCtz32 (o : Short) : State → Out1 := laneCount1 (Op.short 0x04 2) (o.wide 10 0 0) rCtz
def execCtz64 (w : Long) : State → Out1 := laneCount1 (Op.long 0x04 2 w) w rCtz
def execBrev32 (o : Short) : State → Out1 := lane1 (Op.short 0x04 3) (o.wide 10 0 0) tyAll rBrev
def execBrev64 (w : Long) : State → Out1 := lane1 (Op.long 0x04 3 w) w tyAll rBrev

end Sys2Proof.Machine
end

