-- ==== Sys2Proof/Machine/Memory.lean ====
section
/-! DEFINITION. Loads and stores, row 0x28 (R162 to R174): addresses, checks, the accesses. -/

namespace Sys2Proof.Machine

/-! Addresses (R162). -/

/-- One lane's access: lane, capability, address as a mathematical integer. -/
structure Acc where
  l : Nat
  c : CapV
  a : Int
  deriving DecidableEq, Repr

/-- The address of an access that has passed its bounds check. -/
def Acc.addr (x : Acc) : Nat := x.a.toNat

/-- A names a capability quad of the stream. -/
def Iss.capOk (i : Iss) (w : Long) : Bool :=
  if i.ctl then w.asel == 0 && cOk 128 w.a.toNat
  else if w.asel = 0 then i.vOk 128 w.a.toNat else w.asel == 1 && kOk 128 w.a.toNat
/-- B supplies an offset. -/
def Iss.offOk (i : Iss) (w : Long) : Bool := if i.ctl then w.bsel != 1 else w.bsel != 0 || i.vOk 32 w.b.toNat
/-- The offsets, lane 0 first; `imm` is what BSEL = 0b10 gives. -/
def Iss.offs (i : Iss) (w : Long) (imm : Int) : List Int :=
  if w.bsel = 2 then splat imm
  else if w.bsel = 3 then splat (sext 32 w.litNat)
  else if i.ctl then [(i.cReg w.b.toNat).toInt]
  else if w.bsel = 1 then splat (sext 32 (i.kVal 32 w.b.toNat))
  else (i.vVals 32 w.b.toNat).map (sext 32)
/-- The capability of a lane. -/
def Iss.capAt (i : Iss) (w : Long) (l : Nat) : CapV :=
  if i.ctl then i.cpVal w.a.toNat else if w.asel = 1 then i.kpVal w.a.toNat else i.vpVal w.a.toNat l
/-- The registers that form the address. -/
def Iss.addrRegs (i : Iss) (w : Long) : List SrcReg := if i.ctl then [] else w.aRegs 128 ++ w.bRegs 32
/-- P of the group (R14, R226). -/
def Iss.slice (i : Iss) : Nat := i.G.psize

/-- The accesses of the lanes of a mask. -/
def Iss.accs (i : Iss) (w : Long) (m : LaneMask) (imm : Int) (pv : Bool) : List Acc :=
  let os := i.offs w imm
  (lanesOf m).map (fun l =>
    let c := i.capAt w l
    ⟨l, c, (c.cursor : Int) + (os[l]?).getD 0 + (if pv then (l * i.slice : Nat) else 0)⟩)

/-! Checks (R49, R51, R163, R164, R169, R173). -/

/-- What a use asks: forms, permissions, natural alignment, and the value each lane stores as a capability. -/
structure LsUse where
  forms : List Nat
  perms : Nat
  align : Bool
  write : Bool
  stored : Nat → Option CapV

/-- Steps 1 to 8 of R49 for one lane's access of `n` bytes. -/
def Iss.useErr (i : Iss) (u : LsUse) (n : Nat) (x : Acc) : Option CapErr :=
  let sys := (sysBase : Int) ≤ x.a && x.a < ((sysBase + 0x100000000000 : Nat) : Int)
  let host := (hostBase : Int) ≤ x.a && x.a < (peerBase : Int)
  let tagged := (u.stored x.l).filter (·.tag)
  let more : Bool := match tagged with
    | some v => host || (!v.has pGL && !((i.T.spad.base : Int) ≤ x.a && x.a + n ≤ i.T.spad.top))
    | none => false
  let more := more || (sys && i.colour != 0)
  let perms := u.perms ||| (if sys then pSY else 0) ||| (if tagged.isSome then pSC else 0)
  match x.c.check ⟨if sys then [0] else u.forms, perms⟩ i.colour (i.s.colourOk i.colour) more x.a n with
  | some e => some e
  | none => if u.align && x.a % n != 0 then some (.cap subBOUNDS) else none

/-- The refusal of one lane's access, step 8 of R49 included. -/
def Iss.lsErr (i : Iss) (u : LsUse) (n : Nat) (x : Acc) : Option CapErr :=
  match i.useErr u n x with
  | some e => some e
  | none =>
    if n = 0 then none
    else (i.s.rangeRefusal i.core i.colour x.addr n u.write).map CapErr.cap

/-- The trap that a list of failing lanes calls for: ILLEGAL before CAPABILITY before INEXACT; the subcause is the lowest
lane's; `whole` puts every lane of the path in the mask (R51, R182). -/
def Iss.capTrap (i : Iss) (whole : Bool) (errs : List (Nat × CapErr)) : Except Stop Unit :=
  let mask (ls : List Nat) : LaneMask := if whole then i.p.mask else maskOfLanes ls
  let ill := errs.filter (fun e => e.2 == .illegal)
  let caps := errs.filterMap (fun e => match e.2 with | .cap k => some (e.1, k) | _ => none)
  let inx := errs.filter (fun e => e.2 == .inexact)
  if !ill.isEmpty then i.trap cILLEGAL 0 (mask (ill.map (·.1)))
  else match caps with
    | (_, k) :: _ => i.trap cCAPABILITY k (mask (caps.map (·.1)))
    | [] => if inx.isEmpty then .ok () else i.trap cINEXACT 0 (mask (inx.map (·.1)))

/-- The capability checks of every access (R173 steps 2 and 3). -/
def Iss.lsCheck (i : Iss) (u : LsUse) (n : Nat) (whole : Bool) (xs : List Acc) : Except Stop Unit :=
  i.capTrap whole (xs.filterMap (fun x => (i.lsErr u n x).map (fun e => (x.l, e))))

/-- Whether a load lies inside the task's parameter block, PBYTES from PARAM's cursor, which needs no region record
(DEDUCED, log 32). -/
def Iss.inParam (i : Iss) (a n : Nat) : Bool :=
  i.T.param.cursor ≤ a &&
    a + n ≤ i.T.param.cursor + ((i.s.task i.T.task).map (fun k => bitsOf k.record.toNat 1375 1344)).getD 0

/-- The region check (R173 step 4, R373 to R376); the records whose written bits the accesses set (R377). -/
def Iss.lsRegion (i : Iss) (k : RKind) (n : Nat) (whole : Bool) (xs : List Acc) : Except Stop (List Nat) :=
  let xs := xs.filter (fun x => regionChecked x.addr && !(k == .read && i.inParam x.addr n))
  match xs.filter (fun x => (admitting i.T.regions x.addr (x.addr + n) k).isEmpty) with
  | x :: bad => .error (.trap (Trap.of cUNDECLARED 0 (regionDetail i.T.regions x.addr (x.addr + n))
      (if whole then i.p.mask else maskOfLanes (x.l :: bad.map (·.l)))))
  | [] => .ok (if k == .read then [] else xs.flatMap (fun x => admitting i.T.regions x.addr (x.addr + n) k))

/-! Memory-side refusals (R174, R446). -/

/-- DETAIL of an ECC fault: the structure that holds the poisoned unit (R330). -/
def Mem.eccWhere (m : Mem) (core colour gr : Nat) : Nat :=
  if 16 * gr < hbmTop ∧ m.hits core (gr / 8) colour = true then 5 else m.eccAt (16 * gr)

/-- The refusal of one lane's access at the memory side: cause, subcause, DETAIL. -/
def Iss.refusal (i : Iss) (s : State) (n : Nat) (write reads : Bool) (x : Acc) : Option (Nat × Nat × Nat) :=
  match s.extRange i.colour x.addr n write with
  | some (c, k) => some (c, k, 0)
  | none =>
    if reads then
      ((granules x.addr n).find? (fun g => s.mem.lsPoison i.core i.colour g)).map
        (fun g => (cECC, 0, s.mem.eccWhere i.core i.colour g))
    else none

/-- The accesses that are performed in a state, and the state with the others' refusal held as a late fault (R93, R174):
the cause is the lowest lane's. -/
def Iss.perform (i : Iss) (s : State) (n : Nat) (write reads whole : Bool) (xs : List Acc) : List Acc × State :=
  match xs.filterMap (fun x => (i.refusal s n write reads x).map (fun r => (x.l, r))) with
  | [] => (xs, s)
  | (l, c, k, d) :: rest =>
    let bad := l :: rest.map (·.1)
    let f : LateFault := { cause := c, sub := k, detail := d, lanes := if whole then i.p.mask else maskOfLanes bad,
                           pc := i.p.pc }
    let no := xs.filter (fun x => (s.extRange i.colour x.addr n write).isSome)
    (xs.filter (fun x => !bad.contains x.l),
     (s.setPath i.ag { i.p with late := i.p.late ++ [f] }).watchLs i.core i.colour 3 (no.map (fun x => (x.addr, n))))

/-! The accesses. -/

/-- Whether an address lies in the host window. -/
def isHost (a : Nat) : Bool := whereIs a == .host
/-- Whether an address lies in device system space. -/
def isSys (a : Nat) : Bool := whereIs a == .sys

/-- L1 misses and L2 requests counted (R228), the lines of HBM brought into the L1. -/
def State.fill (s : State) (core colour : Nat) (lines : List Nat) : State :=
  let miss := lines.filter (fun l => !s.mem.hits core l colour)
  let c := s.core core
  let s := s.room core colour lines
  let s := if miss.isEmpty then s else
    s.setCore core { c with l1miss := c.l1miss + miss.length, l2req := c.l2req + miss.length }
  { s with mem := miss.foldl (fun m l => m.touch core colour l) s.mem }

/-- The HBM lines of a list of accesses. -/
def hbmLines (xs : List Acc) (n : Nat) : List Nat :=
  (xs.flatMap (fun x => if x.addr < hbmTop then linesOf x.addr n else [])).eraseDups

/-- Before a load: an acquire at a wide scope works on the home (R291); any other load fills the L1. -/
def State.beforeLoad (s : State) (core colour : Nat) (acq : Bool) (xs : List Acc) (n : Nat) : State :=
  let ls := hbmLines xs n
  if acq then { s with mem := ls.foldl (fun m l => m.acquireLine core colour l) s.mem }
  else s.fill core colour ls

/-- The accesses that the extent table admits (R50). -/
def Iss.admitted (i : Iss) (n : Nat) (write : Bool) (xs : List Acc) : List Acc :=
  xs.filter (fun x => (i.s.extRange i.colour x.addr n write).isNone)

/-- Before the memory side answers: what an acquire at a wide scope does at the homes of the lines admitted (R291). -/
def Iss.atHome (i : Iss) (acq : Bool) (n : Nat) (write : Bool) (xs : List Acc) : State :=
  if acq then i.s.beforeLoad i.core i.colour true (i.admitted n write xs) n else i.s

/-- The lines of a load brought in (unless it acquired them at their homes), and what hints make of their place in the L1
(R243). -/
def Iss.fills (i : Iss) (s : State) (acq : Bool) (xs : List Acc) (n : Nat) : State :=
  if acq then s
  else
    let ls := hbmLines xs n
    let new := ls.filter (fun l => !s.mem.hits i.core l i.colour)
    let s := s.beforeLoad i.core i.colour false xs n
    if i.p.steer.lastUse then { s with mem := s.mem.markFirst i.core i.colour ls }
    else if i.p.steer.streamIn then { s with mem := s.mem.markFirst i.core i.colour new }
    else s

/-- Room in the L1 for the lines that a store is about to hold, and the state after it, with those lines to be replaced
first under STREAMOUT (R243). -/
def Iss.storing (i : Iss) (s : State) (xs : List Acc) (n : Nat) (f : State → State) : State :=
  let ls := hbmLines xs n
  let new := ls.filter (fun l => !s.mem.hits i.core l i.colour)
  let s := f (s.room i.core i.colour ls)
  if i.p.steer.streamOut then { s with mem := s.mem.markFirst i.core i.colour new } else s
/-- After a load: step 5 of R291. -/
def State.afterLoad (s : State) (core colour sc : Nat) (acq : Bool) : State :=
  if acq then { s with mem := s.mem.acquireFence core colour sc } else s

/-- The number that a load of n bytes returns. -/
def State.loadNat (s : State) (core colour a n : Nat) : Nat :=
  leNat (if isSys a then s.sysRead a n else s.mem.lsRead core colour a n)

/-- A granule loaded as a capability (R168). -/
def State.loadCap (s : State) (core colour : Nat) (x : Acc) : CapV :=
  let v : CapV := ⟨BitVec.ofNat 128 (s.loadNat core colour x.addr 16),
    s.mem.lsTag core colour (x.addr / 16) && x.c.has pLC⟩
  s.filter v

/-- A store of bytes by a core's LS path: to the host window it is posted. -/
def State.storeBytes (s : State) (core colour a : Nat) (bs : List Byte) : State :=
  if isHost a then s.send (.hostWrite (a - hostBase) bs) else { s with mem := s.mem.lsWrite core colour a bs }
/-- A store of a granule with a tag (R169, R421). -/
def State.storeCap (s : State) (core colour a : Nat) (c : CapV) : State :=
  if isHost a then s.send (.hostWrite (a - hostBase) (leBytes 16 c.bits.toNat))
  else { s with mem := s.mem.lsWriteTagged core colour a (leBytes 16 c.bits.toNat) (s.filter c).tag }

/-- Around a store: a release access records itself or drains before, and is itself performed at the home where it
drains eagerly (R285, R290, R292). -/
def State.releasing (s : State) (core colour sc : Nat) (rel : Bool) (as : List Nat) (f : State → State) : State :=
  if rel && scopeWide sc then
    let m := s.mem.releaseAccess core colour sc as
    let s := f { s with mem := m }
    if m.eager core colour sc as then { s with mem := s.mem.drain core colour } else s
  else f s

/-- A host-window request of an instruction opened (R163): its number, the state. The instruction's results hold zeros in
those lanes until the data arrives, so that a shadow's write discards them there (R91). -/
def Iss.hostOpen (i : Iss) (s : State) (xs : List Acc) (n : Nat) (signed : Bool) (dst : HostDst) (kind cq : Nat)
    (expect : List Nat) (acq : Option Nat) (out : Nat → Acc → Out) : Option Nat × State :=
  if xs.isEmpty then (none, s)
  else
    let id := s.io.reqNo
    let r : HostReq := { ag := i.ag, pc := i.p.pc, lanes := xs.map (·.l), size := n, signed := signed, dst := dst,
                         kind := kind, cq := cq, expect := expect, fn := i.T.fn, acq := acq }
    (some id, { s with io := { reqs := Tbl.set s.io.reqs id r, reqNo := id + 1,
                               out := s.io.out ++ xs.map (out id) } })

/-- A non-posted read. -/
def readOut (n id : Nat) (x : Acc) : Out := .hostRead id (x.addr - hostBase) n

/-! Order within the path (R171, R285, R300): a path's accesses are performed as it issues them, but for the requests that
the host window answers. -/

/-- Every load, store and atomic of the path has been performed: no host-window request is outstanding. -/
def Iss.performed (i : Iss) : Bool := i.p.pend.all (·.ready)

/-- An acquire of the path still waits for the host window. -/
def Iss.acquiring (i : Iss) : Bool :=
  i.p.pend.any (fun q => !q.ready && (q.req.bind (fun id => Tbl.get i.s.io.reqs id)).any (fun r => r.acq.isSome))

/-- An access waits for an acquire before it, and a release for every access before it. -/
def Iss.inOrder (i : Iss) (rel : Bool) : Except Stop Unit :=
  if i.acquiring || (rel && !i.performed) then .error (.wait .result (fun s => s)) else .ok ()

/-- The scope of an acquire of the host window. -/
def Long.acqScope (w : Long) : Option Nat := if w.ord % 2 = 1 then some w.sc.toNat else none

/-! LD, ST, LDC, STC (R166, R168, R169). -/

/-- The type of a load or store: any integer-class type (R165). -/
def tyMem (w : Long) : Bool := w.ty.toNat ≤ 12

/-- Values placed by lane in a list of 96. -/
def byLane (l : List (Nat × Nat)) : List Nat := (List.range laneCount).map (fun j => ((l.find? (·.1 == j)).map (·.2)).getD 0)

def memLd (o : Op) (w : Long) (s : State) : Out1 :=
  let t := tyOf w
  let n := t.w / 8
  runInstr o (fun i => tyMem w && w.ord < 2 && i.capOk w && i.offOk w && i.vOk t.w w.d.toNat) (fun i => do
    let act := i.active o
    i.ecc act (o.guardRegs ++ i.addrRegs w)
    let xs := i.accs w act w.off10 (bitAt w.imm.toNat 10)
    i.lsCheck ⟨[0, 3], pLD, false, false, fun _ => none⟩ n false xs
    let _ ← i.lsRegion .read n false xs
    i.inOrder false
    let acq := w.ord == 1 && scopeWide w.sc.toNat
    let (ok, s1) := i.perform (i.atHome acq n false xs) n false true false xs
    let far := ok.filter (fun x => isHost x.addr)
    let near := ok.filter (fun x => !isHost x.addr)
    let s2 := i.fills s1 acq near n
    let vals := byLane (near.map (fun x => (x.l, t.image (s2.loadNat i.core i.colour x.addr n))))
    let m := maskOfLanes (ok.map (·.l))
    let s3 := (s2.afterLoad i.core i.colour w.sc.toNat acq).watchLs i.core i.colour 0 (near.map (fun x => (x.addr, n)))
    let row := i.G.rowNo w.d.toNat
    let (req, s4) := i.hostOpen s3 far n t.signed (.v row) 0 7 [] (Long.acqScope w) (readOut n)
    .ok { s := s4, ws := if t.w = 128 then i.vpResult w.d.toNat m vals 0 else i.vResult t.w w.d.toNat m vals,
          flags := 0, pc := none, req := req, moved := false }) s

def memLdc (o : Op) (w : Long) (s : State) : Out1 :=
  runInstr o (fun i => w.ty == 12 && w.ord < 2 && i.capOk w && i.offOk w && i.vOk 128 w.d.toNat) (fun i => do
    let act := i.active o
    i.ecc act (o.guardRegs ++ i.addrRegs w)
    let xs := i.accs w act w.off10 (bitAt w.imm.toNat 10)
    i.lsCheck ⟨[0, 3], pLD, true, false, fun _ => none⟩ 16 false xs
    let _ ← i.lsRegion .read 16 false xs
    i.inOrder false
    let acq := w.ord == 1 && scopeWide w.sc.toNat
    let (ok, s1) := i.perform (i.atHome acq 16 false xs) 16 false true false xs
    let far := ok.filter (fun x => isHost x.addr)
    let near := ok.filter (fun x => !isHost x.addr)
    let s2 := i.fills s1 acq near 16
    let cs := near.map (fun x => (x.l, s2.loadCap i.core i.colour x))
    let m := maskOfLanes (ok.map (·.l))
    let s3 := (s2.afterLoad i.core i.colour w.sc.toNat acq).watchLs i.core i.colour 0 (near.map (fun x => (x.addr, 16)))
    let (req, s4) := i.hostOpen s3 far 16 false (.v (i.G.rowNo w.d.toNat)) 0 7 [] (Long.acqScope w) (readOut 16)
    .ok { s := s4, flags := 0, pc := none, req := req, moved := false,
          ws := i.vpResult w.d.toNat m (byLane (cs.map (fun (l, c) => (l, c.bits.toNat))))
            (maskOfLanes ((cs.filter (·.2.tag)).map (·.1))) }) s

def memSt (o : Op) (w : Long) (s : State) : Out1 :=
  let t := tyOf w
  let n := t.w / 8
  runInstr o (fun i => tyMem w && (w.ord == 0 || w.ord == 2) && i.capOk w && i.offOk w && i.vOk t.w w.d.toNat) (fun i => do
    let act := i.active o
    i.ecc act (o.guardRegs ++ i.addrRegs w ++ srcRegs false t.w w.d.toNat)
    let xs := i.accs w act w.off10 (bitAt w.imm.toNat 10)
    i.lsCheck ⟨[0, 3], pST, false, true, fun _ => none⟩ n false xs
    let marks ← i.lsRegion .write n false xs
    i.inOrder (w.ord == 2)
    let (ok, s1) := i.perform i.s n true false false xs
    let data := i.vVals t.w w.d.toNat
    let s2 := s1.markWritten i.T.task marks
    let s3 := i.storing s2 ok n (fun s => s.releasing i.core i.colour w.sc.toNat (w.ord == 2) (ok.map Acc.addr) (fun s =>
      ok.foldl (fun s x => s.storeBytes i.core i.colour x.addr (leBytes n ((data[x.l]?).getD 0))) s))
    .ok (Done.only (s3.watchLs i.core i.colour 1 (ok.map (fun x => (x.addr, n)))))) s

def memStc (o : Op) (w : Long) (s : State) : Out1 :=
  runInstr o (fun i => w.ty == 12 && (w.ord == 0 || w.ord == 2) && i.capOk w && i.offOk w && i.vOk 128 w.d.toNat)
    (fun i => do
    let act := i.active o
    i.ecc act (o.guardRegs ++ i.addrRegs w ++ srcRegs false 128 w.d.toNat)
    let xs := i.accs w act w.off10 (bitAt w.imm.toNat 10)
    let val (l : Nat) : CapV := i.vpVal w.d.toNat l
    i.lsCheck ⟨[0, 3], pST, true, true, fun l => some (val l)⟩ 16 false xs
    let marks ← i.lsRegion .write 16 false xs
    i.inOrder (w.ord == 2)
    let (ok, s1) := i.perform i.s 16 true false false xs
    let s2 := s1.markWritten i.T.task marks
    let s3 := i.storing s2 ok 16 (fun s => s.releasing i.core i.colour w.sc.toNat (w.ord == 2) (ok.map Acc.addr) (fun s =>
      ok.foldl (fun s x => s.storeCap i.core i.colour x.addr (val x.l)) s))
    .ok (Done.only (s3.watchLs i.core i.colour 1 (ok.map (fun x => (x.addr, 16)))))) s

/-! LDU, STU (R167). -/

/-- Selectors of a load or store that acts once. -/
def Iss.onceOk (i : Iss) (o : Op) (w : Long) : Bool :=
  i.capOk w && i.offOk w && !bitAt w.imm.toNat 10 && (i.ctl || (w.asel == 1 && w.bsel != 0 && o.unguarded))
/-- The registers of a stream's operand, for poison. -/
def Iss.onceRegs (i : Iss) (wd n : Nat) : List SrcReg := if i.ctl then [] else srcRegs true wd n

def memLdu (o : Op) (w : Long) (s : State) : Out1 :=
  let t := tyOf w
  let n := t.w / 8
  runInstr o (fun i => tyMem w && w.ord < 2 && i.onceOk o w && i.dOnce t.w w.d.toNat) (fun i => do
    i.ecc i.p.mask (i.addrRegs w)
    let xs := i.accs w 1 w.off10 false
    i.lsCheck ⟨[0, 3], pLD, t.w = 128, false, fun _ => none⟩ n true xs
    let _ ← i.lsRegion .read n true xs
    i.inOrder false
    let acq := w.ord == 1 && scopeWide w.sc.toNat
    let (ok, s1) := i.perform (i.atHome acq n false xs) n false true true xs
    let d := w.d.toNat % 64
    match ok with
    | [] => .ok (Done.only s1)
    | x :: _ =>
      if isHost x.addr then
        let (req, s2) := i.hostOpen s1 ok n t.signed (if i.ctl then .c d else .k d) 0 7 [] (Long.acqScope w) (readOut n)
        .ok { Done.only s2 with req := req, ws := if t.w = 128 then i.capResult d CapV.zero else i.dResult t d 0 }
      else
        let s2 := i.fills s1 acq ok n
        let ws :=
          if t.w = 128 then i.capResult d (s2.loadCap i.core i.colour x)
          else i.dResult t d (s2.loadNat i.core i.colour x.addr n)
        .ok { Done.only ((s2.afterLoad i.core i.colour w.sc.toNat acq).watchLs i.core i.colour 0 [(x.addr, n)]) with
              ws := ws }) s

def memStu (o : Op) (w : Long) (s : State) : Out1 :=
  let t := tyOf w
  let n := t.w / 8
  runInstr o (fun i => tyMem w && (w.ord == 0 || w.ord == 2) && i.onceOk o w && i.dOnce t.w w.d.toNat) (fun i => do
    i.ecc i.p.mask (i.addrRegs w ++ i.onceRegs t.w w.d.toNat)
    let xs := i.accs w 1 w.off10 false
    let cap := i.capOnce w.d.toNat
    i.lsCheck ⟨[0, 3], pST, t.w = 128, true, fun _ => if t.w = 128 then some cap else none⟩ n true xs
    let marks ← i.lsRegion .write n true xs
    i.inOrder (w.ord == 2)
    let (ok, s1) := i.perform i.s n true false true xs
    let s2 := s1.markWritten i.T.task marks
    let s3 := i.storing s2 ok n (fun s => s.releasing i.core i.colour w.sc.toNat (w.ord == 2) (ok.map Acc.addr) (fun s =>
      ok.foldl (fun s x =>
        if t.w = 128 then s.storeCap i.core i.colour x.addr cap
        else s.storeBytes i.core i.colour x.addr (leBytes n (i.regOnce t.w w.d.toNat))) s))
    .ok (Done.only (s3.watchLs i.core i.colour 1 (ok.map (fun x => (x.addr, n)))))) s

/-! PREF (R170). -/

def memPref (o : Op) (w : Long) (s : State) : Out1 :=
  runInstr o (fun i => w.ord == 0 && w.d.toNat % 4 < 2 && i.capOk w && i.offOk w) (fun i => do
    let act := i.active o
    i.ecc act (o.guardRegs ++ i.addrRegs w)
    let xs := i.accs w act w.off10 (bitAt w.imm.toNat 10)
    let ok := xs.filter (fun x => (i.lsErr ⟨[0, 3], pLD, false, false, fun _ => none⟩ 1 x).isNone &&
      (i.s.extRange i.colour x.addr 1 false).isNone)
    let lines := hbmLines ok 1
    .ok (Done.only (if w.d.toNat % 4 = 0 then i.s.fill i.core i.colour lines else i.s))) s

def execLd (w : Long) : State → Out1 := memLd (Op.long 0x28 0 w) w
def execSt (w : Long) : State → Out1 := memSt (Op.long 0x28 1 w) w
def execLdu (w : Long) : State → Out1 := memLdu (Op.long 0x28 2 w) w
def execStu (w : Long) : State → Out1 := memStu (Op.long 0x28 3 w) w
def execLdc (w : Long) : State → Out1 := memLdc (Op.long 0x28 4 w) w
def execStc (w : Long) : State → Out1 := memStc (Op.long 0x28 5 w) w
def execPref (w : Long) : State → Out1 := memPref (Op.long 0x28 6 w) w

end Sys2Proof.Machine
end

