-- ==== Sys2Proof/Machine/Append.lean ====
section
/-! DEFINITION. Appending commands: TCOPY, RCOPY, APND, MMA, MZERO, MLOAD, MSTORE, MDRAIN, COLL (R198, R202, R205, R212,
R213, R216). -/

namespace Sys2Proof.Machine

/-! Command blocks (R203, R211, R215): 512 bits and the tags of four granules. -/

/-- A block with its tags. -/
structure Blk where
  bits : BitVec 512
  tags : BitVec 4
  deriving DecidableEq, Repr

/-- Bits h:l of a block. -/
def Blk.get (b : Blk) (h l : Nat) : Nat := bitsOf b.bits.toNat h l
/-- Bits h:l replaced. -/
def Blk.put (b : Blk) (h l v : Nat) : Blk := { b with bits := BitVec.ofNat 512 (setBits b.bits.toNat h l v) }
/-- The capability in granule j. -/
def Blk.cap (b : Blk) (j : Nat) : CapV := ⟨b.bits.extractLsb' (128 * j) 128, b.tags.getLsbD j⟩
/-- Granule j replaced by a capability. -/
def Blk.putCap (b : Blk) (j : Nat) (c : CapV) : Blk :=
  let t : BitVec 4 := BitVec.ofNat 4 (2 ^ j)
  { bits := BitVec.ofNat 512 (setBits b.bits.toNat (128 * j + 127) (128 * j) c.bits.toNat)
    tags := if c.tag then b.tags ||| t else b.tags &&& ~~~t }
/-- The block of a command. -/
def Cmd.block (c : Cmd) : Blk := ⟨c.blk, c.tags⟩

/-- X, Y and Z of a copy (R204). -/
def Blk.xb (b : Blk) : Nat := b.get 470 448
def Blk.rows (b : Blk) : Nat := b.get 482 471 + 1
def Blk.planes (b : Blk) : Nat := b.get 490 483 + 1
/-- T, the bytes of a copy. -/
def Blk.total (b : Blk) : Nat := b.xb * b.rows * b.planes
/-- nc, its chunks. -/
def Blk.chunks (b : Blk) : Nat := cdiv b.total 512
def Blk.gcm (b : Blk) : Bool := bitAt b.bits.toNat 509
def Blk.nobm (b : Blk) : Bool := bitAt b.bits.toNat 510
def Blk.opc (b : Blk) : Nat := b.get 507 504
/-- The bitmap range in the team's scratchpad: first byte and length (R204). -/
def Blk.bitmap (b : Blk) : Nat × Nat := (64 * b.get 503 491, cdiv b.chunks 8)
/-- CR (R203, R211, R215). -/
def Blk.cr (b : Blk) : Bool :=
  if b.opc = 1 then bitAt b.bits.toNat 511 else if b.opc = 7 then bitAt b.bits.toNat 329 else bitAt b.bits.toNat 350

/-- The sizes that R205 refuses: the subcause, if any. -/
def Blk.badSize (b : Blk) (scratchLen : Nat) (soff : Int) : Bool :=
  b.xb = 0 || 2 ^ 22 < b.xb || 2 ^ 22 < b.total || (b.gcm && soff % 4096 != 0) ||
  (!b.nobm && scratchLen < b.bitmap.1 + b.bitmap.2)

/-! The procedure of R198. -/

/-- No free permit on a chain. -/
def Iss.permit (i : Iss) (ch : Nat) : Except Stop Unit :=
  if ((i.T.chain ch).tseq - (i.T.chain ch).cseq).toNat = 64 then .error (.wait (.permit ch) (fun s => s)) else .ok ()

/-- Steps 1 to 5 of R49 for the capability of a command (R198). -/
def Iss.commandErr (i : Iss) (c : CapV) : Option CapErr :=
  c.check ⟨[if isSys c.base && c.form == 2 then 0 else 2], 0⟩ i.colour (i.s.colourOk i.colour) false c.base 0

/-- The block that a command-block capability names, by an LS read in program order. In device system space the read asks
an unsealed form 0, which the capability of a command has not. -/
def Iss.readBlk (i : Iss) (c : CapV) : Except Stop (Blk × State) := do
  match i.commandErr c with
  | some .illegal => i.illegal
  | some (.cap k) => i.trap cCAPABILITY k i.p.mask
  | some .inexact => i.illegal
  | none =>
    let x : Acc := ⟨0, c, c.base⟩
    match i.s.rangeRefusal i.core i.colour c.base 64 false with
    | some k => i.trap cCAPABILITY k i.p.mask
    | none =>
      let _ ← i.lsRegion .read 64 true [x]
      i.inOrder false
      match i.refusal i.s 64 false true x with
      | some (cause, k, d) => .error (.trap (Trap.of cause k d i.p.mask))
      | none =>
        let s := i.fills i.s false [x] 64
        let tags := ((List.range 4).map (fun j =>
          if s.mem.lsTag i.core i.colour (c.base / 16 + j) then 2 ^ j else 0)).sum
        .ok (⟨BitVec.ofNat 512 (s.loadNat i.core i.colour c.base 64), BitVec.ofNat 4 tags⟩, s)

/-- A new command. -/
def Cmd.new (seq : Word) (b : Blk) (bm : Option Nat) (k0 : Int) : Cmd :=
  { seq := seq, blk := b.bits, tags := b.tags, accepted := false, status := 0, done := 0, cause := 0, sub := 0, faddr := 0,
    nfail := 0, index := 0, mfl := 0, units := [], rows := 0, bm := bm, nc := b.chunks, cr := b.cr, fin := 0,
    rung := false, parts := [], mtab := [], slotGen := 0, sent := [], begun := [], exec := false, phase := 0, endNo := 0, detail := 0, k0 := k0, cb := 0,
    salt := 0, kslot := 0 }

/-- A block stored in an entry, with its tags. -/
def Mem.putEntry (m : Mem) (a : Nat) (b : Blk) : Mem :=
  (List.range 4).foldl (fun m j =>
    m.homeWriteTagged (a + 16 * j) (leBytes 16 (b.cap j).bits.toNat) (b.cap j).tag) m

/-- What an agent has given to the engines, noted with it: a command of a chain, or 3 and the number of a walk (R126,
R191). -/
def Iss.noteGiven (i : Iss) (s : State) (ch n : Nat) : State :=
  if i.ctl then
    match s.ctx i.team with
    | some C => s.setCtx i.team { C with appended := C.appended ++ [(ch, n)] }
    | none => s
  else match s.group i.id with
    | some G => s.setGroup i.id { G with appended := G.appended ++ [(ch, n)] }
    | none => s

/-- Whether a command owns some bitmap (R207). -/
def Team.owns (T : Team) (ch : Nat) (n : Word) : Bool := T.owners.any (fun e => e.2 == (ch, n))

/-- The block written to the next entry of a chain and its number assigned. A command long complete leaves the model's
record of the chain once its entry is used again, unless it owns a bitmap. -/
def Iss.append (i : Iss) (s : State) (ch : Nat) (b : Blk) (bm : Option Nat) (k0 : Int) : Word × State :=
  match s.team i.team with
  | none => (0, s)
  | some T =>
    let c := T.chain ch
    let n := c.tseq + 1
    let T := match bm with
      | some o => { T with owners := Tbl.set T.owners o (ch, n) }
      | none => T
    let c := { c with tseq := n, cmds := c.cmds.filter (fun x => x.seq != n &&
      ((n - x.seq).toNat < 64 || T.owns ch x.seq)) ++ [Cmd.new n b bm k0] }
    let T := T.setChain ch c
    let s := s.setTeam i.team T
    let s := { s with mem := s.mem.putEntry (T.entry ch n) b }
    (n, i.noteGiven s ch n.toNat)

/-- The sequence number delivered. -/
def Iss.seqDone (i : Iss) (w : Long) (r : Word × State) : Done :=
  { i.results (i.dResult tN32 w.d.toNat r.1.toNat) with s := r.2 }

/-! TCOPY and RCOPY (R205, R216). -/

/-- The two offsets of B. -/
def Iss.copyOffs (i : Iss) (w : Long) : Int × Int :=
  if w.bsel = 2 then (0, 0)
  else
    let x := if i.ctl then (i.cReg w.b.toNat).toNat else i.kVal 64 w.b.toNat
    (sext 32 x, sext 32 (x / 2 ^ 32))

/-- The cursor of a block's capability moved under R40. On the collective chain an offset of zero leaves a peer-sealed
capability as it is (DEDUCED, log 15). -/
def Iss.moveCap (i : Iss) (ch : Nat) (b : Blk) (j : Nat) (off : Int) : Except Stop Blk :=
  let c := b.cap j
  if ch = 2 ∧ off = 0 ∧ c.form = 1 then .ok b
  else match c.setCursor (c.cursor + off) with
    | .ok x => .ok (b.putCap j x)
    | .error .illegal => i.illegal
    | .error (.cap k) => i.trap cCAPABILITY k i.p.mask
    | .error .inexact => i.illegal

/-- Whether an incomplete copy command of the team, appended by whichever instruction, has a bitmap range that meets a
range (R205). -/
def Team.bitmapBusy (T : Team) (r : Nat × Nat) : Bool :=
  [0, 2].any (fun ch => (T.chain ch).cmds.any (fun c => !c.complete && c.opc == 1 && !c.block.nobm &&
    unitsMeet r c.block.bitmap))

/-- TCOPY and RCOPY on chain `ch`. -/
def engCopy (o : Op) (w : Long) (ch : Nat) (s : State) : Out1 :=
  runInstr o (fun i => i.aOnce w 128 && i.dOnce 32 w.d.toNat && w.bsel != 3 &&
      (w.bsel == 2 || i.bOnceReg w (if i.ctl then 64 else 64)) &&
      (ch == 0 || (i.T.roles[i.G.role]?).any (fun r => r.2 == 1))) (fun i => do
    i.ecc i.p.mask (i.once 128 w.a.toNat ++ (if w.bsel = 2 then [] else i.once 64 w.b.toNat))
    i.permit ch
    let (b, s) ← i.readBlk (i.capOnce w.a.toNat)
    let (soff, doff) := i.copyOffs w
    if b.opc ≠ 1 then i.trap cCAPABILITY subFORM i.p.mask
    else if ch = 2 ∧ b.gcm then i.trap cCAPABILITY subFORM i.p.mask
    else if b.badSize i.T.scratchLen soff then i.trap cCAPABILITY subBOUNDS i.p.mask
    else if !b.nobm ∧ i.T.bitmapBusy b.bitmap then .error (.wait .bitmap (fun s => s))
    else
      let b ← i.moveCap ch b 0 soff
      let b ← i.moveCap ch b 1 doff
      let m := if b.nobm then s.mem
        else s.mem.homeWrite (i.T.scratch + b.bitmap.1) (List.replicate b.bitmap.2 0)
      .ok (i.seqDone w (i.append { s with mem := m } ch b (if b.nobm then none else some (b.get 503 491))
        (soff / 4096)))) s

/-! APND (R202). -/

/-- OPC values that a chain accepts. -/
def chainTakes (ch opc : Nat) : Bool :=
  if ch = 0 then opc == 1 else if ch = 1 then 2 ≤ opc && opc ≤ 6 else opc == 1 || opc == 7

def engApnd (o : Op) (w : Long) (s : State) : Out1 :=
  let ch := w.sc.toNat % 4
  runInstr o (fun i => i.aOnce w 128 && i.dOnce 32 w.d.toNat && ch < 3) (fun i => do
    i.ecc i.p.mask (i.once 128 w.a.toNat)
    i.permit ch
    let (b, s) ← i.readBlk (i.capOnce w.a.toNat)
    if !chainTakes ch b.opc then i.trap cCAPABILITY subFORM i.p.mask
    else .ok (i.seqDone w (i.append s ch b none 0))) s

/-! Matrix commands (R212, R213). -/

/-- MMA: KOFF moves by the operand. -/
def engMma (o : Op) (w : Long) (s : State) : Out1 :=
  runInstr o (fun i => i.aOnce w 128 && i.bOnce w 32) (fun i => do
    i.permit 1
    let (b, s) ← i.readBlk (i.capOnce w.a.toNat)
    if b.opc ≠ 2 then i.trap cCAPABILITY subFORM i.p.mask
    else .ok (i.seqDone w (i.append s 1 (b.put 447 416 (b.get 447 416 + i.bVal1 w tN32)) none 0))) s

/-- The entry that MZERO, MLOAD, MSTORE and MDRAIN write (R211). -/
def tileBlk (opc handle mc nc sat grp : Nat) (desc : Option CapV) : Blk :=
  let b : Blk := ⟨0, 0⟩
  let b := (((((b.put 507 504 opc).put 362 352 handle).put 369 368 mc).put 371 370 nc).put 380 380 sat).put 379 376 grp
  match desc with
  | some c => b.putCap 0 c
  | none => b

/-- MZERO and MDRAIN: the handle is A; MLOAD and MSTORE: the handle is B, the descriptor A. -/
def engTile (o : Op) (w : Long) (opc : Nat) (desc : Bool) (s : State) : Out1 :=
  let mc := w.bits 31 30
  let nc := w.bits 29 28
  runInstr o (fun i => if desc then i.aOnce w 128 && i.bOnceReg w 32 else i.aOnce w 32 && w.bsel != 3 &&
      !(opc == 6 && w.bsel == 2)) (fun i => do
    i.permit 1
    let h := if desc then (i.cReg w.b.toNat).toNat % 2 ^ 11 else (i.cReg w.a.toNat).toNat % 2 ^ 11
    let b := tileBlk opc h (if opc = 3 then 0 else mc) (if opc = 3 then 0 else nc)
      (if opc = 5 then w.bits 27 27 else 0) (if opc = 6 then w.bits 27 24 else 0)
      (if desc then some (i.cpVal w.a.toNat) else none)
    .ok (i.seqDone w (i.append i.s 1 b none 0))) s

/-! COLL (R216). -/

/-- The join that is open: its command is neither accepted nor complete. -/
def Team.openJoin (T : Team) : Option (Word × CapV × List Nat) :=
  match T.join with
  | some (n, c, gs) => if ((T.chain 2).cmd n).any (fun x => !x.accepted && !x.complete) then some (n, c, gs) else none
  | none => none

def engColl (o : Op) (w : Long) (s : State) : Out1 :=
  runInstr o (fun i => i.aOnce w 128 && i.dOnce 32 w.d.toNat) (fun i => do
    i.ecc i.p.mask (i.once 128 w.a.toNat)
    let cap := i.capOnce w.a.toNat
    match i.T.openJoin with
    | some (n, c, gs) =>
      if c.base ≠ cap.base then i.illegal
      else match i.commandErr cap with
      | some (.cap k) => i.trap cCAPABILITY k i.p.mask
      | some _ => i.illegal
      | none =>
        let h := (((i.T.chain 2).cmd n).map (fun x => x.block.get 344 336)).getD 0
        if !i.ownsBar h then i.illegal
        else
          let s := i.s.setTeam i.team { i.T with join := some (n, c, (i.G.grp :: gs).eraseDups) }
          .ok (i.seqDone w (n, i.noteGiven (s.arrive i.core h 1 0) 2 n.toNat))
    | none =>
      i.permit 2
      let (b, s) ← i.readBlk cap
      if b.opc ≠ 7 then i.trap cCAPABILITY subFORM i.p.mask
      else
        let h := b.get 344 336
        if !i.ownsBar h then i.illegal
        else
          let (n, s) := i.append s 2 b none 0
          let s := match s.team i.team with
            | some T => s.setTeam i.team { T with join := some (n, cap, [i.G.grp]) }
            | none => s
          .ok (i.seqDone w (n, s.arrive i.core h 1 0))) s

def execTcopy (w : Long) : State → Out1 := engCopy (Op.long 0x3C 3 w) w 0
def execApnd (w : Long) : State → Out1 := engApnd (Op.long 0x3C 5 w) w
def execMma (w : Long) : State → Out1 := engMma (Op.long 0x3D 0 w) w
def execMzero (w : Long) : State → Out1 := engTile (Op.long 0x3D 1 w) w 3 false
def execMload (w : Long) : State → Out1 := engTile (Op.long 0x3D 2 w) w 4 true
def execMstore (w : Long) : State → Out1 := engTile (Op.long 0x3D 3 w) w 5 true
def execMdrain (w : Long) : State → Out1 := engTile (Op.long 0x3D 4 w) w 6 false
def execColl (w : Long) : State → Out1 := engColl (Op.long 0x3D 5 w) w
def execRcopy (w : Long) : State → Out1 := engCopy (Op.long 0x3D 6 w) w 2

end Sys2Proof.Machine
end

