-- ==== Sys2Proof/Machine/FloatLane.lean ====
section
/-! DEFINITION. Element-wise floating point, rows 0x10 and 0x11 (R133 to R143), in both streams. -/

namespace Sys2Proof.Machine

/-! Operands (R85, R134). -/

/-- The format of an F4 type code: f64, f32, f16, bf16. -/
def f4Of (c : Nat) : Fmt := if c < 4 then (fmtOf c).getD f32 else f32
/-- F4. -/
def isF4 (c : Nat) : Bool := c < 4
/-- F4 and the 8-, 6- and 4-bit formats. -/
def isF4n (c : Nat) : Bool := c < 4 || (6 ≤ c && c ≤ 10)
/-- The register width of a format: a pair for f64. -/
def Fmt.rw (F : Fmt) : Nat := if F.width = 64 then 64 else 32

/-- An f32 image widened exactly to f64 (R67, R85). -/
def widen64 (x : Nat) : Nat :=
  match f32.decode x with
  | .nan _ => (if x.testBit 31 then 2 ^ 63 else 0) + 0x7FF * 2 ^ 52 + x % 2 ^ 23 * 2 ^ 29
  | v => (v.convert f64 0 false).1

/-- IMM13 as a float operand: none where it is a NaN or not exactly representable (R85). -/
def Long.fImm (w : Long) (F : Fmt) : Option Nat :=
  match f32.decode (w.imm.toNat * 2 ^ 19) with
  | .nan _ => none
  | v => let (x, fl) := v.convert F 0 false; if fl = 0 then some x else none

/-- The literal as a float operand (R85). -/
def Long.fLit (w : Long) (F : Fmt) : Nat := if F.width = 64 then widen64 w.litNat else w.litNat % 2 ^ F.width

/-- The lanes that compute: the context's one lane in the control stream. -/
def Iss.act (i : Iss) (o : Op) : LaneMask := if i.ctl then 1 else i.active o

/-- D is inside its limits. -/
def Iss.fD (i : Iss) (F : Fmt) (d : BitVec 7) : Bool := i.ctl || i.vOk F.rw d.toNat
/-- A is a legal source: dq only where it is read as an f32 (R86). -/
def Iss.fAOk (i : Iss) (w : Long) (F : Fmt) : Bool :=
  if i.ctl then w.asel == 0 else if w.asel = 2 then F == f32 else i.aOk w F.rw
/-- B is a legal source. -/
def Iss.fBOk (i : Iss) (w : Long) (F : Fmt) : Bool :=
  (w.bsel != 2 || ((Long.fImm w F)).isSome) && (if i.ctl then w.bsel != 1 else i.bOk w F.rw)
/-- BSEL of an instruction without B (R134). -/
def Iss.fNoB (i : Iss) (w : Long) : Bool := !i.ctl || w.bsel != 1
/-- C is a legal source. -/
def Iss.fCOk (i : Iss) (w : Long) (F : Fmt) : Bool := i.ctl || i.vOk F.rw w.c

/-- The images of A, one for each lane; one for a context. -/
def Iss.fA (i : Iss) (w : Long) (F : Fmt) (dq : Row) : List Nat :=
  if i.ctl then [(i.cReg w.a.toNat).toNat % 2 ^ F.width]
  else if w.asel = 2 then dq.map (·.toNat)
  else (i.aVals w F.rw).map (· % 2 ^ F.width)
/-- The images of B. -/
def Iss.fB (i : Iss) (w : Long) (F : Fmt) : List Nat :=
  let all (x : Nat) : List Nat := if i.ctl then [x] else splat x
  if w.bsel = 2 then all (((Long.fImm w F)).getD 0)
  else if w.bsel = 3 then all (Long.fLit w F)
  else if i.ctl then [(i.cReg w.b.toNat).toNat % 2 ^ F.width]
  else (if w.bsel = 1 then splat (i.kVal F.rw w.b.toNat) else i.vVals F.rw w.b.toNat).map (· % 2 ^ F.width)
/-- The images of C. -/
def Iss.fC (i : Iss) (w : Long) (F : Fmt) : List Nat :=
  if i.ctl then [(i.cReg w.c).toNat % 2 ^ F.width] else (i.vVals F.rw w.c).map (· % 2 ^ F.width)

/-- A list of one lane's outcomes with its flags. -/
abbrev FRes := List (Nat × Nat)

/-- Results of a width go to vD in the active lanes, or to cD with the bits above zero. -/
def Iss.fWrites (i : Iss) (o : Op) (wd : Nat) (d : BitVec 7) (xs : List Nat) : List RegWrite :=
  if i.ctl then [.c (d.toNat % 64) (BitVec.ofNat 64 ((xs.head?).getD 0))] else i.vResult wd d.toNat (i.active o) xs

/-- Flags raised, or FPE (R69, R70); a context never raises FPE (R134). -/
def Iss.fFlags (i : Iss) (o : Op) (r : FRes) : Except Stop Nat :=
  if i.ctl then .ok ((r.map (·.2)).headD 0) else i.fpe (i.active o) (r.map (·.2))

/-- A float instruction: decode checks, registers read, then lane results with flags and the writes made of them. The
drain row is read first where A is dq (R153); an issue that traps leaves it staged (DESIGN CHOICE, log 55). -/
def floatOp (o : Op) (legal : Iss → Bool) (regs : List SrcReg) (res : Iss → Row → FRes)
    (out : Iss → List Nat → List RegWrite) (s : State) : Out1 :=
  runInstr o legal (fun i => do
    i.ecc (i.act o) (o.guardRegs ++ regs)
    let (row, s') ← (if o.asel = 2 then i.drainRow (i.act o) else .ok (zeroRow, i.s))
    let r := res i row
    let fl ← i.fFlags o r
    .ok { i.results (out i (r.map (·.1))) with s := s', flags := fl }) s

/-- Lane by lane. -/
def f1 (f : Nat → Nat × Nat) (xs : List Nat) : FRes := xs.map f
def f2 (f : Nat → Nat → Nat × Nat) (xs ys : List Nat) : FRes := (xs.zip ys).map (fun (x, y) => f x y)
def f3 (f : Nat → Nat → Nat → Nat × Nat) (xs ys zs : List Nat) : FRes :=
  (xs.zip (ys.zip zs)).map (fun (x, y, z) => f x y z)

/-- The registers of A. -/
def Long.fARegs (w : Long) (F : Fmt) : List SrcReg := if w.asel = 2 then [] else w.aRegs F.rw

/-- D := f(A, B) in an F4 type. -/
def float2 (o : Op) (w : Long) (rnd : Bool) (f : Fmt → Nat → Nat → Nat → Nat × Nat) (s : State) : Out1 :=
  let F := f4Of w.ty.toNat
  floatOp o (fun i => isF4 w.ty.toNat && (!rnd || rndOk w.sc.toNat) && i.fD F w.d && i.fAOk w F && i.fBOk w F)
    (Long.fARegs w F ++ w.bRegs F.rw)
    (fun i q => f2 (f F (i.rmode w.sc.toNat)) (i.fA w F q) (i.fB w F))
    (fun i xs => i.fWrites o F.rw w.d xs) s

/-- D := f(A) in an F4 type. -/
def float1 (o : Op) (w : Long) (f : Fmt → Nat → Nat → Nat × Nat) (s : State) : Out1 :=
  let F := f4Of w.ty.toNat
  floatOp o (fun i => isF4 w.ty.toNat && rndOk w.sc.toNat && i.fD F w.d && i.fAOk w F && i.fNoB w) (Long.fARegs w F)
    (fun i q => f1 (f F (i.rmode w.sc.toNat)) (i.fA w F q)) (fun i xs => i.fWrites o F.rw w.d xs) s

/-- D := f(A, B, C) in an F4 type (R88). -/
def float3 (o : Op) (w : Long) (f : Fmt → Nat → Nat → Nat → Nat → Nat × Nat) (s : State) : Out1 :=
  let F := f4Of w.ty.toNat
  floatOp o (fun i => isF4 w.ty.toNat && rndOk w.sc.toNat && w.bsel != 2 && i.fD F w.d && i.fAOk w F && i.fBOk w F &&
      i.fCOk w F)
    (Long.fARegs w F ++ w.bRegs F.rw ++ w.cRegs F.rw)
    (fun i q => f3 (f F (i.rmode w.sc.toNat)) (i.fA w F q) (i.fB w F) (i.fC w F))
    (fun i xs => i.fWrites o F.rw w.d xs) s

/-! FMIN and FMAX (R137). -/

/-- The operand of smaller (or larger) value, its bits unchanged. -/
def fminmax (isMax : Bool) (F : Fmt) (_rm a b : Nat) : Nat × Nat :=
  let x := F.decode a
  let y := F.decode b
  let r :=
    if x.isNan && y.isNan then F.nanBits
    else if x.isNan then b
    else if y.isNan then a
    else
      let less := match x.cmp y with
        | some .lt => true
        | some .eq => x.neg && !y.neg
        | _ => false
      if less != isMax then a else b
  (r, sigFlag x y)

/-! Comparison (R138). -/

/-- The outcome of a float CMP and its flags. -/
def cmpFloat (c : Nat) (x y : FVal) : Bool × Nat :=
  let un := x.isNan || y.isNan
  let r := match c, x.cmp y with
    | 0, o => o == some .eq
    | 1, o => o != some .eq
    | 2, o => o == some .lt
    | 3, o => o == some .lt || o == some .eq
    | 4, o => o == some .gt
    | 5, o => o == some .gt || o == some .eq
    | 6, _ => !un
    | _, _ => un
  (r, if 2 ≤ c ∧ c ≤ 5 then (if un then flNV else 0) else sigFlag x y)

/-- FSET and FCMP: `out` is where a group's combined outcome goes, `ones` what a context's true outcome writes. -/
def floatCompare (o : Op) (w : Long) (dOk : Iss → Bool) (out : Iss → List Bool → List RegWrite) (ones : Nat)
    (s : State) : Out1 :=
  let F := f4Of w.ty.toNat
  floatOp o (fun i => isF4 w.ty.toNat && w.bsel != 2 && dOk i && i.fAOk w F && i.fBOk w F)
    (Long.fARegs w F ++ w.bRegs F.rw ++ combRegs w)
    (fun i q => f2 (fun a b => let (c, fl) := cmpFloat (Long.cmpOf w) (F.decode a) (F.decode b)
                               (if c then 1 else 0, fl)) (i.fA w F q) (i.fB w F))
    (fun i xs =>
      if i.ctl then [.c (w.d.toNat % 64) (BitVec.ofNat 64 (if xs.headD 0 = 1 then ones else 0))]
      else out i (combine w i (xs.map (· == 1)))) s

/-! FCLASS, FRND, FSCALE, FEXPT (R140, R141). -/

/-- The class bit of an image (R140). -/
def fclassBit (F : Fmt) (a : Nat) : Nat :=
  match F.decode a with
  | .nan true => 0
  | .nan false => 1
  | .inf true => 2
  | .inf false => 9
  | .num s m _ =>
    if m = 0 then (if s then 5 else 6)
    else if m < 2 ^ F.mb then (if s then 4 else 7)
    else if s then 3 else 8

def floatClass (o : Op) (w : Long) (s : State) : Out1 :=
  let F := (fmtOf w.ty.toNat).getD f32
  floatOp o (fun i => isF4n w.ty.toNat && i.vOk 32 w.d.toNat && i.fAOk w F) (Long.fARegs w F)
    (fun i q => f1 (fun a => (2 ^ fclassBit F a, 0)) (i.fA w F q)) (fun i xs => i.fWrites o 32 w.d xs) s

/-- roundToIntegralExact (R141). -/
def frnd (F : Fmt) (rm a : Nat) : Nat × Nat :=
  match F.decode a with
  | .nan sig => (F.nanBits, if sig then flNV else 0)
  | .inf s => (F.signed s F.infBits, 0)
  | .num s m e =>
    if 0 ≤ e then (a, 0)
    else let (n, ix) := roundAt rm s m e 0; ((roundPack F rm false s n 0).1, if ix then flNX else 0)

/-- A * 2^b, rounded once (R141). An exponent beyond every format's reach acts as one just beyond it. -/
def fscale (F : Fmt) (rm a : Nat) (b : Int) : Nat × Nat :=
  match F.decode a with
  | .nan sig => (F.nanBits, if sig then flNV else 0)
  | .inf s => (F.signed s F.infBits, 0)
  | .num s m e => roundPack F rm false s m (e + max (-5000) (min 5000 b))

def floatScale (o : Op) (w : Long) (s : State) : Out1 :=
  let F := f4Of w.ty.toNat
  floatOp o (fun i => isF4 w.ty.toNat && rndOk w.sc.toNat && i.fD F w.d && i.fAOk w F && i.bOk w 32)
    (Long.fARegs w F ++ w.bRegs 32)
    (fun i q => f2 (fun a b => fscale F (i.rmode w.sc.toNat) a (tS32.val b)) (i.fA w F q) (i.bVals w tS32))
    (fun i xs => i.fWrites o F.rw w.d xs) s

/-- floor(log2 |A|) (R141). -/
def fexpt (F : Fmt) (a : Nat) : Nat × Nat :=
  match F.decode a with
  | .num _ m e => if m = 0 then (0x80000000, flNV) else (wrap 32 (FVal.ilog m e), 0)
  | _ => (0x7FFFFFFF, flNV)

def floatExpt (o : Op) (w : Long) (s : State) : Out1 :=
  let F := f4Of w.ty.toNat
  floatOp o (fun i => isF4 w.ty.toNat && i.vOk 32 w.d.toNat && i.fAOk w F) (Long.fARegs w F)
    (fun i q => f1 (fexpt F) (i.fA w F q)) (fun i xs => i.fWrites o 32 w.d xs) s

/-! Conversions (R142, R143). -/

def Long.sty (w : Long) : Nat := bitsOf w.imm.toNat 12 9
def Long.cvSat (w : Long) : Bool := bitAt w.imm.toNat 8
def Long.cvDir (w : Long) : Bool := bitAt w.imm.toNat 7

/-- One value converted between float formats (R65, R66, R142). Between equal formats A is unchanged, an infinity under
.sat too (DESIGN CHOICE, log 34). -/
def fcvt1 (F G : Fmt) (same : Bool) (rm : Nat) (sat : Bool) (a : Nat) : Nat × Nat :=
  if same then
    match F.decode a with
    | .nan sig => (G.nanBits, if sig then flNV else 0)
    | _ => (a, 0)
  else (F.decode a).convert G rm sat

/-- FCVT to one element. -/
def floatCvt1 (o : Op) (w : Long) (s : State) : Out1 :=
  let F := (fmtOf (Long.sty w)).getD f32
  let G := (fmtOf w.ty.toNat).getD f32
  floatOp o (fun i => (if i.ctl then isF4 w.ty.toNat && isF4 (Long.sty w) else isF4n w.ty.toNat && isF4n (Long.sty w)) &&
      rndCvtOk w.sc.toNat && (!Long.cvSat w || 2 ≤ w.ty.toNat) && i.fD G w.d && i.fAOk w F)
    (Long.fARegs w F)
    (fun i q => f1 (fcvt1 F G (w.ty.toNat == Long.sty w) (i.rmode w.sc.toNat) (Long.cvSat w)) (i.fA w F q))
    (fun i xs => i.fWrites o G.rw w.d xs) s

/-- FCVT to a packed pair: A names an even pair of f32; a drain row's one value serves both elements (DEDUCED, log 34). -/
def floatCvt2 (o : Op) (w : Long) (s : State) : Out1 :=
  let G := (fmtOf w.ty.toNat).getD f32
  floatOp o (fun i => !i.ctl && Long.sty w == 1 && rndCvtOk w.sc.toNat && i.vOk 32 w.d.toNat && (w.asel == 2 || i.aOk w 64))
    (if w.asel = 2 then [] else w.aRegs 64)
    (fun i q =>
      let cv (x : Nat) : Nat × Nat := (f32.decode (x % 2 ^ 32)).convert G (i.rmode w.sc.toNat) (Long.cvSat w)
      f1 (fun x => let a := cv x; let b := cv (x / 2 ^ 32); (a.1 + 2 ^ 16 * b.1, a.2 ||| b.2))
        (if w.asel = 2 then q.map (fun x => x.toNat + 2 ^ 32 * x.toNat) else i.aVals w 64))
    (fun i xs => i.fWrites o 32 w.d xs) s

/-- The A images of an integer type, in both streams. -/
def Iss.iA (i : Iss) (w : Long) (t : ITy) : List Nat :=
  if i.ctl then [(i.cReg w.a.toNat).toNat % 2 ^ t.w] else i.aVals w t.w
def Iss.iAOk (i : Iss) (w : Long) (t : ITy) : Bool := if i.ctl then w.asel == 0 else i.aOk w t.w
def Iss.iD (i : Iss) (t : ITy) (d : BitVec 7) : Bool := i.ctl || i.vOk t.w d.toNat
/-- Integer results of either stream (R56, R115). -/
def Iss.iWrites (i : Iss) (o : Op) (t : ITy) (d : BitVec 7) (xs : List Nat) : List RegWrite :=
  if i.ctl then [.c (d.toNat % 64) (BitVec.ofNat 64 (cImage t (xs.headD 0)))] else i.laneOut o t d xs

/-- An integer type of a code, s or n. -/
def snOf (c : Nat) : Option ITy := (ityOf c).filter tySN

def floatIcvt (o : Op) (w : Long) (s : State) : Out1 :=
  let t := (snOf w.ty.toNat).getD tS32
  let f := (snOf (Long.sty w)).getD tS32
  floatOp o (fun i => (snOf w.ty.toNat).isSome && (snOf (Long.sty w)).isSome && i.iD t w.d && i.iAOk w f) (w.aRegs f.w)
    (fun i _ => f1 (fun a => (t.fit (Long.cvSat w) (f.val a), 0)) (i.iA w f)) (fun i xs => i.iWrites o t w.d xs) s

def floatToInt (o : Op) (w : Long) (s : State) : Out1 :=
  let t := (snOf w.ty.toNat).getD tS32
  let F := f4Of (Long.sty w)
  floatOp o (fun i => (snOf w.ty.toNat).isSome && isF4 (Long.sty w) && !Long.cvSat w && rndCvtOk w.sc.toNat && i.iD t w.d &&
      i.fAOk w F)
    (Long.fARegs w F) (fun i q => f1 (fun a => (F.decode a).toITy t (i.rmode w.sc.toNat)) (i.fA w F q))
    (fun i xs => i.iWrites o t w.d xs) s

def floatOfInt (o : Op) (w : Long) (s : State) : Out1 :=
  let f := (snOf (Long.sty w)).getD tS32
  let F := f4Of w.ty.toNat
  floatOp o (fun i => (snOf (Long.sty w)).isSome && isF4 w.ty.toNat && (!Long.cvSat w || 2 ≤ w.ty.toNat) && rndCvtOk w.sc.toNat &&
      i.fD F w.d && i.iAOk w f)
    (w.aRegs f.w) (fun i _ => f1 (fun a => ofIntTo F (i.rmode w.sc.toNat) (Long.cvSat w) (f.val a)) (i.iA w f))
    (fun i xs => i.fWrites o F.rw w.d xs) s

/-! The instructions. -/

def execFadd32 (o : Short) : State → Out1 := float2 (Op.short 0x10 0) (o.wide 1 7 0) true fadd
def execFadd64 (w : Long) : State → Out1 := float2 (Op.long 0x10 0 w) w true fadd
def execFsub32 (o : Short) : State → Out1 := float2 (Op.short 0x10 1) (o.wide 1 7 0) true fsub
def execFsub64 (w : Long) : State → Out1 := float2 (Op.long 0x10 1 w) w true fsub
def execFmul32 (o : Short) : State → Out1 := float2 (Op.short 0x10 2) (o.wide 1 7 0) true fmul
def execFmul64 (w : Long) : State → Out1 := float2 (Op.long 0x10 2 w) w true fmul
def execFfma (w : Long) : State → Out1 := float3 (Op.long 0x10 3 w) w ffma
def execFmin32 (o : Short) : State → Out1 := float2 (Op.short 0x10 4) (o.wide 1 7 0) false (fminmax false)
def execFmin64 (w : Long) : State → Out1 := float2 (Op.long 0x10 4 w) w false (fminmax false)
def execFmax32 (o : Short) : State → Out1 := float2 (Op.short 0x10 5) (o.wide 1 7 0) false (fminmax true)
def execFmax64 (w : Long) : State → Out1 := float2 (Op.long 0x10 5 w) w false (fminmax true)
def execFset (w : Long) : State → Out1 :=
  let o := Op.long 0x10 6 w
  floatCompare o w (fun i => i.ctl || i.vOk 32 w.d.toNat) (fun i bs => i.setOut o w.d bs) (2 ^ 64 - 1)
def execFcmp (w : Long) : State → Out1 :=
  let o := Op.long 0x10 7 w
  floatCompare o w (fun _ => true) (fun i bs => i.qOut o w.d bs) 1
def execFclass (w : Long) : State → Out1 := floatClass (Op.long 0x11 0 w) w
def execFrnd32 (o : Short) : State → Out1 := float1 (Op.short 0x11 1) (o.wide 1 7 0) frnd
def execFrnd64 (w : Long) : State → Out1 := float1 (Op.long 0x11 1 w) w frnd
def execFscale32 (o : Short) : State → Out1 := floatScale (Op.short 0x11 2) (o.wide 1 7 0)
def execFscale64 (w : Long) : State → Out1 := floatScale (Op.long 0x11 2 w) w
def execFexpt32 (o : Short) : State → Out1 := floatExpt (Op.short 0x11 3) (o.wide 1 7 0)
def execFexpt64 (w : Long) : State → Out1 := floatExpt (Op.long 0x11 3 w) w
def execFcvt (w : Long) : State → Out1 :=
  let o := Op.long 0x11 4 w
  if w.ty = 4 ∨ w.ty = 5 then floatCvt2 o w else floatCvt1 o w
def execIcvt (w : Long) : State → Out1 := floatIcvt (Op.long 0x11 5 w) w
def execFicvt (w : Long) : State → Out1 :=
  let o := Op.long 0x11 6 w
  if Long.cvDir w then floatOfInt o w else floatToInt o w

end Sys2Proof.Machine
end

