-- ==== Sys2Proof/Machine/Packed.lean ====
section
/-! DEFINITION. Packed arithmetic, dot products and block quantisation, row 0x14 (R147 to R152, R71 to R73). -/

namespace Sys2Proof.Machine

/-- The element format of f16x2 or bf16x2. -/
def x2Of (c : Nat) : Fmt := if c = 5 then bf16 else f16
def isX2 (c : Nat) : Bool := c == 4 || c == 5
/-- Elements 0 and 1 of a word. -/
def lo16 (x : Nat) : Nat := x % 2 ^ 16
def hi16 (x : Nat) : Nat := x / 2 ^ 16 % 2 ^ 16

/-- A drain row's value rounded to the element format, for both elements, with its flags (R153). -/
def dqElem (F : Fmt) (rm : Nat) (x : Nat) : Nat × Nat := (f32.decode x).convert F rm false

/-- The A words with the flags that reading them raises. -/
def Iss.pkA (i : Iss) (w : Long) (F : Fmt) (rm : Nat) (dq : Row) : FRes :=
  if w.asel = 2 then dq.map (fun x => let (e, fl) := dqElem F rm x.toNat; (e + 2 ^ 16 * e, fl))
  else (i.aVals w 32).map (fun x => (x, 0))
/-- The B words; an immediate stands in both elements (R85). -/
def Iss.pkB (i : Iss) (w : Long) (F : Fmt) : List Nat :=
  if w.bsel = 2 then splat (let e := ((Long.fImm w F)).getD 0; e + 2 ^ 16 * e)
  else if w.bsel = 3 then splat w.litNat
  else if w.bsel = 1 then splat (i.kVal 32 w.b.toNat) else i.vVals 32 w.b.toNat
def Iss.pkAOk (i : Iss) (w : Long) : Bool := w.asel == 2 || i.aOk w 32
def Iss.pkBOk (i : Iss) (w : Long) (F : Fmt) : Bool := (w.bsel != 2 || ((Long.fImm w F)).isSome) && i.bOk w 32
/-- The registers of A. -/
def Long.pkARegs (w : Long) : List SrcReg := if w.asel = 2 then [] else w.aRegs 32

/-- Both elements of a packed operation. -/
def pk2 (f : Nat → Nat → Nat × Nat) (a : Nat × Nat) (b : Nat) : Nat × Nat :=
  let x := f (lo16 a.1) (lo16 b)
  let y := f (hi16 a.1) (hi16 b)
  (x.1 + 2 ^ 16 * y.1, x.2 ||| y.2 ||| a.2)

/-- HADD2 and HMUL2. -/
def packed2 (o : Op) (w : Long) (f : Fmt → Nat → Nat → Nat → Nat × Nat) (s : State) : Out1 :=
  let F := x2Of w.ty.toNat
  floatOp o (fun i => isX2 w.ty.toNat && rndOk w.sc.toNat && i.vOk 32 w.d.toNat && i.pkAOk w && i.pkBOk w F)
    (Long.pkARegs w ++ w.bRegs 32)
    (fun i q =>
      let rm := i.rmode w.sc.toNat
      ((i.pkA w F rm q).zip (i.pkB w F)).map (fun (a, b) => pk2 (f F rm) a b))
    (fun i xs => i.fWrites o 32 w.d xs) s

/-- HFMA2; HS selects the elements computed, the other keeps its value (R147). -/
def packedFma (o : Op) (w : Long) (s : State) : Out1 :=
  let F := x2Of w.ty.toNat
  let hs := Long.sub w % 4
  floatOp o (fun i => isX2 w.ty.toNat && rndOk w.sc.toNat && w.bsel != 2 && hs != 3 && i.vOk 32 w.d.toNat && i.pkAOk w &&
      i.pkBOk w F && i.vOk 32 w.c)
    (Long.pkARegs w ++ w.bRegs 32 ++ w.cRegs 32)
    (fun i q =>
      let rm := i.rmode w.sc.toNat
      ((i.pkA w F rm q).zip ((i.pkB w F).zip ((i.vVals 32 w.c).zip (i.vVals 32 w.d.toNat)))).map (fun (a, b, c, d) =>
        let x := if hs = 2 then (lo16 d, 0) else ffma F rm (lo16 a.1) (lo16 b) (lo16 c)
        let y := if hs = 1 then (hi16 d, 0) else ffma F rm (hi16 a.1) (hi16 b) (hi16 c)
        (x.1 + 2 ^ 16 * y.1, x.2 ||| y.2 ||| a.2)))
    (fun i xs => i.fWrites o 32 w.d xs) s

/-- DOT4 (R148): exact sum of four byte products and C, saturated or wrapped to s32. -/
def packedDot4 (o : Op) (w : Long) (s : State) : Out1 :=
  let ta : ITy := ⟨8, w.ty == 0, false⟩
  let tb : ITy := ⟨8, Long.sub w % 2 == 0, false⟩
  laneOp o (fun i => (w.ty == 0 || w.ty == 4) && w.bsel != 2 && i.vOk 32 w.d.toNat && i.aOk w 32 && i.bOk w 32 &&
      i.vOk 32 w.c)
    (w.aRegs 32 ++ w.bRegs 32 ++ w.cRegs 32)
    (fun i => i.laneOut o tS32 w.d (map3 (fun a b c =>
      tS32.fit w.sat (tS32.val c +
        ((List.range 4).map (fun j => ta.val (a / 2 ^ (8 * j)) * tb.val (b / 2 ^ (8 * j)))).sum))
      (i.aVals w 32) (i.bVals w tN32) (i.vVals 32 w.c))) s

/-- DOT2 (R149): C + A0 B0 + A1 B1 exactly, rounded once to f32. With a NaN operand NV comes of a signalling one only. -/
def dot2 (F : Fmt) (rm a b c : Nat) : Nat × Nat :=
  let z := f32.decode c
  let xs := [F.decode (lo16 a), F.decode (lo16 b), F.decode (hi16 a), F.decode (hi16 b), z]
  let (p, f1) := (F.decode (lo16 a)).mul (F.decode (lo16 b))
  let (q, f2) := (F.decode (hi16 a)).mul (F.decode (hi16 b))
  let fl := f1 ||| f2
  let ts := [z, p, q]
  if xs.any FVal.isNan then (f32.nanBits, if xs.any FVal.isSig then flNV else 0)
  else if ts.any FVal.isNan then (f32.nanBits, fl)
  else if ts.any FVal.isInf then
    let ss := (ts.filter FVal.isInf).map FVal.neg
    if ss.all (· == ss.headD false) then (f32.signed (ss.headD false) f32.infBits, fl) else (f32.nanBits, fl ||| flNV)
  else
    let (pq, _) := p.add 0 q
    let (r, _) := pq.add 0 z
    let allNeg := ts.all (fun t => t.isZero && t.neg)
    let allPos := ts.all (fun t => t.isZero && !t.neg)
    match r with
    | .num s m e => if m = 0 then (f32.signed (allNeg || (!allPos && rm == 2)) 0, fl)
                    else let (x, g) := roundPack f32 rm false s m e; (x, g ||| fl)
    | _ => (f32.nanBits, fl)

def packedDot2 (o : Op) (w : Long) (s : State) : Out1 :=
  let F := x2Of w.ty.toNat
  floatOp o (fun i => isX2 w.ty.toNat && rndOk w.sc.toNat && w.bsel != 2 && i.vOk 32 w.d.toNat && i.aOk w 32 && i.bOk w 32 &&
      i.vOk 32 w.c)
    (w.aRegs 32 ++ w.bRegs 32 ++ w.cRegs 32)
    (fun i _ => f3 (dot2 F (i.rmode w.sc.toNat)) (i.aVals w 32) (i.bVals w tN32) (i.vVals 32 w.c))
    (fun i xs => i.fWrites o 32 w.d xs) s

/-! Microscaling blocks (R71 to R73, R150). -/

/-- An element type of an mx block: a float format with its emax, or MXINT8. -/
inductive MxElem where
  | flt (F : Fmt) (emax : Int)
  | int8
  deriving DecidableEq, Repr

/-- The element type that a block type and ETY name (R150). -/
def mxElem (bty ety : Nat) : Option MxElem :=
  match bty, ety with
  | 12, 0 => some (.flt e4m3 8)
  | 12, 1 => some (.flt e5m2 15)
  | 12, 2 => some .int8
  | 13, 0 => some (.flt e3m2 4)
  | 13, 1 => some (.flt e2m3 2)
  | 14, 0 => some (.flt e2m1 2)
  | _, _ => none
/-- emax (R71). -/
def MxElem.emax : MxElem → Int
  | .flt _ e => e
  | .int8 => 0
/-- Width of an element code. -/
def MxElem.width : MxElem → Nat
  | .flt F _ => F.width
  | .int8 => 8

/-- One live element under a scale (R72 step 4): code and flags. -/
def MxElem.quant (t : MxElem) (rm : Nat) (S : Nat) (v : FVal) : Nat × Nat :=
  match v with
  | .num s m e =>
    let e := e - ((S : Int) - 127)
    match t with
    | .flt F _ => (FVal.num s m e).convert F rm true
    | .int8 =>
      let (n, ix) := roundInt rm s m (e + 6)
      let c := max (-128) (min 127 n)
      (wrap 8 c, if ix || c != n then flNX else 0)
  | _ => (0, 0)

/-- The scale of a block and whether it holds a NaN or an infinity (R72 steps 2 and 3). -/
def mxScale (t : MxElem) (vs : List FVal) : Nat × Bool :=
  if vs.any (fun v => v.isNan || v.isInf) then (0xFF, true)
  else
    let logs := vs.filterMap (fun v => match v with
      | .num _ m e => if m = 0 then none else some (FVal.ilog m e)
      | _ => none)
    match logs with
    | [] => (0, false)
    | l :: ls => ((max (-127) (min 127 (ls.foldl max l - t.emax)) + 127).toNat, false)

/-- The value of an element code (R71). -/
def MxElem.value (t : MxElem) (x : Nat) : FVal :=
  match t with
  | .flt F _ => F.decode (x % 2 ^ F.width)
  | .int8 => FVal.ofInt false (sext 8 x) (-6)

/-- An element times its scale, exactly (R71, R73). -/
def MxElem.scaled (t : MxElem) (S x : Nat) : FVal :=
  if S = 0xFF then .nan false
  else match t.value x with
    | .num s m e => .num s m (e + S - 127)
    | .nan _ => .nan false
    | v => v

/-- MXQ (R151). -/
def packedMxq (o : Op) (w : Long) (s : State) : Out1 :=
  let F := f4Of (Long.sty w)
  let t := (mxElem w.ty.toNat (w.bits 27 26)).getD .int8
  floatOp o (fun i => (mxElem w.ty.toNat (w.bits 27 26)).isSome && (1 ≤ Long.sty w && Long.sty w ≤ 3) && rndCvtOk w.sc.toNat &&
      w.bsel != 0 && i.vOk 32 w.d.toNat && i.aOk w 32)
    (w.aRegs 32 ++ w.bRegs 32)
    (fun i _ =>
      let rm := i.rmode w.sc.toNat
      let cnt := min 96 (if w.bsel = 2 then w.bits 25 19 else if w.bsel = 1 then i.kVal 32 w.b.toNat else w.litNat)
      let act := i.active o
      let vs := (i.aVals w 32).map (fun x => F.decode (x % 2 ^ F.width))
      let live (l : Nat) : Bool := act.getLsbD l && l < cnt
      (List.range 3).flatMap (fun b =>
        let ls := (List.range 32).map (· + 32 * b)
        let (S, bad) := mxScale t ((ls.filter live).filterMap (fun l => vs[l]?))
        ls.map (fun l =>
          if !live l then (S * 2 ^ 24, 0)
          else
            let v := (vs[l]?).getD (.num false 0 0)
            if bad then (S * 2 ^ 24, if v.isSig || v.isInf then flNV else 0)
            else let (x, fl) := t.quant rm S v; (S * 2 ^ 24 + x, fl))))
    (fun i xs => i.fWrites o 32 w.d xs) s

/-- MXDQ (R152). -/
def packedMxdq (o : Op) (w : Long) (s : State) : Out1 :=
  let F := f4Of w.ty.toNat
  let t := (mxElem (Long.sty w) (w.bits 27 26)).getD .int8
  floatOp o (fun i => (1 ≤ w.ty.toNat && w.ty.toNat ≤ 3) && (mxElem (Long.sty w) (w.bits 27 26)).isSome && rndOk w.sc.toNat &&
      i.vOk 32 w.d.toNat && i.aOk w 32)
    (w.aRegs 32)
    (fun i _ => f1 (fun x => (t.scaled (x / 2 ^ 24) x).pack F (i.rmode w.sc.toNat) false) (i.aVals w 32))
    (fun i xs => i.fWrites o 32 w.d xs) s

def execHadd232 (o : Short) : State → Out1 := packed2 (Op.short 0x14 0) (o.wide 4 7 0) fadd
def execHadd264 (w : Long) : State → Out1 := packed2 (Op.long 0x14 0 w) w fadd
def execHmul232 (o : Short) : State → Out1 := packed2 (Op.short 0x14 1) (o.wide 4 7 0) fmul
def execHmul264 (w : Long) : State → Out1 := packed2 (Op.long 0x14 1 w) w fmul
def execHfma2 (w : Long) : State → Out1 := packedFma (Op.long 0x14 2 w) w
def execDot4 (w : Long) : State → Out1 := packedDot4 (Op.long 0x14 3 w) w
def execDot2 (w : Long) : State → Out1 := packedDot2 (Op.long 0x14 4 w) w
def execMxq (w : Long) : State → Out1 := packedMxq (Op.long 0x14 5 w) w
def execMxdq (w : Long) : State → Out1 := packedMxdq (Op.long 0x14 6 w) w

end Sys2Proof.Machine
end

