-- ==== Sys2Proof/Machine/Atomics.lean ====
section
/-! DEFINITION. Atomics, row 0x29 (R175 to R181). -/

namespace Sys2Proof.Machine

/-! The operations (R177, R179, R180). -/

/-- AOP of the AM overlay. -/
def Long.aop (w : Long) : Nat := w.bits 29 26

/-- The types that an ATOM operation takes (R177). -/
def atomTy (op : Nat) (t : ITy) : Bool :=
  if op < 3 then tyWide t else if op < 7 then t.isBits && (t.w == 32 || t.w == 64)
  else op < 9 && tyWide t && !t.signed

/-- The new value of an integer operation (R177). -/
def atomNew (op : Nat) (t : ITy) (old x : Nat) : Nat :=
  match op with
  | 0 => (old + x) % 2 ^ t.w
  | 1 => rMin t old x
  | 2 => rMax t old x
  | 3 => old &&& x
  | 4 => old ||| x
  | 5 => old ^^^ x
  | 6 => x
  | 7 => if x ≤ old then 0 else old + 1
  | _ => if old = 0 ∨ x < old then x else old - 1

/-- Both elements of a packed addition, each rounded on its own. -/
def add2 (F : Fmt) (a b : Nat) : Nat := (fadd F 0 (lo16 a) (lo16 b)).1 + 2 ^ 16 * (fadd F 0 (hi16 a) (hi16 b)).1

/-- The new value of a float operation (R179). -/
def atomFloat (op old x : Nat) : Nat :=
  match op with
  | 0 => (fadd f32 0 old x).1
  | 1 => (fminmax false f32 0 old x).1
  | 2 => (fminmax true f32 0 old x).1
  | 3 => add2 f16 old x
  | _ => add2 bf16 old x

/-- The new value of an atomic: `fl` selects the float operations. -/
def atomValue (fl : Bool) (op : Nat) (t : ITy) (old x : Nat) : Nat :=
  if fl then atomFloat op old x else atomNew op t old x

/-- One atomic at its home (R175): the issuing core's copy of the line is written back and dropped first; tags of the
granule clear. The old value and the memory. -/
def Mem.atomAt (m : Mem) (core a n : Nat) (f : Nat → Nat) : Nat × Mem :=
  let m := if a < hbmTop then m.release core (lineOf a) else m
  let old := leNat (m.homeRead a n)
  (old, m.homeWrite a (leBytes n (f old)))

/-- The record operation that an atomic must equal under ACC (R374). -/
def accOp (fl : Bool) (op : Nat) : Option Nat :=
  if fl then (match op with | 0 => some 9 | 3 => some 10 | 4 => some 11 | _ => none) else some op

/-- A lane whose data is still to come. -/
def zeroLane (x : Acc) : Nat × Nat := (x.l, 0)

/-! Lanes. -/

/-- The lanes that act: one for a context. -/
def Iss.atomLanes (i : Iss) (o : Op) : LaneMask := if i.ctl then 1 else i.active o
/-- The data register of a stream, lane 0 first. -/
def Iss.atomData (i : Iss) (wd n : Nat) : List Nat :=
  if i.ctl then [if wd = 128 then (i.cpVal n).bits.toNat else (i.cReg n).toNat % 2 ^ wd] else i.vVals wd n
/-- A register field of the stream inside its limits. -/
def Iss.atomReg (i : Iss) (wd n : Nat) : Bool := if i.ctl then cOk wd n else i.vOk wd n
/-- The registers an atomic reads. -/
def Iss.atomRegs (i : Iss) (o : Op) (w : Long) (wd : Nat) (ns : List Nat) : List SrcReg :=
  if i.ctl then [] else o.guardRegs ++ i.addrRegs w ++ ns.flatMap (srcRegs false wd)

/-- Atomics that PCIe does not carry raise ILLEGAL in the lanes of the host window (R181). -/
def Iss.hostAtomOk (i : Iss) (can : Bool) (xs : List Acc) : Except Stop Unit :=
  let far := xs.filter (fun x => (hostBase : Int) ≤ x.a && x.a < (peerBase : Int))
  if can || far.isEmpty then .ok ()
  else i.trap cILLEGAL 0 (if i.ctl then i.p.mask else maskOfLanes (far.map (·.l)))

/-- Before an atomic's memory side answers (R175, R291): the issuing core's L1 gives up its lines, an acquire at a wide
scope has the recorded cores drained. -/
def Iss.atomHome (i : Iss) (w : Long) (n : Nat) (xs : List Acc) : State :=
  let ls := hbmLines (i.admitted n true xs) n
  let m := ls.foldl (fun m l => m.release i.core l) i.s.mem
  { i.s with mem :=
      if w.ord % 2 == 1 && scopeWide w.sc.toNat then ls.foldl (fun m l => m.acquireLine i.core i.colour l) m else m }

/-- Atomics in ascending lane order between their release and acquire sides (R172, R285): `step` performs one lane. `ok`
are the accesses that are performed, `near` those not in the host window. -/
def Iss.atomRun (i : Iss) (w : Long) (s : State) (n : Nat) (ok near : List Acc) (step : State → Acc → Nat × State) :
    List (Nat × Nat) × State :=
  let acq := w.ord % 2 == 1 && scopeWide w.sc.toNat
  let s := if 2 ≤ w.ord then { s with mem := s.mem.releaseAccess i.core i.colour w.sc.toNat (ok.map Acc.addr) } else s
  let (vs, s) := near.foldl (fun (vs, s) x => let (v, s) := step s x; (vs ++ [(x.l, v)], s)) (([], s) : List (Nat × Nat) × State)
  let c := s.core i.core
  let s := s.setCore i.core { c with l2req := c.l2req + (near.filter (fun x => x.addr < hbmTop)).length }
  (vs, (s.afterLoad i.core i.colour w.sc.toNat acq).watchLs i.core i.colour 2 (near.map (fun x => (x.addr, n))))

/-- ATOM, ATOMF and RED: `dst` whether the old value is returned; `fl` and `op` the operation, `rop` the operation that
an ACC record must name, `pcie` the PCIe operation where there is one. -/
def memAtomic (o : Op) (w : Long) (legal : Bool) (dst fl : Bool) (op : Nat) (rop : Option Nat) (pcie : Option Nat)
    (s : State) : Out1 :=
  let t := tyOf w
  let n := t.w / 8
  runInstr o (fun i => legal && (dst || w.ord == 0 || w.ord == 2) && i.capOk w && i.offOk w && i.atomReg t.w w.c &&
      (!dst || i.atomReg t.w w.d.toNat)) (fun i => do
    let act := i.atomLanes o
    i.ecc act (i.atomRegs o w t.w [w.c])
    let xs := i.accs w act 0 false
    i.hostAtomOk pcie.isSome xs
    i.lsCheck ⟨[0], (if dst then pLD else 0) ||| pST ||| pAT, true, true, fun _ => none⟩ n i.ctl xs
    let marks ← i.lsRegion (.atomic rop) n i.ctl xs
    i.inOrder (2 ≤ w.ord)
    let (ok, s1) := i.perform (i.atomHome w n xs) n true true i.ctl xs
    let far := ok.filter (fun x => isHost x.addr)
    let near := ok.filter (fun x => !isHost x.addr)
    let data := i.atomData t.w w.c
    let at_ (l : Nat) : Nat := (data[l]?).getD 0
    let (vs, s2) := i.atomRun w (s1.markWritten i.T.task marks) n ok near (fun s x =>
      let (old, m) := s.mem.atomAt i.core x.addr n (fun old => atomValue fl op t old (at_ x.l))
      (old, { s with mem := m }))
    let d := w.d.toNat
    let (req, s3) := i.hostOpen s2 far n t.signed (if i.ctl then .c (d % 64) else .v (i.G.rowNo d)) 1 7 []
      (Long.acqScope w)
      (fun id x => .hostAtomic id (x.addr - hostBase) (pcie.getD 0) n (at_ x.l) 0)
    .ok { s := s3, flags := 0, pc := none, req := req, moved := false,
          ws := if !dst then []
                else if i.ctl then
                  (vs ++ far.map zeroLane).map (fun e => .c (d % 64) (BitVec.ofNat 64 (cImage t e.2)))
                else i.vResult t.w d (maskOfLanes (ok.map (·.l))) (byLane vs) }) s

/-! CAS (R178). -/

/-- CQ of the CM overlay. -/
def Long.casQ (w : Long) : Nat := w.bits 29 27

/-- One compare and swap of w bits at its home: old value, whether it swapped, the memory. -/
def Mem.casAt (m : Mem) (core a n e x : Nat) : Nat × Bool × Mem :=
  let m := if a < hbmTop then m.release core (lineOf a) else m
  let old := leNat (m.homeRead a n)
  if old = e then (old, true, m.homeWrite a (leBytes n x)) else (old, false, m)

/-- One compare and swap of a granule with tags: the old value as R168 reads it through the lane's capability. -/
def State.casCap (s : State) (core : Nat) (x : Acc) (e new : CapV) : CapV × Bool × State :=
  let m := if x.addr < hbmTop then s.mem.release core (lineOf x.addr) else s.mem
  let s := { s with mem := m }
  let old := s.filter ⟨BitVec.ofNat 128 (leNat (m.homeRead x.addr 16)), m.homeTag (x.addr / 16) && x.c.has pLC⟩
  if old = e then
    (old, true, { s with mem := m.homeWriteTagged x.addr (leBytes 16 new.bits.toNat) (s.filter new).tag })
  else (old, false, s)

def memCas (o : Op) (w : Long) (s : State) : Out1 :=
  let t := tyOf w
  let n := t.w / 8
  let d := w.d.toNat
  runInstr o (fun i => tyIs w (fun t => t.isBits && 32 ≤ t.w) && i.capOk w && i.offOk w && i.atomReg t.w w.c &&
      i.atomReg t.w d) (fun i => do
    let act := i.atomLanes o
    i.ecc act (i.atomRegs o w t.w [w.c, d])
    let capOf (r l : Nat) : CapV := if i.ctl then i.cpVal r else i.vpVal r l
    let xs := i.accs w act 0 false
    i.lsCheck ⟨[0], pLD ||| pST ||| pAT, true, true, fun l => if t.w = 128 then some (capOf w.c l) else none⟩ n i.ctl xs
    let marks ← i.lsRegion (.atomic none) n i.ctl xs
    i.inOrder (2 ≤ w.ord)
    let (ok, s1) := i.perform (i.atomHome w n xs) n true true i.ctl xs
    let far := ok.filter (fun x => isHost x.addr)
    let near := ok.filter (fun x => !isHost x.addr)
    let es := i.atomData t.w d
    let cs := i.atomData t.w w.c
    let at_ (l : List Nat) (j : Nat) : Nat := (l[j]?).getD 0
    -- each lane's old value, with its tag in bit 128 and its success in bit 129
    let (vs, s2) := i.atomRun w (s1.markWritten i.T.task marks) n ok near (fun s x =>
      if t.w = 128 then
        let (old, ok, s) := s.casCap i.core x (capOf d x.l) (capOf w.c x.l)
        (old.bits.toNat + (if old.tag then 2 ^ 128 else 0) + (if ok then 2 ^ 129 else 0), s)
      else
        let (old, ok, m) := s.mem.casAt i.core x.addr n (at_ es x.l) (at_ cs x.l)
        (old + (if ok then 2 ^ 129 else 0), { s with mem := m }))
    let (req, s3) := i.hostOpen s2 far n false (if i.ctl then .c (d % 64) else .v (i.G.rowNo d)) 2 (Long.casQ w)
      (far.map (fun x => at_ es x.l)) (Long.acqScope w) (fun id x => .hostAtomic id (x.addr - hostBase) 2 n (at_ es x.l) (at_ cs x.l))
    let m := maskOfLanes (ok.map (·.l))
    let tags := maskOfLanes ((vs.filter (fun v => v.2.testBit 128)).map (·.1))
    let vals := byLane (vs.map (fun (l, v) => (l, v % 2 ^ t.w)))
    .ok { s := s3, flags := 0, pc := none, req := req, moved := false,
          ws :=
            if i.ctl then
              (vs ++ far.map zeroLane).flatMap (fun e =>
                if t.w = 128 then cpResult d (e.2 % 2 ^ 128) (e.2.testBit 128)
                else [.c (d % 64) (BitVec.ofNat 64 (e.2 % 2 ^ t.w))])
            else
              (if t.w = 128 then i.vpResult d m vals tags else i.vResult t.w d m vals) ++
                [.q (Long.casQ w) m (maskOfLanes ((vs.filter (fun v => v.2.testBit 129)).map (·.1)))] }) s

def execAtom (w : Long) : State → Out1 :=
  let op := Long.aop w
  memAtomic (Op.long 0x29 0 w) w (op < 9 && tyIs w (atomTy op)) true false op (accOp false op)
    (if op = 0 then some 0 else if op = 6 then some 1 else none)
def execCas (w : Long) : State → Out1 := memCas (Op.long 0x29 1 w) w
def execAtomf (w : Long) : State → Out1 :=
  let op := Long.aop w
  memAtomic (Op.long 0x29 2 w) w (op < 5 && w.ty == 10) true true op (accOp true op) none
def execRed (w : Long) : State → Out1 :=
  let op := Long.aop w
  let o := Op.long 0x29 3 w
  if op < 9 then memAtomic o w (tyIs w (atomTy op)) false false op (some op) none
  else memAtomic o w (op < 12 && w.ty == 10) false true (if op = 9 then 0 else op - 7) (some op) none

end Sys2Proof.Machine
end

