-- ==== Sys2Proof/Machine/Engines.lean ====
section
/-! DEFINITION. Lane copies, sheaves, waits on engine work, decisions and completion records: CPL, SHEAF, WSHEAF, WCHK,
WSEQ, DPOST, CREC (R201, R207 to R209, R221, R223, R304). -/

namespace Sys2Proof.Machine

/-! CPL (R208, R304). -/

/-- Bytes of a lane copy by type code. -/
def cplWidth (ty : Nat) : Option Nat := if ty = 10 then some 4 else if ty = 11 then some 8 else if ty = 12 then some 16 else none

/-- The destination capability of a lane. -/
def Iss.cplDst (i : Iss) (w : Long) (l : Nat) : CapV :=
  if w.sc.getLsbD 0 then i.kpVal w.d.toNat else i.vpVal w.d.toNat l

/-- Line operations of one CPL: lanes of one source line and one destination line together (R304). -/
def lineOps (cpl : Nat) (sheaf : Word) (width : Nat) (ls : List CopyLane) : List LineOp :=
  let key (x : CopyLane) : Nat × Nat := (x.src / 128, x.dst / 128)
  ((ls.map key).eraseDups).map (fun k =>
    { cpl := cpl, sheaf := sheaf, lanes := ls.filter (fun x => key x == k), width := width, begun := false })

/-- The number of CPL instructions with copies outstanding. -/
def Group.cplsOut (G : Group) : Nat := ((G.ops.map (·.cpl)).eraseDups).length

/-- Step 8 of R49 for an engine of a core: what R271, R273 and R274 refuse. -/
def State.engRange (s : State) (core colour a n : Nat) : Option Nat :=
  let last := a + n - 1
  let mine (ok : Bool) : Option Nat :=
    if !ok then some subBOUNDS
    else if (probes a n 1024).all (fun x => s.allocColour x == some colour) then none else some subCOLOUR
  match whereIs a with
  | .hbm => if whereIs last = .hbm then none else some subBOUNDS
  | .chip _ => match whereIs last with
    | .chip _ => none
    | _ => some subBOUNDS
  | .sys => if whereIs last = .sys then none else some subBOUNDS
  | .host => if whereIs last = .host then none else some subBOUNDS
  | .peer _ => some subFORM
  | .none => some subBOUNDS
  | .scratch c => mine (whereIs last == .scratch c)
  | .cstore c => mine (whereIs last == .cstore c && c == core)

/-- The refusal of one lane's side of a CPL, which the CP path performs (R208, R272). -/
def Iss.cplErr (i : Iss) (u : LsUse) (n : Nat) (x : Acc) : Option CapErr :=
  match i.useErr u n x with
  | some e => some e
  | none => (i.s.engRange i.core i.colour x.addr n).map CapErr.cap

/-- The capability failures of both sides in lane order, a lane's source before its destination (R51). -/
def Iss.cplErrs (i : Iss) (n : Nat) (src dst : List Acc) : List (Nat × CapErr) :=
  let errs (u : LsUse) (xs : List Acc) : List (Nat × CapErr) := xs.filterMap (fun x => (i.cplErr u n x).map (fun e => (x.l, e)))
  (errs ⟨[0, 3], pLD, true, false, fun _ => none⟩ src ++ errs ⟨[0], pST, true, true, fun _ => none⟩ dst).mergeSort
    (fun x y => x.1 ≤ y.1)

/-- The region check of both sides at once (R376): every lane that fails on either side, DETAIL of the lowest, its source
first; else the records whose written bits are set. -/
def Iss.cplRegion (i : Iss) (n : Nat) (src dst : List Acc) : Except Stop (List Nat) :=
  let out (k : RKind) (xs : List Acc) : List Acc := xs.filter (fun x => regionChecked x.addr &&
    !(k == .read && i.inParam x.addr n) && (admitting i.T.regions x.addr (x.addr + n) k).isEmpty)
  match (out .read src ++ out .write dst).mergeSort (fun x y => x.l ≤ y.l) with
  | x :: bad => .error (.trap (Trap.of cUNDECLARED 0 (regionDetail i.T.regions x.addr (x.addr + n))
      (maskOfLanes (x.l :: bad.map (·.l)))))
  | [] => .ok ((dst.filter (fun x => regionChecked x.addr)).flatMap
      (fun x => admitting i.T.regions x.addr (x.addr + n) .write))

def engCpl (o : Op) (w : Long) (s : State) : Out1 :=
  let du := w.sc.getLsbD 0
  runInstr o (fun i => (cplWidth w.ty.toNat).isSome && i.capOk w && i.offOk w &&
      (if du then kOk 128 w.d.toNat else i.vOk 128 w.d.toNat)) (fun i => do
    let n := (cplWidth w.ty.toNat).getD 4
    i.ecc i.p.mask (i.addrRegs w ++ srcRegs du 128 w.d.toNat)
    if 256 ≤ i.G.cplsOut then .error (.wait .sheaf (fun s => s))
    else
      let src := i.accs w i.p.mask w.immI false
      let dst := src.map (fun x => let d := i.cplDst w x.l; (⟨x.l, d, x.a - (x.c.cursor : Int) + (d.cursor : Int)⟩ : Acc))
      i.capTrap false (i.cplErrs n src dst)
      let marks ← i.cplRegion n src dst
      let lanes := (src.zip dst).map (fun (x, d) =>
        ({ lane := x.l, src := x.addr, dst := d.addr,
           keep := !dst.any (fun e => x.l < e.l && e.addr == d.addr),
           tagged := n == 16 && x.c.has pLC && d.c.has pSC } : CopyLane))
      let s := i.s.markWritten i.T.task marks
      let G := { i.G with ops := i.G.ops ++ lineOps i.G.cplNo (i.G.k55 + 1) n lanes, cplNo := i.G.cplNo + 1 }
      .ok (Done.only (s.setGroup i.id G))) s

/-! SHEAF, WSHEAF (R209). -/

/-- Whether sheaf m is n or before it, both counted back from k55. -/
def Group.sheafUpTo (G : Group) (n m : Word) : Bool := (G.k55 - n).toNat ≤ (G.k55 - m).toNat && (G.k55 - m).toNat < 2 ^ 31

/-- Closed sheaves that are incomplete: from the oldest with a copy outstanding to k55. -/
def Group.openSheaves (G : Group) : Nat :=
  (G.ops.filter (fun x => (G.k55 - x.sheaf).toNat < 2 ^ 31)).foldl (fun m x => max m ((G.k55 - x.sheaf).toNat + 1)) 0

def engSheaf (o : Op) (w : Long) (s : State) : Out1 :=
  runInstr o (fun i => i.dOnce 32 w.d.toNat && w.bsel != 3) (fun i =>
    if 16 ≤ i.G.openSheaves then .error (.wait .sheaf (fun s => s))
    else
      let n := i.G.k55 + 1
      .ok { i.results (kResult 32 w.d.toNat n.toNat) with s := i.s.setGroup i.id { i.G with k55 := n } }) s

def engWsheaf (o : Op) (w : Long) (s : State) : Out1 :=
  runInstr o (fun i => i.bOnce w 32) (fun i => do
    i.ecc i.p.mask (if w.bsel = 1 then i.once 32 w.b.toNat else [])
    let n : Word := if w.bsel = 2 then i.G.k55 + BitVec.ofInt 32 w.immI else BitVec.ofNat 32 (i.bVal1 w tN32)
    if seqBefore i.G.k55 n then .error (.trap (Trap.of cDEADLOCK 0 (6 * 2 ^ 9) i.p.mask))
    else if i.G.ops.any (fun x => i.G.sheafUpTo n x.sheaf) then .error (.wait .sheaf (fun s => s))
    else
      let covered := i.G.fails.filter (fun f => i.G.sheafUpTo n f.sheaf)
      match covered with
      | [] => .ok (Done.only i.s)
      | f :: _ =>
        .error (.fault (Trap.of f.cause f.sub f.detail (covered.foldl (fun m x => m ||| x.lanes) 0)) (fun s =>
          match s.group i.id with
          | some G => s.setGroup i.id { G with fails := G.fails.filter (fun x => !i.G.sheafUpTo n x.sheaf) }
          | none => s))) s

/-! WSEQ (R201). -/

/-- The path of an agent records the target of its relative WSEQ. -/
def State.setTarget (s : State) (ag : Agent) (n : Option (Word64 × Word)) : State :=
  match s.path ag with
  | some p => s.setPath ag { p with target := n }
  | none => s

/-- The target that the relative WSEQ which the path issues has formed already (R201). -/
def Iss.targetAt (i : Iss) : Option Word := (i.p.target.filter (fun x => x.1 == i.p.pc)).map (·.2)

def engWseq (o : Op) (w : Long) (s : State) : Out1 :=
  let ch := w.sc.toNat % 4
  runInstr o (fun i => ch < 3 && i.bOnce w 32) (fun i => do
    i.ecc i.p.mask (if w.bsel < 2 then i.once 32 w.b.toNat else [])
    let c := i.T.chain ch
    let n : Word := if w.bsel = 2 then i.targetAt.getD (c.tseq + BitVec.ofInt 32 w.immI)
      else BitVec.ofNat 32 (i.bVal1 w tN32)
    let hold (s : State) : State := if w.bsel = 2 then s.setTarget i.ag (some (i.p.pc, n)) else s
    if !seqBefore c.cseq n then .ok (Done.only (i.s.setTarget i.ag none))
    else match c.cmds.find? (fun x => x.status == 4 && !seqBefore n x.seq) with
      | some x => .error (.fault (Trap.of x.cause x.sub x.detail i.p.mask) hold)
      | none => .error (.wait .wseq hold)) s

/-! WCHK (R207). -/

/-- The command that owns a bitmap. -/
def Team.owner (T : Team) (bmo : Nat) : Option Cmd := (Tbl.get T.owners bmo).bind (fun (ch, n) => (T.chain ch).cmd n)

/-- A chunk's bit as it stands. A bit outside the team's scratchpad is a free value. -/
def State.chunkBit (s : State) (T : Team) (bmo c free : Nat) : Bool :=
  let o := 64 * bmo + c / 8
  if o < T.scratchLen then (s.mem.home (T.scratch + o)).getLsbD (c % 8) else bitAt free (c % 64)

/-- Whether mask bit j counts as set. -/
def State.chunkSet (s : State) (T : Team) (bmo c free : Nat) : Bool :=
  s.chunkBit T bmo c free || (match T.owner bmo with
    | some x => x.nc ≤ c
    | none => false)

/-- The bits of a 64-bit mask that do not count as set. -/
def State.chunksClear (s : State) (T : Team) (bmo c0 mask free : Nat) : Nat :=
  ((List.range 64).map (fun j => if bitAt mask j && !s.chunkSet T bmo (c0 + j) free then 2 ^ j else 0)).sum

def engWchk (o : Op) (w : Long) (s : State) : Out1 :=
  let bmo := w.bits 31 19
  runInstr o (fun i => i.aOnce w 64 && i.dOnce 64 w.d.toNat && w.bsel != 2 && i.bOnce w 32) (fun i => do
    i.ecc i.p.mask (i.once 64 w.a.toNat ++ (if w.bsel < 2 then i.once 32 w.b.toNat else []))
    let m := if i.ctl then (i.cReg w.a.toNat).toNat else i.kVal 64 w.a.toNat
    let c0 := i.bVal1 w tN32
    let out : Bool := i.T.scratchLen < 64 * bmo + (c0 + 64) / 8 + 1
    let (x, s1) := if out then i.s.draw else (0, i.s)
    let clear := i.s.chunksClear i.T bmo c0 m x
    let done : Except Stop Done := .ok { i.results (i.dResult tN64 w.d.toNat clear) with s := s1 }
    match i.T.owner bmo with
    | none => done
    | some c =>
      if c.status = 4 then .error (.trap (Trap.of c.cause c.sub c.detail i.p.mask))
      else if c.complete || (if w.sc.getLsbD 0 then clear != m else clear == 0) then done
      else .error (.wait .wchk (fun s => s))) s

/-! DPOST (R221). -/

/-- Whether a team's group, by GRP, has not retired. -/
def State.grpLive (s : State) (T : Team) (n : Nat) : Bool :=
  match T.groups[n]? with
  | some g => (s.group g).any (fun G => G.run != .retired && G.team == T.core * 4 + T.tslot)
  | none => false

def engDpost (o : Op) (w : Long) (s : State) : Out1 :=
  let kind := bitsOf w.d.toNat 5 4
  let ix := w.d.toNat % 16
  runInstr o (fun i => i.bOnce w 32 && (if kind = 0 then decide (ix < i.T.groups.length)
      else if kind = 1 then decide (ix < i.T.roles.length) else kind == 2)) (fun i =>
    let c := i.s.core i.core
    if kind = 0 ∧ !i.s.grpLive i.T ix then .ok (Done.only i.s)
    else if 64 ≤ c.dq.length then .error (.wait .queue (fun s => s))
    else
      let d : Decision := { team := i.team, kind := kind, index := ix, payload := BitVec.ofNat 32 (i.bVal1 w tN32) }
      .ok (Done.only (i.s.setCore i.core { c with dq := c.dq ++ [d] }))) s

/-! CREC (R222, R223). -/

/-- The record of a group, without RIDX. -/
def crecRec (grp payload : Nat) : BitVec 192 := BitVec.ofNat 192 (payload * 2 ^ 64 + grp * 2 ^ 26)

def engCrec (o : Op) (w : Long) (s : State) : Out1 :=
  runInstr o (fun i => if i.ctl then w.d.toNat % 64 % 4 == 0 && w.d.toNat % 64 ≤ 56 && w.bsel != 3
      else w.asel == 1 && w.a.toNat % 4 == 0 && w.bsel != 3) (fun i => do
    if i.ctl then
      if i.T.ringHeld = 0 then .error (.wait .ring (fun s => s))
      else
        let a := cstoreOf i.T.core i.T.tslot + 0x3000 + 32 * (i.T.taken % 32)
        let x := leNat (i.s.mem.homeRead a 32)
        let d := w.d.toNat % 64
        .ok { i.results ((List.range 4).map (fun j => .c (d + j) (BitVec.ofNat 64 (x / 2 ^ (64 * j))))) with
              s := i.s.setTeam i.team { i.T with taken := i.T.taken + 1 } }
    else
      i.ecc i.p.mask (i.once 128 w.a.toNat)
      if !i.s.ringOpen i.T (i.T.ringRank i.G.grp) then .error (.wait .ring (fun s => s))
      else .ok (Done.only (i.s.ringWrite i.team (crecRec i.G.grp (i.kVal 128 w.a.toNat)) (i.T.ringRank i.G.grp)))) s

def execCpl (w : Long) : State → Out1 := engCpl (Op.long 0x3C 0 w) w
def execSheaf (w : Long) : State → Out1 := engSheaf (Op.long 0x3C 1 w) w
def execWsheaf (w : Long) : State → Out1 := engWsheaf (Op.long 0x3C 2 w) w
def execWchk (w : Long) : State → Out1 := engWchk (Op.long 0x3C 4 w) w
def execWseq (w : Long) : State → Out1 := engWseq (Op.long 0x3C 6 w) w
def execDpost (w : Long) : State → Out1 := engDpost (Op.long 0x3C 7 w) w
def execCrec (w : Long) : State → Out1 := engCrec (Op.long 0x3D 7 w) w

end Sys2Proof.Machine
end

