-- ==== Sys2Proof/Machine/EngineOps.lean ====
section
/-! DEFINITION. What the engines share: token charges, the checks of a block's capabilities, reads and writes of an
engine path (R50, R51, R53, R271 to R276, R373 to R377, R401, R446). -/

namespace Sys2Proof.Machine

/-- A device step: its state where its conditions hold, else it does not come about. -/
def stepIf (b : Bool) (s : State) : Out1 := if b then .next s else .refused .notEnabled

/-- An optional state as the outcome of a device step. -/
def stepSome : Option State → Out1
  | some s => .next s
  | none => .refused .notEnabled

/-- A running checkpoint holds a function's tasks (R458). -/
def State.frozen (s : State) (f : Nat) : Bool := s.ras.ckStatus == 1 && s.ras.ckOp == 1 && s.ras.ckFmask.getLsbD f

/-! Token charges (R401). Tokens, debt and pool count bytes. -/

/-- β of a function, in bytes (R392). -/
def Fn.beta (F : Fn) : Nat := 4096 * F.borrow.toNat

/-- One attempt to charge n bytes: whether the transfer starts, the function, the pool. -/
def Fn.pay (F : Fn) (pool n : Nat) : Bool × Fn × Nat :=
  let full (F : Fn) : Fn := if F.debt = F.beta then { F with thr := true } else F
  if n ≤ F.tokens then (true, full { F with tokens := F.tokens - n }, pool)
  else
    let need := n - F.tokens
    if !F.thr && F.debt + need ≤ F.beta && need ≤ pool then
      (true, full { F with debt := F.debt + need, tokens := 0 }, pool - need)
    else (false, if F.beta < F.debt + need then { F with thr := true } else F, pool)

/-- A charge that always starts: the lane copies of R306 under a pre-emption request. -/
def Fn.force (F : Fn) (n : Nat) : Fn :=
  if F.rate = 0 then F
  else if n ≤ F.tokens then { F with tokens := F.tokens - n }
  else
    let d := F.debt + (n - F.tokens)
    { F with debt := d, tokens := 0, thr := F.thr || F.beta ≤ d }

/-- What a charge answers: the transfer starts, joins the queue, or is not retried before the next tick. -/
inductive Charge where
  | go (s : State)
  | wait (s : State)
  | held

/-- The charge of n bytes of a unit of work to the function of a colour. -/
def State.charge (s : State) (colour : Nat) (w : Work) (n : Nat) : Charge :=
  let f := (s.colour colour).func
  let F := s.fn f
  let others := F.waiting.filter (fun x => x.unit != w)
  let join (F : Fn) : Fn := { F with waiting := F.waiting ++ [{ unit := w, bytes := n, paid := false }] }
  if F.rate = 0 then .go (if F.waiting.isEmpty then s else s.setFn f { F with waiting := others })
  else match F.waiting.find? (fun x => x.unit == w) with
    | some x => if x.paid then .go (s.setFn f { F with waiting := others }) else .held
    | none =>
      if F.waiting.any (fun x => !x.paid) then .wait (s.setFn f (join F))
      else
        let (ok, F, pool) := F.pay s.sec.pool n
        let s := { s with sec := { s.sec with pool := pool } }
        if ok then .go (s.setFn f F) else .wait (s.setFn f (join F))

/-- A transfer: what its start does, once charged. -/
def State.charged (s : State) (colour : Nat) (w : Work) (n : Nat) (start : State → State) : Out1 :=
  match s.charge colour w n with
  | .go s => .next (start s)
  | .wait s => .next s
  | .held => .refused .notEnabled

/-! Checks of the capabilities of a block (R49, R50, R271 to R274). -/

/-- Why a command fails: cause, subcause, FADDR. -/
structure EngErr where
  cause : Nat
  sub : Nat
  faddr : Nat
  deriving DecidableEq, Repr

/-- DETAIL that a wait reports for a cause (R330, R376): the structure of an ECC is given with it. -/
def EngErr.detail (e : EngErr) (ecc : Nat) : Nat := if e.cause = cUNDECLARED then 0x1FFF else if e.cause = cECC then ecc else 0

/-- A refusal of a capability check as a command's failure. -/
def engErr (faddr : Nat) : CapErr → EngErr
  | .illegal => ⟨cILLEGAL, 0, faddr⟩
  | .cap k => ⟨cCAPABILITY, k, faddr⟩
  | .inexact => ⟨cINEXACT, 0, faddr⟩

/-- Steps 1 to 7 of R49 for a capability of a block: form 0, EN and the data permission, bytes [a, a + n). -/
def State.capSideErr (s : State) (T : Team) (c : CapV) (perms a n : Nat) : Option EngErr :=
  let sys := isSys c.cursor
  (c.check ⟨[0], pEN ||| perms ||| (if sys then pSY else 0)⟩ T.colour
    (s.colourOk T.colour) (sys && T.colour != 0) a n).map (engErr c.cursor)

/-- A capability of a block against the bytes it names: steps 1 to 7 of R49 for their hull, n bytes from the cursor, and
step 8 for each of their runs. -/
def State.sideErr (s : State) (T : Team) (c : CapV) (perms n : Nat) (rs : List (Nat × Nat) := [(c.cursor, n)]) : Option EngErr :=
  match s.capSideErr T c perms c.cursor n with
  | some e => some e
  | none =>
    (rs.findSome? (fun (a, m) => if m = 0 then none else s.engRange T.core T.colour a m)).map
      (fun k => ⟨cCAPABILITY, k, c.cursor⟩)

/-- The peer side (R46, R47): form 1, DEST another device of the pod. -/
def State.peerErr (s : State) (T : Team) (c : CapV) (perms n : Nat) : Option EngErr :=
  let a := c.cursor
  match c.check ⟨[1], pEN ||| perms⟩ T.colour (s.colourOk T.colour) false a n with
  | some e => some (engErr a e)
  | none => if c.dest = s.bring.devid ∨ s.bring.podmod ≤ c.dest then some ⟨cCAPABILITY, subFORM, a⟩ else none

/-- The region check of a hull (R373, R375, R376); core-local windows are not checked. -/
def regionErr (T : Team) (a n : Nat) (k : RKind) : Option EngErr :=
  if !regionChecked a || !(admitting T.regions a (a + n) k).isEmpty then none else some ⟨cUNDECLARED, 0, a⟩

/-- The written bits that an admitted hull sets (R377). -/
def State.markHull (s : State) (T : Team) (a n : Nat) : State :=
  if regionChecked a then s.markWritten T.task (admitting T.regions a (a + n) .write) else s

/-- The first failure of a list. -/
def firstFail : List (Option EngErr) → Option EngErr
  | [] => none
  | some e :: _ => some e
  | none :: r => firstFail r

/-- The status with which the host completes an engine's read at an address (log 48). -/
def State.hostFail (s : State) (a : Nat) : Nat := Config.hostStatus s.agenda.length s.fresh a

/-- DETAIL of a failure in a state: the completion status of a HOSTERR, else that of the cause (R330). -/
def State.failDetail (s : State) (e : EngErr) (ecc : Nat) : Nat :=
  if e.cause = cHOSTERR then s.hostFail e.faddr else e.detail ecc

/-- A command of chain `ch` that fails (R199). -/
def State.failCmd (s : State) (t ch : Nat) (c : Cmd) (e : EngErr) (ecc : Nat) : State :=
  s.faultCmd t ch c e.cause e.sub (s.failDetail e ecc) e.faddr

/-! Arbitration (R303). -/

/-- The next TSLOT of a rotation among those that have work. -/
def nextTurn (last : Nat) (ready : List Nat) : Option Nat :=
  ((List.range 4).map (fun d => (last + 1 + d) % 4)).find? ready.contains
/-- The TSLOTs of a core's teams that have work of a kind. -/
def State.slotsWith (s : State) (core : Nat) (p : Nat → Team → Bool) : List Nat :=
  (s.teams.filter (fun e => coreOfTeam e.1 == core && p e.1 e.2)).map (fun e => e.2.tslot)
/-- Work of a team, of a kind, that waits for tokens. -/
def State.shortOf (s : State) (T : Team) (p : Work → Bool) : Bool :=
  (s.fn (s.colour T.colour).func).waiting.any (fun x => !x.paid && p x.unit)

/-! Messages to peer devices (R437, R440). -/

def State.port (s : State) (p : Nat) : Port := (Tbl.get s.bring.ports p).getD Port.off
def State.setPort (s : State) (p : Nat) (x : Port) : State :=
  { s with bring := { s.bring with ports := Tbl.set s.bring.ports p x } }
/-- A port carries flits. -/
def State.portUp (s : State) (p : Nat) : Bool := p < 12 && (s.port p).state == 4
/-- The UP ports, one bit each. -/
def State.upMask (s : State) : Nat := ((List.range 12).map (fun p => if s.portUp p then 2 ^ p else 0)).sum

/-- A message to a device in a flit of the port that reaches it; none where it is reachable over no UP port. -/
def State.sendPeer (s : State) (dev t seq unit : Nat) (req : PeerReq) : Option State :=
  let p := Config.route s.bring.cfgDigest s.upMask dev
  if !s.portUp p then none
  else
    let x := s.port p
    let fl : Flight := { ctr := x.ctr, dev := dev, team := t, seq := seq, unit := unit, req := req, resends := 0, at_ := s.clock }
    some ((s.setPort p { x with ctr := x.ctr + 1, flights := x.flights ++ [fl] }).send (.peer p x.ctr dev t seq unit req))

/-- The messages of a team given to another number: 2^32 plus an image's number while it is saved, 2^33 once it has ended. -/
def State.moveFlights (s : State) (old new : Nat) : State :=
  { s with bring := { s.bring with ports := s.bring.ports.map (fun e => (e.1, { e.2 with flights := e.2.flights.map (fun x =>
      if x.team = old then { x with team := new } else x) })) } }

/-- The failure of a message that no UP port can carry. -/
def linkErr (faddr : Nat) : EngErr := ⟨cLINK, 0, faddr⟩

/-! Engine reads and writes (R276, R307, R446). -/

/-- The refusal of an engine's request at the memory side: extent table, then the host's error status (R330), then a
poisoned source. -/
def State.engRefusal (s : State) (colour a n : Nat) (write : Bool) : Option EngErr :=
  match s.extRange colour a n write with
  | some (c, k) => some ⟨c, k, a⟩
  | none =>
    if write then none
    else if isHost a && s.hostFail a != 0 then some ⟨cHOSTERR, 0, a⟩
    else match s.mem.poisonIn a n with
      | some (b, _) => some ⟨cECC, 0, b⟩
      | none => none

/-- The bytes an engine reads. Data of the host window arrives from outside: a free value (log 2). -/
def State.engRead (s : State) (a n : Nat) : List Byte × State :=
  if isHost a then let (x, s) := s.draw; (leBytes n x, s)
  else if isSys a then (s.sysRead a n, s)
  else (s.mem.homeRead a n, s)

/-- The bytes of several runs, joined. -/
def State.engReads (s : State) : List (Nat × Nat) → List Byte × State
  | [] => ([], s)
  | (a, n) :: r =>
    let (x, s) := s.engRead a n
    let (y, s) := s.engReads r
    (x ++ y, s)

/-- An engine's write of a run. -/
def State.engStore (s : State) (core a : Nat) (bs : List Byte) : State :=
  if isHost a then s.send (.hostWrite (a - hostBase) bs) else { s with mem := s.mem.engWrite core a bs }

/-- Runs of bytes written from one list. -/
def State.engStores (s : State) (core : Nat) : List (Nat × Nat) → List Byte → State
  | [], _ => s
  | (a, n) :: r, bs => (s.engStore core a (bs.take n)).engStores core r (bs.drop n)

/-- Whether a copied granule arrives tagged (R53, R421). -/
def State.tagPasses (s : State) (T : Team) (dst : Nat) (c : CapV) : Bool :=
  c.tag && !s.revoked c && (c.has pGL || (T.spad.base ≤ dst && dst + 16 ≤ T.spad.top))

/-- The tags of granules set at the destination of a tag-keeping copy. -/
def State.setTags (s : State) (grs : List Nat) : State :=
  { s with mem := { s.mem with tags := grs.foldl (fun t g => Store.write t g 1) s.mem.tags } }

end Sys2Proof.Machine
end

