-- ==== Sys2Proof/Machine/BringUp.lean ====
section
/-! DEFINITION. Power-up to READY, pacing, power-off (R282, R283, R367, R432 to R436, R442, R444, R451). -/

namespace Sys2Proof.Machine

/-! Power and resets (R432). -/

/-- Everything at its reset value; turns still to come and the model's own counters stay, and the number of power-ups
grows. -/
def State.powered (s : State) (stage : Nat) : State :=
  { State.reset with
    agenda := s.agenda, fresh := s.fresh, waitNo := s.waitNo, io := { reqs := [], reqNo := s.io.reqNo, out := s.io.out }
    bring := { Bring.reset with stage := stage, boots := s.bring.boots + 1 } }

def execPowerUp (s : State) : Out1 := .next (s.powered 1)

/-- The supply is lost: stage 0, nothing kept. -/
def execPowerOff (s : State) : Out1 := .next (s.powered 0)

/-- Bring-up restarts at stage 1. What the spec keeps until the next power-up stays: BRDESC and GO, the digests, the
drawn values, the counts since power-up. -/
def State.restarted (s : State) : State :=
  let b := s.bring
  { s.powered 1 with
    bring := { Bring.reset with
      go := b.go, fwaddr := b.fwaddr, cfgaddr := b.cfgaddr, fwlen := b.fwlen, cfglen := b.cfglen, boots := b.boots
      fwDigest := b.fwDigest, cfgDigest := b.cfgDigest
      ports := b.ports.map (fun e => (e.1, { Port.off with retrain := e.2.retrain })) }
    ras := { Ras.reset with ue := s.ras.ue, ce := s.ras.ce, sseq := s.ras.sseq, rseq := s.ras.rseq } }

def execConventionalReset (s : State) : Out1 := stepIf (s.bring.stage != 0) s.restarted

/-! Stages (R432). -/

/-- A stage begins. -/
def State.enter (s : State) (stage : Nat) : State :=
  { s with bring := { s.bring with stage := stage, since := s.clock } }

/-- A stage fails. -/
def State.failStage (s : State) (code : Nat) : State :=
  { s with bring := { s.bring with stage := 15, fstage := s.bring.stage, fail := code } }

/-- Stage 1 ends once the link is trained and GO is written. -/
def State.stage1 (s : State) : State := if s.bring.pcie && s.bring.go then s.enter 2 else s

/-- A partner without FLIT mode leaves the device at stage 1 with FAIL 1 (R442). -/
def execPcieTraining (flit : Bool) (s : State) : Out1 :=
  stepIf (s.bring.stage == 1 && !s.bring.pcie)
    (if flit then { s with bring := { s.bring with pcie := true, fail := 0, fstage := 0 } }.stage1
     else { s with bring := { s.bring with fail := 1, fstage := 1 } })

/-- GO written as 1: ignored once written. -/
def execGo (s : State) : Out1 :=
  if s.bring.go ∨ s.bring.stage ≠ 1 then .next s
  else .next { s with bring := { s.bring with go := true } }.stage1

/-- Stage 2: the image as the host delivers it; none where a read completes with an error (R435). -/
def execFirmwareVerify (img : Option (List Byte)) (s : State) : Out1 :=
  let n := s.bring.fwlen.toNat
  if s.bring.stage ≠ 2 then .refused .notEnabled
  else if n < 4096 ∨ 67108864 < n then .next (s.failStage 10)
  else match img with
    | none => .next (s.failStage 9)
    | some bs =>
      if bs.length ≠ n then .refused .notEnabled
      else if !Config.verify bs then .next (s.failStage 2)
      else if Config.fwVersion bs < Config.fuseVersion then .next (s.failStage 3)
      else .next ({ s with bring := { s.bring with fwDigest := Config.sha512 bs } }.enter 3)

/-- A port as the blob sets it. -/
def portOf (blob : List Byte) (old : Port) (p : Nat) : Port :=
  let (on, dev, port, fec) := Config.blobPort blob p
  { Port.off with enabled := on, expDev := dev, expPort := port, fecReq := fec, retrain := old.retrain,
                  reason := if on then 0 else 8 }

/-- What a blob sets (R436). -/
def State.applyBlob (s : State) (bs : List Byte) : State :=
  let (pways, devid, podmod, hops) := Config.blobNums bs
  { s with
    sec := { s.sec with pways := min 12 pways }
    bring := { s.bring with
      cfgDigest := Config.sha512 bs, devid := devid % 16384, podmod := podmod, hops := hops % 256
      phys := (Config.blobPhys bs).take 256
      ports := (List.range 12).map (fun p => (p, portOf bs (s.port p) p)) } }

/-- Stage 3 (R436). -/
def execConfigApply (blob : Option (List Byte)) (s : State) : Out1 :=
  let n := s.bring.cfglen.toNat
  if s.bring.stage ≠ 3 then .refused .notEnabled
  else if n < 4096 ∨ 1048576 < n then .next (s.failStage 10)
  else match blob with
    | none => .next (s.failStage 9)
    | some bs =>
      let (_, devid, podmod, _) := Config.blobNums bs
      if bs.length ≠ n then .refused .notEnabled
      else if !Config.verify bs then .next (s.failStage 4)
      else if !Config.blobBound bs then .next (s.failStage 5)
      else if 2 < (Config.blobSpares bs).1 ∨ 1 < (Config.blobSpares bs).2 ∨ podmod ≤ devid then .next (s.failStage 6)
      else .next ((s.applyBlob bs).enter 4)

/-- Stage 4. -/
def execHbmTraining (ok : Bool) (s : State) : Out1 :=
  stepIf (s.bring.stage == 4) (if ok then s.enter 5 else s.failStage 7)

/-- A port begins to train (R437). -/
def Port.detect (x : Port) (now : Nat) : Port := { x with state := 1, reason := 0, since := now }

/-- Stage 5: the package cycle counter starts at 0 when it ends; the enabled ports begin to train. -/
def execFabricBringUp (ok : Bool) (s : State) : Out1 :=
  let up (s : State) : State :=
    let s := { s with clock := 0 }.enter 6
    { s with bring := { s.bring with ports := s.bring.ports.map (fun e => (e.1, if e.2.enabled then e.2.detect 0 else e.2)) } }
  stepIf (s.bring.stage == 5) (if ok then up s else s.failStage 8)

/-- The time limit of a stage in milliseconds (R432). -/
def stageLimit (stage : Nat) : Option Nat :=
  match stage with
  | 2 => some 2000
  | 3 => some 1000
  | 4 => some 1500
  | 5 => some 500
  | _ => none

/-- The failure codes of a stage (R432). -/
def stageCodes (stage : Nat) : List Nat :=
  match stage with
  | 2 => [2, 3, 9, 10]
  | 3 => [4, 5, 6, 9, 10]
  | 4 => [7]
  | _ => [8]

/-- A stage passes its limit and fails; which of its codes stands then is a free value. -/
def execStageTimeLimit (s : State) : Out1 :=
  match stageLimit s.bring.stage with
  | none => .refused .notEnabled
  | some ms =>
    let codes := stageCodes s.bring.stage
    let (x, t) := s.draw
    stepIf (s.bring.since + 1800000 * ms ≤ s.clock) (t.failStage ((codes[x % codes.length]?).getD 0))

/-! Stages 6 and 7 (R282, R283, R367). -/

/-- Stage 7: the discovery table, the glean registers; then READY. -/
def State.publish (s : State) : State :=
  { s with
    mem := s.mem.homeWrite (sysBase + 0x1000) s.discovery
    cores := (List.range 256).map (fun i => (i, { Core.empty with glean := BitVec.ofNat 16 (0xA500 + i) }))
    bring := { s.bring with stage := 8, since := s.clock } }

/-- Stage 6 ends when every enabled port is UP or FAILED, or after 500 ms. -/
def execFewickStageEnd (s : State) : Out1 :=
  stepIf (s.bring.stage == 6 &&
      (s.bring.ports.all (fun e => !e.2.enabled || e.2.state == 4 || e.2.state == 5) ||
        s.bring.since + 900000000 ≤ s.clock))
    s.publish

/-- PACE (R444). -/
def execPacing (on : Bool) (s : State) : Out1 := .next { s with bring := { s.bring with pace := on } }

end Sys2Proof.Machine
end

