-- ==== Sys2Proof/Machine/CapOps.lean ====
section
/-! DEFINITION. Capability instructions, rows 0x2A and 0x2B (R182 to R189), in lane, uniform and control form. -/

namespace Sys2Proof.Machine

/-- The instruction executes once: uniform or control form (R182). -/
def Iss.capOnceForm (i : Iss) (w : Long) : Bool := i.ctl || w.asel == 1

/-- Selectors, guard and the register limits of A (R182). -/
def Iss.capSel (i : Iss) (o : Op) (w : Long) : Bool :=
  i.capOk w && (if i.ctl then w.bsel != 1 else if w.asel = 1 then w.bsel != 0 && o.unguarded else true)

/-- B is inside its limits at a width. -/
def Iss.capBOk (i : Iss) (w : Long) (wd : Nat) : Bool := i.ctl || i.bOk w wd

/-- B at an integer type, one value a lane; one for a context. -/
def Iss.capB (i : Iss) (w : Long) (t : ITy) : List Nat :=
  if i.ctl then [if w.bsel = 0 then (i.cReg w.b.toNat).toNat % 2 ^ t.w else i.bVal1 w t] else i.bVals w t

/-- A destination of a plain register of the form. -/
def Iss.capPlainOk (i : Iss) (w : Long) (wd : Nat) : Bool :=
  if i.ctl then true else if w.asel = 1 then kOk wd w.d.toNat else i.vOk wd w.d.toNat
/-- A destination capability of the form. -/
def Iss.capDestOk (i : Iss) (w : Long) : Bool :=
  if i.ctl then cOk 128 w.d.toNat else if w.asel = 1 then kOk 128 w.d.toNat else i.vOk 128 w.d.toNat

/-- The registers read. -/
def Iss.capRegs (i : Iss) (o : Op) (w : Long) (b : List SrcReg) : List SrcReg :=
  if i.ctl then [] else o.guardRegs ++ w.aRegs 128 ++ b

/-- The lanes that take part: lane 0 stands for a form that executes once. -/
def Iss.capLanes (i : Iss) (o : Op) (w : Long) : LaneMask := if i.capOnceForm w then 1 else i.active o
/-- The lanes for poison. -/
def Iss.capMask (i : Iss) (o : Op) (w : Long) : LaneMask := if i.capOnceForm w then i.p.mask else i.active o

/-- A capability written by the form. -/
def Iss.capWrite (i : Iss) (o : Op) (w : Long) (rs : List (Nat × CapV)) : List RegWrite :=
  if i.capOnceForm w then i.capResult w.d.toNat ((rs.head?.map (·.2)).getD CapV.zero)
  else i.vpResult w.d.toNat (i.active o) (byLane (rs.map (fun (l, c) => (l, c.bits.toNat))))
    (maskOfLanes ((rs.filter (·.2.tag)).map (·.1)))

/-- A plain value written by the form. -/
def Iss.plainWrite (i : Iss) (o : Op) (w : Long) (wd : Nat) (rs : List (Nat × Nat)) : List RegWrite :=
  let x := (rs.head?.map (·.2)).getD 0
  if i.ctl then [.c (w.d.toNat % 64) (BitVec.ofNat 64 x)]
  else if w.asel = 1 then kResult wd w.d.toNat x
  else i.vResult wd w.d.toNat (i.active o) (byLane rs)

/-- A derivation of each participating capability; with any trap nothing is written (R182). In the control stream the 32-bit
forms act on control registers (DESIGN CHOICE, log 53). -/
def capDerive (o : Op) (w : Long) (legal : Iss → Bool) (regs : List SrcReg)
    (f : Iss → Nat → CapV → Except CapErr CapV) (s : State) : Out1 :=
  runInstr o (fun i => i.capSel o w && i.capDestOk w && legal i) (fun i => do
    i.ecc (i.capMask o w) (i.capRegs o w regs)
    let rs := (lanesOf (i.capLanes o w)).map (fun l => (l, f i l (i.capAt w l)))
    i.capTrap (i.capOnceForm w) (rs.filterMap (fun (l, r) => match r with | .error e => some (l, e) | .ok _ => none))
    .ok (i.results (i.capWrite o w (rs.filterMap (fun (l, r) => match r with | .ok c => some (l, c) | .error _ => none))))) s

/-- A derivation by an integer operand of the types given. -/
def capByInt (o : Op) (w : Long) (tys : List Nat) (legal : Bool) (f : ITy → CapV → Nat → Except CapErr CapV) (s : State) :
    Out1 :=
  let t := tyOf w
  capDerive o w (fun i => tys.contains w.ty.toNat && legal && i.capBOk w t.w) (w.bRegs t.w)
    (fun i l c => f t c (((i.capB w t)[l]?).getD 0)) s

/-- CADD (R184). -/
def capAdd (o : Op) (w : Long) : State → Out1 :=
  capByInt o w [2, 3] true (fun t c b => c.setCursor ((c.cursor : Int) + t.val b))
/-- CSET (R184). -/
def capSet (o : Op) (w : Long) : State → Out1 :=
  capByInt o w [6, 7] true (fun _ c b => c.setCursor ((c.base + b : Nat) : Int))
/-- CPERM (R186). -/
def capPerm (o : Op) (w : Long) : State → Out1 := capByInt o w [6] true (fun _ c b => c.andPerms (b % 2 ^ 12))
/-- CCLR (R186). -/
def capClr (o : Op) (w : Long) : State → Out1 := capDerive o w (fun _ => true) [] (fun _ _ c => .ok c.untag)

/-- The second capability of CSEAL and CUNSEAL (R183). -/
def Iss.capB2Ok (i : Iss) (w : Long) : Bool :=
  if i.ctl then w.bsel == 0 && cOk 128 w.b.toNat
  else if w.bsel = 0 then w.asel == 0 && i.vOk 128 w.b.toNat else w.bsel == 1 && kOk 128 w.b.toNat
def Iss.capB2 (i : Iss) (w : Long) (l : Nat) : CapV :=
  if i.ctl then i.cpVal w.b.toNat else if w.bsel = 1 then i.kpVal w.b.toNat else i.vpVal w.b.toNat l

/-- CGET's field: value and width (R188). -/
def capField (cf : Nat) (c : CapV) : Nat :=
  match cf with
  | 0 => c.cursor
  | 1 => c.base
  | 2 => c.top - c.base
  | 3 => wrap 64 ((c.cursor : Int) - c.base)
  | 4 => c.perms
  | 5 => c.colour
  | 6 => c.form
  | _ => if c.tag then 1 else 0

/-- What CTEST reports (R189). No check reads permission bit 11 (R42). -/
def capTest (colour : Nat) (ok : Bool) (pm : Nat) (c : CapV) (n : Nat) : Nat :=
  match c.check ⟨[0, 3], pm % 2 ^ 11⟩ colour ok false c.cursor n with
  | none => 0
  | some (.cap k) => k
  | some _ => 7

/-- CGET and CTEST: one plain value of a width for each capability. -/
def capRead (o : Op) (w : Long) (wd : Nat) (legal : Iss → Bool) (regs : List SrcReg)
    (f : Iss → Nat → CapV → Nat) (s : State) : Out1 :=
  runInstr o (fun i => i.capSel o w && i.capPlainOk w wd && legal i) (fun i => do
    i.ecc (i.capMask o w) (i.capRegs o w regs)
    .ok (i.results (i.plainWrite o w wd ((lanesOf (i.capLanes o w)).map (fun l => (l, f i l (i.capAt w l))))))) s

def execCadd32 (o : Short) : State → Out1 := capAdd (Op.short 0x2A 0) (o.wide 2 0 0)
def execCadd64 (w : Long) : State → Out1 := capAdd (Op.long 0x2A 0 w) w
def execCset32 (o : Short) : State → Out1 := capSet (Op.short 0x2A 1) (o.wide 6 0 0)
def execCset64 (w : Long) : State → Out1 := capSet (Op.long 0x2A 1 w) w
def execCbnd (w : Long) : State → Out1 :=
  capByInt (Op.long 0x2A 2 w) w [6, 7] (w.sc.toNat < 2) (fun _ c b =>
    if 2 ^ 56 ≤ b then .ok c.untag else c.narrow b (w.sc == 0))
def execCperm32 (o : Short) : State → Out1 := capPerm (Op.short 0x2A 3) (o.wide 6 0 0)
def execCperm64 (w : Long) : State → Out1 := capPerm (Op.long 0x2A 3 w) w
def execCget (w : Long) : State → Out1 :=
  let cf := w.sc.toNat
  capRead (Op.long 0x2A 4 w) w (if cf ≤ 3 then 64 else 32) (fun _ => true) [] (fun _ _ c => capField cf c)
def execCseal (w : Long) : State → Out1 :=
  capDerive (Op.long 0x2A 5 w) w (fun i => (w.sc == 1 || w.sc == 2 || w.sc == 4) && i.capB2Ok w) (w.bRegs 128)
    (fun i l c => c.seal (i.capB2 w l) w.sc.toNat)
def execCunseal (w : Long) : State → Out1 :=
  capDerive (Op.long 0x2A 6 w) w (fun i => i.capB2Ok w) (w.bRegs 128) (fun i l c => c.unseal (i.capB2 w l))
def execCtest (w : Long) : State → Out1 :=
  capRead (Op.long 0x2A 7 w) w 32 (fun i => w.bsel != 2 && i.capBOk w 32) (w.bRegs 32)
    (fun i l c => capTest i.colour (i.s.colourOk i.colour) (w.bits 31 20) c (((i.capB w tN32)[l]?).getD 0))
def execCclr32 (o : Short) : State → Out1 := capClr (Op.short 0x2B 0) (o.wide 0 0 0)
def execCclr64 (w : Long) : State → Out1 := capClr (Op.long 0x2B 0 w) w

end Sys2Proof.Machine
end

