-- ==== Sys2Proof/Machine/Control.lean ====
section
/-! DEFINITION. Control flow, the dual-path stack, windows, TAKE, YIELD, NOP and HINT, rows 0x38 and 0x39 (R16, R79,
R117 to R132, R243). -/

namespace Sys2Proof.Machine

/-- The pc `n` words on from an address (R117). -/
def pcPlus (pc : Word64) (words : Int) : Word64 := pc + BitVec.ofInt 64 (4 * words)

/-- The path continues at an address. -/
def Iss.goto (i : Iss) (pc : Word64) : Done := { Done.only i.s with pc := some pc }

/-- The literal as a signed offset. -/
def Long.litOff (w : Long) : Int := sext 32 w.litNat

/-! BRA, BRC, BRX (R119, R120). -/

def ctlBra (o : Op) (off : Int) (s : State) : Out1 := runInstr o (fun _ => true) (fun i => .ok (i.goto (pcPlus i.p.pc off))) s

/-- BRC: `z` branches on zero. -/
def ctlBrc (o : Op) (reg : Nat) (z : Bool) (off : Int) (s : State) : Out1 :=
  runInstr o (fun _ => true) (fun i => do
    i.ecc i.p.mask (i.once 32 reg)
    let zero := if i.ctl then i.cReg reg == 0 else i.kReg reg == 0
    .ok (if zero == z then i.goto (pcPlus i.p.pc off) else Done.only i.s)) s

/-- BRX (R120). In the control stream ASEL 0b01 is ILLEGAL (DESIGN CHOICE, log 53). -/
def ctlBrx (o : Op) (w : Long) (s : State) : Out1 :=
  let n := w.immI
  runInstr o (fun i => (if i.ctl then w.asel == 0 else w.asel == 1) && 1 ≤ n) (fun i => do
    i.ecc i.p.mask (i.once 32 w.a.toNat)
    let x := i.regOnce (if i.ctl then 64 else 32) w.a.toNat
    .ok (i.goto (pcPlus i.p.pc (2 + (if (x : Int) < n then (x : Int) else n))))) s

/-! BRD, JOIN, EXIT (R122 to R126). -/

/-- The state after a change of the group's stack: parked operations are resolved, the next issuer follows. -/
def Iss.restack (i : Iss) (G : Group) : Done := { Done.only ((i.s.setGroup i.id G.resolve).follow i.id) with moved := true }

def ctlBrd (o : Op) (w : Long) (s : State) : Out1 :=
  runInstr o (fun i => !i.G.tf && w.bsel == 3) (fun i =>
    match i.ag with
    | .path _ ix =>
      let q := i.G.pred (w.a.toNat % 8)
      let T := i.p.mask &&& (if w.a.getLsbD 3 then ~~~q else q)
      let N := i.p.mask &&& ~~~T
      let rpc := pcPlus i.p.pc w.immI
      let arms := ([(T, pcPlus i.p.pc (Long.litOff w)), (N, i.p.pc + 12)].filter (fun a => a.1 != 0)).mergeSort
        (fun a b => firstLane a.1 ≤ firstLane b.1)
      if rpc = 0 ∨ 32 < i.G.stack.length + arms.length then i.illegal
      else do
        i.ecc i.p.mask [.q (w.a.toNat % 8)]
        let (G, p) := i.G.quiet i.p
        let E := { p with kind := .conv, pc := rpc, rpc := rpc }
        let st := G.stack.set ix E ++ arms.map (fun (m, pc) => { Path.fresh .defer pc m p.code with
            crit := p.crit, spin := p.spin, steer := p.steer.after true false })
        .ok (i.restack { G with stack := select st })
    | _ => i.illegal) s

def ctlJoin (o : Op) (s : State) : Out1 :=
  runInstr o (fun i => !i.G.tf && (match i.ag with
      | .path _ ix => (parentIx i.G.stack ix).isSome
      | _ => false)) (fun i =>
    match i.ag with
    | .path _ ix =>
      match parentIx i.G.stack ix with
      | some c =>
        let G := { i.G with stack := i.G.stack.set ix { i.p with kind := .park, parkAt := .join } }
        let G := mergeCheck 33 G c
        .ok (i.restack { G with stack := select G.stack })
      | none => i.illegal
    | _ => i.illegal) s

/-- Whether a command the control thread appended is still incomplete (R126). -/
def Iss.ownPending (i : Iss) : Bool :=
  i.C.appended.any (fun (ch, n) => ((i.T.chain ch).cmd (BitVec.ofNat 32 n)).any (fun c => !c.complete))

def ctlExit (o : Op) (s : State) : Out1 :=
  runInstr o (fun _ => true) (fun i =>
    match i.ag with
    | .path _ ix =>
      let par := parentIx i.G.stack ix
      let (G, p) := i.G.quiet i.p
      let G := { G with gone := G.gone ||| p.mask, stack := G.stack.set ix { p with mask := 0 } }
      .ok (i.restack (G.dropEmpty ix par))
    | .handler _ =>
      let G := i.G.quietAll
      .ok { Done.only ((i.s.setGroup i.id { G with gone := G.launched, stack := [], handler := none, tf := false }).follow i.id)
            with moved := true }
    | .ctl t =>
      if i.ownPending then .error (.wait .exit (fun s => s))
      else
        let s := i.s.setCtx t { i.C with exited := true, path := { i.C.path with pc := i.C.path.pc + BitVec.ofNat 64 o.bytes } }
        let stopped := s.groups.find? (fun e => e.2.team == t && e.2.run == .trapped)
        let s := match stopped with
          | some (_, G) => s.toLevel2 t (G.cause.toNat % 256) (bitsOf G.cause.toNat 11 8) G.cause
          | none => s
        .ok { Done.only (({ s with cur := none } : State).detect i.core) with moved := true }) s

/-! Windows (R16, R127 to R130). -/

/-- The check of R16 for a window at `nb`; `top` refuses a window beyond row 4,095. -/
def Iss.window (i : Iss) (top : Bool) (nb : Int) : Except Stop Unit :=
  let len := min 128 i.G.held
  let hi := i.G.lo + i.G.held
  if top ∧ 4096 < nb + len then i.illegal
  else if (hi : Int) < nb + len then
    .error (.trap { Trap.of cSPILL 0 (nb + len - hi).toNat i.p.mask with want := some (nb, len) })
  else if nb < i.G.lo then
    .error (.trap { Trap.of cFILL 0 ((i.G.lo : Int) - nb).toNat i.p.mask with want := some (nb, len) })
  else .ok ()

/-- A code capability with its cursor at a pc, tagged (R128). -/
def linkOf (code : CapV) (pc : Word64) : CapV :=
  match code.setCursor pc.toNat with
  | .ok c => { c with tag := true }
  | .error _ => code

/-- R49 steps 1 to 6 for a capability that a transfer uses. -/
def Iss.codeCheck (i : Iss) (forms : List Nat) (c : CapV) : Except Stop Unit :=
  match c.check ⟨forms, pEX⟩ i.colour (i.s.colourOk i.colour) false c.base 0 with
  | some .illegal => i.illegal
  | some (.cap k) => i.trap cCAPABILITY k i.p.mask
  | some .inexact => i.illegal
  | none => .ok ()

/-- The path's code capability replaced: each path has its own (DESIGN CHOICE, log 54). -/
def State.setCode (s : State) (ag : Agent) (c : CapV) : State :=
  match s.path ag with
  | some p => s.setPath ag { p with code := c }
  | none => s

/-- CALL and CALLI after the target is known: frame code, target, and the new code capability of a CALLI. -/
def Iss.enter (i : Iss) (o : Op) (d : Nat) (pc : Word64) (code : Option CapV) : Except Stop Done :=
  let link := linkOf i.p.code (i.p.pc + BitVec.ofNat 64 o.bytes)
  let install (s : State) : State := match code with
    | some c => s.setCode i.ag c
    | none => s
  if i.ctl then
    .ok { i.results (cpResult 60 link.bits.toNat true) with s := install i.s, pc := some pc }
  else do
    let F := 8 * (d % 16 + 1)
    i.window true ((i.G.base + F : Nat) : Int)
    .ok { i.results (kpResult 44 link.bits.toNat true ++ [.k 59 (BitVec.ofNat 32 i.G.fsz)]) with
          s := install (i.s.setGroup i.id { i.G with base := i.G.base + F, fsz := F }), pc := some pc }

def ctlCall (o : Op) (d : Nat) (off : Int) (s : State) : Out1 :=
  runInstr o (fun i => !i.G.tf) (fun i => i.enter o d (pcPlus i.p.pc off) none) s

def ctlCalli (o : Op) (w : Long) (s : State) : Out1 :=
  runInstr o (fun i => !i.G.tf && i.aOnce w 128) (fun i => do
    i.ecc i.p.mask (i.once 128 w.a.toNat)
    let t := i.capOnce w.a.toNat
    i.codeCheck [3, 4] t
    let t := if t.form = 4 then t.entry else t
    i.enter o w.d.toNat (BitVec.ofNat 64 t.cursor) (some t)) s

def ctlRet (o : Op) (s : State) : Out1 :=
  runInstr o (fun i => !i.G.tf) (fun i => do
    if i.ctl then
      let l := i.cpVal 60
      i.codeCheck [3] l
      .ok { Done.only (i.s.setCode i.ag l) with pc := some (BitVec.ofNat 64 l.cursor) }
    else
      i.ecc i.p.mask (srcRegs true 32 59 ++ srcRegs true 128 44)
      let f := (i.kReg 59).toNat % 256
      if i.G.fsz = 0 ∨ f % 8 ≠ 0 then i.illegal
      else
        let l := i.kpVal 44
        i.codeCheck [3] l
        i.window false ((i.G.base : Int) - i.G.fsz)
        .ok { Done.only ((i.s.setGroup i.id { i.G with base := i.G.base - i.G.fsz, fsz := f }).setCode i.ag l) with
              pc := some (BitVec.ofNat 64 l.cursor) }) s

/-- WINB by a number of rows that the issuing path supplies. -/
def ctlWinb (o : Op) (legal : Bool) (regs : List SrcReg) (delta : Iss → Int) (s : State) : Out1 :=
  runInstr o (fun i => !i.G.tf && legal) (fun i => do
    i.ecc i.p.mask regs
    let d := delta i
    if d % 8 ≠ 0 ∨ (i.G.base : Int) + d < 0 ∨ (i.G.fsz : Int) + d < 0 ∨ 248 < (i.G.fsz : Int) + d then i.illegal
    else
      i.window true ((i.G.base : Int) + d)
      .ok (Done.only (i.s.setGroup i.id { i.G with base := ((i.G.base : Int) + d).toNat, fsz := ((i.G.fsz : Int) + d).toNat }))) s

/-! TAKE, YIELD, NOP, HINT (R131, R132, R79, R243). -/

/-- Whether a decision entry names the group (R221). -/
def Decision.names (d : Decision) (team : Nat) (G : Group) : Bool :=
  d.team == team && (d.kind == 2 || (d.kind == 0 && d.index == G.grp) || (d.kind == 1 && d.index == G.role))

/-- A list without its first element that satisfies a test. -/
def dropFirst {α : Type} (p : α → Bool) : List α → List α
  | [] => []
  | x :: xs => if p x then xs else x :: dropFirst p xs

/-- Another agent of the core that waits at TAKE for the same entry and comes first (R131, R261): of two arms of a group the
one of lower first active lane, of two groups the one of higher SLOT. -/
def Iss.takeRival (i : Iss) (d : Decision) : Bool :=
  (i.s.coreAgents i.core).any (fun (a, p) =>
    p.wait.any (fun w => w.why == .take) && i.s.canIssue a &&
    match a with
    | .path g _ =>
      (if g = i.id then a != i.ag && decide (firstLane p.mask < firstLane i.p.mask) else decide (slotOf i.id < slotOf g)) &&
      (i.s.group g).any (fun G => (i.s.core i.core).dq.find? (fun e => e.names G.team G) == some d)
    | .handler g => g != i.id && decide (slotOf i.id < slotOf g) &&
      (i.s.group g).any (fun G => (i.s.core i.core).dq.find? (fun e => e.names G.team G) == some d)
    | .ctl _ => false)

def ctlTake (o : Op) (w : Long) (s : State) : Out1 :=
  runInstr o (fun _ => true) (fun i =>
    let c := i.s.core i.core
    match c.dq.find? (fun d => d.names i.team i.G) with
    | some d =>
      if i.takeRival d then .error (.wait .take (fun s => s))
      else .ok { i.results (kResult 32 w.d.toNat d.payload.toNat) with
            s := i.s.setCore i.core { c with dq := dropFirst (fun d => d.names i.team i.G) c.dq } }
    | none =>
      if (i.s.ctx i.team).any (fun C => !C.exited) then .error (.wait .take (fun s => s))
      else .error (.trap (Trap.of cDEADLOCK 0 (4 * 2 ^ 9) i.p.mask))) s

/-- Whether the core has another context that can issue (R132). -/
def State.otherCtx (s : State) (t : Nat) : Bool :=
  s.ctxs.any (fun e => coreOfTeam e.1 == coreOfTeam t && e.1 != t && s.canIssue (.ctl e.1))

/-- The control port goes on to the next ready context after one (R132, R238): the next step chooses it (Choice). -/
def State.handOn (s : State) (t : Nat) : State :=
  ({ s with cur := none } : State).setCore (coreOfTeam t) { s.core (coreOfTeam t) with yielded := some t }

def ctlYield (o : Op) (s : State) : Out1 :=
  runInstr o (fun _ => true) (fun i =>
    if i.ctl then .ok (Done.only (if i.s.otherCtx i.id then i.s.handOn i.id else i.s))
    else .ok (Done.only (i.s.setGroup i.id { i.G with readySince := i.s.clock + 1, starve := 0 }))) s

def ctlNop (o : Op) (s : State) : Out1 := runInstr o (fun _ => true) (fun i => .ok (Done.only i.s)) s

/-- What a hint sets for its path (R243); `line` is the hint's code line. -/
def Steer.hint (t : Steer) (n line : Nat) : Steer :=
  match n with
  | 1 => { t with loop := some (line, line + 7) }
  | 2 => { t with loop := (t.loop.filter (fun l => l.1 ≤ line)).map (fun l => (l.1, min line (l.1 + 7))) }
  | 3 => { t with branch := some true }
  | 4 => { t with branch := some false }
  | 5 => { t with depth := 8 }
  | 6 => { t with depth := 0 }
  | 8 => { t with streamIn := true, streamOut := false }
  | 9 => { t with streamIn := false, streamOut := true }
  | 10 => { t with streamIn := false, streamOut := false, lastUse := false }
  | 11 => { t with streamIn := false, streamOut := false, lastUse := true }
  | _ => t

/-- HINT: SPIN and CRITICAL steer issue for 64 cycles; PHASE and MARK reach the trace buffer; the others steer fetch and the
L1 (R243). -/
def ctlHint (n : Nat) (s : State) : Out1 :=
  runInstr (Op.short 0x40 0) (fun _ => true) (fun i =>
    let mark (f : Path → Path) : State := match i.s.path i.ag with
      | some p => i.s.setPath i.ag (f p)
      | none => i.s
    .ok (Done.only (match n with
      | 7 => mark (fun p => { p with spin := i.s.clock + 64 })
      | 12 => mark (fun p => { p with crit := i.s.clock + 64 })
      | 14 => i.s.send (.mark i.core 14)
      | 15 => i.s.send (.mark i.core 15)
      | _ => mark (fun p => { p with steer := p.steer.hint n (i.p.pc.toNat / 128) })))) s

/-! The instructions. -/

/-- cat(B, A, D) of a 32-bit BRA. -/
def Short.off21 (o : Short) : Int := sext 21 (o.b.toNat * 2 ^ 14 + o.a.toNat * 2 ^ 7 + o.d.toNat)
/-- cat(B, D[5:0]) of a 32-bit BRC. -/
def Short.off13 (o : Short) : Int := sext 13 (o.b.toNat * 2 ^ 6 + o.d.toNat % 64)
/-- cat(B, A) of a 32-bit CALL. -/
def Short.off14 (o : Short) : Int := sext 14 (o.b.toNat * 2 ^ 7 + o.a.toNat)

def execBra32 (o : Short) : State → Out1 := ctlBra (Op.short 0x38 0) (Short.off21 o)
def execBra96 (w : Long) : State → Out1 := ctlBra (Op.long 0x38 0 w) (Long.litOff w)
def execBrc32 (o : Short) : State → Out1 := ctlBrc (Op.short 0x38 1) o.a.toNat (o.d.getLsbD 6) (Short.off13 o)
def execBrc96 (w : Long) : State → Out1 := ctlBrc (Op.long 0x38 1 w) w.a.toNat (w.d.getLsbD 6) (Long.litOff w)
def execBrx (w : Long) : State → Out1 := ctlBrx (Op.long 0x38 2 w) w
def execBrd (w : Long) : State → Out1 := ctlBrd (Op.long 0x38 3 w) w
def execJoin32 : State → Out1 := ctlJoin (Op.short 0x38 4)
def execJoin64 (w : Long) : State → Out1 := ctlJoin (Op.long 0x38 4 w)
def execCall32 (o : Short) : State → Out1 := ctlCall (Op.short 0x38 5) o.d.toNat (Short.off14 o)
def execCall96 (w : Long) : State → Out1 := ctlCall (Op.long 0x38 5 w) w.d.toNat (Long.litOff w)
def execCalli (w : Long) : State → Out1 := ctlCalli (Op.long 0x38 6 w) w
def execRet32 : State → Out1 := ctlRet (Op.short 0x38 7)
def execRet64 (w : Long) : State → Out1 := ctlRet (Op.long 0x38 7 w)
def execWinb32 (o : Short) : State → Out1 := ctlWinb (Op.short 0x39 0) true [] (fun _ => 8 * sext 7 o.d.toNat)
def execWinb64 (w : Long) : State → Out1 :=
  ctlWinb (Op.long 0x39 0 w) (w.bsel == 1 || w.bsel == 2) (if w.bsel = 1 then srcRegs true 32 w.b.toNat else [])
    (fun i => if w.bsel = 1 then sext 32 (i.kVal 32 w.b.toNat) else w.immI)
def execExit32 : State → Out1 := ctlExit (Op.short 0x39 1)
def execExit64 (w : Long) : State → Out1 := ctlExit (Op.long 0x39 1 w)
def execTake (w : Long) : State → Out1 := ctlTake (Op.long 0x39 2 w) w
def execYield32 : State → Out1 := ctlYield (Op.short 0x39 3)
def execYield64 (w : Long) : State → Out1 := ctlYield (Op.long 0x39 3 w)
def execNop32 : State → Out1 := ctlNop (Op.short 0x39 4)
def execNop64 (w : Long) : State → Out1 := ctlNop (Op.long 0x39 4 w)
def execHint (n : BitVec 30) : State → Out1 := ctlHint n.toNat

end Sys2Proof.Machine
end

