-- ==== Sys2Proof/Machine/Fetch.lean ====
section
/-! DEFINITION. Instruction fetch and the instruction caches (R49, R78, R94, R174, R242, R243). -/

namespace Sys2Proof.Machine

/-- What refuses the bytes of a line at the memory side: cause, subcause, DETAIL (R50, R174). -/
def State.lineRefusal (s : State) (colour line : Nat) : Option (Nat × Nat × Nat) :=
  match s.extRefusal colour (128 * line) false with
  | some (c, k) => some (c, k, 0)
  | none => (s.mem.poisonIn (128 * line) 128).map (fun (b, _) => (cECC, 0, s.mem.eccAt b))

/-- The code lines of a hot loop that a path of the core is in, which are not replaced (R243). -/
def State.looped (s : State) (core : Nat) (ctl : Bool) (line : Nat) : Bool :=
  let holds (p : Path) : Bool := p.steer.loop.any (fun (lo, hi) =>
    lo ≤ line && line ≤ hi && lo ≤ p.pc.toNat / 128 && p.pc.toNat / 128 ≤ hi)
  if ctl then s.ctxs.any (fun e => coreOfTeam e.1 == core && holds e.2.path)
  else s.groups.any (fun e => coreOfGroup e.1 == core && (e.2.stack.any holds || e.2.handler.any (fun h => holds h.path)))

/-- Room for one more line in an instruction cache (R242): 8 ways of 32 sets, or the 64 lines of the control thread's. The
set index and the line that goes are open: line modulo 32, and a free value (log 5). -/
def State.codeRoom (s : State) (core : Nat) (ctl : Bool) (line : Nat) : State :=
  let same (k : Nat) : Bool := icCore k == core && icCtl k == ctl && (ctl || icLine k % 32 == line % 32)
  let l := (s.mem.ic.map (·.1)).filter same
  if l.length < (if ctl then 64 else 8) then s
  else
    let open_ := l.filter (fun k => !s.looped core ctl (icLine k))
    let l := if open_.isEmpty then l else open_
    let (x, s) := s.draw
    match l[x % max 1 l.length]? with
    | some k => { s with mem := { s.mem with ic := Tbl.erase s.mem.ic k } }
    | none => s

/-- A line brought into an instruction cache; what the host window would answer to a fetch is a free value. -/
def State.fillCode (s : State) (core : Nat) (ctl : Bool) (line : Nat) : State :=
  let key := icKey core ctl line
  if (Tbl.get s.mem.ic key).isSome then s
  else
    let s := s.codeRoom core ctl line
    if isHost (128 * line) then
      let (x, s) := s.draw
      { s with mem := { s.mem with ic := Tbl.set s.mem.ic key (leBytes 128 x) } }
    else { s with mem := { s.mem with ic := Tbl.set s.mem.ic key (s.mem.homeRead (128 * line) 128) } }

/-- A line requested ahead, where nothing refuses it. -/
def State.requestCode (s : State) (core : Nat) (ctl : Bool) (colour line : Nat) : State :=
  if (s.lineRefusal colour line).isNone then s.fillCode core ctl line else s

/-- A fetch from a line: on a miss it is filled unless it is refused, and the `depth` lines after it are requested (R242,
R243). -/
def State.fetchLine (s : State) (core : Nat) (ctl : Bool) (colour depth line : Nat) : Except (Nat × Nat × Nat) State :=
  let ahead (s : State) : State := (List.range depth).foldl (fun s j =>
    if whereIs (128 * (line + 1 + j)) = whereIs (128 * line) then s.requestCode core ctl colour (line + 1 + j) else s) s
  if (Tbl.get s.mem.ic (icKey core ctl line)).isSome then .ok (ahead s)
  else
    match s.lineRefusal colour line with
    | some r => .error r
    | none => .ok (ahead (s.fillCode core ctl line))

/-- A word of code as the instruction cache holds it. -/
def State.codeWord (s : State) (core : Nat) (ctl : Bool) (a : Nat) : Word :=
  match Tbl.get s.mem.ic (icKey core ctl (a / 128)) with
  | some l => BitVec.ofNat 32 (leNat ((l.drop (a % 128)).take 4))
  | none => 0

/-- One word of an instruction at address `a`: the check of R49 for fetch, then the line. Device system space asks a form
0, which a fetch has not. -/
def Iss.fetchWord (i : Iss) (s : State) (a : Nat) : Except Trap (Word × State) :=
  match i.p.code.check ⟨if isSys a then [] else [3], pEX⟩ i.colour (s.colourOk i.colour) false a 4 with
  | some .illegal => .error (Trap.of cILLEGAL 0 0 i.p.mask)
  | some (.cap k) => .error (Trap.of cCAPABILITY k 0 i.p.mask)
  | some .inexact => .error (Trap.of cILLEGAL 0 0 i.p.mask)
  | none =>
    match s.rangeRefusal i.core i.colour a 4 false with
    | some k => .error (Trap.of cCAPABILITY k 0 i.p.mask)
    | none =>
      match s.fetchLine i.core i.ctl i.colour i.p.steer.depth (a / 128) with
      | .error (c, k, d) => .error (Trap.of c k d i.p.mask)
      | .ok s => .ok (s.codeWord i.core i.ctl a, s)

/-- Words of an instruction by bits 1:0 of its first word (R78). -/
def wordCount (w0 : Word) : Nat := if w0.toNat % 4 = 1 then 2 else if w0.toNat % 4 = 2 then 3 else 1

/-- The words after the first. -/
def Iss.fetchRest (i : Iss) : Nat → Nat → State → Except Trap (List Word × State)
  | 0, _, s => .ok ([], s)
  | n + 1, a, s =>
    match i.fetchWord s a with
    | .error t => .error t
    | .ok (w, s) =>
      match i.fetchRest n (a + 4) s with
      | .error t => .error t
      | .ok (ws, s) => .ok (w :: ws, s)

/-- The target of a branch (R117 to R120, R128, R129). -/
def Iss.branchTarget (i : Iss) (ws : List Word) : Option Nat :=
  let at_ (off : Int) : Option Nat := some (pcPlus i.p.pc off).toNat
  match decode ws with
  | .ok (.bra32 o) => at_ (Short.off21 o)
  | .ok (.bra96 w) => at_ (Long.litOff w)
  | .ok (.brc32 o) => at_ (Short.off13 o)
  | .ok (.brc96 w) => at_ (Long.litOff w)
  | .ok (.brx w) => at_ (2 + min (i.regOnce (if i.ctl then 64 else 32) w.a.toNat : Int) w.immI)
  | .ok (.call32 o) => at_ (Short.off14 o)
  | .ok (.call96 w) => at_ (Long.litOff w)
  | .ok (.calli w) => let t := i.capOnce w.a.toNat; some (if t.form = 4 then t.entry else t).cursor
  | .ok .ret32 => some (i.capOnce (if i.ctl then 60 else 44)).cursor
  | .ok (.ret64 _) => some (i.capOnce (if i.ctl then 60 else 44)).cursor
  | _ => none

/-- After BRTAKEN the target line of the next branch is fetched before the branch issues (R243). -/
def Iss.fetchTarget (i : Iss) (ws : List Word) (s : State) : State :=
  if i.p.steer.branch = some true then
    match i.branchTarget ws with
    | some t => s.requestCode i.core i.ctl i.colour (t / 128)
    | none => s
  else s

/-- The words of the instruction at the path's pc. -/
def Iss.fetch (i : Iss) : Except Trap (List Word × State) :=
  let pc := i.p.pc.toNat
  if pc % 4 ≠ 0 then .error (Trap.of cILLEGAL 0 0 i.p.mask)
  else
    match i.fetchWord i.s pc with
    | .error t => .error t
    | .ok (w0, s) =>
      match i.fetchRest (wordCount w0 - 1) (pc + 4) s with
      | .error t => .error t
      | .ok (ws, s) => .ok (w0 :: ws, i.fetchTarget (w0 :: ws) s)

/-- What an instruction that does not decode is (R94): where its slot is assigned, its guard still says which lanes are
active for it. -/
def badOp (e : DecodeErr) (ws : List Word) : Op :=
  match e, ws with
  | .badForm, w0 :: w1 :: _ =>
    { Op.long (bitsOf w0.toNat 7 2) (bitsOf w0.toNat 31 29) (longOf w0 w1 none) with la := 0 }
  | .reservedAsel, w0 :: w1 :: _ =>
    { Op.long (bitsOf w0.toNat 7 2) (bitsOf w0.toNat 31 29) (longOf w0 w1 none) with la := 0 }
  | _, _ => Op.short 0x39 4

end Sys2Proof.Machine
end

