-- ==== Sys2Proof/Machine/Turns.lean ====
section
/-! DEFINITION. Replacement of cache lines as an agenda turn, and a state in which a given instruction is the next one
fetched. -/

namespace Sys2Proof.Machine

/-- A line of a core's L1 replaced: written back and dropped. -/
def State.evict (s : State) (core line colour : Nat) : State :=
  { s with mem := s.mem.backWhere (fun k => k == l1Key core line colour) false }
/-- An instruction-cache line of a core replaced. -/
def State.evictCode (s : State) (core : Nat) (ctl : Bool) (line : Nat) : State :=
  if s.looped core ctl line then s else { s with mem := s.mem.dropCode (fun k => k == icKey core ctl line) }

/-! A given instruction as the next one (log 17). -/

/-- A colour that is valid and not protected. -/
def Colour.plain : Colour :=
  { valid := true, prot := false, bound := false, keyed := false, func := 0, kslot := 0, digest := 0, bext := 0 }

/-- A LIVE extent of 64 KiB at address 0, of colour 1. -/
def Ext.page : Ext :=
  { state := 1, hi := false, pi := false, mode := 2, chset := 0, colour := 1, lenp := 16, basep := 0, inflight := 0,
    late := 0, leftOut := false }

/-- The code capability of that extent. -/
def CapV.codePage : CapV := CapV.mint 3 (pLD ||| pEX) 1 0 0x10000 0

/-- A team of colour 1 in slot 0 of core 0 with one group and a control thread. -/
def Team.host : Team :=
  { task := 0, index := 0, colour := 1, fn := 0, cls := 0, core := 0, tslot := 0, groups := [0], roles := [(1, 0)],
    scratch := windowOf 0, scratchLen := 0, allocLen := 0, param := CapV.zero, spad := CapV.zero, cstore := CapV.zero,
    regions := [], chains := [{ tseq := 0, cseq := 0, halted := false, cmds := [] },
      { tseq := 0, cseq := 0, halted := false, cmds := [] }, { tseq := 0, cseq := 0, halted := false, cmds := [] }],
    ridx := 0, taken := 0, ringQ := [], tiles := [], tileMax := 0, owners := [], join := none, started := 0, halt := false,
    partialEnd := none, ringLast := ⟨0, 0⟩, area := none }

/-- Its group: 128 rows, converged at pc 0 with every lane. -/
def Group.host : Group :=
  { Group.blank with held := 128, code := CapV.codePage, stack := [Path.fresh .conv 0 allLanes CapV.codePage] }

/-- Its control thread at pc 0. -/
def Ctx.host : Ctx := { Ctx.blank with path := Path.fresh .conv 0 1 CapV.codePage }

/-- Group 0 or context 0 of core 0 at pc 0, with bytes there: what a program loaded from outside the machine finds. -/
def State.placed (s : State) (ctl : Bool) (bs : List Byte) : State :=
  { s with
    agenda := []
    cur := some (if ctl then .ctl 0 else .path 0 0)
    groups := Tbl.set s.groups 0 Group.host
    ctxs := Tbl.set s.ctxs 0 Ctx.host
    teams := Tbl.set s.teams 0 Team.host
    sec := { s.sec with colours := Tbl.set s.sec.colours 1 Colour.plain, exts := Tbl.set s.sec.exts 0 Ext.page }
    mem := { (s.mem.homeWrite 0 bs).dropCode (fun k => icCore k == 0) with poison := [], dark := [] } }

end Sys2Proof.Machine
end

