-- ==== Sys2Proof/Machine/IssueEvents.lean ====
section
/-! DEFINITION. Device steps of issue: results, late faults, host completions, notices, retirement, starvation, hints,
sleep, chain restarts (R91, R93, R126, R175, R181, R226, R229, R243, R251, R321, R335). -/

namespace Sys2Proof.Machine


/-! CHCTL as a step (R226). -/

def execChctlAbandonFaulted (t ch : Nat) (s : State) : Out1 :=
  stepIf (ch < 3 && (s.team t).any (fun T => (T.chain ch).halted)) (s.abandonFaulted t ch)

def execChctlAbandonAll (t ch : Nat) (s : State) : Out1 :=
  stepIf (ch < 3 && (s.team t).isSome) (s.abandonAll t ch)

/-! Results (R91). -/

/-- The n-th outstanding result of an agent written, its shadow over and its data there. -/
def State.landResult (s : State) (ag : Agent) (n : Nat) : Option State :=
  match s.path ag with
  | none => none
  | some p =>
    match p.pend[n]? with
    | none => none
    | some q =>
      if !(q.ready && q.left == 0) then none
      else
        let old := p.mask
        let p := { p with pend := p.pend.eraseIdx n }
        match ag with
        | .ctl t => match s.ctx t with
          | some C => some (s.setCtx t (landOneCtx { C with path := p } q))
          | none => none
        | .path g _ => match s.group g with
          | some G =>
            let (G, p) := landOne (G, p) q
            some (s.setGroup g ((G.setPathAt ag p).remasked old p.mask))
          | none => none
        | .handler g => match s.group g with
          | some G =>
            let (G, p) := landOne (G, p) q
            some (s.setGroup g (G.setPathAt ag p))
          | none => none

def execLoadResult (ag : Agent) (n : Nat) (s : State) : Out1 :=
  match s.landResult ag n with
  | some s => .next s
  | none => .refused .notEnabled

/-! Atomics at their home (R175 to R179). -/

/-- One lane's atomic performed at its home; operation code 9 of the integer class is compare and swap. -/
def execAtomicAtHome (core : Nat) (rq : AtomRq) (s : State) : Out1 :=
  let t := (ityOf rq.ty).getD tN32
  let n := t.w / 8
  let here := match whereIs rq.addr with
    | .hbm => true
    | .chip _ => true
    | .scratch _ => true
    | .cstore _ => true
    | _ => false
  if !here ∨ rq.addr % n ≠ 0 ∨ (s.extRefusal rq.colour rq.addr true).isSome then .refused .notEnabled
  else if !rq.fl ∧ rq.op = 9 then
    let (_, _, m) := s.mem.casAt core rq.addr n rq.c rq.a
    .next { s with mem := m }
  else .next { s with mem := (s.mem.atomAt core rq.addr n (fun old => atomValue rq.fl rq.op t old rq.a)).2 }

/-! Completions of host-window requests (R163, R181). -/

/-- The result of a request's lane: an old value or loaded bytes in the form its register takes. -/
def HostReq.value (r : HostReq) (raw : Nat) : Nat :=
  let t : ITy := ⟨8 * r.size, r.signed, false⟩
  match r.dst with
  | .c _ => cImage t raw
  | _ => t.image raw

/-- A lane's data put into a write that waits for it. -/
def HostReq.fillWrite (r : HostReq) (lane x : Nat) (hit : Bool) (w : RegWrite) : RegWrite :=
  match w, r.dst with
  | .v row m vals, .v row0 =>
    if row0 ≤ row ∧ row < row0 + 4 then .v row m (vals.set lane (BitVec.ofNat 32 (x / 2 ^ (32 * (row - row0))))) else w
  | .q n m vals, _ => if hit && n == r.cq then .q n m (vals ||| laneMask1 lane) else w
  | .k n _, .k n0 => if n0 ≤ n ∧ n < n0 + 4 then .k n (BitVec.ofNat 32 (x / 2 ^ (32 * (n - n0)))) else w
  | .c n _, .c n0 => if n0 ≤ n ∧ n < n0 + 2 then .c n (BitVec.ofNat 64 (x / 2 ^ (64 * (n - n0)))) else w
  | _, _ => w

/-- A lane taken out of a write: its destination keeps its value (R93). -/
def RegWrite.without (lane : Nat) (uni : Bool) : RegWrite → Option RegWrite
  | .v row m vals => some (.v row (m &&& ~~~(laneMask1 lane)) vals)
  | .vtag quad m t => some (.vtag quad (m &&& ~~~(laneMask1 lane)) t)
  | .q n m vals => some (.q n (m &&& ~~~(laneMask1 lane)) vals)
  | w => if uni then none else some w

/-- A pending result of a request with one lane's data, or without that lane (R93, R181). -/
def HostReq.into (r : HostReq) (id status lane : Nat) (data : List Byte) (q : Pending) : Pending :=
  let raw := leNat data
  let hit := r.kind == 2 && r.expect.head? == some raw
  let uni := match r.dst with
    | .v _ => false
    | _ => true
  if q.req = some id then
    { q with
      ready := q.ready || r.lanes.length ≤ 1
      writes := if status = 0 then q.writes.map (r.fillWrite lane (r.value raw) hit)
                else q.writes.filterMap (RegWrite.without lane uni) }
  else q

/-- The agent whose path holds the pending result of a request: an entry of the stack may have moved down since. -/
def State.reqAgent (s : State) (id : Nat) (ag : Agent) : Agent :=
  match ag with
  | .path g ix => match s.group g with
    | some G => .path g (((List.range G.stack.length).find? (fun j =>
        (G.stack[j]?).any (fun p => p.pend.any (fun q => q.req == some id)))).getD ix)
    | none => ag
  | _ => ag

/-- A result whose path is gone reaches the bank when its data is there (R121, R126); a failed lane of it has no path left
to trap. -/
def Group.landOrphans (G : Group) : Group :=
  (G.orphans.filter (·.ready)).foldl (fun G q =>
      let G := q.landing.foldl Group.write G
      { G with k := Store.write G.k 56 (Store.read G.k 56 ||| BitVec.ofNat 32 (q.flags % 32)) })
    { G with orphans := G.orphans.filter (fun q => !q.ready) }

/-- The group that holds a request's result whose path is gone. -/
def State.orphaned (s : State) (id : Nat) : Agent → Option (Nat × Group)
  | .path g _ => (s.group g).bind (fun G => if G.orphans.any (fun q => q.req == some id) then some (g, G) else none)
  | .handler g => (s.group g).bind (fun G => if G.orphans.any (fun q => q.req == some id) then some (g, G) else none)
  | .ctl _ => none

/-- The acquire side of a host-window access, once it has been performed (R285, R291): its path's later accesses wait for
it. -/
def State.hostAcquired (s : State) (ag : Agent) (sc : Nat) : State :=
  let go (core t : Nat) : State := match s.team t with
    | some T => { s with mem := s.mem.acquireFence core T.colour sc }
    | none => s
  match ag with
  | .ctl t => go (coreOfTeam t) t
  | .path g _ => (s.group g).elim s (fun G => go (coreOfGroup g) G.team)
  | .handler g => (s.group g).elim s (fun G => go (coreOfGroup g) G.team)

/-- One completion: data for the first lane that still waits, or a status that is not success (R174, R181). -/
def State.hostDone (s : State) (id status : Nat) (data : List Byte) : Option State :=
  match Tbl.get s.io.reqs id with
  | none => none
  | some r =>
    match r.lanes with
    | [] => none
    | l :: rest =>
      if status = 0 ∧ data.length ≠ r.size then none
      else
        let s := match r.acq with
          | some sc => s.hostAcquired r.ag sc
          | none => s
        let s := { s with io := { s.io with
          reqs := if rest.isEmpty then Tbl.erase s.io.reqs id
                  else Tbl.set s.io.reqs id { r with lanes := rest, expect := r.expect.drop 1 } } }
        match s.orphaned id r.ag with
        | some (g, G) => some (s.setGroup g ({ G with orphans := G.orphans.map (r.into id status l data) } : Group).landOrphans)
        | none =>
          let ag := s.reqAgent id r.ag
          match s.path ag with
          | none => none
          | some p =>
            let late : List LateFault := if status = 0 then [] else
              [{ cause := cHOSTERR, sub := 0, detail := status,
                 lanes := (match r.dst with | .v _ => laneMask1 l | _ => p.mask), pc := r.pc }]
            some (s.setPath ag { p with pend := p.pend.map (r.into id status l data), late := p.late ++ late })

/-- Completions in the order of the lanes, one for each entry of `data`; a status that is not success completes one lane. -/
def State.hostDoneAll (id status : Nat) : List (List Byte) → State → Option State
  | [], s => some s
  | d :: ds, s => (s.hostDone id status d).bind (State.hostDoneAll id status ds)

def execHostWindowCompletion (id status : Nat) (data : List (List Byte)) (s : State) : Out1 :=
  match State.hostDoneAll id status (if data.isEmpty then [[]] else data) s with
  | some s => .next s
  | none => .refused .notEnabled

/-! Late faults, notices (R93, R335). -/

/-- A late fault is taken at a boundary of its path: the path may issue, and what its group waits for is there; until then,
and while a handler runs, it is held (R93, R332). -/
def execLateFault (ag : Agent) (s : State) : Out1 :=
  match s.path ag with
  | some p => match p.late with
    | f :: rest =>
      let ready : Bool := match ag with
        | .path g _ => (s.group g).any Group.allReady
        | .handler g => (s.group g).any Group.allReady
        | .ctl _ => p.pend.all (·.ready)
      let t := { Trap.of f.cause f.sub f.detail f.lanes with late := true, faultPc := f.pc }
      stepIf (s.canIssue ag && ready) ((s.setPath ag { p with late := rest }).takeTrap ag t)
    | [] => .refused .notEnabled
  | none => .refused .notEnabled

def execNoticeRecord (t : Nat) (s : State) : Out1 :=
  match s.team t with
  | some T =>
    match T.ringQ.find? (fun r => r.chain.isNone) with
    | some r =>
      let rank := T.ringRank (bitsOf r.bits.toNat 29 26)
      stepIf (s.ringOpen T rank) ((s.setTeam t { T with ringQ := T.ringQ.erase r }).ringWrite t r.bits rank)
    | none => .refused .notEnabled
  | none => .refused .notEnabled

def execEngineCompletionRecord (t ch n : Nat) (s : State) : Out1 :=
  match s.team t with
  | some T =>
    match T.ringQ.find? (fun r => r.chain == some ch && r.seq == BitVec.ofNat 32 n) with
    | some r =>
      stepIf (s.ringOpen T ch) (((s.setTeam t { T with ringQ := T.ringQ.erase r }).ringWrite t r.bits ch).rungCmd t ch r.seq)
    | none => .refused .notEnabled
  | none => .refused .notEnabled

/-! Retirement (R126, R221, R321). -/

/-- Every MDRAIN at work that names a group ends ABANDONED, DONE at the rows read (R321); one not yet accepted ends so at its
acceptance, one that has faulted is left to CHCTL. -/
def State.dropDrains (s : State) (t grp : Nat) : State :=
  match s.team t with
  | none => s
  | some T => (T.drains grp).foldl (fun s c =>
      match s.cmd t 1 c.seq with
      | some c => if c.accepted && c.status == 1 && c.fin == 0 then s.endCmd t 1 c 6 else s
      | none => s) s

/-- The group's rows and trap frame zeroed and returned, its decisions discarded, its drain rows dropped. -/
def State.retireGroup (s : State) (g : Nat) (G : Group) : State :=
  let core := coreOfGroup g
  let grp := G.grp
  let s := s.setGroup g { G with run := .retired, v := [], vtag := [], drain := [], poison := [] }
  let c := s.core core
  let s := s.setCore core { c with dq := c.dq.filter (fun d => !(d.team == G.team && d.kind == 0 && d.index == grp)) }
  (s.dropDrains G.team grp).detect core

def execGroupRetirement (g : Nat) (s : State) : Out1 :=
  match s.group g with
  | some G =>
    if G.run = .running ∧ G.stack.isEmpty ∧ G.handler.isNone ∧ G.ops.isEmpty ∧ G.orphans.isEmpty then .next (s.retireGroup g G)
    else .refused .notEnabled
  | none => .refused .notEnabled

/-! Starvation, hints, sleep (R229, R243, R251). -/

def execStarvationRaise (g : Nat) (s : State) : Out1 :=
  match s.group g with
  | some G => stepIf (64 ≤ G.starve && G.raised.isNone) (s.setGroup g { G with raised := some s.clock })
  | none => .refused .notEnabled

def execHintCyclesExpiry (ag : Agent) (s : State) : Out1 :=
  match s.path ag with
  | some p =>
    let done (n : Nat) : Bool := n != 0 && n ≤ s.clock
    stepIf (done p.crit || done p.spin) (s.setPath ag
      { p with crit := if done p.crit then 0 else p.crit, spin := if done p.spin then 0 else p.spin })
  | none => .refused .notEnabled

/-- The sleep of an agent is over: its SLEEP completes. -/
def execSleepEnd (ag : Agent) (s : State) : Out1 :=
  match s.path ag, s.view ag with
  | some p, some i =>
    match (p.wait.map Wait.why : Option WaitWhy) with
    | some (WaitWhy.sleep till) =>
      if s.clock < till then .refused .notEnabled
      else
        match i.fetch with
        | .ok (w0 :: _, s') =>
          runInstr { (Op.short 0x3F 6) with bytes := 4 * wordCount w0 } (fun _ => true) (fun j => .ok (Done.only j.s))
            { s' with cur := some ag }
        | _ => .refused .notEnabled
    | _ => .refused .notEnabled
  | _, _ => .refused .notEnabled

end Sys2Proof.Machine
end

