-- ==== Sys2Proof/Machine/GroupWide.lean ====
section
/-! DEFINITION. Group-wide instructions, row 0x20 (R154 to R161), and the reduction trees (R76, R77). -/

namespace Sys2Proof.Machine

/-- b32 or b64. -/
def tyB3264 (t : ITy) : Bool := t.isBits && (t.w = 32 || t.w = 64)

/-- The lanes present (R154). -/
def Iss.present (i : Iss) (o : Op) : LaneMask := i.active o

/-- The lane values of A with their presence. -/
def presentVals (m : LaneMask) (xs : List Nat) : List (Nat × Nat) :=
  (xs.zipIdx.filter (fun (_, l) => m.getLsbD l)).map (fun (x, l) => (l, x))

/-- A row-0x20 instruction whose A is a v register (R154): width of A, checks, registers beyond A, effect. -/
def groupOp (o : Op) (w : Long) (legal : Iss → Bool) (regs : List SrcReg) (res : Iss → Except Stop Done) (s : State) :
    Out1 :=
  runInstr o (fun i => w.asel == 0 && i.vOk (tyOf w).w w.a.toNat && legal i) (fun i => do
    i.ecc (i.present o) (o.guardRegs ++ w.aRegs (tyOf w).w ++ regs)
    res i) s

/-! SHFL (R156). -/

/-- Segment length of a SEG code. -/
def segOf (c : Nat) : Nat := match c with | 0 => 96 | 1 => 32 | 2 => 16 | 3 => 8 | _ => 4

/-- The source lane of a lane: none where it lies outside the segment. -/
def shflSrc (mode S l b : Nat) : Option Nat :=
  let base := S * (l / S)
  let s : Int := match mode with
    | 0 => ((base + b % S : Nat) : Int)
    | 1 => (l : Int) - b
    | 2 => ((l + b : Nat) : Int)
    | _ => ((base + ((l - base) ^^^ b) : Nat) : Int)
  if (base : Int) ≤ s ∧ s < ((base + S : Nat) : Int) then some s.toNat else none

def gwShfl (o : Op) (w : Long) (s : State) : Out1 :=
  let t := tyOf w
  let mode := w.bits 31 29
  let seg := w.bits 28 26
  groupOp o w (fun i => tyIs w tyB3264 && mode < 4 && seg < 5 && w.bsel != 2 && i.vOk t.w w.d.toNat && i.bOk w 32)
    (w.bRegs 32) (fun i =>
      let m := i.present o
      let A := i.vVals t.w w.a.toNat
      let src := ((i.bVals w tN32).zipIdx).map (fun (b, l) => (shflSrc mode (segOf seg) l b).filter (fun x => m.getLsbD x))
      .ok (i.results (i.vResult t.w w.d.toNat m ((src.zip A).map (fun (x, a) => match x with
          | some j => (A[j]?).getD a
          | none => a)) ++
        [.q (w.bits 25 23) m (maskOf (src.map Option.isSome))]))) s

/-! VOTE (R157). -/

def gwVote (o : Op) (w : Long) (s : State) : Out1 :=
  let mode := w.bits 31 30
  let d := w.d.toNat % 64
  runInstr o (fun _ => w.asel == 0 && (mode != 3 || d ≤ 61)) (fun i => do
    i.ecc (i.present o) (o.guardRegs ++ [.q (w.a.toNat % 8)])
    let pr := i.present o
    let qa := i.G.pred (w.a.toNat % 8)
    let P := pr &&& (if bitAt (w.bits 29 29) 0 then ~~~qa else qa)
    if mode = 3 then
      .ok (i.results ((List.range 3).map (fun j => .k (d + j) (maskWord P j))))
    else
      let r : Bool := match mode with
        | 0 => P == pr
        | 1 => P != 0
        | _ => P == 0 || P == pr
      .ok (i.results [.q (w.d.toNat % 8) pr (if r then pr else 0)])) s

/-! RDFL, RDLN (R158). -/

def gwRdfl (o : Op) (w : Long) (s : State) : Out1 :=
  let t := tyOf w
  groupOp o w (fun _ => tyIs w tyB3264 && kOk t.w w.d.toNat) [] (fun i =>
    let m := i.present o
    let pv := presentVals m (i.vVals t.w w.a.toNat)
    let x := (pv.head?.map (·.2)).getD 0
    let differ := maskOfLanes ((pv.filter (fun e => e.2 != x)).map (·.1))
    if bitAt (w.bits 31 31) 0 && differ != 0 then i.trap cUNIFORM 0 differ
    else .ok (i.results (kResult t.w w.d.toNat x))) s

def gwRdln (o : Op) (w : Long) (s : State) : Out1 :=
  let t := tyOf w
  groupOp o w (fun i => tyIs w tyB3264 && kOk t.w w.d.toNat && w.bsel != 0 && i.bOk w 32) (w.bRegs 32) (fun i =>
    let m := i.present o
    let n := (i.bVals w tN32).headD 0
    let x := if n < 96 ∧ m.getLsbD n then ((i.vVals t.w w.a.toNat)[n]?).getD 0 else 0
    .ok (i.results (kResult t.w w.d.toNat x))) s

/-! REDG, SCANG (R76, R77, R159). -/

/-- A node of the tree: its value where a lane is present, the lanes beneath it, and the flags each combination below
raised with the lanes beneath that combination. -/
structure RNode where
  val : Option Nat
  lanes : LaneMask
  fl : List (Nat × LaneMask)
  deriving DecidableEq, Repr

/-- The absent node. -/
def RNode.none : RNode := ⟨Option.none, 0, []⟩

/-- One combination, the lower operand on the left (R76). -/
def RNode.join (f : Nat → Nat → Nat × Nat) (x y : RNode) : RNode :=
  match x.val, y.val with
  | some a, some b =>
    let (r, e) := f a b
    let m := x.lanes ||| y.lanes
    ⟨some r, m, x.fl ++ y.fl ++ (if e = 0 then [] else [(e, m)])⟩
  | some _, Option.none => x
  | Option.none, _ => y

/-- One level: adjacent results combined. -/
def RNode.level (f : Nat → Nat → Nat × Nat) : List RNode → List RNode
  | x :: y :: r => x.join f y :: RNode.level f r
  | l => l

/-- Several levels. -/
def RNode.levels (f : Nat → Nat → Nat × Nat) : Nat → List RNode → List RNode
  | 0, l => l
  | n + 1, l => RNode.levels f n (RNode.level f l)

/-- The fixed tree over 96 lane slots (R76): five levels in each beat, then (beat 0, beat 1), beat 2. -/
def RNode.tree (f : Nat → Nat → Nat × Nat) (l : List RNode) : RNode :=
  let beat (b : Nat) : RNode := ((RNode.levels f 5 ((l.drop (32 * b)).take 32)).head?).getD RNode.none
  ((beat 0).join f (beat 1)).join f (beat 2)

/-- The leaves: the lanes of a mask. -/
def leaves (m : LaneMask) (xs : List Nat) : List RNode :=
  xs.zipIdx.map (fun (x, l) => if m.getLsbD l then ⟨some x, laneMask1 l, []⟩ else RNode.none)

/-- The element type of REDG and SCANG: width, whether float. -/
def redWidth (w : Long) : Nat := if bitAt (w.bits 26 26) 0 then (f4Of w.ty.toNat).rw else (tyOf w).w

/-- Whether operation, type and modifiers combine (R159). -/
def redLegal (w : Long) : Bool :=
  let op := w.bits 31 28
  if bitAt (w.bits 26 26) 0 then op < 3 && w.ty.toNat < 2 && rndOk w.sc.toNat
  else if op < 3 then tyIs w tyWide && (!w.sat || op == 0)
  else op < 6 && tyIs w tyB3264 && !w.sat

/-- One node's operation. -/
def redFn (i : Iss) (w : Long) (a b : Nat) : Nat × Nat :=
  let op := w.bits 31 28
  if bitAt (w.bits 26 26) 0 then
    let F := f4Of w.ty.toNat
    match op with
    | 0 => fadd F (i.rmode w.sc.toNat) a b
    | 1 => fminmax false F 0 a b
    | _ => fminmax true F 0 a b
  else
    let t := tyOf w
    (match op with
      | 0 => rAdd w.sat t a b
      | 1 => rMin t a b
      | 2 => rMax t a b
      | 3 => a &&& b
      | 4 => a ||| b
      | _ => a ^^^ b, 0)

/-- The identity of the operation (R159). -/
def redIdentity (w : Long) : Nat :=
  let op := w.bits 31 28
  if bitAt (w.bits 26 26) 0 then
    let F := f4Of w.ty.toNat
    match op with
    | 0 => 0
    | 1 => F.infBits
    | _ => F.signed true F.infBits
  else
    let t := tyOf w
    match op with
    | 0 => 0
    | 1 => wrap t.w t.hi
    | 2 => wrap t.w t.lo
    | 3 => 2 ^ t.w - 1
    | _ => 0

/-- Flags of the combinations, or FPE with every lane beneath one that raised an enabled flag (R159). -/
def Iss.redFlags (i : Iss) (es : List (Nat × LaneMask)) : Except Stop Nat :=
  let all := es.foldl (fun a e => a ||| e.1) 0
  if all &&& i.enables = 0 then .ok all
  else
    let m := es.foldl (fun (m : LaneMask) e => if e.1 &&& i.enables != 0 then m ||| e.2 else m) 0
    .error (.trap { Trap.of cFPE 0 (all &&& i.enables) m with flags := all })

/-- The registers of A at a width. -/
def redRegs (w : Long) : List SrcReg := srcRegs false (redWidth w) w.a.toNat

def gwRedg (o : Op) (w : Long) (s : State) : Out1 :=
  let wd := redWidth w
  runInstr o (fun i => w.asel == 0 && redLegal w && i.vOk wd w.a.toNat && kOk wd w.d.toNat) (fun i => do
    i.ecc (i.present o) (o.guardRegs ++ redRegs w)
    let r := RNode.tree (redFn i w) (leaves (i.present o) (i.vVals wd w.a.toNat))
    let fl ← i.redFlags r.fl
    .ok { i.results (kResult wd w.d.toNat (r.val.getD (redIdentity w))) with flags := fl }) s

def gwScang (o : Op) (w : Long) (s : State) : Out1 :=
  let wd := redWidth w
  let exc := bitAt (w.bits 27 27) 0
  runInstr o (fun i => w.asel == 0 && redLegal w && i.vOk wd w.a.toNat && i.vOk wd w.d.toNat) (fun i => do
    i.ecc (i.present o) (o.guardRegs ++ redRegs w)
    let m := i.present o
    let xs := i.vVals wd w.a.toNat
    let rs := (List.range laneCount).map (fun l =>
      if m.getLsbD l then
        RNode.tree (redFn i w) (leaves (m &&& BitVec.ofNat 96 (2 ^ (if exc then l else l + 1) - 1)) xs)
      else RNode.none)
    let fl ← i.redFlags (rs.flatMap (·.fl))
    .ok { i.results (i.vResult wd w.d.toNat m (rs.map (fun r => r.val.getD (redIdentity w)))) with flags := fl }) s

/-! MATCH (R160). -/

def gwMatch (o : Op) (w : Long) (s : State) : Out1 :=
  let t := tyOf w
  let every := bitAt (w.bits 31 31) 0
  groupOp o w (fun i => tyIs w tyB3264 && (every || w.d.toNat + 2 < i.G.len)) [] (fun i =>
    let m := i.present o
    let xs := i.vVals t.w w.a.toNat
    let pv := presentVals m xs
    if every then
      let x := (pv.head?.map (·.2)).getD 0
      .ok (i.results [.q (w.d.toNat % 8) m (if pv.all (fun e => e.2 == x) then m else 0)])
    else
      let eq := xs.map (fun x => maskOfLanes ((pv.filter (fun e => e.2 == x)).map (·.1)))
      .ok (i.results ((List.range 3).flatMap (fun j =>
        i.vResult 32 (w.d.toNat + j) m (eq.map (fun k => (maskWord k j).toNat)))))) s

/-! LID (R161). -/

def gwLid (o : Op) (sel : Nat) (d : BitVec 7) (s : State) : Out1 :=
  laneOp o (fun i => o.asel == 0 && sel != 3 && i.vOk 32 d.toNat) []
    (fun i => i.vResult 32 d.toNat (i.active o) ((List.range laneCount).map (fun l =>
      match sel with
      | 0 => l
      | 1 => l % 32
      | _ => l / 32))) s

def execShfl (w : Long) : State → Out1 := gwShfl (Op.long 0x20 0 w) w
def execVote (w : Long) : State → Out1 := gwVote (Op.long 0x20 1 w) w
def execRdfl (w : Long) : State → Out1 := gwRdfl (Op.long 0x20 2 w) w
def execRdln (w : Long) : State → Out1 := gwRdln (Op.long 0x20 3 w) w
def execRedg (w : Long) : State → Out1 := gwRedg (Op.long 0x20 4 w) w
def execScang (w : Long) : State → Out1 := gwScang (Op.long 0x20 5 w) w
def execMatchg (w : Long) : State → Out1 := gwMatch (Op.long 0x20 6 w) w
def execLid32 (o : Short) : State → Out1 := gwLid (Op.short 0x20 7) (o.a.toNat % 4) o.d
def execLid64 (w : Long) : State → Out1 := gwLid (Op.long 0x20 7 w) (w.a.toNat % 4) w.d

end Sys2Proof.Machine
end

