-- ==== Sys2Proof/Machine/Inbound.lean ====
section
/-! DEFINITION. Requests that arrive from the host and from peer devices: their checks and effects (R47, R50, R52, R407,
R409, R432, R442, R443, R446, R458). -/

namespace Sys2Proof.Machine

/-- The device is READY (R432). -/
def State.ready (s : State) : Bool := s.bring.stage == 8

/-- A running checkpoint has reached its step 2 for a function's colours: its teams are saved or have ended (R458). -/
def State.shut (s : State) (f : Nat) : Bool := s.frozen f && s.teams.all (fun e => !s.frozen e.2.fn)

/-- The extent, not FREE, that holds an address. -/
def State.extentAt (s : State) (a : Nat) : Option Ext :=
  (s.sec.exts.find? (fun e => e.2.state != 0 && e.2.basep * 4096 ≤ a && a < (e.2.basep + e.2.lenp) * 4096)).map (·.2)

/-- The refusal of an inbound request, and the colour it is made in (R409): `mine` says which colours may ask, `door`
whether the extent's bit for this side is set. -/
def State.inboundErr (s : State) (mine : Nat → Bool) (door : Ext → Bool) (a n : Nat) (write : Bool) : Option (Nat × Nat) × Nat :=
  match s.extentAt a with
  | none => (some (cCAPABILITY, subCOLOUR), 0)
  | some e =>
    let c := s.colour e.colour
    (if e.state ≠ 1 then some (cEXTENT, 0)
     else if (e.basep + e.lenp) * 4096 < a + n ∨ !mine e.colour ∨ !c.valid ∨ s.shut c.func then some (cCAPABILITY, subCOLOUR)
     else if !door e ∨ (c.prot && c.keyed && e.mode == 2) then some (cCAPABILITY, subCOLOUR)
     else if write ∧ e.mode = 1 then some (cCAPABILITY, subPERM)
     else none, e.colour)

/-- A host request of function f: a protected colour whose key is not yet released counts as valid (R407). -/
def State.hiErr (s : State) (f a n : Nat) (write : Bool) : Option (Nat × Nat) × Nat :=
  s.inboundErr (fun c => (s.colour c).func == f) (·.hi) a n write

/-- A peer request of a colour. -/
def State.piErr (s : State) (colour a n : Nat) (write : Bool) : Option (Nat × Nat) × Nat :=
  s.inboundErr (fun c => c == colour && s.colourOk c) (·.pi) a n write

/-! Completion statuses: 0 success, 1 Unsupported Request, 4 Completer Abort, 8 poisoned data. -/

/-- What an admitted inbound request does at the home, with its answer: data and status. -/
def State.inbound (s : State) (rq : InRq) : Option (List Byte × Nat) × State :=
  match rq with
  | .read a n =>
    if (s.mem.poisonIn a n).isSome then (some (s.mem.homeRead a n, 8), s)
    else if isSys a then (some (s.sysRead a n, 0), s)
    else (some (s.mem.homeRead a n, 0), s)
  | .write a d => (none, { s with mem := s.mem.homeWrite a d })
  | .atomic r =>
    let t := (ityOf r.ty).getD tN32
    let n := t.w / 8
    let old := leNat (s.mem.homeRead r.addr n)
    if (s.mem.poisonIn r.addr n).isSome then (some (leBytes n old, 8), s)
    else
    let new := if !r.fl && r.op == 9 then (if old = r.c then r.a else old) else atomValue r.fl r.op t old r.a
    (some (leBytes n old, 0), { s with mem := s.mem.homeWrite r.addr (leBytes n new) })

/-- First byte, length and kind of a request: 0 read, 1 write, 2 atomic. -/
def reqSpan : InRq → Nat × Nat × Nat
  | .read a n => (a, n, 0)
  | .write a d => (a, d.length, 1)
  | .atomic r => (r.addr, ((ityOf r.ty).getD tN32).w / 8, 2)

/-- A request counted by the watch log, then performed or refused. -/
def State.serve (s : State) (path agent : Nat) (rq : InRq) (err : Option (Nat × Nat) × Nat) (refused : Nat × Nat → Nat)
    (reply : List Byte → Nat → Out) : State :=
  let (a, n, k) := reqSpan rq
  match err.1 with
  | some e =>
    let s := s.watchEng path agent err.2 3 [(a, n)]
    if k = 1 then s else s.send (reply [] (refused e))
  | none =>
    let s := s.watchEng path agent err.2 k [(a, n)]
    match s.inbound rq with
    | (some (d, st), s) => s.send (reply d st)
    | (none, s) => s

/-- A host request on a function's stream. Before READY it is refused; a TLP of an Insecure stream is discarded. -/
def execHostInboundRequest (f : Nat) (rq : InRq) (s : State) : Out1 :=
  let F := s.fn f
  if 16 ≤ f then .refused .notEnabled
  else if F.insecure then .next s
  else if !s.ready ∨ !F.en then
    .next (if (reqSpan rq).2.2 = 1 then s else s.send (.answer f [] 1))
  else .next (s.serve 5 (0x4000 + f) rq (s.hiErr f (reqSpan rq).1 (reqSpan rq).2.1 ((reqSpan rq).2.2 != 0)) (fun _ => 1) (.answer f))

/-- Whether an address of a peer window names HBM or a chip scratchpad (R273). -/
def peerOffsetOk (o : Nat) : Bool := o < 0xC000000000 || (0x10000000000 ≤ o && o < 0x10008000000)
/-- The address that an offset of a peer window names. -/
def peerOffset (o : Nat) : Nat := if o < 0xC000000000 then o else o - 0x10000000000 + chipBase

/-- The port's checks of a sealed operand: destination, seal, R49, extent table (R47). -/
def State.portErr (s : State) (c : CapV) (rq : InRq) : Option (Nat × Nat) × Nat :=
  let (a, n, k) := reqSpan rq
  let u := c.unsealed
  if c.form ≠ 1 ∨ c.dest ≠ s.bring.devid then (some (cCAPABILITY, subFORM), c.colour)
  else match u.check ⟨[0], pEN ||| (if k = 0 then pLD else if k = 1 then pST else pAT)⟩ c.colour (s.colourOk c.colour) false a n with
    | some (.cap e) => (some (cCAPABILITY, e), c.colour)
    | some _ => (some (cILLEGAL, 0), c.colour)
    | none =>
      if a / peerWindow ≠ peerBase / peerWindow + s.bring.devid ∨ !peerOffsetOk (a % peerWindow) then
        (some (cCAPABILITY, subBOUNDS), c.colour)
      else (s.piErr c.colour (peerOffset (a % peerWindow)) n (k != 0)).1 |> (·, c.colour)

/-- The request with its address as an address of this device. -/
def reqHere : InRq → InRq
  | .read a n => .read (peerOffset (a % peerWindow)) n
  | .write a d => .write (peerOffset (a % peerWindow)) d
  | .atomic r => .atomic { r with addr := peerOffset (r.addr % peerWindow) }

/-- A request of a peer device with its sealed operand. Its answer carries 16 + the device; a refusal's status is 256 plus
the cause and 16 times the subcause. -/
def execPeerInboundRequest (dev : Nat) (cap : BitVec 128) (tag : Bool) (rq : InRq) (s : State) : Out1 :=
  let err := if s.ready then s.portErr ⟨cap, tag⟩ rq else (some (cCAPABILITY, subCOLOUR), 0)
  let refused (e : Nat × Nat) : Nat := 256 + e.1 + 4096 * e.2
  let reply (d : List Byte) (st : Nat) : Out := .answer (16 + dev) d st
  match (reqSpan (reqHere rq)).2.2, err.1 with
  | 1, some e => .next ((s.watchEng 6 (0x8000 + dev) err.2 3 [((reqSpan (reqHere rq)).1, (reqSpan (reqHere rq)).2.1)]).send (reply [] (refused e)))
  | 1, none => .next ((s.serve 6 (0x8000 + dev) (reqHere rq) err refused reply).send (reply [] 0))
  | _, _ => .next (s.serve 6 (0x8000 + dev) (reqHere rq) err refused reply)

end Sys2Proof.Machine
end

