-- ==== Sys2Proof/Machine/CopyEvents.lean ====
section
/-! DEFINITION. The copy engine at work: acceptance of copies, chunks, GCM records, lane copies, copies to and from a
peer (R203 to R206, R216, R303 to R313, R328). -/

namespace Sys2Proof.Machine

/-! Geometry (R204). -/

/-- Strides of the strided side. -/
def Blk.rstride (b : Blk) : Nat := b.get 415 384
def Blk.pstride (b : Blk) : Nat := b.get 447 416
/-- SIDE: 1 where the destination is strided. -/
def Blk.dstStrided (b : Blk) : Bool := bitAt b.bits.toNat 508

/-- The length of the hull of a side (R375). -/
def Blk.hull (b : Blk) (strided : Bool) : Nat :=
  if strided then (b.xb - 1) + (b.rows - 1) * b.rstride + (b.planes - 1) * b.pstride + 1 else b.total

/-- The place of linear offset o on a side, from its cursor. -/
def Blk.place (b : Blk) (strided : Bool) (o : Nat) : Nat :=
  if strided then o % b.xb + o / b.xb % b.rows * b.rstride + o / b.xb / b.rows * b.pstride else o

/-- The runs of offsets [o, hi): source address, destination address, length; a run stays in one row. -/
def Blk.runs (b : Blk) : Nat → Nat → Nat → List (Nat × Nat × Nat)
  | 0, _, _ => []
  | fuel + 1, o, hi =>
    if hi ≤ o then []
    else
      let n := min (b.xb - o % b.xb) (hi - o)
      ((b.cap 0).cursor + b.place (!b.dstStrided) o, (b.cap 1).cursor + b.place b.dstStrided o, n) ::
        b.runs fuel (o + n) hi

/-- First and last offset of a chunk. -/
def Blk.chunkLo (_ : Blk) (c : Nat) : Nat := 512 * c
def Blk.chunkHi (b : Blk) (c : Nat) : Nat := min b.total (512 * c + 512)
/-- The runs of a chunk. -/
def Blk.chunkRuns (b : Blk) (c : Nat) : List (Nat × Nat × Nat) := b.runs 512 (b.chunkLo c) (b.chunkHi c)

/-- The source runs and destination runs. -/
def srcRuns (rs : List (Nat × Nat × Nat)) : List (Nat × Nat) := rs.map (fun (a, _, n) => (a, n))
def dstRuns (rs : List (Nat × Nat × Nat)) : List (Nat × Nat) := rs.map (fun (_, d, n) => (d, n))

/-- Whether the copy keeps tags (R53): granules whole and aligned on both sides, LC and SC, no transformation. -/
def Blk.keepsTags (b : Blk) : Bool :=
  let s := b.cap 0
  let d := b.cap 1
  s.cursor % 16 == 0 && d.cursor % 16 == 0 && b.xb % 16 == 0 && (b.rows == 1 || b.rstride % 16 == 0) &&
    (b.planes == 1 || b.pstride % 16 == 0) && s.has pLC && d.has pSC && !b.gcm

/-- The rows of a side: first byte and length of each. -/
def Blk.rowRuns (b : Blk) (c : CapV) (strided : Bool) : List (Nat × Nat) :=
  if strided then (List.range (b.rows * b.planes)).map (fun r =>
    (c.cursor + r % b.rows * b.rstride + r / b.rows * b.pstride, b.xb))
  else [(c.cursor, b.total)]

/-- The records of a GCM copy, and the bytes of one (R311). -/
def Blk.records (b : Blk) : Nat := cdiv b.total 4096
def Blk.recordLen (b : Blk) (j : Nat) : Nat := min 4096 (b.total - 4096 * j)

/-! Acceptance (R199, R204 to R206, R216, R311, R313). -/

/-- Copy commands of a core's teams that are in execution (R303). -/
def State.copiesAtWork (s : State) (core : Nat) : Nat :=
  ((s.teams.filter (fun e => coreOfTeam e.1 == core)).map (fun e =>
    ((e.2.chain 0).cmds.filter (fun c => c.accepted && c.status == 1 && c.fin == 0 && c.exec)).length)).sum

/-- The bytes of AUX that a GCM command needs, from its cursor: the header and the tags of its records (R311). -/
def Cmd.auxSpan (c : Cmd) : Int × Int := (min 0 (16 + 16 * c.k0), max 16 (16 + 16 * (c.k0 + c.block.records)))

/-- The acceptance checks of a copy between local sides. -/
def State.copyErr (s : State) (T : Team) (c : Cmd) : Option EngErr :=
  let b := c.block
  let (src, dst, aux) := (b.cap 0, b.cap 1, b.cap 2)
  let (ns, nd) := (b.hull (!b.dstStrided), b.hull b.dstStrided)
  let (lo, hi) := c.auxSpan
  let forPeer (x : CapV) : Option EngErr :=
    if x.tag && x.form == 1 && x.dest == s.bring.devid then some ⟨cCAPABILITY, subFORM, x.cursor⟩ else none
  firstFail [
    if b.badSize T.scratchLen 0 then some ⟨cCAPABILITY, subBOUNDS, 0⟩ else none,
    forPeer src, s.sideErr T src pLD ns (b.rowRuns src (!b.dstStrided)),
    forPeer dst, s.sideErr T dst pST nd (b.rowRuns dst b.dstStrided),
    if b.gcm then s.capSideErr T aux pLD aux.base 0 else none,
    regionErr T src.cursor ns .read, regionErr T dst.cursor nd .write,
    if b.gcm ∧ (((aux.cursor : Int) + lo < aux.base) ∨ (aux.top : Int) < aux.cursor + hi) then
      some ⟨cCAPABILITY, subBOUNDS, aux.cursor⟩ else none,
    if b.gcm then s.sideErr T aux pLD 16 [(((aux.cursor : Int) + lo).toNat, (hi - lo).toNat)] else none,
    if b.gcm then regionErr T ((aux.cursor : Int) + lo).toNat (hi - lo).toNat .read else none]

/-- The steps of R206 and R311 for a GCM command: the command with its counter base, salt, slot and generation. -/
def State.gcmAccept (s : State) (T : Team) (c : Cmd) : Except EngErr (Cmd × State) :=
  let b := c.block
  let aux := (b.cap 2).cursor
  match s.engRefusal T.colour aux 16 false with
  | some e => .error e
  | none =>
    let (h, s) := s.engRead aux 16
    let cb := leNat (h.take 8)
    let first : Int := cb + c.k0
    let last : Int := first + b.records - 1
    let kslot := leNat ((h.drop 12).take 1)
    let col := s.colour (b.cap 1).colour
    if 2 ^ 64 ≤ last then .error ⟨cREPLAY, 0, 0⟩
    else if !(col.valid && col.prot && col.keyed && col.kslot == kslot) then .error ⟨cCAPABILITY, subCOLOUR, 0⟩
    else
      match Tbl.get s.sec.slots kslot with
      | none => .error ⟨cCAPABILITY, subCOLOUR, 0⟩
      | some k =>
        if first ≤ (k.high.toNat : Int) then .error ⟨cREPLAY, 0, 0⟩
        else .ok ({ c with cb := cb, salt := leNat ((h.drop 8).take 4), kslot := kslot, slotGen := k.gen.toNat },
          { s with sec := { s.sec with slots := Tbl.set s.sec.slots kslot { k with high := BitVec.ofInt 64 last } } })

/-- Whether the peer side of an RCOPY is its destination. -/
def Blk.toPeer (b : Blk) : Bool := (b.cap 1).form == 1

/-- The acceptance checks of an OPC 1 entry of the collective chain (R216): exactly one side peer-sealed. -/
def State.rcopyErr (s : State) (T : Team) (c : Cmd) : Option EngErr :=
  let b := c.block
  let (src, dst) := (b.cap 0, b.cap 1)
  let (ns, nd) := (b.hull (!b.dstStrided), b.hull b.dstStrided)
  firstFail [
    if b.gcm then some ⟨cCAPABILITY, subFORM, 0⟩ else none,
    if b.badSize T.scratchLen 0 then some ⟨cCAPABILITY, subBOUNDS, 0⟩ else none,
    if !((src.form == 1 && dst.form == 0) || (src.form == 0 && dst.form == 1)) then
      some ⟨cCAPABILITY, subFORM, 0⟩ else none,
    if b.toPeer then s.sideErr T src pLD ns (b.rowRuns src (!b.dstStrided)) else s.peerErr T src pLD ns,
    if b.toPeer then s.peerErr T dst pST nd else s.sideErr T dst pST nd (b.rowRuns dst b.dstStrided),
    if b.toPeer then regionErr T src.cursor ns .read else regionErr T dst.cursor nd .write]

/-- A copy command accepted, its record written. -/
def State.acceptCopy (s : State) (t ch : Nat) (T : Team) (c : Cmd) : State :=
  let b := c.block
  match (if ch = 0 then s.copyErr T c else s.rcopyErr T c) with
  | some e => s.failCmd t ch c e 0
  | none =>
    if b.gcm then
      match s.gcmAccept T c with
      | .error e => s.failCmd t ch c e (s.mem.eccAt e.faddr)
      | .ok (c, s) => (s.markHull T (b.cap 1).cursor (b.hull b.dstStrided)).noteCmd t ch c
    else if ch = 0 ∨ !b.toPeer then s.markHull T (b.cap 1).cursor (b.hull b.dstStrided)
    else s

/-! Chunks (R307, R308). -/

/-- A command of a team that is at work. -/
def State.atWork (s : State) (t ch n : Nat) : Option (Team × Cmd) :=
  match s.team t with
  | none => none
  | some T => match (T.chain ch).cmd (BitVec.ofNat 32 n) with
    | some c => if c.accepted && c.status == 1 && c.fin == 0 then some (T, c) else none
    | none => none

/-- The bit of a chunk set by one atomic OR at the team's scratchpad (R308). -/
def State.setChunkBit (s : State) (T : Team) (b : Blk) (c : Nat) : State :=
  if b.nobm then s
  else
    let a := T.scratch + b.bitmap.1 + c / 8
    { s with mem := s.mem.homeWrite a [s.mem.home a ||| BitVec.ofNat 8 (2 ^ (c % 8))] }

/-- Chunks that are done: the command as it then stands, and its end where they are all (R199, R200, R206). -/
def State.chunksDone (s : State) (t ch : Nat) (c : Cmd) (cs : List Nat) (bytes : Nat) : State :=
  let c := { c with units := c.units ++ cs, done := c.done + bytes }
  if c.units.length = c.nc then s.endCmd t ch c (if c.nfail = 0 then 2 else 3) else s.noteCmd t ch c

/-- The first refusal of runs. -/
def State.runsRefusal (s : State) (colour : Nat) (write : Bool) (rs : List (Nat × Nat)) : Option EngErr :=
  firstFail (rs.map (fun (a, n) => s.engRefusal colour a n write))

/-- A refused request watched (R453), the command failed. -/
def State.runsFail (s : State) (t ch path : Nat) (T : Team) (c : Cmd) (e : EngErr) : State :=
  let s := if e.cause = cECC ∨ e.cause = cHOSTERR then s else s.watchEng path T.core T.colour 3 [(e.faddr, 1)]
  s.failCmd t ch c e (s.mem.eccAt e.faddr)

/-- The granules of one run of a tag-keeping copy that arrive tagged: the destination's granule numbers. -/
def State.taggedGranules (s : State) (T : Team) (a d n : Nat) : List Nat :=
  (List.range (n / 16)).filterMap (fun j =>
    let v : CapV := ⟨BitVec.ofNat 128 (leNat (s.mem.homeRead (a + 16 * j) 16)), s.mem.homeTag (a / 16 + j)⟩
    if !isHost a && !isHost d && s.tagPasses T (d + 16 * j) v then some (d / 16 + j) else none)

/-- Runs written one after another, each with its bytes and then its tags: (destination, length, granules that arrive
tagged). -/
def State.engStoresTagged (s : State) (core : Nat) : List (Nat × Nat × List Nat) → List Byte → State
  | [], _ => s
  | (d, n, gs) :: r, bs => ((s.engStore core d (bs.take n)).setTags gs).engStoresTagged core r (bs.drop n)

/-- A chunk copied between local sides. -/
def State.copyLocal (s : State) (t ch : Nat) (T : Team) (c : Cmd) (k : Nat) : State :=
  let b := c.block
  let rs := b.chunkRuns k
  match firstFail [s.runsRefusal T.colour false (srcRuns rs), s.runsRefusal T.colour true (dstRuns rs)] with
  | some e => s.runsFail t ch 1 T c e
  | none =>
    let out := rs.map (fun (a, d, n) => (d, n, if b.keepsTags then s.taggedGranules T a d n else []))
    let (bs, s) := s.engReads (srcRuns rs)
    let s := (s.engStoresTagged T.core out bs).setChunkBit T b k
    let s := (s.watchEng 1 T.core T.colour 0 (srcRuns rs)).watchEng 1 T.core T.colour 1 (dstRuns rs)
    s.chunksDone t ch c [k] (b.chunkHi k - b.chunkLo k)

/-- A chunk of a GCM record read: its ciphertext is held until the record is whole (R312, R401). -/
def State.copyCipher (s : State) (t ch : Nat) (T : Team) (c : Cmd) (k : Nat) : State :=
  let rs := c.block.chunkRuns k
  match s.runsRefusal T.colour false (srcRuns rs) with
  | some e => s.runsFail t ch 1 T c e
  | none =>
    let (bs, s) := s.engReads (srcRuns rs)
    (s.watchEng 1 T.core T.colour 0 (srcRuns rs)).noteCmd t ch { c with parts := Tbl.set c.parts k bs }

/-- The first byte of a chunk on the peer's side of a copy. -/
def Cmd.peerAddr (c : Cmd) (k : Nat) : Nat :=
  let rs := c.block.chunkRuns k
  (((if c.block.toPeer then dstRuns rs else srcRuns rs).head?).map (·.1)).getD 0

/-- The request of a chunk to its peer (R47): the sealed operand, the runs of bytes there, the data of a write. -/
def Blk.peerReq (b : Blk) (k : Nat) (data : List Byte) : PeerReq :=
  let c := if b.toPeer then b.cap 1 else b.cap 0
  { cap := c.bits, tag := c.tag, write := b.toPeer, data := data, coll := none
    runs := if b.toPeer then dstRuns (b.chunkRuns k) else srcRuns (b.chunkRuns k) }

/-- A chunk's message to a peer: data for a peer destination, a request for a peer source (R216, R328). -/
def State.copyPeer (s : State) (t : Nat) (T : Team) (c : Cmd) (k : Nat) : State :=
  let b := c.block
  let rs := b.chunkRuns k
  let note := { c with sent := c.sent ++ [k] }
  if b.toPeer then
    match s.runsRefusal T.colour false (srcRuns rs) with
    | some e => s.runsFail t 2 3 T c e
    | none =>
      let (bs, s) := s.engReads (srcRuns rs)
      let s := s.watchEng 3 T.core T.colour 0 (srcRuns rs)
      match s.sendPeer (b.cap 1).dest t c.seq.toNat k (b.peerReq k bs) with
      | some s => s.noteCmd t 2 note
      | none => s.failCmd t 2 c (linkErr (c.peerAddr k)) 0
  else match s.sendPeer (b.cap 0).dest t c.seq.toNat k (b.peerReq k []) with
    | some s => s.noteCmd t 2 note
    | none => s.failCmd t 2 c (linkErr (c.peerAddr k)) 0

/-! The copy engine's choice (R303, R310). -/

/-- Whether the engine may begin a chunk: of a team that is being pre-empted only the chunks of a record already begun. -/
def Cmd.mayBegin (c : Cmd) (halt : Bool) (k : Nat) : Bool :=
  k < c.nc && !c.begun.contains k && (!halt || (c.block.gcm && c.begun.any (fun j => j / 8 == k / 8)))
/-- A copy at work, among those in execution or with room for it, that has a chunk to begin. -/
def Cmd.copyReady (c : Cmd) (halt room : Bool) : Bool :=
  c.accepted && c.status == 1 && c.fin == 0 && c.opc == 1 && (c.exec || room) && (List.range c.nc).any (c.mayBegin halt)
/-- The command whose chunk a team has served next: the first in sequence order. -/
def State.nextCopy (s : State) (T : Team) : Option Cmd :=
  (T.chain 0).cmds.find? (fun c => c.copyReady T.halt (s.copiesAtWork T.core < 8))
/-- Whether a team has a chunk to be begun, and whether it has a line operation. -/
def State.chunkReady (s : State) (t : Nat) (T : Team) : Bool :=
  (s.nextCopy T).isSome && !s.shortOf T (fun w => match w with
    | .chunk u ch _ _ => u == t && ch == 0
    | _ => false)
def State.lineReady (s : State) (t : Nat) (T : Team) : Bool :=
  s.groups.any (fun e => e.2.team == t && e.2.ops.any (fun o => !o.begun)) && !s.shortOf T (fun w => match w with
    | .line g _ _ _ => (s.group g).any (fun G => G.team == t)
    | _ => false)
/-- Whether it is a team's turn at the copy engine for a chunk or for a line operation: the kinds alternate when both wait,
the teams take turns by TSLOT. -/
def State.copyTurn (s : State) (T : Team) (line : Bool) : Bool :=
  let C := s.core T.core
  let cs := s.slotsWith T.core s.chunkReady
  let ls := s.slotsWith T.core s.lineReady
  if line then nextTurn C.lineTurn ls == some T.tslot && (cs.isEmpty || !C.lineLast)
  else nextTurn C.chunkTurn cs == some T.tslot && (ls.isEmpty || C.lineLast)
/-- A chunk begun. -/
def State.beginChunk (s : State) (t : Nat) (T : Team) (x : Cmd) (c : Nat) : State :=
  (s.setCore T.core { s.core T.core with chunkTurn := T.tslot, lineLast := false }).noteCmd t 0
    { x with begun := x.begun ++ [c], exec := true }

/-- A copy to or from a peer that has a chunk to send for. -/
def Cmd.peerReady (c : Cmd) : Bool :=
  c.accepted && c.status == 1 && c.fin == 0 && c.opc == 1 && (List.range c.nc).any (fun k => !c.sent.contains k)

/-- The data of a chunk arrives from a peer source (R328): written on the CL path. -/
def State.peerData (s : State) (t : Nat) (T : Team) (x : Cmd) (c : Nat) (data : List Byte) : Option State :=
  let b := x.block
  if b.toPeer ∨ !x.sent.contains c ∨ x.units.contains c ∨ data.length ≠ b.chunkHi c - b.chunkLo c then none
  else
    let rs := dstRuns (b.chunkRuns c)
    match s.runsRefusal T.colour true rs with
    | some e => some (s.runsFail t 2 3 T x e)
    | none =>
      let s := (s.engStores T.core rs data).watchEng 3 T.core T.colour 1 rs
      some ((s.setChunkBit T b c).chunksDone t 2 x [c] data.length)

/-! GCM records (R206, R311, R312, R410). -/

/-- The IV of a record: SALT in memory order, then the counter, most significant byte first. -/
def gcmIv (salt v : Nat) : List Byte := leBytes 4 salt ++ (leBytes 8 v).reverse

/-- The counter of record j (R206). -/
def Cmd.counter (c : Cmd) (j : Nat) : Nat := ((c.cb : Int) + c.k0 + j).toNat

/-- The ciphertext of a record, if all its chunks have been read. -/
def Cmd.cipher (c : Cmd) (j : Nat) : Option (List Byte) :=
  (List.range (cdiv (c.block.recordLen j) 512)).foldl (fun acc k =>
    match acc, Tbl.get c.parts (8 * j + k) with
    | some xs, some ys => some (xs ++ ys)
    | _, _ => none) (some [])

def execGcmRecord (t n j : Nat) (s : State) : Out1 :=
  match s.atWork t 0 n with
  | none => .refused .notEnabled
  | some (T, x) =>
    let b := x.block
    match x.cipher j with
    | none => .refused .notEnabled
    | some ct =>
      if !b.gcm ∨ b.records ≤ j ∨ x.units.contains (8 * j) then .refused .notEnabled
      else
        let cs := (List.range (cdiv (b.recordLen j) 512)).map (· + 8 * j)
        let tagAt := (((b.cap 2).cursor : Int) + 16 + 16 * (x.k0 + j)).toNat
        let key := (Tbl.get s.sec.slots x.kslot).filter (fun k => k.gen.toNat == x.slotGen)
        let rs := dstRuns (b.runs 4096 (4096 * j) (4096 * j + b.recordLen j))
        match key, firstFail [s.engRefusal T.colour tagAt 16 false, s.runsRefusal T.colour true rs] with
        | none, _ => .next (s.failCmd t 0 x ⟨cCAPABILITY, subCOLOUR, 0⟩ 0)
        | some _, some e => .next (s.runsFail t 0 1 T x e)
        | some k, none =>
          let (tag, s) := s.engRead tagAt 16
          let pt := Config.gcmOpen (k.key.setWidth 256) (gcmIv x.salt (x.counter j)) [] ct tag
          let out := (pt.filter (fun p => p.length == ct.length)).getD (List.replicate ct.length 0)
          let s := (s.engStores T.core rs out).watchEng 1 T.core T.colour 1 rs
          let x := { x with parts := Tbl.keep x.parts (fun k => !cs.contains k) }
          if pt.isSome then .next ((cs.foldl (fun s k => s.setChunkBit T b k) s).chunksDone t 0 x cs ct.length)
          else .next (s.chunksDone t 0 { x with nfail := x.nfail + 1, index := if x.nfail = 0 then j else min x.index j }
            cs ct.length)

/-! Lane copies (R208, R209, R304). -/

/-- One line operation performed: refused lanes fail and are reported by WSHEAF; the source line is read once, then the
others' bytes are written. -/
def State.lineOp (s : State) (g : Nat) (G : Group) (T : Team) (o : LineOp) : State :=
  let bad (x : CopyLane) : Option EngErr :=
    firstFail [s.engRefusal T.colour x.src o.width false, s.engRefusal T.colour x.dst o.width true]
  let fails := o.lanes.filterMap (fun x => (bad x).map (fun e => (x.lane, e)))
  let ok := o.lanes.filter (fun x => (bad x).isNone && x.keep)
  let detail (e : EngErr) : Nat := s.failDetail e (s.mem.eccAt e.faddr)
  let tags := (ok.filter (·.tagged)).flatMap (fun x => s.taggedGranules T x.src x.dst 16)
  let lo := ok.foldl (fun m x => min m x.src) (2 ^ 56)
  let hi := ok.foldl (fun m x => max m (x.src + o.width)) 0
  let (line, s) := if ok.isEmpty then ([], s) else s.engRead lo (hi - lo)
  let data := ok.map (fun x => (x.dst, (line.drop (x.src - lo)).take o.width))
  let s := (data.foldl (fun s (d, bs) => s.engStore T.core d bs) s).setTags tags
  let s := (s.watchEng 1 T.core T.colour 0 (ok.map (fun x => (x.src, o.width)))).watchEng 1 T.core T.colour 1
    (ok.map (fun x => (x.dst, o.width)))
  let s := s.watchEng 1 T.core T.colour 3 ((fails.filter (fun f => f.2.cause != cECC && f.2.cause != cHOSTERR)).map (fun f => (f.2.faddr, o.width)))
  let fs : List CopyFail := match fails with
    | [] => []
    | (_, e) :: _ => [{ sheaf := o.sheaf, cause := e.cause, sub := e.sub, detail := detail e,
                        lanes := maskOfLanes (fails.map (·.1)) }]
  s.setGroup g { G with ops := G.ops.erase o, fails := G.fails ++ fs }

/-- The unit of work of a line operation. -/
def LineOp.work (o : LineOp) (g : Nat) : Work :=
  match o.lanes with
  | x :: _ => .line g o.cpl (x.src / 128) (x.dst / 128)
  | [] => .line g o.cpl 0 0

/-- A line operation of lane copies: the engine begins it in its turn (R303, R401), then performs it. -/
def execLineOperation (g n : Nat) (s : State) : Out1 :=
  match s.group g with
  | none => .refused .notEnabled
  | some G =>
    match G.ops[n]?, s.team G.team with
    | some o, some T =>
      if o.begun then .next (s.lineOp g G T o)
      else if !s.copyTurn T true then .refused .notEnabled
      else s.charged T.colour (o.work g) (o.width * o.lanes.length) (fun s =>
        (s.setCore T.core { s.core T.core with lineTurn := T.tslot, lineLast := true }).setGroup g
          { G with ops := G.ops.set n { o with begun := true } })
    | _, _ => .refused .notEnabled

end Sys2Proof.Machine
end

