-- ==== Sys2Proof/Machine/MatrixEvents.lean ====
section
/-! DEFINITION. The matrix unit and its tile fetch unit at work (R74, R75, R210 to R214, R314 to R321). -/

namespace Sys2Proof.Machine

/-! Tile descriptors (R210). -/

/-- A tile descriptor. -/
structure Tile where
  data : CapV
  scale : CapV
  pitch : Nat
  spitch : Nat
  cols : Nat
  rows : Nat
  ty : Nat
  ety : Nat
  deriving DecidableEq, Repr

/-- The descriptor in a block of 64 bytes. -/
def Blk.tile (b : Blk) : Tile :=
  { data := b.cap 0, scale := b.cap 1, pitch := b.get 287 256, spitch := b.get 319 288, cols := b.get 351 320,
    rows := b.get 367 352, ty := b.get 371 368, ety := b.get 373 372 }

/-- Whether TY is of the mx types with a valid ETY (R89, R150). -/
def Tile.isMx (d : Tile) : Bool := (mxElem d.ty d.ety).isSome
/-- Elements of a K-block (R74). -/
def Tile.blk (d : Tile) : Nat := if d.isMx then 32 else 16
/-- The bytes of n elements of a row from its start; n is a multiple of 32 for mx types, or is rounded up to one. -/
def Tile.rowBytes (d : Tile) (n : Nat) : Nat :=
  if d.ty = 1 then 4 * n
  else if d.isMx then cdiv n 32 * (4 * ((mxElem d.ty d.ety).map MxElem.width).getD 8) else 2 * n
/-- The hulls of DATA and SCALE over every row. -/
def Tile.extent (d : Tile) : Nat := if d.rows = 0 ∨ d.cols = 0 then 0 else (d.rows - 1) * d.pitch + d.rowBytes d.cols
/-- The rows of DATA and of SCALE: first byte and length of each. -/
def Tile.rowRuns (d : Tile) : List (Nat × Nat) :=
  (List.range d.rows).map (fun i => (d.data.cursor + i * d.pitch, d.rowBytes d.cols))
def Tile.scaleRuns (d : Tile) : List (Nat × Nat) :=
  (List.range d.rows).map (fun i => (d.scale.cursor + i * d.spitch, cdiv d.cols 32))
def Tile.scaleExtent (d : Tile) : Nat := if d.rows = 0 ∨ d.cols = 0 then 0 else (d.rows - 1) * d.spitch + cdiv d.cols 32

/-- A block of 64 bytes at its home, with its tags. -/
def Mem.homeBlk (m : Mem) (a : Nat) : Blk :=
  ⟨BitVec.ofNat 512 (leNat (m.homeRead a 64)),
   BitVec.ofNat 4 ((List.range 4).map (fun j => if m.homeTag (a / 16 + j) then 2 ^ j else 0)).sum⟩

/-- Whether DATA may name an address: HBM, a chip scratchpad or the team's own scratchpad (R210). -/
def tileRange (T : Team) (a n : Nat) : Bool :=
  match whereIs a with
  | .hbm => true
  | .chip _ => true
  | .scratch _ => T.scratch ≤ a && a + n ≤ T.scratch + T.scratchLen
  | _ => false

/-- A descriptor read through its capability: LD and EN over 64 bytes, 64-byte aligned (R210). -/
def State.readTile (s : State) (T : Team) (c : CapV) : Except EngErr Tile :=
  match firstFail [
    s.sideErr T c pLD 64,
    if c.cursor % 64 ≠ 0 then some ⟨cCAPABILITY, subBOUNDS, c.cursor⟩ else none,
    s.engRefusal T.colour c.cursor 64 false] with
  | some e => .error e
  | none => .ok (s.mem.homeBlk c.cursor).tile

/-- DATA and SCALE of a descriptor under R49 and R50, with the types that `ok` admits. -/
def State.tileErr (s : State) (T : Team) (d : Tile) (perms : Nat) (ok : Bool) : Option EngErr :=
  firstFail [
    if !ok then some ⟨cCAPABILITY, subFORM, 0⟩ else none,
    s.sideErr T d.data perms d.extent d.rowRuns,
    if !tileRange T d.data.cursor d.extent then some ⟨cCAPABILITY, subFORM, d.data.cursor⟩ else none,
    if d.isMx then s.sideErr T d.scale pLD d.scaleExtent d.scaleRuns else none]

/-- The region check of a descriptor's data (R375). -/
def tileRegionErr (T : Team) (d : Tile) (write : Bool) : Option EngErr :=
  firstFail [regionErr T d.data.cursor d.extent (if write then .write else .read),
    if d.isMx then regionErr T d.scale.cursor d.scaleExtent .read else none]

/-! Acceptance (R212, R213). -/

/-- KB, KOFF of an MMA. -/
def Cmd.kb (c : Cmd) : Nat := bitsOf c.blk.toNat 399 384
def Cmd.koff (c : Cmd) : Nat := bitsOf c.blk.toNat 447 416
/-- MC and NC are sizes. -/
def Cmd.sizeOk (c : Cmd) : Bool := bitsOf c.blk.toNat 369 368 != 3 && bitsOf c.blk.toNat 371 370 != 3

def formErr (b : Bool) : Option EngErr := if b then some ⟨cCAPABILITY, subFORM, 0⟩ else none
def boundsErr (b : Bool) : Option EngErr := if b then some ⟨cCAPABILITY, subBOUNDS, 0⟩ else none

/-- Whether ACC is a region held by the team, large enough. -/
def Cmd.accErr (c : Cmd) (T : Team) : Option EngErr :=
  boundsErr (!T.tiles.contains c.accUnits || (c.opc != 3 && 16384 * c.accUnits.2 < 4 * c.mRows * c.nCols))

/-- The checks of an MMA (R212). -/
def State.mmaErr (s : State) (T : Team) (c : Cmd) : Option EngErr :=
  match s.readTile T (c.block.cap 0) with
  | .error e => some e
  | .ok a => match s.readTile T (c.block.cap 1) with
    | .error e => some e
    | .ok b =>
      let known (d : Tile) : Bool := d.ty == 2 || d.ty == 3 || d.isMx
      let k := (c.koff + c.kb) * a.blk
      firstFail [
        s.tileErr T a pLD (known a), s.tileErr T b pLD (known b),
        formErr (!(a.isMx && b.isMx) && a.ty != b.ty),
        formErr (!c.sizeOk),
        boundsErr (c.kb = 0 || 8192 < c.kb * a.blk),
        boundsErr (a.rows < c.mRows || b.rows < c.nCols || a.cols < k || b.cols < k),
        c.accErr T,
        tileRegionErr T a false, tileRegionErr T b false]

/-- The checks of MZERO, MLOAD, MSTORE and MDRAIN (R213). -/
def State.tileCmdErr (s : State) (T : Team) (c : Cmd) : Option EngErr :=
  if c.opc = 3 then c.accErr T
  else if c.opc = 6 then firstFail [formErr (!c.sizeOk), c.accErr T, boundsErr (T.groups.length ≤ bitsOf c.blk.toNat 379 376)]
  else match s.readTile T (c.block.cap 0) with
    | .error e => some e
    | .ok d =>
      let ok : Bool := if c.opc = 4 then d.ty == 1 else 1 ≤ d.ty && d.ty ≤ 3
      firstFail [
        s.tileErr T d (if c.opc = 4 then pLD else pST) ok, formErr (!c.sizeOk),
        boundsErr (d.rows < c.mRows || d.cols < c.nCols), c.accErr T, tileRegionErr T d (c.opc == 5)]

/-- A command with the descriptors it was accepted with: 64 bytes each, under keys 0 and 1 of its parts. -/
def Cmd.keepDescs (c : Cmd) (m : Mem) : Cmd :=
  { c with parts := [(0, m.homeRead (c.block.cap 0).cursor 64), (1, m.homeRead (c.block.cap 1).cursor 64)] }
/-- Descriptor j of an accepted command. -/
def Cmd.desc (c : Cmd) (j : Nat) : Tile := (⟨BitVec.ofNat 512 (leNat ((Tbl.get c.parts j).getD [])), 0⟩ : Blk).tile

/-- A matrix command accepted, its record written; MSTORE sets the written bits of its region (R377), an MDRAIN to a
retired group ends at once (R321). -/
def State.acceptMatrix (s : State) (t : Nat) (T : Team) (c : Cmd) : State :=
  match (if c.opc = 2 then s.mmaErr T c else s.tileCmdErr T c) with
  | some e => s.failCmd t 1 c e (s.mem.eccAt e.faddr)
  | none =>
    if c.opc = 6 then (if s.grpLive T (bitsOf c.blk.toNat 379 376) then s else s.endCmd t 1 c 6)
    else if c.opc = 3 then s
    else
      let c := c.keepDescs s.mem
      (if c.opc = 5 then s.markHull T (c.desc 0).data.cursor (c.desc 0).extent else s).noteCmd t 1 c

/-! The stages of the unit (R303, R314). -/

/-- A command whose work in the unit is not over: an MDRAIN's is once its last row is staged. -/
def Cmd.inUnit (c : Cmd) : Bool := c.accepted && c.status == 1 && c.fin == 0 && !(c.opc == 6 && c.rows == c.drainRows)
/-- A team's oldest unfinished command, which alone acts on the tile store. -/
def Team.unitNext (T : Team) : Option Cmd := (T.chain 1).cmds.find? Cmd.inUnit
/-- K-blocks fetched and not yet consumed. -/
def Cmd.blocksHeld (c : Cmd) : Nat := c.parts.length / 2 - 1
/-- Whether the fetch stage is a command's: every earlier command of its chain is done, or the one before it has fetched
all that it needs. -/
def Team.fetchTurn (T : Team) (c : Cmd) : Bool :=
  match (T.chain 1).cmds.filter (fun x => x.inUnit && seqBefore x.seq c.seq) with
  | [] => true
  | [x] => x.opc != 2 || x.kb ≤ x.done + x.blocksHeld
  | _ => false

/-- The word of element (i, j) of a command's region. -/
def tileWord (core : Nat) (c : Cmd) (i j : Nat) : Nat := core * 131072 + 4096 * c.accUnits.1 + i * c.nCols + j

/-- Words of the tile store written from an index. -/
def putWords (t : Store 32) (a : Nat) : List Nat → Store 32
  | [] => t
  | x :: r => putWords (Store.write t a (BitVec.ofNat 32 x)) (a + 1) r

/-! Fetch (R212, R315). -/

/-- What the gate of an MMA answers: open, waits, completes TAGFAIL, faults with its owner. -/
inductive Gate where
  | opened
  | shut
  | tagfail
  | fault (c : Cmd)
  deriving DecidableEq, Repr

def State.gate (s : State) (T : Team) (c : Cmd) (free : Nat) : Gate :=
  let b := c.blk.toNat
  if !bitAt b 349 || c.sent.contains 0 then .opened
  else
    let bmo := bitsOf b 348 336
    let clear := s.chunksClear T bmo (bitsOf b 335 320) (bitsOf b 319 256) free
    match T.owner bmo with
    | some x => if x.status = 4 then .fault x else if clear = 0 then .opened else if x.complete then .tagfail else .shut
    | none => if clear = 0 then .opened else .shut

/-- The runs of bytes of a K-block of one operand: for each row its elements, and for mx types its scale byte. -/
def Tile.blockRuns (d : Tile) (rows k : Nat) : List (Nat × Nat) :=
  (List.range rows).flatMap (fun i =>
    (d.data.cursor + i * d.pitch + d.rowBytes (k * d.blk), d.rowBytes d.blk) ::
      (if d.isMx then [(d.scale.cursor + i * d.spitch + k, 1)] else []))

/-! Pins (R315 to R317, R417). -/

/-- The slice and the set of a line. -/
def wayOf (line : Nat) : Nat × Nat := (sliceOf line, Config.l2Set line % 1024)
/-- Whether lines of a colour lie in the protected ways (R416). -/
def State.protWays (s : State) (colour : Nat) : Bool := (s.colour colour).prot && (s.colour colour).keyed
/-- The pinned ways of a set that a line of the ways `prot` counts with, and how many may be pinned: 4 in all, and of the
protected ones at most PWAYS. -/
def State.pinsAt (s : State) (line : Nat) (prot : Bool) : Nat × Nat :=
  let ps := s.mem.pins.filter (fun p => wayOf p.line == wayOf line)
  if prot && s.sec.pways < 4 then ((ps.filter (·.prot)).length, s.sec.pways) else (ps.length, 4)
/-- The HBM lines of runs of bytes. -/
def runLines (rs : List (Nat × Nat)) : List Nat :=
  (rs.flatMap (fun (a, n) => if a < hbmTop ∧ n ≠ 0 then
    (List.range ((a + n - 1) / 128 - a / 128 + 1)).map (· + a / 128) else [])).eraseDups
/-- Whether a fetch of lines would need a further pinned way in a set whose ways other pins fill. -/
def State.pinShort (s : State) (prot : Bool) (ls : List Nat) : Bool :=
  ls.any (fun l =>
    let new := ls.filter (fun x => wayOf x == wayOf l && !s.mem.pins.any (·.line == x))
    let full (q : Nat × Nat) : Bool := q.1 != 0 && q.2 < q.1 + new.length
    !new.isEmpty && (full (s.pinsAt l false) || (prot && full (s.pinsAt l true))))
/-- A line pinned for a holder, where the set has room. -/
def State.pin (s : State) (prot : Bool) (h : Nat × Nat × Nat) (l : Nat) : State :=
  let room (q : Nat × Nat) : Bool := q.1 < q.2
  if s.mem.pins.any (·.line == l) then
    { s with mem := { s.mem with pins := s.mem.pins.map (fun p => if p.line = l then { p with holders := p.holders ++ [h] } else p) } }
  else if room (s.pinsAt l false) && (!prot || room (s.pinsAt l true)) then
    { s with mem := { s.mem with pins := s.mem.pins ++ [{ line := l, prot := prot, holders := [h] }] } }
  else s
/-- The lines of a K-block that a command fetches next. -/
def Cmd.blockLines (c : Cmd) (k : Nat) : List Nat :=
  runLines ((c.desc 0).blockRuns c.mRows (c.koff + k) ++ (c.desc 1).blockRuns c.nCols (c.koff + k))
/-- Whether a waiting fetch is a command's next. -/
def State.waitingFetch (s : State) (h : Nat × Nat × Nat) : Option Cmd :=
  match s.atWork h.1 1 h.2.1 with
  | some (_, c) => if c.done + c.blocksHeld = h.2.2 then some c else none
  | none => none
/-- Whether a fetch waits for a pin: a set is short, or an earlier fetch waits at one of its slices. -/
def State.pinWaits (s : State) (h : Nat × Nat × Nat) (prot : Bool) (ls : List Nat) : Bool :=
  s.pinShort prot ls || (s.mem.pinQ.takeWhile (· != h)).any (fun q => match s.waitingFetch q with
    | some c => (c.blockLines q.2.2).any (fun l => ls.any (fun x => sliceOf x == sliceOf l))
    | none => false)

/-! Lines of B tiles shared in a cluster (R317). -/

/-- A whole line read for a core's B tile: the value that the slice sent to another core of the cluster within 64 cycles, or
a new reading. -/
def State.sharedLine (s : State) (core colour l : Nat) : List Byte × State :=
  let mine (x : SharedLine) : Bool := x.line == l && x.cluster == core / 8 && x.colour == colour
  match s.mem.shared.find? (fun x => mine x && s.clock ≤ x.at_ + 64 && !x.cores.contains core) with
  | some x =>
    (x.data, { s with mem := { s.mem with shared := s.mem.shared.map (fun y => if y = x then { y with cores := y.cores ++ [core] } else y) } })
  | none =>
    let d := s.mem.homeRead (128 * l) 128
    (d, { s with mem := { s.mem with shared := s.mem.shared.filter (fun x => !mine x && s.clock ≤ x.at_ + 64) ++
      [{ line := l, cluster := core / 8, colour := colour, cores := [core], at_ := s.clock, data := d }] } })
/-- Lines read, each with its number. -/
def State.sharedLines (s : State) (core colour : Nat) : List Nat → List (Nat × List Byte) × State
  | [] => ([], s)
  | l :: r =>
    let (d, s) := s.sharedLine core colour l
    let (ds, s) := s.sharedLines core colour r
    ((l, d) :: ds, s)
/-- The bytes of a run that lies in lines read. -/
def cutLines (ds : List (Nat × List Byte)) (a n : Nat) : List Byte :=
  (List.range n).map (fun j => (((ds.lookup ((a + j) / 128)).getD [])[(a + j) % 128]?).getD 0)
/-- The bytes of the runs of a B tile. -/
def State.tileReads (s : State) (core colour : Nat) (rs : List (Nat × Nat)) : List Byte × State :=
  if rs.all (fun r => r.1 < hbmTop) then
    let (ds, s) := s.sharedLines core colour (runLines rs)
    (rs.flatMap (fun (a, n) => cutLines ds a n), s)
  else s.engReads rs

/-- The next K-block fetched, both operands, and its lines pinned (R315, R316). -/
def State.fetchBlock (s : State) (t : Nat) (T : Team) (c : Cmd) : State :=
  let k := c.done + c.blocksHeld
  let ra := (c.desc 0).blockRuns c.mRows (c.koff + k)
  let rb := (c.desc 1).blockRuns c.nCols (c.koff + k)
  match s.runsRefusal T.colour false (ra ++ rb) with
  | some e => s.runsFail t 1 2 T c e
  | none =>
    let (xa, s) := s.engReads ra
    let (xb, s) := s.tileReads T.core T.colour rb
    let h := (t, c.seq.toNat, k)
    let s := { s with mem := { s.mem with pinQ := s.mem.pinQ.filter (· != h) } }
    let s := (c.blockLines k).foldl (fun s l => s.pin (s.protWays T.colour) h l) s
    let s := s.watchEng 2 T.core T.colour 0 (ra ++ rb)
    s.noteCmd t 1 { c with sent := [0], parts := Tbl.set (Tbl.set c.parts (2 * k + 2) xa) (2 * k + 3) xb }

def execTileFetch (t n : Nat) (s : State) : Out1 :=
  match s.atWork t 1 n with
  | none => .refused .notEnabled
  | some (T, c) =>
    if c.opc ≠ 2 ∨ T.halt ∨ !T.fetchTurn c ∨ c.kb ≤ c.done + c.blocksHeld ∨ 2 ≤ c.blocksHeld then .refused .notEnabled
    else
      let (x, s) := s.draw
      match s.gate T c x with
      | .opened =>
        let h := (t, c.seq.toNat, c.done + c.blocksHeld)
        if !s.pinWaits h (s.protWays T.colour) (c.blockLines h.2.2) then .next (s.fetchBlock t T c)
        else if s.mem.pinQ.contains h then .refused .notEnabled
        else .next { s with mem := { s.mem with pinQ := s.mem.pinQ ++ [h] } }
      | .shut => .refused .notEnabled
      | .tagfail => .next (s.endCmd t 1 c 3)
      | .fault o => .next (s.faultCmd t 1 c o.cause o.sub o.detail 0)

/-! The unit's choice (R303). -/

/-- Whether a team's oldest unfinished command waits: on its gate, on drain-buffer space, on pins. -/
def State.unitWaits (s : State) (t : Nat) (T : Team) (c : Cmd) : Bool :=
  if c.opc = 2 then s.gate T c s.draw.1 == .shut || (c.blocksHeld == 0 && s.mem.pinQ.any (fun h => h.1 == t && h.2.1 == c.seq.toNat))
  else c.opc == 6 && (match (T.groups[bitsOf c.blk.toNat 379 376]?).bind s.group with
    | some G => 4 ≤ G.drain.length
    | none => false)
/-- Whether a team has a command for the matrix unit that does not wait. -/
def State.unitReady (s : State) (t : Nat) (T : Team) : Bool :=
  !T.halt && T.unitNext.any (fun c => !s.unitWaits t T c)
/-- The command in the arithmetic stage, unless it has ended or waits. -/
def State.unitHeld (s : State) (core : Nat) : Option (Nat × Word) :=
  (s.core core).mxBusy.filter (fun (t, n) => (s.team t).any (fun T => s.unitReady t T && T.unitNext.any (fun c => c.seq == n)))
/-- Whether the matrix unit works for a command: its team's oldest unfinished one, in the arithmetic stage already or, at a
command boundary, the next in rotation. -/
def State.unitTurn (s : State) (t : Nat) (T : Team) (c : Cmd) : Bool :=
  !T.halt && T.unitNext.any (fun x => x.seq == c.seq) && (match s.unitHeld T.core with
    | some h => h == (t, c.seq)
    | none => nextTurn (s.core T.core).mxTurn (s.slotsWith T.core s.unitReady) == some T.tslot)
/-- The unit at work for a command. -/
def State.unitFor (s : State) (t : Nat) (T : Team) (c : Cmd) : State :=
  s.setCore T.core { s.core T.core with mxTurn := T.tslot, mxBusy := some (t, c.seq) }

/-! Arithmetic (R74, R75). -/

/-- The i-th of equal parts of a byte list. -/
def partOf (bs : List Byte) (w i : Nat) : List Byte := (bs.drop (i * w)).take w

/-- The values of a K-block of one row, scaled for mx types (R71, R74). -/
def Tile.elems (d : Tile) (bs : List Byte) : List FVal :=
  match mxElem d.ty d.ety with
  | some e =>
    let w := e.width
    let x := leNat (bs.take (4 * w))
    let S := leNat (bs.drop (4 * w))
    (List.range 32).map (fun i => e.scaled S (x / 2 ^ (w * i) % 2 ^ w))
  | none => (List.range 16).map (fun i => ((fmtOf d.ty).getD f16).decode (leNat (partOf bs 2 i)))

/-- The exact sum of the products of two blocks and the invalid flag (R74). -/
def dotExact (a b : List FVal) : FVal × Nat :=
  match (a.zip b).map (fun (x, y) => x.mul y) with
  | [] => (.num false 0 0, 0)
  | p :: ps => ps.foldl (fun acc q => let (v, f) := acc.1.add 0 q.1; (v, acc.2 ||| q.2 ||| f)) p

/-- One accumulator element after one block: t rounded once, then added (R74). -/
def mmaStep (acc : Nat) (a b : List FVal) : Nat × Nat :=
  let (v, f1) := dotExact a b
  let (t, f2) := v.pack f32 0 false
  let (r, f3) := fadd f32 0 acc t
  (r, f1 ||| f2 ||| f3)

/-- The bytes of one row of a K-block as fetched. -/
def Tile.partBytes (d : Tile) : Nat := d.rowBytes d.blk + (if d.isMx then 1 else 0)

/-- The products of the oldest K-block added to the region: words in row order, and the flags raised. -/
def State.mmaWords (s : State) (T : Team) (c : Cmd) (xa xb : List Byte) : List Nat × Nat :=
  let (a, b) := (c.desc 0, c.desc 1)
  let rows := (List.range c.mRows).map (fun i => a.elems (partOf xa a.partBytes i))
  let cols := (List.range c.nCols).map (fun j => b.elems (partOf xb b.partBytes j))
  let out := rows.zipIdx.flatMap (fun (ra, i) => cols.zipIdx.map (fun (cb, j) =>
    mmaStep (Store.read s.mem.tile (tileWord T.core c i j)).toNat ra cb))
  (out.map (·.1), out.foldl (fun f x => f ||| x.2) 0)

def execMmaKblock (t n : Nat) (s : State) : Out1 :=
  match s.atWork t 1 n with
  | none => .refused .notEnabled
  | some (T, c) =>
    match Tbl.get c.parts (2 * c.done + 2), Tbl.get c.parts (2 * c.done + 3) with
    | some xa, some xb =>
      if c.opc ≠ 2 ∨ !s.unitTurn t T c then .refused .notEnabled
      else
        let (ws, fl) := s.mmaWords T c xa xb
        let s := s.unitFor t T c
        let s := { s with mem := { s.mem.unpin (· == (t, c.seq.toNat, c.done)) with tile := putWords s.mem.tile (tileWord T.core c 0 0) ws } }
        let c := { c with done := c.done + 1, mfl := c.mfl ||| fl,
                          parts := Tbl.keep c.parts (fun k => k < 2 || 2 * c.done + 4 ≤ k) }
        .next (if c.done = c.kb then s.endCmd t 1 c 2 else s.noteCmd t 1 c)
    | _, _ => .refused .notEnabled

/-! MZERO, MLOAD, MSTORE by rows (R213, R318). A region is zeroed in 64 parts. -/

/-- A row is done. -/
def State.rowDone (s : State) (t : Nat) (c : Cmd) : State :=
  let c := { c with done := c.done + 1 }
  if c.done = c.mRows then s.endCmd t 1 c 2 else s.noteCmd t 1 c

/-- One row of MLOAD or MSTORE. SAT clamps an infinity on an f32 target too (DESIGN CHOICE, log 34). -/
def State.tileRow (s : State) (t : Nat) (T : Team) (c : Cmd) : State :=
  let d := c.desc 0
  let i := c.done
  let a := d.data.cursor + i * d.pitch
  let n := d.rowBytes c.nCols
  match s.runsRefusal T.colour (c.opc == 5) [(a, n)] with
  | some e => s.runsFail t 1 2 T c e
  | none =>
    if c.opc = 4 then
      let (bs, s) := s.engRead a n
      let ws := (List.range c.nCols).map (fun j => leNat (partOf bs 4 j))
      let s := { s with mem := { s.mem with tile := putWords s.mem.tile (tileWord T.core c i 0) ws } }
      (s.watchEng 2 T.core T.colour 0 [(a, n)]).rowDone t c
    else
      let F := (fmtOf d.ty).getD f32
      let xs := (List.range c.nCols).map (fun j =>
        (f32.decode (Store.read s.mem.tile (tileWord T.core c i j)).toNat).convert F 0 (bitAt c.blk.toNat 380))
      let s := s.engStore T.core a (xs.flatMap (fun x => leBytes (F.width / 8) x.1))
      (s.watchEng 2 T.core T.colour 1 [(a, n)]).rowDone t { c with mfl := xs.foldl (fun f x => f ||| x.2) c.mfl }

def execTileStoreRowOperation (t n : Nat) (s : State) : Out1 :=
  match s.atWork t 1 n with
  | none => .refused .notEnabled
  | some (T, c) =>
    if c.opc < 3 ∨ 5 < c.opc ∨ !s.unitTurn t T c then .refused .notEnabled
    else if c.opc = 3 then
      let s := s.unitFor t T c
      let w := 64 * c.accUnits.2
      let a := tileWord T.core c 0 0 + w * c.done
      .next (({ s with mem := { s.mem with tile := Store.clear s.mem.tile a (a + w) } } : State).rowDone t c)
    else .next ((s.unitFor t T c).tileRow t T c)

/-! Drain rows (R319 to R321). -/

/-- Drain row r of a stream: element (i, 96s + L) in lane L, +0 beyond N. -/
def State.drainRowOf (s : State) (T : Team) (c : Cmd) (r : Nat) : Row :=
  let q := cdiv c.nCols 96
  (List.range laneCount).map (fun l =>
    let j := 96 * (r % q) + l
    if j < c.nCols then Store.read s.mem.tile (tileWord T.core c (r / q) j) else 0)

def execDrainRowStaging (t n : Nat) (s : State) : Out1 :=
  match s.atWork t 1 n with
  | none => .refused .notEnabled
  | some (T, c) =>
    let grp := bitsOf c.blk.toNat 379 376
    match T.groups[grp]?, (T.groups[grp]?).bind s.group with
    | some g, some G =>
      if c.opc ≠ 6 ∨ !s.unitTurn t T c ∨ 4 ≤ G.drain.length ∨ c.rows = c.drainRows then .refused .notEnabled
      else
        let s := (s.unitFor t T c).setGroup g { G with drain := G.drain ++ [{ seq := c.seq, row := s.drainRowOf T c c.rows }] }
        .next (s.noteCmd t 1 { c with rows := c.rows + 1 })
    | _, _ => .refused .notEnabled

end Sys2Proof.Machine
end

