-- ==== Sys2Proof/Machine/CollEvents.lean ====
section
/-! DEFINITION. The collective engine at work (R215, R216, R322 to R327). Elements move in pieces: the part of a 64 KiB
unit that one member owns (log 18). -/

namespace Sys2Proof.Machine

/-! Fields and pieces (R215, R322, R324, R325). -/

def Cmd.hb (c : Cmd) : Nat := bitsOf c.blk.toNat 344 336
def Cmd.sw (c : Cmd) : Bool := bitAt c.blk.toNat 328
def Cmd.collOp (c : Cmd) : Nat := bitsOf c.blk.toNat 327 320
def Cmd.rank (c : Cmd) : Nat := bitsOf c.blk.toNat 319 304
def Cmd.members (c : Cmd) : Nat := bitsOf c.blk.toNat 303 288
def Cmd.nelem (c : Cmd) : Nat := bitsOf c.blk.toNat 287 256
/-- Element size. -/
def Cmd.esize (c : Cmd) : Nat := if (c.desc 0).ty = 1 then 4 else 2
/-- The reducing operations. -/
def Cmd.reduces (c : Cmd) : Bool := c.collOp < 3 || c.collOp == 4
/-- Elements of a rerun unit. -/
def Cmd.perUnit (c : Cmd) : Nat := 65536 / c.esize
/-- Units of n elements. -/
def Cmd.unitCount (c : Cmd) : Nat := cdiv c.nelem c.perUnit
/-- Elements of a chunk (R324). -/
def Cmd.chunkLen (c : Cmd) : Nat := 128 * cdiv (cdiv c.nelem c.members) 128

/-- The number of a piece: unit u, owner s. -/
def pieceId (u s : Nat) : Nat := u * 16384 + s
def pieceUnit (p : Nat) : Nat := p / 16384
def pieceOwner (p : Nat) : Nat := p % 16384

/-- The elements [lo, hi) of a piece, in the operand of the member that holds it. -/
def Cmd.pieceRange (c : Cmd) (p : Nat) : Nat × Nat :=
  let (u, s) := (pieceUnit p, pieceOwner p)
  let lo := u * c.perUnit
  let hi := min c.nelem (lo + c.perUnit)
  if c.reduces then (max lo (s * c.chunkLen), min hi ((s + 1) * c.chunkLen))
  else if c.collOp = 3 then (s * c.nelem + lo, s * c.nelem + hi)
  else (lo, hi)

/-- Bytes of a piece. -/
def Cmd.pieceBytes (c : Cmd) (p : Nat) : Nat := let (lo, hi) := c.pieceRange p; (hi - lo) * c.esize

/-- Every piece of a command that holds an element. -/
def Cmd.pieces (c : Cmd) : List Nat :=
  (List.range c.unitCount).flatMap (fun u =>
    ((if c.collOp = 5 then [0] else List.range c.members).map (pieceId u)).filter (fun p => c.pieceBytes p != 0))

/-- The pieces that a member's operand receives. -/
def Cmd.due (c : Cmd) : List Nat :=
  c.pieces.filter (fun p =>
    if c.collOp = 4 then pieceOwner p == c.rank
    else if c.collOp = 3 then pieceOwner p != c.rank
    else if c.collOp = 5 then c.rank != 0 else true)

/-- The number under which a message is recorded as sent: a piece to a member, or a unit to the switch. -/
def toMember (p r : Nat) : Nat := p * 16384 + r
def toSwitch (u : Nat) : Nat := 2 ^ 60 + u
/-- A unit handed to the switch (R325), and one that the switch lost (R326). -/
def Cmd.switched (c : Cmd) (u : Nat) : Bool := c.sent.contains (toSwitch u)
/-- A unit that the switch lost, which the members reduce among themselves (R326). -/
def lostUnit (u : Nat) : Nat := 2 ^ 61 + u
/-- The message unit number that names the switch. -/
def swUnit (u : Nat) : Nat := 2 ^ 40 + u

/-- The members that the owner of a piece sends to: the result of a reduction, or its own part. -/
def Cmd.fanOut (c : Cmd) : List Nat :=
  if c.collOp = 4 then [] else (List.range c.members).filter (· != c.rank)

/-- Messages that a member still has to send for a piece. -/
def Cmd.toSend (c : Cmd) (p : Nat) : List Nat :=
  if c.reduces ∧ c.switched (pieceUnit p) then []
  else if pieceOwner p ≠ c.rank then (if c.reduces ∧ !c.sent.contains (toMember p (pieceOwner p)) then [pieceOwner p] else [])
  else c.fanOut.filter (fun r => !c.sent.contains (toMember p r))

/-- Whether a member has sent its own contribution of a unit (R327). -/
def Cmd.given (c : Cmd) (u : Nat) : Bool :=
  c.switched u || (c.pieces.filter (fun p => pieceUnit p == u)).all (fun p =>
    if c.reduces then c.sent.contains (toMember p (pieceOwner p)) else pieceOwner p != c.rank || (c.toSend p).isEmpty)

/-- OP, MCNT, NELEM and TY. -/
def Cmd.kind (c : Cmd) : CollKind := { op := c.collOp, mcnt := c.members, nelem := c.nelem, ty := (c.desc 0).ty }
/-- A member's entry of MTAB. -/
def Cmd.member (c : Cmd) (r : Nat) : CapV :=
  let x := (c.mtab[r]?).getD 0
  ⟨BitVec.ofNat 128 x, bitAt x 128⟩
/-- Where a piece lies under a member's entry of MTAB (DEDUCED, log 18), and for a refusal under its owner's. -/
def Cmd.memberAt (c : Cmd) (r p : Nat) : Nat := (c.member r).cursor + (c.pieceRange p).1 * c.esize
def Cmd.peerAt (c : Cmd) (p : Nat) : Nat := c.memberAt (pieceOwner p) p

/-- A collective with nothing left to send or to receive. -/
def Cmd.collFinished (c : Cmd) : Bool :=
  c.due.all (fun p => c.units.contains p) &&
  (if c.collOp = 5 && c.rank != 0 then true else c.pieces.all (fun p => (c.toSend p).isEmpty))

/-! The local operand (R322). -/

/-- The runs of bytes of elements [lo, hi): row-major order over the descriptor. -/
def Tile.elemRuns (d : Tile) (z : Nat) : Nat → Nat → Nat → List (Nat × Nat)
  | 0, _, _ => []
  | fuel + 1, lo, hi =>
    if hi ≤ lo ∨ d.cols = 0 then []
    else
      let n := min (d.cols - lo % d.cols) (hi - lo)
      (d.data.cursor + lo / d.cols * d.pitch + lo % d.cols * z, n * z) :: d.elemRuns z fuel (lo + n) hi

/-- The runs of elements of a command's operand. -/
def Cmd.opRuns (c : Cmd) (lo hi : Nat) : List (Nat × Nat) := (c.desc 0).elemRuns c.esize (hi - lo) lo hi

/-- The part of a range of elements that a unit's bytes hold, cut out of them. -/
def cutBytes (z base lo hi : Nat) (bs : List Byte) : List Byte := (bs.drop ((lo - base) * z)).take ((hi - lo) * z)

/-! Acceptance (R216, R322). -/

/-- The checks of the member table. -/
def State.mtabErr (s : State) (T : Team) (c : Cmd) : Option EngErr :=
  let tab := c.block.cap 1
  let a := tab.cursor
  match firstFail [s.sideErr T tab pLD (16 * c.members), boundsErr (a % 16 != 0),
      s.engRefusal T.colour a (16 * c.members) false] with
  | some e => some e
  | none => firstFail ((List.range c.members).map (fun r =>
      if r = c.rank then none
      else
        let x : CapV := ⟨BitVec.ofNat 128 (leNat (s.mem.homeRead (a + 16 * r) 16)), s.mem.homeTag (a / 16 + r)⟩
        s.peerErr T x pST 0))

/-- The checks of a COLL. The operand is read and written in place (R373). -/
def State.collErr (s : State) (T : Team) (c : Cmd) : Option EngErr :=
  match firstFail [formErr (5 < c.collOp), boundsErr (c.members ≤ c.rank || 16384 < c.members)] with
  | some e => some e
  | none => match s.readTile T (c.block.cap 0) with
    | .error e => some e
    | .ok d =>
      firstFail [
        formErr (!(1 ≤ d.ty && d.ty ≤ 3)),
        s.sideErr T d.data (pLD ||| pST) d.extent d.rowRuns,
        if !tileRange T d.data.cursor d.extent then some ⟨cCAPABILITY, subFORM, d.data.cursor⟩ else none,
        boundsErr (d.rows * d.cols < c.nelem * (if c.collOp = 3 then c.members else 1)),
        s.mtabErr T c,
        regionErr T d.data.cursor d.extent .read,
        regionErr T d.data.cursor d.extent .write]

/-- The entries of MTAB in rank order, each with its tag as bit 128; the own entry is not used. -/
def State.memberCaps (s : State) (c : Cmd) : List Nat :=
  let a := (c.block.cap 1).cursor
  (List.range c.members).map (fun r =>
    leNat (s.mem.homeRead (a + 16 * r) 16) + (if s.mem.homeTag (a / 16 + r) then 2 ^ 128 else 0))

/-- A collective ends FAULT and the other members learn of it (R327). -/
def State.collFail (s : State) (t : Nat) (c : Cmd) (e : EngErr) : State :=
  let s := s.failCmd t 2 { c with phase := s.collPhase t c, endNo := s.waitNo } e (s.mem.eccAt e.faddr)
  ((List.range c.mtab.length).filter (· != c.rank)).foldl (fun s r =>
    s.send (.abortNotice (c.member r).dest t c.seq.toNat e.cause e.sub)) s

/-- The end of a collective that has nothing left to do. -/
def State.collEnd (s : State) (t : Nat) (c : Cmd) : State :=
  if c.status = 1 ∧ c.fin = 0 ∧ c.collFinished then s.endCmd t 2 { c with phase := s.collPhase t c } 2 else s.noteCmd t 2 c

/-- A COLL accepted: descriptor and members' devices are kept. -/
def State.acceptColl (s : State) (t : Nat) (T : Team) (c : Cmd) : State :=
  match s.collErr T c with
  | some e => s.collFail t { c with mtab := if c.members ≤ 16384 then s.memberCaps c else [] } e
  | none =>
    let c := { c.keepDescs s.mem with mtab := s.memberCaps c }
    let d := c.desc 0
    (s.markHull T d.data.cursor d.extent).collEnd t c

/-! Combination (R323). -/

/-- One combination of two elements (R136, R137): canonical NaNs, rn, no flag kept. -/
def Cmd.combine (c : Cmd) (x y : Nat) : Nat :=
  let F := (fmtOf (c.desc 0).ty).getD f32
  if c.collOp = 1 then (fminmax false F 0 x y).1 else if c.collOp = 2 then (fminmax true F 0 x y).1 else (fadd F 0 x y).1

/-- One level of the tree: adjacent results, the lower on the left, an odd one passed on. -/
def pairUp (f : Nat → Nat → Nat) : List Nat → List Nat
  | x :: y :: r => f x y :: pairUp f r
  | l => l

/-- Levels until one value remains; 14 levels cover 16,384 ranks. -/
def treeOf (f : Nat → Nat → Nat) : Nat → List Nat → List Nat
  | 0, l => l
  | n + 1, l => treeOf f n (pairUp f l)

/-- The combination of one element over every rank. -/
def Cmd.treeElem (c : Cmd) (xs : List Nat) : Nat := ((treeOf c.combine 14 xs).head?).getD 0

/-- The combined piece from the members' bytes in rank order. -/
def Cmd.combined (c : Cmd) (parts : List (List Byte)) (n : Nat) : List Byte :=
  (List.range n).flatMap (fun e => leBytes c.esize (c.treeElem (parts.map (fun bs => leNat (partOf bs c.esize e)))))

/-! Messages. -/

/-- The key of a member's contribution to a piece among the parts held. -/
def partKey (p r : Nat) : Nat := 2 + toMember p r
/-- The key of a unit's own elements kept from a send to the switch, for a rerun (R326). -/
def keptKey (u : Nat) : Nat := 2 ^ 61 + u
/-- The formed result of an owned piece. -/
def Cmd.result (c : Cmd) (p : Nat) : Option (List Byte) := Tbl.get c.parts (2 ^ 62 + p)

/-- The bytes of elements of the own operand, as they stood before any result of their unit was written. -/
def State.ownBytes (s : State) (T : Team) (c : Cmd) (u lo hi : Nat) : Except EngErr (List Byte × State) :=
  match Tbl.get c.parts (keptKey u) with
  | some bs => .ok (cutBytes c.esize (u * c.perUnit) lo hi bs, s)
  | none =>
    let rs := c.opRuns lo hi
    match s.runsRefusal T.colour false rs with
    | some e => .error e
    | none => .ok ((s.engReads rs).1, (s.engReads rs).2.watchEng 3 T.core T.colour 0 rs)

/-- Result bytes written to the own operand: DONE and the barrier's bytes grow (R216, R322); a piece already delivered is
not written again (R326). -/
def State.deliver (s : State) (t : Nat) (T : Team) (c : Cmd) (p : Nat) (bs : List Byte) : Except EngErr (Cmd × State) :=
  if c.units.contains p then .ok (c, s)
  else
    let (lo, hi) := c.pieceRange p
    let rs := c.opRuns lo hi
    match s.runsRefusal T.colour true rs with
    | some e => .error e
    | none =>
      let s := (s.engStores T.core rs bs).watchEng 3 T.core T.colour 1 rs
      let c := { c with units := c.units ++ [p], done := c.done + bs.length }
      let s := s.noteCmd t 2 c
      .ok (c, s.arrive T.core c.hb 0 bs.length)

/-- Own results of a unit that are formed and not yet written, written once the unit's own contribution has been sent
(R327). -/
def State.deliverFormed (t : Nat) (T : Team) (u : Nat) : List Nat → Cmd → State → Except EngErr (Cmd × State)
  | [], c, s => .ok (c, s)
  | p :: ps, c, s =>
    match c.result p with
    | some out =>
      if c.given u then
        match s.deliver t T c p out with
        | .error e => .error e
        | .ok (c, s) => State.deliverFormed t T u ps c s
      else .ok (c, s)
    | none => State.deliverFormed t T u ps c s

/-- The pieces of a unit that a member's operand receives. -/
def Cmd.unitPieces (c : Cmd) (u : Nat) : List Nat := c.due.filter (fun p => pieceUnit p == u)

/-- A contribution held by the piece's owner; once every rank's is there the result is formed, and written when it may be. -/
def State.contribute (s : State) (t : Nat) (T : Team) (c : Cmd) (p r : Nat) (bs : List Byte) : Except EngErr (Cmd × State) :=
  let c := { c with parts := Tbl.set c.parts (partKey p r) bs }
  let got := (List.range c.members).filterMap (fun j => Tbl.get c.parts (partKey p j))
  if got.length < c.members then .ok (c, s)
  else
    let out := c.combined got ((c.pieceBytes p) / c.esize)
    let c := { c with parts := Tbl.set (Tbl.keep c.parts (fun k => !(partKey p 0 ≤ k && k < partKey p 16384))) (2 ^ 62 + p) out }
    State.deliverFormed t T (pieceUnit p) [p] c s

/-- The request of a message to a member (R47, R322): its entry of MTAB and a write of the piece. -/
def Cmd.peerReq (c : Cmd) (r p : Nat) (bs : List Byte) : PeerReq :=
  { cap := (c.member r).bits, tag := (c.member r).tag, write := true, runs := [(c.memberAt r p, bs.length)], data := bs,
    coll := some c.kind }

/-- The end of a message: the command as it stands, or its failure. -/
def State.collStep (s : State) (t : Nat) (c : Cmd) : Except EngErr (Cmd × State) → State
  | .error e => s.collFail t c e
  | .ok (c, s) => s.collEnd t c

/-- An own message is sent, after its charge (R401). -/
def State.collSend (s : State) (t : Nat) (T : Team) (c : Cmd) (p r : Nat) (src : Except EngErr (List Byte × State)) (kind : Nat) :
    State :=
  match src with
  | .error e => s.collFail t c e
  | .ok (bs, s) =>
    let note := { c with sent := c.sent ++ [toMember p r] }
    let rest (x : Except EngErr (Cmd × State)) : Except EngErr (Cmd × State) :=
      match x with
      | .ok (c, s) => State.deliverFormed t T (pieceUnit p) (c.unitPieces (pieceUnit p)) c s
      | .error e => .error e
    if r = c.rank then s.collStep t note (rest (s.contribute t T note p r bs))
    else match s.sendPeer (c.member r).dest t c.seq.toNat (kind * 2 ^ 60 + p) (c.peerReq r p bs) with
      | some s => s.collStep t note (rest (.ok (note, s)))
      | none => s.collFail t c (linkErr 0)

/-- A COLL that runs, or one complete whose elements a rerun still asks for (R326). -/
def State.collAtWork (s : State) (t n : Nat) : Option (Team × Cmd) :=
  match s.team t with
  | none => none
  | some T => match (T.chain 2).cmd (BitVec.ofNat 32 n) with
    | some c => if c.accepted && c.opc == 7 && (c.status == 1 || c.status == 2) && !T.halt then some (T, c) else none
    | none => none

/-! The collective engine's choice (R303): which teams have a message to send. -/

/-- A collective that has a message to send. -/
def Cmd.collReady (c : Cmd) : Bool :=
  c.accepted && c.opc == 7 && (c.status == 1 || c.status == 2) && c.pieces.any (fun p =>
    (c.reduces && !c.switched (pieceUnit p) && !c.sent.contains (toMember p (pieceOwner p))) ||
      (pieceOwner p == c.rank && !(c.toSend p).isEmpty && (!c.reduces || (c.result p).isSome)))
/-- Whether a team has a message for the collective engine that does not wait for tokens. -/
def State.clReady (s : State) (t : Nat) (T : Team) : Bool :=
  !T.halt && (T.chain 2).cmds.any (fun c => c.peerReady || c.collReady) && !s.shortOf T (fun w => match w with
    | .chunk u ch _ _ => u == t && ch == 2
    | .msg u _ _ _ => u == t
    | .line _ _ _ _ => false)
/-- Whether it is a team's turn at the collective engine, and the turn taken. -/
def State.clTurn (s : State) (T : Team) : Bool :=
  nextTurn (s.core T.core).clTurn (s.slotsWith T.core s.clReady) == some T.tslot
def State.servedCl (s : State) (T : Team) : State := s.setCore T.core { s.core T.core with clTurn := T.tslot }

/-- An own contribution, an own part, or a formed result leaves for the next member that lacks it. -/
def State.collOut (s : State) (t n : Nat) (T : Team) (c : Cmd) (p : Nat) (result : Bool) : Out1 :=
  let u := pieceUnit p
  let (lo, hi) := c.pieceRange p
  if !c.pieces.contains p ∨ !s.clTurn T then .refused .notEnabled
  else if c.reduces ∧ !result then
    let r := pieceOwner p
    if c.switched u ∨ c.sent.contains (toMember p r) then .refused .notEnabled
    else s.charged T.colour (.msg t n r p) (c.pieceBytes p) (fun s =>
      let s := s.servedCl T
      s.collSend t T c p r (s.ownBytes T c u lo hi) 0)
  else if pieceOwner p ≠ c.rank then .refused .notEnabled
  else match c.toSend p, c.reduces, c.result p with
    | r :: _, true, some out =>
      s.charged T.colour (.msg t n r p) (c.pieceBytes p) (fun s => (s.servedCl T).collSend t T c p r (.ok (out, s.servedCl T)) 1)
    | r :: _, false, _ =>
      s.charged T.colour (.msg t n r p) (c.pieceBytes p) (fun s =>
        let s := s.servedCl T
        s.collSend t T c p r (s.ownBytes T c u lo hi) 1)
    | _, _, _ => .refused .notEnabled

/-- The own elements of a unit handed to the switch (R325), and kept for a rerun. -/
def State.collToSwitch (s : State) (t n : Nat) (T : Team) (c : Cmd) (u : Nat) : Out1 :=
  let lo := u * c.perUnit
  let hi := min c.nelem (lo + c.perUnit)
  let begun : Bool := c.pieces.any (fun p => pieceUnit p == u && (c.sent.contains (toMember p (pieceOwner p)) || c.units.contains p))
  if !s.clTurn T ∨ !c.reduces ∨ !c.sw ∨ hi ≤ lo ∨ c.switched u ∨ c.sent.contains (lostUnit u) ∨ (Tbl.get c.parts (keptKey u)).isSome ∨ begun then .refused .notEnabled
  else s.charged T.colour (.msg t n 16384 u) ((hi - lo) * c.esize) (fun s =>
    let s := s.servedCl T
    match s.ownBytes T c u lo hi with
    | .error e => s.collFail t c e
    | .ok (bs, s) =>
      match s.sendPeer 16384 t n (swUnit u)
          { cap := 0, tag := false, write := false, runs := [], data := bs, coll := some c.kind } with
      | some s => s.noteCmd t 2 { c with sent := c.sent ++ [toSwitch u], parts := Tbl.set c.parts (keptKey u) bs }
      | none => s.collFail t c (linkErr 0))

/-- The port's refusal of a message (R47): it is checked as a write of the bytes that it carries. -/
def State.msgErr (s : State) (m : PeerMsg) : Option (Nat × Nat) × Nat :=
  if s.ready then s.portErr ⟨m.cap, m.tag⟩ (.write m.addr m.data) else (some (cCAPABILITY, subCOLOUR), 0)

/-- A message refused at the port: its sender is told (R47), the watch log counts it. -/
def State.refuseMsg (s : State) (c : Cmd) (m : PeerMsg) (e : Nat × Nat) (colour : Nat) : State :=
  let dev := (c.member m.src).dest
  (s.watchEng 6 (0x8000 + dev) colour 3 [(peerOffset (m.addr % peerWindow), m.data.length)]).send
    (.answer (16 + dev) [] (256 + e.1 + 4096 * e.2))

/-- A message of another member arrives, after the port's checks: a contribution to an owned piece, a result, or a part of an
allgather or broadcast. Members that name different values, or bytes that are not a piece, fault FORM (R322). A result
waits until the own contribution of its unit has been sent (R327). -/
def State.collIn (s : State) (t : Nat) (T : Team) (c : Cmd) (m : PeerMsg) : Option State :=
  let p := m.unit
  let (u, o) := (pieceUnit p, pieceOwner p)
  if c.members ≤ m.src ∧ m.kind = c.kind then none
  else match s.msgErr m with
  | (some e, col) => some (s.refuseMsg c m e col)
  | (none, _) =>
  if m.kind ≠ c.kind ∨ !c.pieces.contains p ∨ m.data.length ≠ c.pieceBytes p then some (s.collFail t c ⟨cCAPABILITY, subFORM, 0⟩)
  else if c.reduces ∧ !m.result then
    if o ≠ c.rank ∨ c.switched u ∨ (Tbl.get c.parts (partKey p m.src)).isSome ∨ (c.result p).isSome then none
    else some (s.collStep t c (s.contribute t T c p m.src m.data))
  else if m.src ≠ o ∨ !(c.due.contains p) ∨ !c.given u ∨ (c.reduces ∧ (c.collOp = 4 ∨ c.switched u)) then none
  else some (s.collStep t c (s.deliver t T c p m.data))

def execCollMessage (t n : Nat) (m : PeerMsg) (s : State) : Out1 :=
  match s.collAtWork t n with
  | some (T, c) =>
    if m.src = c.rank then
      if 2 ^ 40 ≤ m.unit then s.collToSwitch t n T c (m.unit - 2 ^ 40) else s.collOut t n T c m.unit m.result
    else stepSome (s.collIn t T c m)
  | none =>
    match s.atWork t 2 n with
    | some (T, c) => if c.opc = 1 then stepSome (s.peerData t T c m.unit m.data) else .refused .notEnabled
    | none => .refused .notEnabled

/-! Abort notices, the switch (R325 to R327). -/

def execAbortNotice (t n cause sub : Nat) (s : State) : Out1 :=
  match s.atWork t 2 n with
  | some (_, c) =>
    if c.opc = 7 then .next (s.failCmd t 2 { c with phase := s.collPhase t c, endNo := s.waitNo } ⟨cause, sub, 0⟩ 0) else .refused .notEnabled
  | none => .refused .notEnabled

/-- The result of a unit from the switch, piece by piece. -/
def State.deliverAll (t : Nat) (T : Team) (u : Nat) (bs : List Byte) : List Nat → Cmd → State → Except EngErr (Cmd × State)
  | [], c, s => .ok (c, s)
  | p :: ps, c, s =>
    let (lo, hi) := c.pieceRange p
    match s.deliver t T c p (cutBytes c.esize (u * c.perUnit) lo hi bs) with
    | .error e => .error e
    | .ok (c, s) => State.deliverAll t T u bs ps c s

def execSwitchReductionResult (t n u : Nat) (data : List Byte) (s : State) : Out1 :=
  match s.atWork t 2 n with
  | some (T, c) =>
    let lo := u * c.perUnit
    let hi := min c.nelem (lo + c.perUnit)
    if c.opc ≠ 7 ∨ !c.switched u ∨ data.length ≠ (hi - lo) * c.esize ∨ T.halt then .refused .notEnabled
    else .next (s.collStep t c (State.deliverAll t T u data (c.unitPieces u) c s))
  | none => .refused .notEnabled

/-- The switch lost units: results not received whole are discarded (none is held in part), and the units are reduced
among the members, this one's share included where it had not been sent yet (R326). -/
def execSwitchStateLost (t n : Nat) (us : List Nat) (s : State) : Out1 :=
  match s.collAtWork t n with
  | some (_, c) =>
    if us.isEmpty ∨ !c.reduces ∨ !c.sw ∨ us.any (fun u => c.unitCount ≤ u) then .refused .notEnabled
    else .next (s.noteCmd t 2 { c with
      sent := c.sent.filter (fun x => !us.any (fun u => x == toSwitch u || x == lostUnit u)) ++ us.map lostUnit })
  | none => .refused .notEnabled

/-- A chunk of a copy. On the copy chain: the engine begins it in its turn (R303, R401), then copies its bytes at any later
moment (R307); on the collective chain its message is sent. -/
def execCopyChunk (t ch n c : Nat) (s : State) : Out1 :=
  match s.atWork t ch n with
  | none => .refused .notEnabled
  | some (T, x) =>
    let b := x.block
    let bytes := b.chunkHi c - b.chunkLo c
    if ch = 1 ∨ b.opc ≠ 1 ∨ x.nc ≤ c ∨ x.units.contains c ∨ (Tbl.get x.parts c).isSome then .refused .notEnabled
    else if ch = 2 then
      if T.halt ∨ x.sent.contains c ∨ !s.clTurn T then .refused .notEnabled
      else s.charged T.colour (.chunk t ch n c) bytes (fun s => (s.servedCl T).copyPeer t T x c)
    else if x.begun.contains c then .next (if b.gcm then s.copyCipher t ch T x c else s.copyLocal t ch T x c)
    else if !x.mayBegin T.halt c ∨ !(s.nextCopy T).any (fun y => y.seq == x.seq) ∨ !s.copyTurn T false then
      .refused .notEnabled
    else s.charged T.colour (.chunk t ch n c) bytes (fun s => s.beginChunk t T x c)

/-- A peer answers a request (R47, R216, R328): it acknowledges a chunk of a copy to it, or refuses the request with a cause
and subcause, with which the command ends. -/
def State.peerAnswers (s : State) (t n c : Nat) (refused : Option (Nat × Nat)) : Out1 :=
  match s.atWork t 2 n with
  | none => .refused .notEnabled
  | some (T, x) =>
    let b := x.block
    match refused with
    | some (cause, sub) =>
      if b.opc = 1 then
        stepIf (x.sent.contains c && !x.units.contains c) (s.failCmd t 2 x ⟨cause, sub, x.peerAddr c⟩ 0)
      else stepIf (x.opc == 7 && x.sent.any (fun m => m < 2 ^ 60 && m / 16384 == c)) (s.collFail t x ⟨cause, sub, x.peerAt c⟩)
    | none =>
      stepIf (b.opc == 1 && b.toPeer && x.sent.contains c && !x.units.contains c)
        ((s.setChunkBit T b c).chunksDone t 2 x [c] (b.chunkHi c - b.chunkLo c))

/-- What a peer's answer names: the chunk, or the piece of a collective, in its low 64 bits; above them 0 for an
acknowledgement, else one more than the cause with which the peer refuses, plus 256 times the subcause. -/
def ackUnit (c : Nat) : Nat := c % 2 ^ 64
def ackRefused (c : Nat) : Option (Nat × Nat) :=
  match c / 2 ^ 64 with
  | 0 => none
  | x + 1 => some (x % 256, x / 256)

def execPeerAcknowledgement (t n c : Nat) (s : State) : Out1 := s.peerAnswers t n (ackUnit c) (ackRefused c)

/-! Acceptance of an entry (R199, R216, R303). -/

/-- The next entry of a chain: the first neither accepted nor ended. -/
def Chain.next (c : Chain) : Option Cmd := c.cmds.find? (fun x => !x.accepted && x.status == 0 && x.fin == 0)

/-- Whether every group of a team that has not retired has joined the open COLL; with all retired, the joins made stand. -/
def State.joined (s : State) (T : Team) (n : Word) : Bool :=
  match T.join with
  | some (m, _, gs) => m != n || (List.range T.groups.length).all (fun j => gs.contains j || !s.grpLive T j)
  | none => true

/-- Whether the engine may accept an entry: copy commands while fewer than 8 run on the core, one command of a team on
the collective chain, a COLL once it is joined. -/
def State.mayAccept (s : State) (T : Team) (ch : Nat) (c : Cmd) : Bool :=
  !T.halt && !(T.chain ch).halted &&
  (if ch = 0 then s.copiesAtWork T.core < 8
   else if ch = 2 then !(T.chain 2).cmds.any (fun x => x.accepted && x.status == 1 && x.fin == 0) &&
     (c.opc != 7 || s.joined T c.seq)
   else true)

def execChainEntryAcceptance (t ch : Nat) (s : State) : Out1 :=
  match s.team t with
  | none => .refused .notEnabled
  | some T =>
    match (T.chain ch).next with
    | none => .refused .notEnabled
    | some c =>
      if 3 ≤ ch ∨ !s.mayAccept T ch c then .refused .notEnabled
      else
        let c := { c with accepted := true, status := 1, exec := ch == 0 }
        let s := s.putCmd t ch c
        .next (if c.opc = 1 then s.acceptCopy t ch T c
          else if c.opc = 7 then s.acceptColl t T c
          else s.acceptMatrix t T c)

end Sys2Proof.Machine
end

