-- ==== Sys2Proof/Machine/GroupWindow.lean ====
section
/-! DEFINITION. The group window: GSTOP, GRD, GWR, GRES, GSTAT (R230, R231, R335, R336). -/

namespace Sys2Proof.Machine

/-- The status word (R231). -/
def Group.status (G : Group) : Nat :=
  match G.run with
  | .running => 0
  | .stopped => 1
  | .trapped => 2 + G.cause.toNat % 256 * 2 ^ 8
  | .retired => 3

/-- The group that A names: its number and its state. A slot that another team has since taken is a retired group's. -/
def Iss.target (i : Iss) (w : Long) : Except Stop (Nat × Group) :=
  match i.T.groups[(i.cReg w.a.toNat).toNat]? with
  | some g => match i.s.group g with
    | some G => .ok (g, if G.team = i.team then G else { Group.blank with run := .retired })
    | none => .ok (g, { Group.blank with run := .retired })
  | none => i.illegal

/-- Whether a group is stopped or at a level-1 trap. -/
def Group.held1 (G : Group) : Bool := G.run == .stopped || G.run == .trapped

/-- The window address of B. -/
def Iss.windowAddr (i : Iss) (w : Long) : Nat := i.bVal1 w tN32

/-! Items (R230). -/

/-- An item of a group. -/
inductive Item where
  | lanes (row p : Nat)
  | kreg (n : Nat)
  | pred (n : Nat) (half : Bool)
  | tags (row : Nat) (half : Bool)
  | ktags
  | entry (ix quarter : Nat)
  | pc
  | span
  | cause
  | entries
  deriving DecidableEq, Repr

/-- The item at a window address; none where SPACE or a field lies beyond its range. -/
def Group.item (G : Group) (a : Nat) : Option Item :=
  let row := bitsOf a 27 16
  let resident := G.lo ≤ row && row < G.lo + G.held
  match a / 2 ^ 28 with
  | 0 => if resident && a % 64 < 48 then some (.lanes row (a % 64)) else none
  | 1 => some (.kreg (a % 64))
  | 2 => some (.pred (a % 8) (bitAt a 3))
  | 3 => if resident && row % 4 == 0 then some (.tags row (bitAt a 0)) else none
  | 4 => some .ktags
  | 5 => if bitsOf a 9 5 < G.stack.length then some (.entry (bitsOf a 9 5) (a % 4)) else none
  | 6 => some (if a % 4 = 0 then .pc else if a % 4 = 1 then .span else if a % 4 = 2 then .cause else .entries)
  | _ => none

/-- KIND codes (R35). -/
def Kind.code : Kind → Nat
  | .conv => 0
  | .live => 1
  | .defer => 2
  | .park => 3
def kindOf (n : Nat) : Kind := if n = 0 then .conv else if n = 1 then .live else if n = 2 then .defer else .park

/-- The 256 bits of a stack entry (R35). -/
def Path.image (p : Path) : Nat := p.pc.toNat * 2 ^ 192 + p.rpc.toNat * 2 ^ 128 + p.mask.toNat * 2 ^ 32 + p.kind.code * 2 ^ 30
/-- A stack entry with new bits. -/
def Path.withImage (p : Path) (x : Nat) : Path :=
  { p with pc := BitVec.ofNat 64 (bitsOf x 255 192), rpc := BitVec.ofNat 64 (bitsOf x 191 128),
           mask := BitVec.ofNat 96 (bitsOf x 127 32), kind := kindOf (bitsOf x 31 30) }

/-- The path that resumes: the one that stopped, entry 0 where that entry is gone. -/
def Group.resumePath (G : Group) : Option Path :=
  match G.resume with
  | .handler _ => G.handler.map (·.path)
  | .path _ ix => if ix < G.stack.length then G.stack[ix]? else G.stack[0]?
  | .ctl _ => none
def Group.setResumePath (G : Group) (p : Path) : Group :=
  match G.resume with
  | .handler _ => { G with handler := G.handler.map (fun h => { h with path := p }) }
  | .path _ ix => { G with stack := if ix < G.stack.length then G.stack.set ix p else G.stack.set 0 p }
  | .ctl _ => G

/-- A word that reads zero where it is poisoned (R336). -/
def clean (bad : Bool) (x : Nat) : Nat := if bad then 0 else x

/-- The value of an item. k60 to k62 read the mask of the path that resumes (DEDUCED, log 16). -/
def Group.read (G : Group) : Item → Nat
  | .lanes row p =>
    let x (l : Nat) : Nat := clean (G.poison.contains (.v row l)) (((G.row row)[l]?).getD 0).toNat
    x (2 * p) + 2 ^ 32 * x (2 * p + 1)
  | .kreg n =>
    if 60 ≤ n ∧ n < 63 then (maskWord ((G.resumePath.map (·.mask)).getD 0) (n - 60)).toNat
    else clean (G.poison.contains (.k n)) (G.kBank n).toNat
  | .pred n half =>
    let m : LaneMask := G.pred n &&& ~~~(maskOfLanes (G.poison.filterMap (fun e => match e with
      | .q n' l => if n' = n then some l else none
      | _ => none)))
    if half then m.toNat / 2 ^ 64 else m.toNat % 2 ^ 64
  | .tags row half =>
    let t := (G.quadTags (row / 4) &&& ~~~(maskOfLanes (G.poison.filterMap (fun e => match e with
      | .vtag quad l => if quad = row / 4 then some l else none
      | _ => none)))).toNat
    if half then t / 2 ^ 64 else t % 2 ^ 64
  | .ktags => ((List.range 12).map (fun j =>
      if G.ktag.getLsbD j && !G.poison.contains (.ktag j) then 2 ^ j else 0)).sum
  | .entry ix q => ((G.stack[ix]?.map (·.image)).getD 0) / 2 ^ (64 * q) % 2 ^ 64
  | .pc => (G.resumePath.map (fun p => p.pc.toNat)).getD 0
  | .span => G.held * 2 ^ 16 + G.lo
  | .cause => G.cause.toNat
  | .entries => G.stack.length

/-- An entry whose 256 bits are zero, running in a code capability. -/
def Path.zero (code : CapV) : Path := Path.fresh .conv 0 0 code

/-- An item written (R336); none where the value is refused. -/
def Group.put (G : Group) (it : Item) (x : Nat) : Option Group :=
  match it with
  | .lanes row p =>
    let old := G.row row
    some (G.writeRow row (laneMask1 (2 * p) ||| laneMask1 (2 * p + 1))
      ((old.set (2 * p) (BitVec.ofNat 32 x)).set (2 * p + 1) (BitVec.ofNat 32 (x / 2 ^ 32))))
  | .kreg n => some (G.setK n (BitVec.ofNat 32 x))
  | .pred n half =>
    let m : LaneMask := if half then BitVec.ofNat 96 (2 ^ 96 - 2 ^ 64) else BitVec.ofNat 96 (2 ^ 64 - 1)
    some (G.write (.q n m (BitVec.ofNat 96 (if half then x % 2 ^ 32 * 2 ^ 64 else x))))
  | .tags row half =>
    let t := G.quadTags (row / 4)
    let keep : LaneMask := if half then BitVec.ofNat 96 (x % 2 ^ 32 * 2 ^ 64 + (2 ^ 64 - 1))
      else BitVec.ofNat 96 (x % 2 ^ 64 + (2 ^ 96 - 2 ^ 64))
    some { G with
      vtag := Tbl.set G.vtag (row / 4) (t &&& keep)
      poison := G.poison.filter (fun e => match e with
        | .vtag quad l => !(quad == row / 4 && (if half then 64 ≤ l else l < 64))
        | _ => true) }
  | .ktags =>
    some { G with
      ktag := G.ktag &&& BitVec.ofNat 12 x
      poison := G.poison.filter (fun e => match e with | .ktag _ => false | _ => true) }
  | .entry ix q => match G.stack[ix]? with
    | some p => some { G with stack := G.stack.set ix (p.withImage (setBits p.image (64 * q + 63) (64 * q) x)) }
    | none => none
  | .pc => if x % 4 ≠ 0 then none
    else match G.resumePath with
      | some p => some (G.setResumePath { p with pc := BitVec.ofNat 64 x })
      | none => some G
  | .span => some G
  | .cause => some { G with step := x % 2 = 1 }
  | .entries =>
    if x = 0 ∨ 32 < x then none
    else
      let code := (G.stack.head?.map (·.code)).getD G.code
      some { G with stack := G.stack.take x ++ List.replicate (x - G.stack.length) (Path.zero code) }

/-! Checks of GRES (R336). -/

/-- A team of a colour that holds nothing. -/
def Team.blank (core colour : Nat) : Team :=
  { task := 0, index := 0, colour := colour, fn := 0, cls := 0, core := core, tslot := 0, groups := [], roles := [],
    scratch := 0, scratchLen := 0, allocLen := 0, param := CapV.zero, spad := CapV.zero, cstore := CapV.zero,
    regions := [], chains := [], ridx := 0, taken := 0, ringQ := [], tiles := [], tileMax := 0, owners := [],
    join := none, started := 0, halt := false, partialEnd := none, ringLast := ⟨0, 0⟩, area := none }

/-- What the instruction at a path's pc is: JOIN, a group-wide operation, a window instruction. -/
def State.parksAt (s : State) (core colour : Nat) (p : Path) : ParkAt :=
  let i : Iss :=
    { s := s, ag := .ctl 0, ctl := false, id := 0, G := Group.blank, C := Ctx.blank, p := p, core := core, team := 0,
      T := Team.blank core colour, w0 := none, lanes := p.mask }
  match i.fetch with
  | .error _ => .none
  | .ok (ws, _) =>
    match ws with
    | [] => .none
    | w0 :: rest =>
      let o : Op := { maj := bitsOf w0.toNat 7 2, f := bitsOf w0.toNat 31 29, bytes := 4, la := 0,
                      asel := (rest.head?.map (fun w1 => bitsOf w1.toNat 18 17)).getD 0, qn := false, qg := 7 }
      if w0.toNat % 4 = 3 then .none
      else if o.maj = 0x38 ∧ o.f = 4 then .join
      else if o.window then .win
      else if o.groupWide then .op else .none

/-- The stack with each PARK entry's stopping point as its pc shows it. -/
def State.reparked (s : State) (core colour : Nat) (st : List Path) : List Path :=
  st.map (fun p => if p.kind = .park then { p with parkAt := s.parksAt core colour p, released := false } else { p with parkAt := .none })

/-- The five checks; the stack is the reparked one. -/
def gresOk (alive : LaneMask) (st : List Path) : Bool :=
  let ixs := List.range st.length
  (st.head?).any (fun p => p.kind == .conv) &&
  ixs.all (fun j => j == 0 || (parentIx st j).isSome) &&
  st.all (fun p => p.mask != 0 && subMask p.mask alive && p.pc.toNat % 4 == 0) &&
  ixs.all (fun j => (List.range j).all (fun k => match st[j]?, st[k]? with
    | some a, some b => a.kind == .conv || b.kind == .conv || a.mask &&& b.mask == 0
    | _, _ => true)) &&
  ixs.all (fun c => (childrenOf st c).length ≤ 2 && ((childrenOf st c).isEmpty || (st[c]?).any (fun p => p.rpc != 0))) &&
  st.all (fun p => p.kind != .park || p.parkAt != .none)

/-! The instructions. -/

/-- Group-window forms: D and A name c registers, B is a c register or the literal. -/
def winLegal (w : Long) (i : Iss) : Bool := i.ctl && w.asel == 0 && (w.bsel == 0 || w.bsel == 3)
/-- GSTOP, GRES and GSTAT use no B: only a B selector of 0b10, whose place SUB holds, is refused (R194, R231). -/
def winLegalA (w : Long) (i : Iss) : Bool := i.ctl && w.asel == 0 && w.bsel != 2

def winGstop (o : Op) (w : Long) (s : State) : Out1 :=
  runInstr o (winLegalA w) (fun i => do
    let (g, G) ← i.target w
    if G.run ≠ .running then .ok (i.results (i.dResult tN64 w.d.toNat G.status))
    else if G.canHalt then
      let G := G.halted g
      .ok { i.results (i.dResult tN64 w.d.toNat G.status) with s := (i.s.setGroup g G).detect i.core }
    else .error (.wait .stop (fun s => s.setGroup g { G with stopReq := true }))) s

def winGrd (o : Op) (w : Long) (s : State) : Out1 :=
  runInstr o (winLegal w) (fun i => do
    let (_, G) ← i.target w
    if !G.held1 then i.illegal
    else match G.item (i.windowAddr w) with
      | some it => .ok (i.results (i.dResult tN64 w.d.toNat (G.read it)))
      | none => i.illegal) s

def winGwr (o : Op) (w : Long) (s : State) : Out1 :=
  runInstr o (winLegal w) (fun i => do
    let (g, G) ← i.target w
    if !G.held1 then i.illegal
    else match (G.item (i.windowAddr w)).bind (fun it => G.put it (i.cReg w.d.toNat).toNat) with
      | some G => .ok (Done.only (i.s.setGroup g G))
      | none => i.illegal) s

def winGres (o : Op) (w : Long) (s : State) : Out1 :=
  runInstr o (winLegalA w) (fun i => do
    let (g, G) ← i.target w
    if !G.held1 then .ok (Done.only i.s)
    else
      let st := i.s.reparked i.core i.colour G.stack
      if !gresOk G.alive st then .ok (Done.only i.s)
      else
        let G := { G with stack := select st, run := .running, stopReq := false }
        .ok (Done.only (i.s.setGroup g (if G.tf then G else G.resolve)))) s

def winGstat (o : Op) (w : Long) (s : State) : Out1 :=
  runInstr o (winLegalA w) (fun i => do
    let (_, G) ← i.target w
    .ok (i.results (i.dResult tN64 w.d.toNat G.status))) s

def execGstop (w : Long) : State → Out1 := winGstop (Op.long 0x3F 7 w) w
def execGrd (w : Long) : State → Out1 := winGrd (Op.long 0x3F 7 w) w
def execGwr (w : Long) : State → Out1 := winGwr (Op.long 0x3F 7 w) w
def execGres (w : Long) : State → Out1 := winGres (Op.long 0x3F 7 w) w
def execGstat (w : Long) : State → Out1 := winGstat (Op.long 0x3F 7 w) w

end Sys2Proof.Machine
end

