-- ==== Sys2Proof/Machine/Pools.lean ====
section
/-! DEFINITION. Register rows and tile-store units: CLAIM, RELEASE, TCLAIM, TRELEASE (R214, R220). -/

namespace Sys2Proof.Machine

/-- Whether a wait of a kind began before the issuing path's own, or is there while it has none. -/
def Iss.earlier (i : Iss) (p : WaitWhy → Bool) : Bool :=
  let own : Option Nat := match i.w0 with
    | some w => if p w.why then some w.no else none
    | none => none
  (i.s.coreAgents i.core).any (fun (_, x) => match x.wait with
    | some w => p w.why && (match own with
        | some n => w.no < n
        | none => true)
    | none => false)

def isClaim : WaitWhy → Bool
  | .claim _ => true
  | _ => false
def isTclaim : WaitWhy → Bool
  | .tclaim _ => true
  | _ => false

/-- Stack rows [lo, hi) of a group cleared: values, tags and poison. -/
def Group.clearRows (G : Group) (lo hi : Nat) : Group :=
  { G with
    v := Tbl.keep G.v (fun r => r < lo || hi ≤ r)
    vtag := Tbl.keep G.vtag (fun r => r < lo / 4 || hi / 4 ≤ r)
    poison := G.poison.filter (fun e => match e with
      | .v r _ => r < lo || hi ≤ r
      | .vtag quad _ => quad < lo / 4 || hi / 4 ≤ quad
      | _ => true) }

/-- Rows rounded up to a multiple of eight. -/
def rows8 (x : Nat) : Nat := 8 * cdiv x 8

def poolClaim (o : Op) (w : Long) (s : State) : Out1 :=
  runInstr o (fun i => i.bOnce w 32) (fun i => do
    i.ecc i.p.mask (if w.bsel = 1 then i.once 32 w.b.toNat else [])
    let n := rows8 (i.bVal1 w tN32)
    if n = 0 then .ok (Done.only i.s)
    else if 1024 < i.G.held + n then i.illegal
    else if i.s.freeRows i.core < n ∨ i.earlier isClaim then .error (.wait (.claim n) (fun s => s))
    else
      let top := i.G.lo + i.G.held
      let s := i.s.setGroup i.id { i.G.clearRows top (top + n) with held := i.G.held + n }
      .ok (Done.only (s.detect i.core))) s

def poolRelease (o : Op) (w : Long) (s : State) : Out1 :=
  runInstr o (fun i => i.bOnce w 32) (fun i => do
    i.ecc i.p.mask (if w.bsel = 1 then i.once 32 w.b.toNat else [])
    let n := rows8 (i.bVal1 w tN32)
    if n = 0 then .ok (Done.only i.s)
    else if i.G.held < 8 + n then i.illegal
    else
      let h := i.G.held - n
      if i.G.base < i.G.lo ∨ i.G.lo + h < i.G.base + min 128 h then i.illegal
      else
        let s := i.s.setGroup i.id { i.G.clearRows (i.G.lo + h) (i.G.lo + i.G.held) with held := h }
        .ok (Done.only (s.detect i.core))) s

/-- A handle (R214). -/
def tileHandle (u n : Nat) : Nat := n * 2 ^ 5 + u

/-- Tile-store words of units [u, u + n) of a core zeroed: a unit is 4,096 words. -/
def State.zeroTiles (s : State) (core u n : Nat) : State :=
  { s with mem := { s.mem with tile := Store.clear s.mem.tile (core * 131072 + 4096 * u) (core * 131072 + 4096 * (u + n)) } }

def poolTclaim (o : Op) (w : Long) (s : State) : Out1 :=
  runInstr o (fun i => i.bOnce w 32 && i.dOnce 32 w.d.toNat) (fun i => do
    i.ecc i.p.mask (if w.bsel < 2 then i.once 32 w.b.toNat else [])
    let n := i.bVal1 w tN32
    if n = 0 ∨ 32 < n then i.illegal
    else if i.T.tileMax < (i.T.tiles.map (·.2)).sum + n then .error (.trap (Trap.of cDEADLOCK 0 (7 * 2 ^ 9) i.p.mask))
    else match i.s.tileRun i.core n with
      | none => .error (.wait (.tclaim n) (fun s => s))
      | some u =>
        if i.earlier isTclaim then .error (.wait (.tclaim n) (fun s => s))
        else
          let s := (i.s.setTeam i.team { i.T with tiles := i.T.tiles ++ [(u, n)] }).zeroTiles i.core u n
          .ok { i.results (i.dResult tN32 w.d.toNat (tileHandle u n)) with s := s.detect i.core }) s

/-- An incomplete matrix-chain command that names a region. -/
def Team.tileBusy (T : Team) (r : Nat × Nat) : Bool :=
  (T.chain 1).cmds.any (fun c => !c.complete && unitsMeet c.accUnits r)

def poolTrelease (o : Op) (w : Long) (s : State) : Out1 :=
  runInstr o (fun i => i.bOnceReg w 32) (fun i => do
    i.ecc i.p.mask (i.once 32 w.b.toNat)
    let h := i.bVal1 w tN32
    let r := (h % 32, bitsOf h 10 5)
    if 2 ^ 11 ≤ h ∨ !i.T.tiles.contains r then i.illegal
    else if i.T.tileBusy r then .error (.wait .trelease (fun s => s))
    else
      let s := (i.s.setTeam i.team { i.T with tiles := i.T.tiles.erase r }).zeroTiles i.core r.1 r.2
      .ok (Done.only (s.detect i.core))) s

def execClaim (w : Long) : State → Out1 := poolClaim (Op.long 0x3E 4 w) w
def execRelease (w : Long) : State → Out1 := poolRelease (Op.long 0x3E 5 w) w
def execTclaim (w : Long) : State → Out1 := poolTclaim (Op.long 0x3E 6 w) w
def execTrelease (w : Long) : State → Out1 := poolTrelease (Op.long 0x3E 7 w) w

end Sys2Proof.Machine
end

