-- ==== Sys2Proof/Machine/Tasks.lean ====
section
/-! DEFINITION. Tasks: the record and its fields, minting, the checks of an append, examination, completion (R245, R246,
R349 to R361, R378, R379). -/

namespace Sys2Proof.Machine

/-! The record (R349 to R352). -/

/-- The capability at byte 16j of a record. -/
def recCap (r : BitVec 2048) (tags : BitVec 16) (j : Nat) : CapV := ⟨r.extractLsb' (128 * j) 128, tags.getLsbD j⟩

def Task.get (k : Task) (h l : Nat) : Nat := bitsOf k.record.toNat h l
def Task.cap (k : Task) (j : Nat) : CapV := recCap k.record k.tags j
def Task.code (k : Task) : CapV := k.cap 0
def Task.param (k : Task) : CapV := k.cap 1
def Task.rgn (k : Task) : CapV := k.cap 2
def Task.ring (k : Task) : CapV := k.cap 3
def Task.pbytes (k : Task) : Nat := k.get 1375 1344
def Task.privBytes (k : Task) : Nat := k.get 1343 1312
def Task.scratch (k : Task) : Nat := k.get 1311 1280
def Task.pncap (k : Task) : Nat := k.get 1271 1268
def Task.cspan (k : Task) : Bool := k.get 1267 1267 == 1
def Task.cores' (k : Task) : Bool := k.get 1266 1266 == 1
def Task.tiles (k : Task) : Nat := k.get 1263 1258
def Task.nreg (k : Task) : Nat := k.get 1257 1253
def Task.teamg (k : Task) : Nat := k.get 1252 1248

/-- A role entry (R350). -/
structure Role where
  comm : Bool
  boost : Nat
  rows : Nat
  g : Nat
  deriving DecidableEq, Repr

def Task.roleAt (k : Task) (r : Nat) : Role :=
  let x := k.get (16 * r + 1039) (16 * r + 1024)
  { comm := bitAt x 14, boost := bitsOf x 13 12, rows := 8 * (bitsOf x 11 5 + 1), g := bitsOf x 4 0 }
/-- The roles below the first absent one. -/
def Task.roleList (k : Task) : List Role := ((List.range 8).map k.roleAt).takeWhile (fun r => r.g != 0)

/-- The present dependence entries: producer's queue and sequence number (R351). -/
def Task.depList (k : Task) : List (Nat × Nat) :=
  ((List.range 8).map (fun i => k.get (64 * i + 575) (64 * i + 512))).filterMap (fun x =>
    if bitAt x 63 then some (bitsOf x 38 32, bitsOf x 31 0) else none)

/-- The key of a task: queue and sequence number. -/
def taskKey (q n : Nat) : Nat := q * 2 ^ 32 + n
def taskQueue (k : Nat) : Nat := k / 2 ^ 32
def taskSeq (k : Nat) : Nat := k % 2 ^ 32

/-- The task has neither completed nor been refused or cancelled. -/
def Task.open' (k : Task) : Bool := !k.complete

/-! What a team takes (R246). -/

/-- S' (R364). -/
def Task.sLen (k : Task) : Nat := 64 * cdiv k.scratch 64
/-- P (R246). -/
def Task.pLen (k : Task) : Nat := 16 * cdiv k.privBytes 16
/-- Scratchpad bytes of one team. -/
def Task.scratchNeed (k : Task) : Nat := 1024 * cdiv (k.sLen + 96 * k.pLen * k.teamg) 1024
/-- Register-pool rows of one team. -/
def Task.rowsNeed (k : Task) : Nat := (k.roleList.map (fun r => r.g * (r.rows + 16))).sum

/-- How many teams of a task an empty core holds. -/
def Task.perCore (k : Task) : Nat :=
  min (min 4 (32 / max 1 k.teamg)) (min (2048 / max 1 k.rowsNeed) (393216 / max 1 k.scratchNeed))

/-! Functions, queues and cores (R392, R394). -/

/-- The function that owns a queue. -/
def State.queueFn (s : State) (q : Nat) : Option Nat :=
  (List.range 16).find? (fun f => (s.fn f).en && (s.fn f).queues.getLsbD q)

/-- The clusters in no enabled fixed-quota function's CLUSTERS. -/
def State.remainder (s : State) : List Nat :=
  (List.range 32).filter (fun c => (List.range 16).all (fun f => !((s.fn f).en && !(s.fn f).ts && (s.fn f).clusters.getLsbD c)))
/-- The clusters of a function's quota. -/
def State.quota (s : State) (f : Nat) : List Nat :=
  if (s.fn f).ts then s.remainder else (List.range 32).filter (s.fn f).clusters.getLsbD
/-- The cores of a cluster. -/
def clusterCores (c : Nat) : List Nat := (List.range 8).map (8 * c + ·)
/-- A cluster without a retired core (R451). -/
def State.wholeCluster (s : State) (c : Nat) : Bool := (clusterCores c).all (fun i => !(s.core i).dead)
/-- The cores that a function is dealt now: a time-sliced one only while it is the holder (R394). -/
def State.dealt (s : State) (f : Nat) : List Nat :=
  if (s.fn f).ts && s.sched.holder != some f then [] else (s.quota f).flatMap clusterCores |>.filter (fun i => !(s.core i).dead)

/-! Minting (R356). -/

/-- The form rows of R44 for a stored capability. -/
def mintForm (c : CapV) : Bool :=
  let w := c.cursor / peerWindow
  if c.form ≥ 5 then false
  else if c.form = 1 then
    c.cursor.testBit 55 && w * peerWindow ≤ c.base && c.top ≤ (w + 1) * peerWindow &&
      (match canonicalE 12 c.base c.top with
        | some e => decide (max ((c.top : Int) - 2 ^ (e + 11) + 2 ^ e) ((w * peerWindow : Nat) : Int) ≤ c.cursor) &&
            decide ((c.cursor : Int) < min ((c.base : Int) + 2 ^ (e + 11)) (((w + 1) * peerWindow : Nat) : Int))
        | none => false)
  else if c.form = 2 then c.top == c.base + 64 && c.base % 64 == 0
  else if c.form = 4 then c.has pEX
  else true

/-- Whether bounds lie within one LIVE extent of a colour. -/
def State.inExtent (s : State) (colour lo hi : Nat) : Bool :=
  s.sec.exts.any (fun (_, e) => e.state == 1 && e.colour == colour && e.basep * 4096 ≤ lo && hi ≤ (e.basep + e.lenp) * 4096)

/-- Why a stored capability is not minted, as a subcause. -/
def State.mintErr (s : State) (colour : Nat) (c : CapV) : Option Nat :=
  if !mintForm c then some subFORM
  else if c.colour ≠ colour ∨ s.colourOk colour = false then some subCOLOUR
  else if c.has pSY then some subPERM
  else if c.form ≠ 1 ∧ !(c.decodeBounds.valid && s.inExtent colour c.base c.top) then some subBOUNDS
  else none

/-- A condition of step 1 of R357, with R49's subcauses; the colour is step 2's. -/
def capCond (c : CapV) (forms : List Nat) (perms a n : Nat) : Option Nat :=
  match c.check ⟨forms, if isSys a then perms ||| pSY else perms⟩ c.colour true false a n with
  | none => none
  | some (.cap k) => some k
  | some _ => some subFORM

/-- A capability of a record: minted first where the record came by QSUB, then held to its condition. -/
def State.recTake (s : State) (colour : Nat) (qsub : Bool) (c : CapV) (cond : CapV → Option Nat) : Except (Nat × Nat) CapV :=
  let bad : Option Nat := if qsub then s.mintErr colour c else none
  match bad with
  | some k => .error (cCAPABILITY, k)
  | none =>
    let c := if qsub then { c.canonical with tag := true } else c
    match cond c with
    | some k => .error (cCAPABILITY, k)
    | none => .ok c

/-! The checks of R357. -/

/-- The scheduler's read of bytes of a colour: the refusal where the memory side refuses it. -/
def State.schedRead (s : State) (colour a n : Nat) : Except (Nat × Nat) (List Byte × State) :=
  match s.engRefusal colour a n false with
  | some e => .error (e.cause, e.sub)
  | none => .ok (s.engRead a n)

/-- RING's own condition. -/
def ringCond (c : CapV) : Option Nat :=
  match capCond c [0] pST c.base (c.top - c.base) with
  | some k => some k
  | none => if (c.top - c.base) % 32 ≠ 0 ∨ c.top - c.base < 32 then some subBOUNDS else none

/-- A region record (R352): its capability as stored and the rest of its fields. -/
def regionOf (x : Nat) (tag : Bool) : CapV × Region :=
  let c : CapV := ⟨BitVec.ofNat 128 x, tag⟩
  (c, { base := c.base, top := c.top, mode := bitsOf x 131 128, aop := bitsOf x 135 132, nofwd := bitAt x 136,
        colour := c.colour })

/-- The region records in order, each capability minted and held to its condition. -/
def State.takeRegions (s : State) (colour : Nat) (qsub : Bool) (at_ : Nat) (bs : List Byte) : Nat → Nat → Except (Nat × Nat) (List Region)
  | 0, _ => .ok []
  | n + 1, i => do
    let a := at_ + 32 * i
    let (c, r) := regionOf (leNat ((bs.drop (32 * i)).take 32)) (!qsub && a % 16 == 0 && s.mem.homeTag (a / 16))
    let _ ← s.recTake colour qsub c (fun c => capCond c [0] 0 c.base 0)
    let rest ← s.takeRegions colour qsub at_ bs n (i + 1)
    .ok (r :: rest)

/-- The parameter-block slots of a QSUB record, minted. -/
def State.takeSlots (s : State) (colour a : Nat) : Nat → Except (Nat × Nat) State
  | 0 => .ok s
  | n + 1 => do
    let (bs, s) ← s.schedRead colour a 16
    match s.mintErr colour ⟨BitVec.ofNat 128 (leNat bs), false⟩ with
    | some k => .error (cCAPABILITY, k)
    | none => s.takeSlots colour (a + 16) n

/-- An image header (R98). -/
structure Header where
  bits : Nat
  deriving DecidableEq, Repr

def Header.ttmpl (h : Header) : Nat := bitsOf h.bits 223 192
def Header.codelen (h : Header) : Nat := bitsOf h.bits 191 160
def Header.rtab (h : Header) : Nat := bitsOf h.bits 159 128
def Header.trapv (h : Header) : Nat := bitsOf h.bits 127 96
def Header.centry (h : Header) : Nat := bitsOf h.bits 95 64

/-- An offset that the loader accepts. -/
def Header.inside (h : Header) (o : Nat) : Bool := o % 4 == 0 && o ≤ 32 + h.codelen
/-- The entry offsets of roles 0 to 7 in the bytes at RTAB. -/
def roleEntries (bs : List Byte) : List Nat := (List.range 8).map (fun r => leNat ((bs.drop (4 * r)).take 4))

/-- Whether the loader accepts an image's header. -/
def Header.ok (h : Header) : Bool :=
  bitsOf h.bits 31 0 == 0x44554E && bitsOf h.bits 47 40 == 2 && bitsOf h.bits 39 32 ≤ 1 &&
  [h.ttmpl, h.rtab, h.trapv, h.centry].all h.inside

/-- Field limits: step 4. -/
def Task.limits (k : Task) (qsub : Bool) : Bool :=
  let rs := (List.range 8).map k.roleAt
  let live := k.roleList
  k.privBytes ≤ 4096 && k.tiles ≤ 32 && k.nreg ≤ 16 && 1 ≤ k.teamg && k.teamg ≤ 16 &&
  1 ≤ k.total && k.total ≤ 2 ^ 20 &&
  (rs.drop live.length).all (fun r => r.g == 0) && live.all (fun r => r.g ≤ 16) &&
  (live.map (·.g)).sum == k.teamg &&
  (live.filter (·.comm)).length ≤ 1 && live.all (fun r => !r.comm || r.g == 1) &&
  (!qsub || k.pncap * 16 ≤ k.pbytes) && (!k.cspan || 16 ≤ k.scratch) &&
  k.regions.all (fun r => r.mode ≤ 4 && (r.mode != 4 || r.aop ≤ 11))

/-- Step 6 (R246, R366, R394, R451). -/
def State.fits (s : State) (k : Task) : Bool :=
  let F := s.fn k.fn
  let cl := ((s.quota k.fn).filter s.wholeCluster).length
  1 ≤ k.perCore && k.tiles ≤ F.tlim.toNat && k.rowsNeed ≤ F.rlim.toNat &&
  (!k.cspan || 1 ≤ cl) &&
  (!k.cores' || (if k.cspan then cdiv k.total 8 ≤ cl * k.perCore else k.total ≤ 8 * cl * k.perCore))

/-- Step 1: the record's capabilities, the header, the regions. -/
def State.checkCaps (s : State) (k : Task) (qsub : Bool) : Except (Nat × Nat) (Task × Header × State) := do
  let col := k.colour
  let code := k.code
  let a := code.cursor
  let c0 ← s.recTake col qsub code (fun c => capCond c [3] (pEX ||| pLD) a 32)
  let (hb, s) ← s.schedRead col a 32
  let h : Header := ⟨leNat hb⟩
  match capCond c0 [3] (pEX ||| pLD) a (32 + h.codelen) with
  | some e => .error (cCAPABILITY, e)
  | none =>
    let _ ← s.recTake col qsub k.param (fun c => capCond c [0] pLD c.cursor k.pbytes)
    let _ ← s.recTake col qsub k.rgn (fun c => capCond c [0] pLD c.cursor (32 * k.nreg))
    let _ ← s.recTake col qsub k.ring ringCond
    let (rb, s) ← s.schedRead col k.rgn.cursor (32 * k.nreg)
    let rs ← s.takeRegions col qsub k.rgn.cursor rb k.nreg 0
    let s ← if qsub then s.takeSlots col k.param.cursor k.pncap else .ok s
    .ok ({ k with regions := rs }, h, s)

/-- Step 2: colours. -/
def State.colourStep (s : State) (k : Task) : Bool :=
  let c := s.colour k.colour
  let e := (Tbl.get s.sec.exts c.bext).getD Ext.free
  [k.param, k.rgn, k.ring].all (fun x => x.colour == k.colour) && k.regions.all (fun r => r.colour == k.colour) &&
  k.colour != 0 && s.colourOk k.colour && c.func == k.fn &&
  (!c.bound || (e.basep * 4096 ≤ k.code.base && k.code.top ≤ (e.basep + e.lenp) * 4096))

/-- Step 5: each present DEP names an earlier task of the same function. -/
def State.depStep (s : State) (k : Task) : Bool :=
  k.depList.all (fun (q, n) => s.queueFn q == some k.fn && (s.task (taskKey q n)).any (fun p => p.order < k.order))

/-- All steps: the refusal's cause and subcause, or the task with its regions. -/
def State.checkRecord (s : State) (k : Task) (qsub : Bool) : Except (Nat × Nat) (Task × State) := do
  let (k, h, s) ← s.checkCaps k qsub
  if !s.colourStep k then .error (cCAPABILITY, subCOLOUR)
  else if !h.ok then .error (cVERSION, 0)
  else
    let (rb, s) ← s.schedRead k.colour (k.code.cursor + h.rtab) 32
    if !(roleEntries rb).all h.inside then .error (cVERSION, 0)
    else if !k.limits qsub then .error (cILLEGAL, 0)
    else if !s.depStep k then .error (cILLEGAL, 0)
    else if !s.fits k then .error (cRESOURCES, 0)
    else .ok (k, s)

/-! Completion (R354, R358, R360, R379). -/

/-- The completion record. -/
def Task.record' (k : Task) (key now : Nat) : Nat :=
  k.get 1471 1408 * 2 ^ 192 + (if k.status = 2 then k.wmask.toNat else 0) * 2 ^ 176 + now % 2 ^ 64 * 2 ^ 64 +
    taskSeq key * 2 ^ 32 + taskQueue key * 2 ^ 25 + k.cause % 256 * 2 ^ 16 + k.sub % 16 * 2 ^ 8 + k.status

/-- QDONE moved over completed records. -/
def State.qdoneAfter (s : State) (q : Nat) : Nat → Word → Word
  | 0, d => d
  | n + 1, d => if (s.task (taskKey q (d + 1).toNat)).any (·.complete) then s.qdoneAfter q n (d + 1) else d

/-- The scheduler's write through RING. -/
def State.ringStore (s : State) (k : Task) (key : Nat) : State :=
  let c := k.ring
  let n := (c.top - c.base) / 32
  let a := c.base + 32 * ((taskSeq key + 2 ^ 32 - 1) % 2 ^ 32 % n)
  if !k.ringOk ∨ n = 0 then s
  else if isHost a then s.send (.hostWrite (a - hostBase) (leBytes 32 (k.record' key s.clock)))
  else if (s.extRange k.colour a 32 true).isSome then s
  else { s with mem := s.mem.homeWrite a (leBytes 32 (k.record' key s.clock)) }

/-- A task whose dependences are satisfied becomes eligible. -/
def Task.settle (k : Task) (now : Nat) : Task :=
  if !k.complete && k.examined && k.eligible.isNone && k.deps.all (·.sat) then { k with eligible := some now } else k

/-- Dependences on a completed producer. -/
def Task.producerDone (k : Task) (key : Nat) (done : Bool) (now : Nat) : Task :=
  Task.settle { k with deps := k.deps.map (fun d => if d.on = key && (d.implicit || done) then { d with sat := true } else d) } now

/-- A task completes: its record, its queue's counts, its dependants. -/
def State.completeTask (s : State) (key status cause sub : Nat) : State :=
  match s.task key with
  | none => s
  | some k =>
    if k.complete then s
    else
      let k := { k with complete := true, status := status, cause := cause, sub := sub }
      let s := s.setTask key k
      let q := taskQueue key
      let Q := s.queue q
      let s := s.setQueue q { Q with qcnt := Q.qcnt - 1, qdone := s.qdoneAfter q (s.sched.tasks.length + 1) Q.qdone }
      let s := s.ringStore k key
      { s with sched := { s.sched with tasks := s.sched.tasks.map (fun e => (e.1, e.2.producerDone key (status == 1) s.clock)) } }

/-! Append (R355). -/

/-- The declared dependences, none satisfied yet. -/
def Task.declared (k : Task) : List Dep := k.depList.map (fun (q, n) => ({ on := taskKey q n, implicit := false, sat := false } : Dep))

/-- A record as a task that has only been appended. -/
def Task.new (record : BitVec 2048) (tags : BitVec 16) (minted : Bool) (fn order : Nat) : Task :=
  { record := record, tags := tags, minted := minted, fn := fn, colour := (recCap record tags 0).colour,
    cls := bitsOf record.toNat 1265 1264, order := order, examined := false, eligible := none, admitted := false,
    deps := [], dealt := 0, ended := 0, started := 0,
    total := bitsOf record.toNat 1183 1152 * bitsOf record.toNat 1215 1184 * bitsOf record.toNat 1247 1216,
    regions := [], edge := [], edgeBegun := false, cores := [], wmask := 0, status := 0, cause := 0, sub := 0,
    complete := false, ringOk := false, partialRun := none, place := [] }

/-- The granule tags of minted parameter-block slots (R429). -/
def State.tagSlots (s : State) (k : Task) : State :=
  let a := k.param.cursor
  if a % 16 ≠ 0 then s
  else { s with mem := { s.mem with tags := (List.range k.pncap).foldl (fun t i => Store.write t (a / 16 + i) 1) s.mem.tags } }

/-- A record whose CODE, PARAM, RGN and RING have been minted: tagged, each in the canonical encoding at its cursor (R39,
R356). -/
def Task.mintedRecord (k : Task) : Task :=
  { k with
    tags := k.tags ||| 0xF
    record := BitVec.ofNat 2048 ((List.range 4).foldl (fun r j =>
      setBits r (128 * j + 127) (128 * j) (k.cap j).canonical.bits.toNat) k.record.toNat) }

/-- The place of a TLAUNCH of a core among the appends of one cycle: the higher core first, a QSUB write behind all (R8,
R355). -/
def launchRank (core : Nat) : Nat := 255 - core
def qsubRank : Nat := 256

/-- The place of an append among all: by cycle, then by queue, then as they come within a queue (R379). -/
def State.appendOrder (s : State) (q : Nat) : Nat := (s.clock * 128 + q % 128) * 2 ^ 64 + s.sched.order

/-- Whether an append took place in a cycle before this one: those of one cycle come in the order of their queues, so none
is examined before the cycle has ended (R379). -/
def State.appendedBefore (s : State) (k : Task) : Bool := decide (k.order < s.clock * 2 ^ 71)

/-- A record takes the next sequence number of its queue and is checked. -/
def State.appendTask (s : State) (q f : Nat) (record : BitVec 2048) (tags : BitVec 16) (qsub : Bool) (rank : Nat) :
    Word × State :=
  let Q := s.queue q
  let n := Q.qseq + 1
  let key := taskKey q n.toNat
  let k := Task.new record tags qsub f (s.appendOrder q)
  let k := { k with ringOk := match s.recTake k.colour qsub k.ring ringCond with | .ok _ => true | .error _ => false }
  let s := s.setQueue q { Q with qseq := n, qcnt := Q.qcnt + 1, last := ⟨s.clock + 1, rank⟩ }
  let s := { s with sched := { s.sched with order := s.sched.order + 1 } }
  (n, match s.checkRecord k qsub with
    | .error (c, e) => (s.setTask key k).completeTask key 3 c e
    | .ok (k, s) =>
      let k := { k with deps := k.declared }
      if qsub then (s.setTask key k.mintedRecord).tagSlots k else s.setTask key k)

/-! Examination (R359, R378, R379). -/

/-- Overlaps of a consumer's records with a producer's, each with NOFWD of either (R378, R383). -/
def overlaps (p c : List Region) : List (Nat × Nat × Bool) :=
  p.flatMap (fun r => if r.mode < 2 then [] else c.filterMap (fun x =>
    let lo := max r.base x.base
    let hi := min r.top x.top
    if (x.mode == 1 || x.mode == 3 || x.mode == 4) && lo < hi then some (lo, hi, r.nofwd || x.nofwd) else none))

/-- Whether an earlier task's record conflicts with a later one's (R379). -/
def conflicts (e t : Region) : Bool :=
  max e.base t.base < min e.top t.top &&
  (match e.mode with
    | 2 => 1 ≤ t.mode
    | 3 => 1 ≤ t.mode
    | 1 => t.mode == 2 || t.mode == 3
    | 4 => (1 ≤ t.mode && t.mode ≤ 3) || (t.mode == 4 && t.aop != e.aop)
    | _ => false)

/-- The incomplete earlier tasks on which a task takes an implicit dependence. -/
def State.implicitOn (s : State) (k : Task) (declared : List Nat) : List Nat :=
  (s.sched.tasks.filter (fun (key, e) => !e.complete && e.colour == k.colour && e.order < k.order && !declared.contains key &&
    e.regions.any (fun r => k.regions.any (fun x => conflicts r x)))).map (·.1)

/-- A producer's edge set grown by a dependant's overlaps, until its end edge begins. -/
def State.growEdge (s : State) (k : Task) (on : Nat) : State :=
  match s.task on with
  | some p => if p.edgeBegun then s
      else s.setTask on { p with edge := p.edge ++ (overlaps p.regions k.regions).map (fun (lo, hi, _) => (lo, hi)) }
  | none => s

/-- The record that a queue examines next. -/
def State.toExamine (s : State) (q : Nat) : Option (Nat × Task) :=
  (s.sched.tasks.filter (fun (key, k) => taskQueue key == q && !k.examined && !k.complete && s.appendedBefore k)).foldl
    (fun (b : Option (Nat × Task)) e => match b with
      | none => some e
      | some x => if e.2.order < x.2.order then some e else some x) none

/-- A record examined. -/
def State.examine (s : State) (key : Nat) (k : Task) : State :=
  let declared := k.deps.map (·.on)
  let imp := s.implicitOn k declared
  let deps : List Dep :=
    k.deps.map (fun d => if (s.task d.on).any (fun p => p.complete && p.status == 1) then { d with sat := true } else d) ++
    imp.map (fun on => ({ on := on, implicit := true, sat := false } : Dep))
  let s := (declared ++ imp).foldl (fun s on => s.growEdge k on) s
  s.setTask key (Task.settle { k with examined := true, deps := deps } s.clock)

def execRecordExamination (q : Nat) (s : State) : Out1 :=
  match s.toExamine q with
  | some (key, k) => .next (s.examine key k)
  | none => .refused .notEnabled

/-! QCTL (R361). -/

/-- The function's register block responds: the device is READY and the queue is the function's own (R394, R432). -/
def State.owns (s : State) (f q : Nat) : Bool := s.bring.stage == 8 && s.queueFn q == some f

/-- Release: dependences whose producer completed otherwise than DONE. -/
def execQctlRelease (f q n : Nat) (s : State) : Out1 :=
  match s.owns f q, s.task (taskKey q n) with
  | true, some k =>
    if k.complete then .next s
    else
      .next (s.setTask (taskKey q n) (Task.settle { k with deps := k.deps.map (fun d =>
        if (s.task d.on).any (fun p => p.complete && p.status != 1) then { d with sat := true } else d) } s.clock))
  | _, _ => .next s

/-! Team queues (R363 to R365). -/

/-- A team put in a queue behind those of its class. -/
def queueIn (x : QTeam) (l : List QTeam) : List QTeam :=
  l.takeWhile (fun y => y.cls ≤ x.cls) ++ x :: l.dropWhile (fun y => y.cls ≤ x.cls)
/-- A team that comes back put at the head of its class. -/
def queueHead (x : QTeam) (l : List QTeam) : List QTeam :=
  l.takeWhile (fun y => y.cls < x.cls) ++ x :: l.dropWhile (fun y => y.cls < x.cls)

/-- Teams that have come back, taken into a queue as far as it has room: at most 16. -/
def takeIn : List QTeam → List QTeam → List QTeam × List QTeam
  | q, [] => (q, [])
  | q, x :: l => if q.length < 16 then takeIn (queueHead x q) l else (q, x :: l)
/-- Free positions of a core's team queue go to the teams that wait for one (log 47). -/
def Core.refill (c : Core) : Core := { c with teamq := (takeIn c.teamq c.spill).1, spill := (takeIn c.teamq c.spill).2 }
/-- The teams that stand in a core's team queue or wait to enter it. -/
def Core.queued (c : Core) : List QTeam := c.teamq ++ c.spill
/-- A team comes back to a core's team queue. -/
def Core.takeBack (c : Core) (x : QTeam) : Core := { c with spill := c.spill ++ [x] }.refill

/-- Queued teams taken out of every core's team queue, and of answers of gleans on their way. -/
def State.dropQueued (s : State) (p : QTeam → Bool) : State :=
  let left (c : Core) : Core :=
    { c with teamq := c.teamq.filter (fun x => !p x), spill := c.spill.filter (fun x => !p x)
             gleanAns := c.gleanAns.map (fun l => l.filter (fun x => !p x)) }
  { s with cores := s.cores.map (fun e => (e.1, (left e.2).refill)) }

/-- Cancel: the task completes with CANCELLED where no team of it has started. -/
def execQctlCancel (f q n : Nat) (s : State) : Out1 :=
  match s.owns f q, s.task (taskKey q n) with
  | true, some k =>
    if k.complete ∨ k.started ≠ 0 then .next s
    else
      let key := taskKey q n
      let s := s.setTask key { k with eligible := none, admitted := false }
      .next ((s.dropQueued (fun x => x.task == key)).completeTask key 4 0 0)
  | _, _ => .next s

end Sys2Proof.Machine
end

