-- ==== Sys2Proof/Machine/Fence.lean ====
section
/-! DEFINITION. Fences and cache maintenance, row 0x2C (R190 to R193), and the walkers that CFLUSH and CINV use (R385,
R386). -/

namespace Sys2Proof.Machine

/-- The acquire action and the release action of a fence (R285, R291, R292). -/
def State.fence (s : State) (core colour sc : Nat) (acq rel : Bool) : State :=
  let s := if rel then { s with mem := s.mem.releaseFence core colour sc } else s
  if acq then { s with mem := s.mem.acquireFence core colour sc } else s

/-- FENCE (R190). -/
def fenceOp (o : Op) (w : Long) (s : State) : Out1 :=
  runInstr o (fun i => w.ord != 0 && (i.ctl || o.unguarded)) (fun i =>
    if !i.performed then .error (.wait .result (fun s => s))
    else .ok (Done.only (i.s.fence i.core i.colour w.sc.toNat (w.ord % 2 == 1) (2 ≤ w.ord)))) s

/-- A command whose work is not yet done (R191): its end has not been reached, and no fault has ended it. -/
def Cmd.unfinished (c : Cmd) : Bool := !c.complete && c.status != 4 && c.fin == 0

/-- What the issuing agent has given to the engines. -/
def Iss.given (i : Iss) : List (Nat × Nat) := if i.ctl then i.C.appended else i.G.appended

/-- Whether every earlier access on a path that the issuing agent has asked for has been performed (R191): its lane
copies, its commands that the path carries (those that only touch the tile store have no access), its walks. -/
def Iss.pathDone (i : Iss) (x : Nat) : Bool :=
  let cmds (ch : Nat) (P : Cmd → Bool) : Bool := i.given.all (fun (c, n) => c != ch ||
    !((i.T.chain ch).cmd (BitVec.ofNat 32 n)).any (fun c => c.unfinished && P c))
  if x = 0 then i.performed
  else if x = 1 then i.G.ops.isEmpty && cmds 0 (fun _ => true)
  else if x = 2 then cmds 1 (fun c => c.opc != 3 && c.opc != 6)
  else if x = 3 then cmds 2 (fun _ => true)
  else if x = 4 then i.given.all (fun (c, n) => c != 3 || (Tbl.get i.s.sched.walks n).isNone)
  else true

/-- FENCEX (R191): codes 0 LS, 1 CP, 2 MX, 3 CL, 4 CW, 5 HI, 6 PI. -/
def fencexOp (o : Op) (w : Long) (s : State) : Out1 :=
  let x := w.bits 31 29
  let y := w.bits 28 26
  runInstr o (fun i => x < 7 && y < 7 && (i.ctl || o.unguarded)) (fun i =>
    if !i.pathDone x then .error (.wait (if x = 0 then .result else .engines) (fun s => s))
    else if x = 0 ∧ y = 0 then .ok (Done.only (i.s.fence i.core i.colour w.sc.toNat true true))
    else
      let m := if x = 0 then i.s.mem.drain i.core i.colour else i.s.mem
      .ok (Done.only { i.s with mem := if y = 0 then m.dropClean i.core i.colour else m })) s

/-! Walkers (R385, R386). -/

/-- The walk that runs on a walker of a tower. -/
def State.onWalker (s : State) (tower k : Nat) : Option (Nat × Walk) :=
  s.sched.walks.find? (fun e => e.2.tower == tower && e.2.on == some k)
/-- The free walkers of a tower, lowest first. -/
def State.freeWalkers (s : State) (tower : Nat) : List Nat :=
  (List.range 8).filter (fun k => (s.onWalker tower k).isNone)
def State.setWalk (s : State) (n : Nat) (w : Walk) : State :=
  { s with sched := { s.sched with walks := Tbl.set s.sched.walks n w } }
def State.dropWalk (s : State) (n : Nat) : State :=
  { s with sched := { s.sched with walks := Tbl.erase s.sched.walks n } }

/-- The walks of a team given to another number: 2^32 plus an image's number while it is saved, 2^33 once it has ended. -/
def State.moveWalks (s : State) (old new : Nat) : State :=
  { s with sched := { s.sched with walks := s.sched.walks.map (fun e => if e.2.team == old then (e.1, { e.2 with team := new }) else e) } }

/-- The running walk that one of class c stops: the highest class number above c, then the last started, then the higher
range (R386). -/
def State.victim (s : State) (tower c : Nat) : Option (Nat × Walk) :=
  (s.sched.walks.filter (fun e => e.2.tower == tower && e.2.on.isSome && c < e.2.cls)).foldl
    (fun (b : Option (Nat × Walk)) e =>
      match b with
      | none => some e
      | some x =>
        if x.2.cls < e.2.cls || (x.2.cls == e.2.cls && (x.2.age < e.2.age || (x.2.age == e.2.age && x.2.lo < e.2.lo)))
        then some e else some x) none

/-- The walker that a waiting walk of a class takes, with the state in which it is free: a free one for which no waiting
walk has a lower class number, else that of the walk it stops. -/
def State.takeWalker (s : State) (tower c : Nat) : Option (Nat × State) :=
  let better := (s.sched.walks.filter (fun e => e.2.tower == tower && e.2.on.isNone && e.2.cls < c)).length
  match (s.freeWalkers tower)[better]? with
  | some k => some (k, s)
  | none =>
    if !(s.freeWalkers tower).isEmpty then none
    else match s.victim tower c with
      | some (n, v) => match v.on with
        | some k => some (k, s.setWalk n { v with on := none })
        | none => none
      | none => none

/-- The class of a team's task. -/
def Iss.cls (i : Iss) : Nat := i.T.cls

/-- The operands of R192: a quad or pair of the stream, and a length. -/
def Iss.rangeOk (i : Iss) (o : Op) (w : Long) : Bool :=
  i.aOnce w 128 && (w.bsel == 3 || w.bsel == (if i.ctl then 0 else 1)) && (i.ctl || o.unguarded)
/-- The length: n32 in the group stream, n64 in the control stream. -/
def Iss.rangeLen (i : Iss) (w : Long) : Nat :=
  if w.bsel = 3 then w.litNat else if i.ctl then (i.cReg w.b.toNat).toNat else i.kVal 32 w.b.toNat

/-- The capability and region checks of a range read (R192, R193). -/
def Iss.rangeCheck (i : Iss) (c : CapV) (perms n : Nat) : Except Stop Unit := do
  let x : Acc := ⟨0, c, c.cursor⟩
  i.lsCheck ⟨[0, 3], perms, false, false, fun _ => none⟩ n true [x]
  if n ≠ 0 ∧ regionChecked c.cursor then
    if (admitting i.T.regions c.cursor (c.cursor + n) .read).isEmpty then
      .error (.trap (Trap.of cUNDECLARED 0 (regionDetail i.T.regions c.cursor (c.cursor + n)) i.p.mask))

/-- CFLUSH and CINV (R192): `inv` drops the copies. -/
def walkOp (o : Op) (w : Long) (inv : Bool) (s : State) : Out1 :=
  let h := Long.hb w
  runInstr o (fun i => i.rangeOk o w && i.ownsBar h) (fun i => do
    i.ecc i.p.mask (i.once 128 w.a.toNat ++ (if i.ctl || w.bsel == 3 then [] else srcRegs true 32 w.b.toNat))
    let c := i.capOnce w.a.toNat
    let n := i.rangeLen w
    i.rangeCheck c pLD n
    if n = 0 ∨ w.sc.toNat < 2 then .ok (Done.only (i.s.arrive i.core h 1 0))
    else
      let tower := i.core / 64
      match i.s.takeWalker tower i.cls with
      | none => .error (.wait .walker (fun s => s))
      | some (k, s) =>
        let a := c.cursor
        let x : Walk := { kind := if inv then .inv else .flush, tower := tower, lo := a, hi := a + n,
                          cursor := a / 128 * 128, cls := i.cls, age := i.s.clock + 1, on := some k, core := i.core,
                          scope := w.sc.toNat, colour := i.colour, team := i.team, bar := h, task := i.T.task,
                          visited := 0 }
        let s1 := s.setWalk s.sched.walkNo x
        let s2 := { s1 with sched := { s1.sched with walkNo := s1.sched.walkNo + 1 } }
        .ok (Done.only (i.noteGiven s2 3 s.sched.walkNo))) s

/-- ICINV (R193): the core's dirty bytes of the range go back to where fetches are served, then the instruction-cache
lines of every core in scope that meet the range go. -/
def icinvOp (o : Op) (w : Long) (s : State) : Out1 :=
  runInstr o (fun i => i.rangeOk o w) (fun i => do
    i.ecc i.p.mask (i.once 128 w.a.toNat ++ (if i.ctl || w.bsel == 3 then [] else srcRegs true 32 w.b.toNat))
    let c := i.capOnce w.a.toNat
    let n := i.rangeLen w
    i.rangeCheck c (if c.form = 3 then pEX else pLD) n
    let lo := c.cursor / 128
    let hi := (c.cursor + n + 127) / 128
    let m := i.s.mem.backWhere (fun k => l1Core k == i.core && l1Colour k == i.colour && lo ≤ l1Line k && l1Line k < hi) true
    let m := m.dropCode (fun k => inScope w.sc.toNat i.core (icCore k) && lo ≤ icLine k && icLine k < hi && n != 0)
    .ok (Done.only { i.s with mem := m })) s

def execFence (w : Long) : State → Out1 := fenceOp (Op.long 0x2C 0 w) w
def execFencex (w : Long) : State → Out1 := fencexOp (Op.long 0x2C 1 w) w
def execCflush (w : Long) : State → Out1 := walkOp (Op.long 0x2C 2 w) w false
def execCinv (w : Long) : State → Out1 := walkOp (Op.long 0x2C 3 w) w true
def execIcinv (w : Long) : State → Out1 := icinvOp (Op.long 0x2C 4 w) w

end Sys2Proof.Machine
end

