-- ==== Sys2Proof/Machine/Walks.lean ====
section
/-! DEFINITION. Cache walkers, edges and forwards at work; drains of release records (R192, R290, R291, R381, R383, R385
to R387). -/

namespace Sys2Proof.Machine

/-! One visit. -/

/-- The towers whose L2 lies inside a scope member set (R280). -/
def towersIn (sc core : Nat) : List Nat :=
  if sc < 4 then [] else (List.range 4).filter (fun t => inScope sc core (64 * t))

/-- Clean L2 copies of a line dropped in some towers. -/
def Mem.dropL2 (m : Mem) (line : Nat) (ts : List Nat) : Mem :=
  { m with l2 := Store.write m.l2 line (ts.foldl (fun x t => x &&& ~~~(BitVec.ofNat 4 (2 ^ t))) (Store.read m.l2 line)) }

/-- Room for one more forwarded copy in a tower's L2 (R2): 128 MiB, 2^20 lines. Which copy goes is a free value (log 5). -/
def State.l2Room (s : State) (tower : Nat) : State :=
  let l := (s.mem.l2.filter (fun e => e.2.getLsbD tower)).map (·.1)
  if l.length < 2 ^ 20 then s
  else
    let (x, s) := s.draw
    { s with mem := s.mem.dropL2 ((l[x % l.length]?).getD 0) [tower] }

/-- A line visited by a walk: CFLUSH and CINV act on the caches of their scope (R192), an edge on the cores of the task's
placement set (R381), a forward copies the line into the target towers (R383). -/
def State.visitLine (s : State) (w : Walk) (line : Nat) : State :=
  let held (k : Nat) : Bool := l1Line k == line && l1Colour k == w.colour
  match w.kind with
  | .flush => { s with mem := s.mem.backWhere (fun k => held k && inScope w.scope w.core (l1Core k)) true }
  | .inv =>
    let m := s.mem.backWhere (fun k => held k && inScope w.scope w.core (l1Core k)) false
    { s with mem := m.dropL2 line (towersIn w.scope w.core) }
  | .edge =>
    let cores := ((s.task w.task).map (·.cores)).getD []
    { s with mem := s.mem.backWhere (fun k => held k && cores.contains (l1Core k)) true }
  | .forward =>
    let s := ((List.range 4).filter (fun t => w.scope.testBit t)).foldl State.l2Room s
    { s with mem := { s.mem with l2 := Store.write s.mem.l2 line (Store.read s.mem.l2 line ||| BitVec.ofNat 4 w.scope) } }

/-- Up to n lines visited, in ascending address order (R385). -/
def State.visitLines : Nat → Walk → State → Walk × State
  | 0, w, s => (w, s)
  | k + 1, w, s =>
    if w.hi ≤ w.cursor then (w, s)
    else State.visitLines k { w with cursor := w.cursor + 128, visited := w.visited + 1 } (s.visitLine w (lineOf w.cursor))

/-- A running walk visits up to n lines. -/
def State.visitWalk (s : State) (wn n : Nat) : Out1 :=
  match Tbl.get s.sched.walks wn with
  | some w =>
    if w.on.isNone ∨ w.hi ≤ w.cursor ∨ n = 0 then .refused .notEnabled
    else let (w, s) := State.visitLines n w s; .next (s.setWalk wn w)
  | none => .refused .notEnabled

/-! Starts, stops, resumptions, ends (R385, R386). -/

/-- A waiting walk takes a walker. Stripes of one edge start in ascending address order. -/
def State.startWalk (s : State) (wn : Nat) (w : Walk) : Option State :=
  let behind : Bool := w.kind != .flush && w.kind != .inv && s.sched.walks.any (fun e =>
    e.2.on.isNone && e.2.age == 0 && w.age == 0 && e.2.kind == w.kind && e.2.task == w.task && e.2.tower == w.tower &&
      e.2.lo < w.lo)
  if w.on.isSome ∨ behind then none
  else (s.takeWalker w.tower w.cls).map (fun (k, s) =>
    s.setWalk wn { w with on := some k, age := if w.age = 0 then s.clock + 1 else w.age })

def execCacheWalk (w : Nat) (s : State) : Out1 :=
  match Tbl.get s.sched.walks w with
  | some x => if x.age = 0 then stepSome (s.startWalk w x) else .refused .notEnabled
  | none => .refused .notEnabled

def execWalkResume (w : Nat) (s : State) : Out1 :=
  match Tbl.get s.sched.walks w with
  | some x => if x.age ≠ 0 then stepSome (s.startWalk w x) else .refused .notEnabled
  | none => .refused .notEnabled

/-- The arrival of a CFLUSH or CINV walk at its barrier: held where the team is saved (R387), none where it has ended. -/
def State.walkArrival (s : State) (w : Walk) : State :=
  if 2 ^ 32 ≤ w.team then
    match Tbl.get s.sched.saves (w.team - 2 ^ 32) with
    | some v => { s with sched := { s.sched with
        saves := Tbl.set s.sched.saves (w.team - 2 ^ 32) { v with arrivals := v.arrivals ++ [w.bar] } } }
    | none => s
  else match s.team w.team with
    | some T => (s.arrive T.core w.bar 1 0).detect T.core
    | none => s

def execWalkEnd (w : Nat) (s : State) : Out1 :=
  match Tbl.get s.sched.walks w with
  | some x =>
    if x.on.isNone ∨ x.cursor < x.hi then .refused .notEnabled
    else
      let s := s.dropWalk w
      .next (match x.kind with
        | .flush => s.walkArrival x
        | .inv => s.walkArrival x
        | _ => s)
  | none => .refused .notEnabled

/-- A forward pushes its next line (R383). -/
def execForward (w : Nat) (s : State) : Out1 :=
  match Tbl.get s.sched.walks w with
  | some x => if x.kind = .forward then s.visitWalk w 1 else .refused .notEnabled
  | none => .refused .notEnabled

/-! Edges cut into stripes (R385). -/

/-- The first line's address of [lo, hi) and one past its last line, within HBM. -/
def hbmPart (lo hi : Nat) : Option (Nat × Nat) :=
  let a := lo / 128 * 128
  let b := min hbmTop (cdiv hi 128 * 128)
  if lo < hi ∧ a < b then some (a, b) else none

/-- A range joined to a sorted list of disjoint ranges. -/
def joinRange (r : Nat × Nat) : List (Nat × Nat) → List (Nat × Nat)
  | [] => [r]
  | x :: l =>
    if r.2 < x.1 then r :: x :: l
    else if x.2 < r.1 then x :: joinRange r l
    else joinRange (min r.1 x.1, max r.2 x.2) l

/-- The union of ranges, ascending and disjoint. -/
def joinRanges (l : List (Nat × Nat)) : List (Nat × Nat) := l.foldl (fun acc r => joinRange r acc) []

/-- A range cut at every 1 MiB boundary; a channel set is a whole number of them. -/
def stripes : Nat → Nat → Nat → List (Nat × Nat)
  | 0, _, _ => []
  | n + 1, lo, hi =>
    if hi ≤ lo then []
    else
      let b := min hi ((lo / 0x100000 + 1) * 0x100000)
      (lo, b) :: stripes n b hi

/-- The stripes of ranges, in ascending address order. -/
def stripesOf (rs : List (Nat × Nat)) : List (Nat × Nat) :=
  (joinRanges (rs.filterMap (fun (lo, hi) => hbmPart lo hi))).flatMap (fun (lo, hi) => stripes ((hi - lo) / 0x100000 + 2) lo hi)

/-- A new walk of a stripe, waiting for a walker of its home tower. -/
def State.addStripe (s : State) (kind : WalkKind) (k : Nat) (T : Task) (scope : Nat) (r : Nat × Nat) : State :=
  let w : Walk := { kind := kind, tower := towerOf r.1, lo := r.1, hi := r.2, cursor := r.1, cls := T.cls, age := 0,
                    on := none, core := 0, scope := scope, colour := T.colour, team := 2 ^ 33, bar := 0, task := k, visited := 0 }
  let s := s.setWalk s.sched.walkNo w
  { s with sched := { s.sched with walkNo := s.sched.walkNo + 1 } }

/-- A stripe cut where a target tower has taken the 64 MiB of lines that a task forwards to each, every piece with its
targets as a set of bits, and the lines then left for each tower (R383). Each cut ends the part of one tower, so five
pieces are enough. -/
def forwardTo (targets : List Nat) : Nat → List Nat → Nat × Nat → List (Nat × (Nat × Nat)) × List Nat
  | 0, left, _ => ([], left)
  | n + 1, left, (lo, hi) =>
    let into := (List.range 4).filter (fun t => targets.contains t && towerOf lo != t && decide (0 < (left[t]?).getD 0))
    if hi ≤ lo ∨ into.isEmpty then ([], left)
    else
      let m := into.foldl (fun m t => min m ((left[t]?).getD 0)) ((hi + 127) / 128 - lo / 128)
      let mid := min hi ((lo / 128 + m) * 128)
      let (l, rest) := forwardTo targets n (left.zipIdx.map (fun (x, t) => if into.contains t then x - m else x)) (mid, hi)
      (((into.map (2 ^ ·)).sum, (lo, mid)) :: l, rest)

/-- The forwards of overlaps to the towers that hold dealt teams (R383). -/
def State.addForwards (s : State) (k : Nat) (T : Task) (targets : List Nat) (rs : List (Nat × Nat)) : State :=
  ((stripesOf rs).foldl (fun (acc : State × List Nat) r =>
    let (l, left) := forwardTo targets 5 acc.2 r
    (l.foldl (fun s e => s.addStripe .forward k T e.1 e.2) acc.1, left)) (s, List.replicate 4 0x80000)).1

/-! Release records (R290, R291). -/

/-- A core that a record names drains its dirty lines of the colour. -/
def execDrainRequest (core colour : Nat) (s : State) : Out1 :=
  stepIf (s.mem.rel.any (fun e => e.1 % 4096 == colour && (s.mem.relCores (e.1 / 4096) colour).contains core))
    { s with mem := s.mem.drain core colour }

def execReleaseRecordRetirement (line colour : Nat) (s : State) : Out1 :=
  stepIf (Store.read s.mem.rel (relKey line colour) != 0) { s with mem := s.mem.retireRel line colour }

end Sys2Proof.Machine
end

