-- ==== Sys2Proof/Machine/Teams.lean ====
section
/-! DEFINITION. Teams on cores: placement, the L1 scan, start, end, the end by firmware (R20 to R34, R245 to R249, R337,
R364, R366, R372, R380 to R382, R397, R449). -/

namespace Sys2Proof.Machine

/-! Placement (R246, R247, R397). -/

/-- What a team needs of a core. -/
structure Need where
  g : Nat
  rows : Nat
  scratch : Nat
  deriving DecidableEq, Repr

def Task.need (k : Task) : Need := { g := k.teamg, rows := k.rowsNeed, scratch := k.scratchNeed }

/-- Whether a group slot is free. -/
def State.slotFree (s : State) (g : Nat) : Bool := (s.group g).all (fun G => G.run == .retired)
/-- The teams of a core. -/
def State.teamsOf (s : State) (core : Nat) : List (Nat × Team) := s.teams.filter (fun e => coreOfTeam e.1 == core)
/-- The lowest free team slot. -/
def State.freeTslot (s : State) (core : Nat) : Option Nat := (List.range 4).find? (fun t => (s.team (core * 4 + t)).isNone)

/-- Whether a run of a core's scratchpad is free. -/
def State.scratchFree (s : State) (core off len : Nat) : Bool :=
  off + len ≤ 393216 && (s.teamsOf core).all (fun e =>
    let a := e.2.scratch - windowOf core
    off + len ≤ a || a + e.2.allocLen ≤ off)

/-- The lowest free run of a length, at a multiple of 1 KiB. -/
def State.scratchAt (s : State) (core len : Nat) : Option Nat :=
  ((List.range 385).map (1024 * ·)).find? (fun off => s.scratchFree core off len)

/-- The free slots that a team's groups take, in GRP order: the pipe with the fewest groups, the lowest slot on it. -/
def pickSlots : Nat → List Nat → Option (List Nat)
  | 0, _ => some []
  | n + 1, free =>
    let on (p : Nat) : List Nat := free.filter (fun x => x % 4 == p)
    let p := [1, 2, 3].foldl (fun b p => if (on b).length < (on p).length then p else b) 0
    match (on p).head? with
    | some x => (pickSlots n (free.filter (· != x))).map (x :: ·)
    | none => none

/-- The slots for a number of groups on a core. -/
def State.slotsFor (s : State) (core n : Nat) : Option (List Nat) :=
  pickSlots n ((List.range 32).filter (fun x => s.slotFree (core * 32 + x)))

/-- Where a team fits on a core now: team slot, group slots, scratchpad offset. -/
structure Spot where
  tslot : Nat
  slots : List Nat
  off : Nat
  deriving DecidableEq, Repr

def State.spot (s : State) (core : Nat) (n : Need) : Option Spot :=
  if (s.core core).dead ∨ s.freeRows core < n.rows then none
  else match s.freeTslot core, s.slotsFor core n.g, s.scratchAt core n.scratch with
    | some t, some l, some off => some { tslot := t, slots := l, off := off }
    | _, _, _ => none

/-- The largest image of a team of a task (R396, R397): every barrier, rows at RLIM, every tile unit of TILES. -/
def State.imageMax (s : State) (k : Task) : Nat :=
  4096 + 4096 + 16 * 512 + 16384 + 8192 * k.teamg + 384 * (s.fn k.fn).rlim.toNat + k.scratchNeed + 16384 * k.tiles

/-- The runs of a function's save area, offset and length, that its resident and saved teams have reserved. -/
def State.reserved (s : State) (f : Nat) : List (Nat × Nat) :=
  (s.teams.map (·.2) ++ s.sched.saves.map (·.2.team)).filterMap (fun T => if T.fn = f then T.area else none)

/-- The lowest run of a length that meets none of a list within a limit. -/
def lowestGap (len limit : Nat) (used : List (Nat × Nat)) : Option Nat :=
  (sortKey id (0 :: used.map (fun r => r.1 + r.2))).find? (fun a =>
    a + len ≤ limit && used.all (fun r => a + len ≤ r.1 || r.1 + r.2 ≤ a))

/-- Runs for `n` more images of a length. -/
def moreRuns (len limit : Nat) : Nat → List (Nat × Nat) → Option (List (Nat × Nat))
  | 0, _ => some []
  | n + 1, used => match lowestGap len limit used with
    | some a => (moreRuns len limit n (used ++ [(a, len)])).map ((a, len) :: ·)
    | none => none

/-- Room in the save area for `n` more images of a task (R397, log 50). -/
def State.reserve (s : State) (k : Task) (n : Nat) : Option (List (Nat × Nat)) :=
  (Tbl.get s.sec.exts (s.fn k.fn).csax.toNat).bind (fun e => moreRuns (s.imageMax k) (e.lenp * 4096) n (s.reserved k.fn))

/-- Whether `n` more images of a task can be reserved. -/
def State.canReserve (s : State) (k : Task) (n : Nat) : Bool := (s.fn k.fn).csax == 0x3FF || (s.reserve k n).isSome

/-! The scan of R382. -/

/-- Whether a line meets a record of some modes. -/
def meets (rs : List Region) (modes : List Nat) (lo hi : Nat) : Bool :=
  rs.any (fun r => modes.contains r.mode && max r.base lo < min r.top hi)

/-- A core writes back and drops its lines of a colour that meet R or RW regions. -/
def State.scanL1 (s : State) (core colour : Nat) (rs : List Region) : State :=
  { s with mem := s.mem.backWhere (fun x => l1Core x == core && l1Colour x == colour &&
      meets rs [1, 3] (128 * l1Line x) (128 * l1Line x + 128)) false }

/-! Start (R248, R364, R366). -/

/-- LD, ST, LC, SC, AT and EN, without GL. -/
def permsTeam : Nat := pLD ||| pST ||| pLC ||| pSC ||| pAT ||| pEN

/-- Role index, group index within the role, and the role of each group in GRP order. -/
def Task.groupRoles (k : Task) : List (Nat × Nat × Role) :=
  (k.roleList.zipIdx).flatMap (fun (r, i) => (List.range r.g).map (fun j => (i, j, r)))

/-- A capability in a register quad. -/
def Group.withKp (G : Group) (n : Nat) (c : CapV) : Group :=
  let G := (List.range 4).foldl (fun (G : Group) j => G.write (.k (4 * n + j) (c.bits.extractLsb' (32 * j) 32))) G
  G.write (.ktag n c.tag)

/-- A capability in a register pair. -/
def Ctx.withCp (C : Ctx) (n : Nat) (c : CapV) : Ctx :=
  let C := (C.write (.c (2 * n) (c.bits.extractLsb' 0 64))).write (.c (2 * n + 1) (c.bits.extractLsb' 64 64))
  C.write (.ctag n c.tag)

/-- The header of a task's image, and its role table. -/
def State.image (s : State) (k : Task) : Header × List Nat × State :=
  let a := k.code.cursor
  let (hb, s) := s.engRead a 32
  let h : Header := ⟨leNat hb⟩
  let (rb, s) := s.engRead (a + h.rtab) 32
  (h, roleEntries rb, s)

/-- A new team of a task at a spot. -/
def newTeam (key idx core : Nat) (k : Task) (p : Spot) (now : Nat) : Team :=
  let base := windowOf core + p.off
  { task := key, index := idx, colour := k.colour, fn := k.fn, cls := k.cls, core := core, tslot := p.tslot,
    groups := p.slots.map (core * 32 + ·), roles := k.roleList.map (fun r => (r.g, if r.comm then 1 else 0)),
    scratch := base, scratchLen := k.sLen, allocLen := k.scratchNeed, param := k.param,
    spad := CapV.mint 0 permsTeam k.colour base (base + k.sLen) base,
    cstore := CapV.mint 0 (pLD ||| pST ||| pLC ||| pSC) k.colour (cstoreOf core p.tslot) (cstoreOf core p.tslot + 0x4000)
      (cstoreOf core p.tslot),
    regions := k.regions, chains := [Chain.new, Chain.new, Chain.new], ridx := 0, taken := 0, ringQ := [], tiles := [],
    tileMax := k.tiles, owners := [], join := none, started := now, halt := false, partialEnd := none, ringLast := ⟨0, 0⟩,
    area := none }

/-- The placement word of a group (R24). -/
def k53Of (core slot tslot role grp rgrp : Nat) : Word :=
  BitVec.ofNat 32 (core * 2 ^ 24 + slot * 2 ^ 19 + tslot * 2 ^ 17 + role * 2 ^ 14 + grp * 2 ^ 10 + rgrp * 2 ^ 6)

/-- A group at its launch values (R20 to R31, R36, R245). -/
def newGroup (t key core slot grp : Nat) (T : Team) (k : Task) (h : Header) (rtab : List Nat) (r : Nat × Nat × Role) (now : Nat) :
    Group :=
  let (role, rgrp, e) := r
  let a := k.code.cursor
  let priv := T.scratch + k.sLen + 96 * k.pLen * grp
  let G : Group := { Group.blank with
    team := t, k53 := k53Of core slot T.tslot role grp rgrp,
    k54 := BitVec.ofNat 32 (taskSeq key % 2 ^ 12 * 2 ^ 20 + T.index), held := e.rows,
    stack := [Path.fresh .conv (BitVec.ofNat 64 (a + (rtab[role]?).getD 0)) allLanes k.code], readySince := now,
    resume := .path (core * 32 + slot) 0,
    perf := { since := now, instrs := 0, beats := 0, waits := 0 }, code := k.code,
    trapv := if h.trapv = 0 then 0 else a + h.trapv, priv := priv, psize := k.pLen, boost := e.boost }
  ((G.withKp 0 k.param).withKp 1 (CapV.mint 0 permsTeam k.colour priv (priv + 96 * k.pLen) priv)).withKp 2 T.spad

/-- A control-thread context at its launch values (R34, R133, R257). -/
def newCtx (core : Nat) (T : Team) (k : Task) (h : Header) (now : Nat) : Ctx :=
  let C : Ctx := { Ctx.blank with
    path := Path.fresh .conv (BitVec.ofNat 64 (k.code.cursor + h.centry)) 1 k.code
    perf := { since := now, instrs := 0, beats := 0, waits := 0 } }
  let C := ((C.withCp 0 k.param).withCp 1 T.spad).withCp 2 T.cstore
  (C.write (.c 6 (BitVec.ofNat 64 T.index))).write (.c 7 (BitVec.ofNat 64 (core * 2 ^ 24 + T.tslot * 2 ^ 17)))

/-- The cluster capability of a CSPAN team (R272, R366). -/
def clusterCap (core colour : Nat) : CapV :=
  let b := windowOf (core / 8 * 8)
  CapV.mint 0 (pLD ||| pST ||| pLC ||| pAT ||| pEN) colour b (b + 0x800000) b

/-- A team starts at a spot. -/
def State.startAt (s : State) (core key idx : Nat) (k : Task) (p : Spot) : State :=
  let t := core * 4 + p.tslot
  let (h, rtab, s) := s.image k
  let T := { newTeam key idx core k p s.clock with
    area := if (s.fn k.fn).csax = 0x3FF then none else (s.reserve k 1).bind (·.head?) }
  let s := s.setTeam t T
  let s := s.setCtx t (newCtx core T k h s.clock)
  let s := ((p.slots.zip k.groupRoles).zipIdx).foldl (fun (s : State) x =>
    s.setGroup (core * 32 + x.1.1) (newGroup t key core x.1.1 x.2 T k h rtab x.1.2 s.clock)) s
  let s := if k.cspan then
      let c := clusterCap core k.colour
      { s with mem := s.mem.homeWriteTagged T.scratch (leBytes 16 c.bits.toNat) true }
    else s
  match s.task key with
  | some k => s.setTask key { k with started := k.started + 1, cores := if k.cores.contains core then k.cores else k.cores ++ [core] }
  | none => s

/-- What the scan of R382 is for: the team at the head of the queue. -/
def QTeam.mark (x : QTeam) : Nat := x.task * 2 ^ 20 + x.index

def execL1RegionScan (core : Nat) (s : State) : Out1 :=
  match (s.core core).teamq with
  | x :: _ => match s.task x.task with
    | some k =>
      if (s.core core).dead then .refused .notEnabled
      else
        let s := s.scanL1 core k.colour k.regions
        .next (s.setCore core { s.core core with scanned := some x.mark })
    | none => .refused .notEnabled
  | [] => .refused .notEnabled

/-- The head of a core's team queue starts where it fits, its scan over; in a cycle in which the core has answered a glean,
the starts have come first (R368). -/
def execTeamStart (core : Nat) (s : State) : Out1 :=
  let c := s.core core
  match c.teamq with
  | x :: rest => match s.task x.task with
    | some k => match s.spot core k.need with
      | some p =>
        if x.saved.isSome ∨ c.scanned ≠ some x.mark ∨ !s.canReserve k 1 ∨ !(s.dealt k.fn).contains core ∨ s.frozen k.fn ∨
            c.answered.past s.clock 0 then .refused .notEnabled
        else .next ((s.setCore core { c with teamq := rest, scanned := none }.refill).startAt core x.task x.index k p)
      | none => .refused .notEnabled
    | none => .refused .notEnabled
  | [] => .refused .notEnabled

/-! End (R249, R380, R381). -/

/-- Whether an address range meets a task's edge set. -/
def Task.inEdge (k : Task) (lo hi : Nat) : Bool := k.edge.any (fun (a, b) => max a lo < min b hi)

/-- The write-back of R380. -/
def State.teamWriteBack (s : State) (T : Team) : State :=
  match s.task T.task with
  | some k =>
    { s with mem := s.mem.backWhere (fun x => l1Core x == T.core && l1Colour x == T.colour &&
        meets k.regions [2, 3] (128 * l1Line x) (128 * l1Line x + 128) && !k.inEdge (128 * l1Line x) (128 * l1Line x + 128)) true }
  | none => s

/-- What a team holds goes back, zeroed (R249). -/
def State.freeTeam (s : State) (t : Nat) (T : Team) : State :=
  let s := T.tiles.foldl (fun (s : State) x => s.zeroTiles T.core x.1 x.2) s
  let cs := cstoreOf T.core T.tslot
  let c := s.core T.core
  let s := (s.moveWalks t (2 ^ 33)).moveFlights t (2 ^ 33)
  let mine (g : Nat) : Bool := (s.group g).any (fun G => G.team == t)
  { s with
    mem := ((s.mem.zeroRange T.scratch (T.scratch + T.allocLen)).zeroRange cs (cs + 0x4000)).unpin (fun h => h.1 == t)
    bars := s.bars.map (fun e => if e.1 / 512 == T.core && e.2.owner == some t then (e.1, { e.2 with owner := none }) else e)
    cores := Tbl.set s.cores T.core { c with dq := c.dq.filter (fun d => d.team != t), mxBusy := c.mxBusy.filter (fun x => x.1 != t) }
    sec := { s.sec with fns := s.sec.fns.map (fun e => (e.1, { e.2 with waiting := e.2.waiting.filter (fun w =>
      match w.unit with
      | .chunk t' _ _ _ => t' != t
      | .line g _ _ _ => !mine g
      | .msg t' _ _ _ => t' != t) })) }
    groups := s.groups.filter (fun e => e.2.team != t)
    ctxs := Tbl.erase s.ctxs t
    teams := Tbl.erase s.teams t
    io := { s.io with reqs := s.io.reqs.filter (fun e => !(match e.2.ag with
      | .path g _ => mine g
      | .handler g => mine g
      | .ctl x => x == t)) } }

/-- One more team of a task has ended; with the last, the end edge begins. -/
def State.teamEnded (s : State) (key : Nat) : State :=
  match s.task key with
  | none => s
  | some k =>
    let k := { k with ended := k.ended + 1 }
    if k.ended < k.total then s.setTask key k
    else
      let k := { k with edgeBegun := true }
      (stripesOf k.edge).foldl (fun s r => s.addStripe .edge key k 0 r) (s.setTask key k)

/-- A team ends: write-back, release of what it holds, the task's count. -/
def State.endTeam (s : State) (t : Nat) (T : Team) : State :=
  (((s.teamWriteBack T).freeTeam t T).detect T.core).teamEnded T.task

/-- A team has no more to do: its groups retired, its control thread exited, its chains idle. A team that comes to this
while a pre-emption halts it ends and is not saved (R400). -/
def State.finished (s : State) (t : Nat) (T : Team) (C : Ctx) : Bool :=
  (s.liveGroups t).isEmpty && C.exited && C.trapped.isNone && T.chains.all (fun c => c.cmds.all Cmd.complete)

def execTeamEnd (t : Nat) (s : State) : Out1 :=
  match s.team t, s.ctx t with
  | some T, some C => stepIf (s.finished t T C) (s.endTeam t T)
  | _, _ => .refused .notEnabled

/-! The end of a task (R358, R381, R389). -/

def execTaskCompletion (key : Nat) (s : State) : Out1 :=
  match s.task key with
  | some k =>
    if k.complete ∨ !k.edgeBegun ∨ s.sched.walks.any (fun e => e.2.kind == .edge && e.2.task == key) then .refused .notEnabled
    else match k.partialRun with
      | some (c, e) => .next (s.completeTask key 2 c e)
      | none => .next (s.completeTask key 1 0 0)
  | none => .refused .notEnabled

/-! Level 2 (R337, R449). -/

/-- An entry of a fault snapshot. -/
def snapEntry (core tslot chain fn colour key progress : Nat) : BitVec 512 :=
  BitVec.ofNat 512 (progress * 2 ^ 256 + taskSeq key * 2 ^ 64 + taskQueue key * 2 ^ 48 + colour * 2 ^ 32 + fn * 2 ^ 24 +
    chain * 2 ^ 16 + tslot * 2 ^ 8 + core)

/-- The commands of a team that are accepted and not complete, as snapshot entries with a status. -/
def Team.snapCmds (T : Team) (st : Option Nat) : List (BitVec 512) :=
  (List.range 3).flatMap (fun ch => ((T.chain ch).cmds.filter (fun c => c.accepted && !c.complete)).map (fun c =>
    snapEntry T.core T.tslot ch T.fn T.colour T.task (({ c with status := st.getD c.status } : Cmd)).progress))

/-- Firmware halts a team and its engines, queues a snapshot, and ends the team. -/
def State.killTeam (s : State) (t : Nat) (T : Team) (trig cause sub : Nat) (word : Word) : State :=
  let ents := T.snapCmds (some 6)
  let s := (List.range 3).foldl (fun (s : State) ch => s.abandonAll t ch) s
  let s := { s with ras := { s.ras with
    trigs := s.ras.trigs ++ (if trig = 0 then [] else [({ trig := trig, core := T.core, word := word, ents := ents } : SnapTrig)]) } }
  let s := match s.task T.task with
    | some k => s.setTask T.task { k with partialRun := some (k.partialRun.getD (cause, sub)) }
    | none => s
  s.endTeam t ((s.team t).getD T)

def execLevel2Fault (t : Nat) (s : State) : Out1 :=
  match s.team t, s.ctx t with
  | some T, some C => match C.trapped with
    | some (cause, sub, word) => .next (s.killTeam t T 1 cause sub (BitVec.ofNat 32 word))
    | none => .refused .notEnabled
  | _, _ => .refused .notEnabled

end Sys2Proof.Machine
end

