-- ==== Sys2Proof/Machine/Sched.lean ====
section
/-! DEFINITION. Appends, admission, dealing, gleaning, the holder of the remainder; TLAUNCH (R232, R355, R362 to R368,
R383, R394). -/

namespace Sys2Proof.Machine

/-! QSUB (R354, R355). -/

/-- The record that a QSUB write names: from the host, or from HBM on the HI path. -/
def State.qsubRead (s : State) (f addr : Nat) (data : Option (List Byte)) : Option (BitVec 2048 × State) :=
  let got (bs : List Byte) (s : State) : Option (BitVec 2048 × State) :=
    if bs.length = 256 then some (BitVec.ofNat 2048 (leNat bs), s) else none
  if isHost addr then data.bind (fun bs => got bs s)
  else if hbmTop < addr + 256 ∨ (s.mem.poisonIn addr 256).isSome then none
  else match s.hiErr f addr 256 false with
    | (some _, _) => none
    | (none, c) => got (s.mem.homeRead addr 256) (s.watchEng 5 (0x4000 + f) c 0 [(addr, 256)])

def execQsub (f q addr : Nat) (data : Option (List Byte)) (s : State) : Out1 :=
  let Q := s.queue q
  if !s.owns f q ∨ (s.fn f).flr ≠ 0 then .next s
  else if 4096 ≤ Q.qcnt then .next (s.setQueue q { Q with full := true })
  else match s.qsubRead f (addr % 2 ^ 56) data with
    | some (r, s) => .next (s.appendTask q f r 0 true qsubRank).2
    | none => .next (s.setQueue q { Q with badaddr := true })

/-! TLAUNCH (R232). -/

def schedTlaunch (o : Op) (w : Long) (s : State) : Out1 :=
  runInstr o (fun i => winLegal w i && cOk 128 w.a.toNat && i.bVal1 w tN64 < 128 && i.s.queueFn (i.bVal1 w tN64) == some i.T.fn)
    (fun i => do
      let q := i.bVal1 w tN64
      let c := i.cpVal w.a.toNat
      let a := c.cursor
      match c.check ⟨[0], pLD ||| (if isSys a then pSY else 0)⟩ i.colour (i.s.colourOk i.colour) false a 256 with
      | some .illegal => i.illegal
      | some (.cap k) => i.trap cCAPABILITY k i.p.mask
      | some .inexact => i.illegal
      | none =>
        match (if a % 64 ≠ 0 then some subBOUNDS else i.s.rangeRefusal i.core i.colour a 256 false) with
        | some k => i.trap cCAPABILITY k i.p.mask
        | none =>
          if !i.performed then .error (.wait .result (fun s => s))
          else if 4096 ≤ (i.s.queue q).qcnt ∨ (i.s.fn i.T.fn).flr ≠ 0 ∨
              (i.s.queue q).last.past i.s.clock (launchRank i.core) then .error (.wait .queue (fun s => s))
          else
            let s := i.s.fence i.core i.colour 6 false true
            match s.engRefusal i.colour a 256 false with
            | some e => .error (.trap (Trap.of e.cause e.sub (s.failDetail e (s.mem.eccAt a)) i.p.mask))
            | none =>
              let (bs, s) := s.engRead a 256
              let tags := ((List.range 16).map (fun j => if s.mem.homeTag (a / 16 + j) then 2 ^ j else 0)).sum
              let (n, s) := s.appendTask q i.T.fn (BitVec.ofNat 2048 (leNat bs)) (BitVec.ofNat 16 tags) false (launchRank i.core)
              .ok { i.results (i.dResult tN32 w.d.toNat n.toNat) with s := s }) s

def execTlaunch (w : Long) : State → Out1 := schedTlaunch (Op.long 0x3F 7 w) w

/-! The choice of a core (R363). -/

/-- A queued team of a function. -/
def State.isOf (s : State) (f : Nat) (x : QTeam) : Bool := (s.task x.task).any (fun k => k.fn == f)
/-- Teams of a function, resident and queued, in a tower. -/
def State.towerLoad (s : State) (f tower : Nat) : Nat :=
  (s.teams.filter (fun e => e.2.fn == f && coreOfTeam e.1 / 64 == tower)).length +
  ((s.cores.filter (fun e => e.1 / 64 == tower)).map (fun e => (e.2.queued.filter (s.isOf f)).length)).sum
/-- Resident and queued teams of a core. -/
def State.coreLoad (s : State) (core : Nat) : Nat := (s.teamsOf core).length + (s.core core).queued.length

/-- The first of a list for which a measure is least. -/
def leastBy {α : Type} (f : α → Nat) : List α → Option α
  | [] => none
  | a :: l => some (l.foldl (fun b x => if f x < f b then x else b) a)

/-- The core chosen among candidates in ascending order; `extra` lists cores of teams already reserved. -/
def State.chooseCore (s : State) (f : Nat) (cores extra : List Nat) : Option Nat :=
  let towers := (List.range 4).filter (fun t => cores.any (fun c => c / 64 == t))
  (leastBy (fun t => s.towerLoad f t + (extra.filter (fun c => c / 64 == t)).length) towers).bind (fun t =>
    leastBy (fun c => s.coreLoad c + (extra.filter (· == c)).length) (cores.filter (fun c => c / 64 == t)))

/-- The cluster chosen for a block, by the same measures of its core 0. -/
def State.chooseCluster (s : State) (f : Nat) (cls extra : List Nat) : Option Nat :=
  (s.chooseCore f (cls.map (8 * ·)) extra).map (· / 8)

/-! Reservation (R365, R366). -/

/-- Whether a resident team may be pre-empted for one of a class of its function. -/
def State.preemptible (s : State) (f cls : Nat) (T : Team) : Bool :=
  T.fn == f && cls < T.cls && (s.fn f).pmask.getLsbD T.cls && (s.fn f).csax != 0x3FF

/-- The state as it would be with some teams gone. -/
def State.without (s : State) (ts : List Nat) : State :=
  { s with
    groups := s.groups.filter (fun e => !ts.contains e.2.team), teams := s.teams.filter (fun e => !ts.contains e.1)
    bars := s.bars.map (fun e => (e.1, { e.2 with owner := e.2.owner.filter (fun t => !ts.contains t) }))
    cores := s.cores.map (fun e => (e.1, { e.2 with dq := e.2.dq.filter (fun d => !ts.contains d.team) })) }

/-- The state as it would be with every such team gone. -/
def State.vacated (s : State) (f cls : Nat) : State :=
  s.without ((s.teams.filter (fun e => s.preemptible f cls e.2)).map (·.1))

/-- Cores for the next teams of a task, one by one, in a hypothetical state; the cores chosen so far come first. -/
def planCores (s : State) (key : Nat) (k : Task) : Nat → State → List Nat → Option (List Nat)
  | 0, _, acc => some acc
  | n + 1, h, acc =>
    match s.chooseCore k.fn ((s.dealt k.fn).filter (fun c => (h.spot c k.need).isSome)) acc with
    | none => none
    | some c => match h.spot c k.need with
      | some p => planCores s key k n (h.startAt c key 0 k p) (acc ++ [c])
      | none => none

/-- A block of `n` teams placed in a hypothetical state, on consecutive cores from a cluster's core 0. -/
def blockFits (key : Nat) (k : Task) : List Nat → State → Option State
  | [], h => some h
  | c :: l, h => match h.spot c k.need with
    | some p => blockFits key k l (h.startAt c key 0 k p)
    | none => none

/-- The cores of the next blocks of a task: `n` teams left. -/
def planBlocks (s : State) (key : Nat) (k : Task) : Nat → Nat → State → List Nat → Option (List Nat)
  | 0, _, _, acc => some acc
  | fuel + 1, n, h, acc =>
    if n = 0 then some acc
    else
      let m := min 8 n
      let fits (c : Nat) : Bool := (blockFits key k ((clusterCores c).take m) h).isSome
      let cls := (List.range 32).filter (fun c => s.wholeCluster c && (clusterCores c).all (s.dealt k.fn).contains && fits c)
      match s.chooseCluster k.fn cls acc with
      | none => none
      | some c => match blockFits key k ((clusterCores c).take m) h with
        | some h => planBlocks s key k fuel (n - m) h (acc ++ (clusterCores c).take m)
        | none => none

/-- Teams from an index on started at once on their cores, each after its scan. -/
def startOn (key : Nat) (k : Task) : Nat → List Nat → State → Option State
  | _, [], s => some s
  | i, c :: l, s => match s.spot c k.need with
    | some p => startOn key k (i + 1) l ((s.scanL1 c k.colour k.regions).startAt c key i k p)
    | none => none

/-- The cores for a grid whole, or for the next block of a task, after the pre-emption that R365 allows. -/
def State.plan (s : State) (key : Nat) (k : Task) : Option (List Nat) :=
  let n := if k.cores' then k.total else min 8 (k.total - k.dealt)
  let h := s.vacated k.fn k.cls
  if k.cspan then planBlocks s key k n n h [] else planCores s key k n h []

/-- A grid or block that can be reserved now: its cores, and the state in which all its teams have started. -/
def State.reservation (s : State) (key : Nat) (k : Task) : Option (List Nat × State) :=
  match s.plan key k with
  | none => none
  | some cores => if s.canReserve k cores.length then (startOn key k k.dealt cores s).map (fun t => (cores, t)) else none

/-! Forwards once a task is dealt (R383). -/

/-- The overlaps of a task's dependences that are forwarded. -/
def State.forwardRanges (s : State) (k : Task) : List (Nat × Nat) :=
  k.deps.flatMap (fun d => match s.task d.on with
    | some p => (overlaps p.regions k.regions).filterMap (fun (lo, hi, no) => if no then none else some (lo, hi))
    | none => [])

/-- Teams of a task dealt to cores; with the last of them its forwards begin. -/
def State.dealtTo (s : State) (key : Nat) (cores : List Nat) : State :=
  match s.task key with
  | none => s
  | some k =>
    let k := { k with dealt := k.dealt + cores.length, place := k.place ++ cores }
    let s := s.setTask key k
    if k.dealt < k.total then s
    else s.addForwards key k ((k.place.map (· / 64)).eraseDups) (s.forwardRanges k)

/-! Admission (R362, R366). -/

/-- A task waits for admission. -/
def Task.waiting (k : Task) : Bool := k.eligible.isSome && !k.complete && !k.admitted

/-- Its place in the order of R362. -/
def Task.before (a b : Nat × Task) : Bool :=
  let key (x : Nat × Task) : List Nat := [x.2.cls, x.2.eligible.getD 0, taskQueue x.1]
  decide (key a < key b) ||
    (key a == key b && taskSeq a.1 != taskSeq b.1 && seqBefore (BitVec.ofNat 32 (taskSeq a.1)) (BitVec.ofNat 32 (taskSeq b.1)))

/-- The task of a function that is admitted next; none while one is still being dealt. -/
def State.nextAdmitted (s : State) (f : Nat) : Option (Nat × Task) :=
  let mine := s.sched.tasks.filter (fun e => e.2.fn == f && !e.2.complete)
  if mine.any (fun e => e.2.admitted && e.2.dealt < e.2.total) then none
  else (mine.filter (fun e => e.2.waiting)).foldl (fun (b : Option (Nat × Task)) e =>
    match b with
    | none => some e
    | some x => if Task.before e x then some e else some x) none

def execAdmission (key : Nat) (s : State) : Out1 :=
  match s.task key with
  | none => .refused .notEnabled
  | some k =>
    if (s.nextAdmitted k.fn).map (·.1) ≠ some key ∨ s.frozen k.fn ∨ (s.dealt k.fn).isEmpty then .refused .notEnabled
    else
      let s1 := s.setTask key { k with admitted := true }
      if !k.cores' then .next s1
      else
        match s1.reservation key k with
        | some (cores, t) => .next (t.dealtTo key cores)
        | none => .refused .notEnabled

/-- The task of a function whose grid, or whose next block, the scheduler reserves whole next (R366). -/
def State.reserving (s : State) (f : Nat) : Option (Nat × Task) :=
  match s.sched.tasks.find? (fun e => e.2.fn == f && !e.2.complete && e.2.admitted && decide (e.2.dealt < e.2.total)) with
  | some e => if e.2.cspan then some e else none
  | none => (s.nextAdmitted f).filter (fun e => e.2.cores')

/-! Dealing (R363, R364). -/

def State.enqueue (s : State) (core : Nat) (x : QTeam) : State :=
  let c := s.core core
  s.setCore core { c with teamq := queueIn x c.teamq }

def execTeamDeal (key : Nat) (s : State) : Out1 :=
  match s.task key with
  | none => .refused .notEnabled
  | some k =>
    if !k.admitted ∨ k.complete ∨ k.total ≤ k.dealt ∨ s.frozen k.fn then .refused .notEnabled
    else if k.cspan then
      match s.reservation key k with
      | some (cores, t) => .next (t.dealtTo key cores)
      | none => .refused .notEnabled
    else
      match s.chooseCore k.fn ((s.dealt k.fn).filter (fun c => (s.core c).teamq.length < 16)) [] with
      | none => .refused .notEnabled
      | some c => .next ((s.enqueue c { task := key, index := k.dealt, cls := k.cls, saved := none }).dealtTo key [c])

/-! Gleaning (R367, R368). -/

/-- The function to whose cores a core belongs now. -/
def State.fnOfCore (s : State) (core : Nat) : Option Nat :=
  (List.range 16).find? (fun f => (s.fn f).en && (s.dealt f).contains core)

/-- The next value of the glean register. -/
def gleanNext (x : BitVec 16) : BitVec 16 :=
  let f := x.getLsbD 15 ^^ x.getLsbD 13 ^^ x.getLsbD 12 ^^ x.getLsbD 10
  (x <<< 1) ||| (if f then 1 else 0)

/-- An idle core sends a glean; one without a candidate counts as failed. -/
def execGlean (core : Nat) (s : State) : Out1 :=
  let c := s.core core
  match s.fnOfCore core with
  | none => .refused .notEnabled
  | some f =>
    if c.dead ∨ !(s.teamsOf core).isEmpty ∨ !c.queued.isEmpty ∨ c.gleanTo.isSome then .refused .notEnabled
    else
      let x := gleanNext c.glean
      let l := (s.dealt f).filter (fun v => v != core && (4 ≤ c.gleanFails || v / 64 == core / 64))
      match l[x.toNat % max 1 l.length]? with
      | some v => .next (s.setCore core { c with glean := x, gleanTo := some v })
      | none => .next (s.setCore core { c with glean := x, gleanFails := c.gleanFails + 1 })

/-- The last n never-started teams of a queue, and what stays. -/
def takeTail (n : Nat) (q : List QTeam) : List QTeam × List QTeam :=
  q.foldr (fun x (acc : List QTeam × List QTeam) =>
    if x.saved.isNone && acc.1.length < n then (x :: acc.1, acc.2) else (acc.1, x :: acc.2)) ([], [])

/-- The victim answers: half of its never-started teams leave its tail. Of the gleans that reach it in one cycle those of the
higher cores are answered first (R368). -/
def execGleanAnswer (core : Nat) (s : State) : Out1 :=
  let c := s.core core
  match c.gleanTo, c.gleanAns with
  | some v, none =>
    let V := s.core v
    if V.answered.past s.clock (255 - core) then .refused .notEnabled
    else
    let u := (V.teamq.filter (fun x => x.saved.isNone)).length
    let (give, stay) := takeTail (cdiv u 2) V.teamq
    let s := s.setCore v { V with teamq := stay, answered := ⟨s.clock + 1, 255 - core⟩ }.refill
    .next (s.setCore core { s.core core with gleanAns := some give })
  | _, _ => .refused .notEnabled

def execGleanAnswerArrival (core : Nat) (s : State) : Out1 :=
  let c := s.core core
  match c.gleanAns with
  | some l =>
    if 16 < c.teamq.length + l.length then .refused .notEnabled
    else .next (s.setCore core { c with
      teamq := l.foldl (fun q x => queueIn x q) c.teamq, gleanFails := if l.isEmpty then c.gleanFails + 1 else 0,
      gleanTo := none, gleanAns := none })
  | none => .refused .notEnabled

/-! The holder of the remainder (R394). -/

/-- Eligible work of a function that is not dealt. -/
def State.eligibleWork (s : State) (f : Nat) : Bool :=
  s.sched.tasks.any (fun e => e.2.fn == f && !e.2.complete && e.2.eligible.isSome && e.2.dealt < e.2.total)
def State.savedWork (s : State) (f : Nat) : Bool := s.sched.saves.any (fun e => e.2.team.fn == f)
def State.residentWork (s : State) (f : Nat) : Bool := s.teams.any (fun e => e.2.fn == f)
def State.queuedWork (s : State) (f : Nat) : Bool := s.cores.any (fun e => e.2.queued.any (s.isOf f))
/-- Eligible, queued, resident or saved work. -/
def State.hasWork (s : State) (f : Nat) : Bool :=
  s.eligibleWork f || s.savedWork f || s.residentWork f || s.queuedWork f

/-- An enabled time-sliced function. -/
def State.sliced (s : State) (f : Nat) : Bool := (s.fn f).en && (s.fn f).ts

/-- The time-sliced functions with work, in the order in which they follow a holder. -/
def State.nextHolder (s : State) (h : Nat) : Option Nat :=
  ((List.range 15).map (fun j => (h + 1 + j) % 16)).find? (fun f => s.sliced f && s.hasWork f)

/-- A function becomes holder with a new quantum, counted in cycles of 1,800 to the microsecond. -/
def State.giveHolder (s : State) (f : Option Nat) : State :=
  { s with sched := { s.sched with
    holder := f, quantumEnd := match f with
      | some f => s.clock + 1800 * (s.fn f).quantum.toNat
      | none => 0 } }

/-- The remainder finds a holder, or a holder without work yields. -/
def execHolderChange (s : State) : Out1 :=
  match s.sched.holder with
  | none => match (List.range 16).find? (fun f => s.sliced f && s.hasWork f) with
    | some f => .next (s.giveHolder (some f))
    | none => .refused .notEnabled
  | some h => stepIf (!s.hasWork h) (s.giveHolder (s.nextHolder h))

/-- A quantum ends. Where another time-sliced function has eligible or saved work, the holder's resident teams have been
pre-empted first. -/
def execQuantumEnd (s : State) : Out1 :=
  match s.sched.holder with
  | none => .refused .notEnabled
  | some h =>
    let other := (List.range 16).any (fun f => f != h && s.sliced f && (s.eligibleWork f || s.savedWork f))
    if s.clock < s.sched.quantumEnd then .refused .notEnabled
    else if !other then .next (s.giveHolder (some h))
    else stepIf (!s.residentWork h) (s.giveHolder ((s.nextHolder h).orElse (fun _ => some h)))

end Sys2Proof.Machine
end

