-- ==== Sys2Proof/Machine/Saves.lean ====
section
/-! DEFINITION. Pre-emption: the request, the save and the restore of a team (R306, R310, R318, R321, R339, R340, R365,
R366, R382, R387, R395 to R400, R421). -/

namespace Sys2Proof.Machine

/-! Tags cleared where a test says so (R55, R421, R422). -/

/-- A capability value of four words of a lane. -/
def Group.vCap (G : Group) (quad lane : Nat) : CapV :=
  ⟨BitVec.ofNat 128 (catWords ((List.range 4).map (fun j => ((G.row (4 * quad + j))[lane]?).getD 0))), true⟩
/-- A capability value of a uniform quad. -/
def Group.kCap (G : Group) (quad : Nat) : CapV :=
  ⟨BitVec.ofNat 128 (catWords ((List.range 4).map (fun j => Store.read G.k (4 * quad + j)))), true⟩

def CapV.untagIf (c : CapV) (bad : CapV → Bool) : CapV := if c.tag && bad c then c.untag else c

def Path.untagWhere (p : Path) (bad : CapV → Bool) : Path := { p with code := p.code.untagIf bad }

/-- Every tag of a group's registers. -/
def Group.untagWhere (G : Group) (bad : CapV → Bool) : Group :=
  { G with
    vtag := G.vtag.map (fun e => (e.1, maskOfLanes ((lanesOf e.2).filter (fun l => !bad (G.vCap e.1 l)))))
    ktag := (List.range 12).foldl (fun (t : BitVec 12) n =>
      if t.getLsbD n && bad (G.kCap n) then t &&& ~~~(BitVec.ofNat 12 (2 ^ n)) else t) G.ktag
    stack := G.stack.map (fun p => p.untagWhere bad)
    handler := G.handler.map (fun h => { h with path := h.path.untagWhere bad, code := h.code.untagIf bad })
    code := G.code.untagIf bad }

/-- Every tag of a context's registers. -/
def Ctx.untagWhere (C : Ctx) (bad : CapV → Bool) : Ctx :=
  { C with
    ctag := (List.range 31).foldl (fun (t : BitVec 32) n =>
      if t.getLsbD n && bad ⟨BitVec.ofNat 128 ((C.reg (2 * n)).toNat + 2 ^ 64 * (C.reg (2 * n + 1)).toNat), true⟩ then
        t &&& ~~~(BitVec.ofNat 32 (2 ^ n)) else t) C.ctag
    path := C.path.untagWhere bad }

/-- Tags of stored granules, read from a memory. -/
def untagStore (m : Memory) (tags : Store 1) (bad : CapV → Bool) : Store 1 :=
  tags.filter (fun e => !bad ⟨BitVec.ofNat 128 (leNat (m.readN (16 * e.1) 16)), true⟩)

/-! The request (R395, R400). -/

/-- Whether a team is of the grid or the block of another, or is that team (R366). -/
def State.together (s : State) (T U : Team) : Bool :=
  (s.task T.task).any (fun k =>
    U.task == T.task && (k.cores' || (if k.cspan then U.index / 8 == T.index / 8 else U.index == T.index)))

/-- The resident teams that must be pre-empted and restored with a team: its grid, its block, or itself (R366). -/
def State.mates (s : State) (T : Team) : List Nat := (s.teams.filter (fun e => s.together T e.2)).map (·.1)

/-- Every group and the context of a team stand at a halting boundary. -/
def State.atBoundary (s : State) (t : Nat) : Bool :=
  (s.groups.all (fun e => e.2.team != t || e.2.run == .retired || e.2.canHalt)) &&
  (match s.ctx t with
    | some C => C.trapped.isNone && C.canHalt
    | none => false)

/-- A team that has not issued its first instruction. -/
def State.unissued (s : State) (t : Nat) : Bool :=
  (s.groups.all (fun e => e.2.team != t || e.2.perf.instrs == 0)) && (s.ctx t).all (fun C => C.perf.instrs == 0)

/-- The outstanding lane copies of a group performed, their charges never waiting (R306, R401). -/
def State.flushCopies (g : Nat) : Nat → State → State
  | 0, s => s
  | n + 1, s =>
    match s.group g with
    | none => s
    | some G => match G.ops, s.team G.team with
      | o :: _, some T =>
        let f := (s.colour T.colour).func
        let F := s.fn f
        let F := { F with waiting := F.waiting.filter (fun x => x.unit != o.work g) }
        let s := s.setFn f (if o.begun then F else F.force (o.width * o.lanes.length))
        State.flushCopies g n (s.lineOp g G T o)
      | _, _ => s

/-- A team goes back to its queue, at the head of its class (R365); where the queue is full, once it has a position. -/
def State.requeue (s : State) (T : Team) (saved : Option Nat) : State :=
  s.setCore T.core ((s.core T.core).takeBack { task := T.task, index := T.index, cls := T.cls, saved := saved })

/-- A team's outstanding lane copies performed (R306). -/
def State.flushTeam (s : State) (t : Nat) : State := (s.liveGroups t).foldl (fun s g => State.flushCopies g 100000 s) s

/-- One target of a request. -/
def State.haltTeam (s : State) (t : Nat) : State :=
  match s.team t with
  | none => s
  | some T =>
    if s.unissued t ∧ (s.task T.task).any (fun k => !k.cores' && !k.cspan) then
      let s := ((s.freeTeam t T).requeue T none).detect T.core
      match s.task T.task with
      | some k => s.setTask T.task { k with started := k.started - 1 }
      | none => s
    else
      let s := s.flushTeam t
      match s.team t with
      | some T => s.setTeam t { T with halt := true }
      | none => s

/-- Whether a team can be pre-empted at all (R397). -/
def State.savable (s : State) (T : Team) : Bool := (s.fn T.fn).csax != 0x3FF

/-! The four sources of a request (R365, R366, R394, R405, R451, R458). -/

/-- Resident teams of which some hold, the youngest first; of those that started in one cycle the higher team slot counts
as younger (log 51). -/
def State.youngest (s : State) (p : Team → Bool) : List Nat :=
  let l := (s.teams.filter (fun e => p e.2)).map (·.1)
  (sortKey (fun t => ((s.team t).map (fun T => 4 * T.started + T.tslot)).getD 0) l).reverse

/-- The fewest of a list of teams, from its first on, without which, and without those before them, something fits. -/
def State.firstEnough (s : State) (fits : State → Bool) : List Nat → List Nat → Option (List Nat)
  | gone, [] => if fits (s.without gone) then some [] else none
  | gone, t :: l => if fits (s.without gone) then some [] else (s.firstEnough fits (gone ++ [t]) l).map (t :: ·)

/-- The teams that are leaving. -/
def State.leavingTeams (s : State) : List Nat := (s.teams.filter (fun e => e.2.halt)).map (·.1)

/-- Teams with their grids and blocks, those already leaving apart (R366, R400). -/
def State.targets (s : State) (ts : List Nat) : List Nat :=
  ((ts.flatMap (fun t => ((s.team t).map s.mates).getD [])).eraseDups).filter (fun t => !s.leavingTeams.contains t)

/-- The pre-emptible teams of a core for one of a class of a function, youngest first, fewest first. -/
def State.roomAt (s : State) (core f cls : Nat) (fits : State → Bool) : List Nat :=
  let l := s.youngest (fun T => T.core == core && !T.halt && s.preemptible f cls T)
  (s.firstEnough fits s.leavingTeams l).getD []

/-- The core in whose queue a saved team stands. -/
def State.queuedAt (s : State) (n : Nat) : Option Nat :=
  (s.cores.find? (fun e => e.2.queued.any (fun x => x.saved == some n))).map (·.1)

/-- The group slots of a restored team, where everything that it needs is free. -/
def State.restoreSlots (s : State) (core tslot : Nat) (v : Save) : Option (List Nat) :=
  let live := v.groups.filter (fun e => e.2.run != .retired)
  let rows := (live.map (fun e => e.2.held + 16)).sum
  let off := v.team.scratch - windowOf v.team.core
  if 4 ≤ tslot ∨ (s.team (core * 4 + tslot)).isSome ∨ (s.core core).dead ∨ s.freeRows core < rows ∨
      !s.scratchFree core off v.team.allocLen ∨
      !(v.team.tiles.all (fun (u, n) => (List.range n).all (fun j => s.tileFree core (u + j)))) ∨
      !(v.bars.all (fun e => (s.bar core e.1).owner.isNone)) ∨ 64 < (s.core core).dq.length + v.decisions.length then none
  else s.slotsFor core live.length

/-! The four sources of a request (R365, R366, R394, R405, R451, R458). -/

/-- Whether the team at the head of a core's queue has room there. -/
def State.headFits (s : State) (core : Nat) (k : Task) (x : QTeam) : Bool :=
  match x.saved with
  | none => (s.spot core k.need).isSome
  | some n => (Tbl.get s.sched.saves n).any (fun v => (List.range 4).any (fun t => (s.restoreSlots core t v).isSome))

/-- R365: what the head of a core's queue has pre-empted. -/
def State.headRoom (s : State) (core : Nat) : List Nat :=
  match (s.core core).teamq with
  | x :: _ => match s.task x.task with
    | some k =>
      if (s.dealt k.fn).contains core && !s.frozen k.fn && (x.saved.isSome || s.canReserve k 1) then
        s.roomAt core k.fn x.cls (fun h => h.headFits core k x)
      else []
    | none => []
  | [] => []

/-- R366: what the reservation of a grid or a block has pre-empted, core by core. -/
def State.planRoom (s : State) (f : Nat) : List Nat :=
  match s.reserving f with
  | some (key, k) =>
    if s.frozen f then []
    else match s.plan key k with
      | some cores =>
        if s.canReserve k cores.length then
          (cores.eraseDups).flatMap (fun c => s.roomAt c f k.cls (fun h => (blockFits key k (cores.filter (· == c)) h).isSome))
        else []
      | none => []
  | none => []

/-- R394: the quantum of the holder has ended and another time-sliced function has eligible or saved work. -/
def State.quantumOver (s : State) (h : Nat) : Bool :=
  decide (s.sched.quantumEnd ≤ s.clock) &&
    (List.range 16).any (fun f => f != h && s.sliced f && (s.eligibleWork f || s.savedWork f))

/-- The teams that one of the four sources would have pre-empted now, each source by itself. -/
def State.wanted (s : State) : List (List Nat) :=
  let of (p : Nat × Team → Bool) : List Nat := s.targets ((s.teams.filter (fun e => p e && s.savable e.2)).map (·.1))
  (List.range 256).map (fun c => s.targets (s.headRoom c)) ++ (List.range 16).map (fun f => s.targets (s.planRoom f)) ++
  [of (fun e => s.sched.holder == some e.2.fn && s.quantumOver e.2.fn)] ++
  (List.range 16).map (fun f => let F := s.fn f
    of (fun e => F.mstatus == 1 && F.mop == 8 && F.mteams.contains (e.1, e.2.task, e.2.index))) ++
  [of (fun e => s.frozen e.2.fn)] ++ (List.range 256).map (fun c => of (fun e => e.2.core == c && (s.core c).retire))

/-- Whether some source names these teams: all of them and no other. -/
def State.requested (s : State) (ts : List Nat) : Bool :=
  s.wanted.any (fun l => !l.isEmpty && l.all ts.contains && ts.all l.contains)

/-- A request of one of the sources (R395); teams that are already leaving have been joined (R400). -/
def execPreemptionRequest (ts : List Nat) (s : State) : Out1 :=
  stepIf (ts.Nodup && s.requested ts && ts.all (fun t => (s.team t).any (fun T => !T.halt && s.savable T)))
    (ts.foldl State.haltTeam s)

/-! The save (R293, R310, R318, R321, R339, R396). -/

/-- A command as it stands once its engine has stopped; of an MMA's K-blocks those not consumed are fetched again. -/
def Cmd.stopped (c : Cmd) : Cmd :=
  let c := { c with status := 5, exec := false }
  if c.opc = 2 then { c with parts := c.parts.filter (fun e => e.1 < 2) }
  else c

/-- A command at work. -/
def Cmd.running (c : Cmd) : Bool := c.accepted && c.status == 1 && c.fin == 0

/-- Commands of every chain of a team changed and their records written. -/
def State.eachCmd (s : State) (t : Nat) (which : Cmd → Bool) (f : Cmd → Cmd) : State :=
  match s.team t with
  | none => s
  | some T => (List.range 3).foldl (fun (s : State) ch =>
      ((T.chain ch).cmds.filter which).foldl (fun (s : State) c => s.putCmd t ch (f c)) s) s

/-- Whether the engines of a team have finished every chunk that they have begun (R310). -/
def Team.quiesced (T : Team) : Bool :=
  T.chains.all (fun ch => ch.cmds.all (fun c => !c.running || c.opc != 1 || (c.sent ++ c.begun).all c.units.contains))

/-- A group as its image holds it: results written, waits dropped (R400); `since` counts the cycles that it was resident
until the restore (R228). -/
def Group.asSaved (G : Group) (now : Nat) : Group :=
  let G := G.quietAll.tidied
  { G with
    perf := { G.perf with since := now - G.perf.since }
    stack := G.stack.map Path.unwait, handler := G.handler.map (fun h => { h with path := h.path.unwait }) }
def Ctx.asSaved (C : Ctx) (now : Nat) : Ctx :=
  let C := settleCtx (fun _ => true) C
  { C with perf := { C.perf with since := now - C.perf.since }, path := C.path.unwait }

/-- Cells of [lo, hi), counted from lo. -/
def cellsFrom (lo hi : Nat) (m : List Host.Cell) : List Host.Cell :=
  (m.filter (fun e => lo ≤ e.1 && e.1 < hi)).map (fun e => (e.1 - lo, e.2))
def tagsFrom (lo hi : Nat) (m : Store 1) : Store 1 :=
  (m.filter (fun e => lo ≤ 16 * e.1 && 16 * e.1 < hi)).map (fun e => (e.1 - lo / 16, e.2))
def poisonFrom (lo hi : Nat) (l : List (Nat × Nat)) : List (Nat × Nat) :=
  (l.filter (fun e => lo ≤ e.1 && e.1 < hi)).map (fun e => (e.1 - lo, e.2))

/-- The image of a resident team. -/
def State.imageOf (s : State) (t : Nat) (T : Team) (C : Ctx) : Save :=
  let a := T.scratch
  let b := a + T.allocLen
  let cs := cstoreOf T.core T.tslot
  { team := T, key := t, groups := (s.groups.filter (fun e => e.2.team == t)).map (fun e => (e.1, e.2.asSaved s.clock)),
    ctx := C.asSaved s.clock,
    bars := (s.bars.filter (fun e => e.1 / 512 == T.core && e.2.owner == some t)).map (fun e => (e.1 % 512, e.2)),
    decisions := (s.core T.core).dq.filter (fun d => d.team == t),
    bytes := cellsFrom a b s.mem.bytes, tags := tagsFrom a b s.mem.tags,
    cbytes := cellsFrom cs (cs + 0x4000) s.mem.bytes, ctags := tagsFrom cs (cs + 0x4000) s.mem.tags,
    tiles := (s.mem.tile.filter (fun e => e.1 / 131072 == T.core &&
      T.tiles.any (fun (u, n) => 4096 * u ≤ e.1 % 131072 && e.1 % 131072 < 4096 * (u + n)))).map (fun e => (e.1 % 131072, e.2)),
    arrivals := [], poison := poisonFrom a b s.mem.poison, cpoison := poisonFrom cs (cs + 0x4000) s.mem.poison }

/-- A save of a poisoned register word is reported to level 2 (R339). -/
def State.reportPoison (s : State) (T : Team) (v : Save) : State :=
  if v.groups.all (fun e => e.2.poison.isEmpty) then s
  else { s with ras := { s.ras with trigs := s.ras.trigs ++
    [({ trig := 1, core := T.core, word := causeWord (Trap.of cECC 0 1 0) false false, ents := [] } : SnapTrig)] } }

/-! The image in the save area (R396 to R398). -/

/-- The bytes of an image, whose layout within its parts the spec does not give (log 50). -/
opaque saveEncode : Save → List Byte

/-- The bytes of a save image (R396). -/
def Save.length (v : Save) : Nat :=
  4096 + 4096 + 16 * v.bars.length + 16384 + (v.groups.map (fun e => 8192 + 384 * (e.2.held + 16))).sum + v.team.allocLen +
    16384 * (v.team.tiles.map (·.2)).sum

/-- Lines of 128 bytes from an address, each put through a cipher with its address as the tweak. -/
def byLines (f : Nat → List Byte → List Byte) : Nat → Nat → List Byte → List Byte
  | 0, _, _ => []
  | n + 1, a, bs => f a (bs.take 128) ++ byLines f n (a + 128) (bs.drop 128)

/-- Bytes brought to a length. -/
def fitTo (n : Nat) (bs : List Byte) : List Byte := (bs ++ List.replicate n 0).take n

/-- The key of an image: of a protected colour its world's, else the device context key (R398). -/
def State.imageKey (s : State) (T : Team) : BitVec 512 :=
  let x := s.colour T.colour
  if x.prot ∧ x.keyed then (s.slot x.kslot).key else BitVec.ofNat 512 (Config.drawn s.bring.boots 0)

/-- Where a team's image stands: its run of the function's save area. -/
def State.areaOf (s : State) (T : Team) : Option (Nat × Nat) :=
  match T.area, Tbl.get s.sec.exts (s.fn T.fn).csax.toNat with
  | some (o, n), some e => some (e.lo + o, n)
  | _, _ => none

/-- An image written to the save area, each line sealed under the image's key with its address as the tweak. -/
def State.sealImage (s : State) (v : Save) : State :=
  match s.areaOf v.team with
  | none => s
  | some (a, _) =>
    let n := cdiv v.length 128
    let bs := byLines (fun x l => fitTo 128 (Config.xtsSeal (s.imageKey v.team) x l)) n a (fitTo (128 * n) (saveEncode v))
    { s with mem := s.mem.homeWrite a bs }

/-- An image's bytes zeroed. -/
def State.zeroImage (s : State) (v : Save) : State :=
  match s.areaOf v.team with
  | none => s
  | some (a, n) => { s with mem := s.mem.zeroRange a (a + n) }

/-- A save or a restore as the watch log sees it (R453): the scratchpad allocation and the control-store region. -/
def State.watchSave (s : State) (T : Team) (op : Nat) : State :=
  s.watchEng 4 0xC001 T.colour op [(T.scratch, T.allocLen), (cstoreOf T.core T.tslot, 0x4000)]

def execTeamSave (t : Nat) (s : State) : Out1 :=
  match s.team t, s.ctx t with
  | some T, some C =>
    if !T.halt ∨ s.finished t T C ∨ !T.quiesced ∨ !s.savable T ∨ !s.atBoundary t then .refused .notEnabled
    else
      let s := s.flushTeam t
      let s := { s with mem := s.mem.drain T.core T.colour }
      let s := s.eachCmd t Cmd.running Cmd.stopped
      let T := (s.team t).getD T
      let v := s.imageOf t T C
      let n := s.sched.saveNo
      let s := (s.reportPoison T v).sealImage v
      let s := { s with sched := { s.sched with saves := Tbl.set s.sched.saves n v, saveNo := n + 1 } }
      let s := ((s.moveWalks t (2 ^ 32 + n)).moveFlights t (2 ^ 32 + n)).watchSave T 0
      .next (((s.freeTeam t T).requeue T (some n)).detect T.core)
  | _, _ => .refused .notEnabled

/-! The restore (R13, R24, R340, R369, R382, R399). -/

/-- A grid or block of a class before this one can be reserved whole now: it goes first (R362, R366). -/
def State.reservedFirst (s : State) (f cls : Nat) : Bool :=
  (s.reserving f).any (fun e => decide (e.2.cls < cls) && (s.reservation e.1 e.2).isSome)

/-- Whether a saved team may be restored on a core now. -/
def State.mayRestore (s : State) (n core : Nat) (T : Team) : Bool :=
  (s.dealt T.fn).contains core && !s.frozen T.fn && !s.reservedFirst T.fn T.cls &&
  (match s.queuedAt n with
    | some c =>
      if c = core then ((s.core c).teamq.head?).any (fun x => x.saved == some n)
      else (s.core c).dead || (s.fn T.fn).ts || !((s.quota T.fn).contains (c / 8))
    | none => false)

/-- An agent of a saved group under its new number. -/
def Agent.moved (g : Nat) : Agent → Agent
  | .path _ ix => .path g ix
  | .handler _ => .handler g
  | .ctl t => .ctl t

/-- A saved group on its new core. -/
def Group.restored (G : Group) (g t core tslot now : Nat) (shift : Int) (bad : CapV → Bool) : Group :=
  let G := G.untagWhere bad
  { G with
    team := t, starve := 0, raised := none, readySince := now, startedAt := 0, perf := { G.perf with since := now - G.perf.since }, resume := Agent.moved g G.resume
    priv := ((G.priv : Int) + shift).toNat
    k53 := BitVec.ofNat 32 (core * 2 ^ 24 + slotOf g * 2 ^ 19 + tslot * 2 ^ 17 + G.k53.toNat % 2 ^ 17) }

/-- Cells put back from a base. -/
def putCells (base : Nat) (l : List Host.Cell) (m : Mem) : Mem :=
  { m with bytes := l.foldl (fun b e => b.write (base + e.1) e.2) m.bytes }
def putTags (base : Nat) (l : Store 1) (m : Mem) : Mem :=
  { m with tags := l.foldl (fun b e => Store.write b (base / 16 + e.1) e.2) m.tags }
def putPoison (base : Nat) (l : List (Nat × Nat)) (m : Mem) : Mem :=
  { m with poison := m.poison ++ l.map (fun e => (base + e.1, e.2)) }

/-- Code lines of a core that meet the ranges of code capabilities dropped (R340). -/
def Mem.dropCodeOf (m : Mem) (core : Nat) (cs : List CapV) : Mem :=
  m.dropCode (fun x => icCore x == core && cs.any (fun c => c.base < 128 * icLine x + 128 && 128 * icLine x < c.top))

/-- The code capabilities of a saved group: its own and those of its paths. -/
def Group.codes (G : Group) : List CapV :=
  G.code :: G.stack.map (·.code) ++ (match G.handler with | some h => [h.code, h.path.code] | none => [])

/-- A saved team put back on a core. -/
def State.putBack (s : State) (n core tslot : Nat) (v : Save) (slots : List Nat) : State :=
  let t := core * 4 + tslot
  let bad (c : CapV) : Bool := s.revoked c
  let base := v.team.scratch - windowOf v.team.core + windowOf core
  let cs := cstoreOf core tslot
  let shift : Int := (base : Int) - (v.team.scratch : Int)
  let live := (v.groups.filter (fun e => e.2.run != .retired)).mergeSort (fun a b => a.2.grp ≤ b.2.grp)
  let moves : List (Nat × Nat × Group) := (live.zip slots).map (fun (x : (Nat × Group) × Nat) =>
    (x.1.1, core * 32 + x.2, x.1.2.restored (core * 32 + x.2) t core tslot s.clock shift bad))
  let T := { v.team with
    core := core, tslot := tslot, scratch := base
    groups := v.team.groups.map (fun g => ((moves.find? (fun (m : Nat × Nat × Group) => m.1 == g)).map (fun m => m.2.1)).getD (2 ^ 20))
    spad := if core = v.team.core then v.team.spad else CapV.mint 0 permsTeam v.team.colour base (base + v.team.scratchLen) base
    cstore := CapV.mint 0 (pLD ||| pST ||| pLC ||| pSC) v.team.colour cs (cs + 0x4000) cs
    halt := false }
  let c0 := (s.queuedAt n).getD core
  let q0 := s.core c0
  let q1 : Core := { q0 with teamq := q0.teamq.filter (fun x => x.saved != some n)
                             spill := q0.spill.filter (fun x => x.saved != some n), scanned := none }
  let s := s.setCore c0 q1.refill
  let s := { s with sched := { s.sched with saves := Tbl.erase s.sched.saves n } }
  let s := (s.moveWalks (2 ^ 32 + n) t).moveFlights (2 ^ 32 + n) t
  let m := putCells cs v.cbytes (putTags cs (untagStore v.cbytes v.ctags bad) (putPoison cs v.cpoison s.mem))
  let m := putCells base v.bytes (putTags base (untagStore v.bytes v.tags bad) (putPoison base v.poison m))
  let m := { m with tile := v.tiles.foldl (fun tl e => Store.write tl (core * 131072 + e.1) e.2) m.tile }
  let m := if core = v.team.core then m else m.dropCodeOf core (moves.flatMap (fun x => x.2.2.codes))
  let s := ({ s with mem := m }.setTeam t T).setCtx t { v.ctx.untagWhere bad with startedAt := 0, perf := { v.ctx.perf with since := s.clock - v.ctx.perf.since } }
  let s := moves.foldl (fun (s : State) x => s.setGroup x.2.1 x.2.2) s
  let s := v.bars.foldl (fun (s : State) e => s.setBar core e.1 { e.2 with owner := some t }) s
  let c := s.core core
  let s := s.setCore core { c with dq := c.dq ++ v.decisions.map (fun d => { d with team := t }) }
  let s := (s.scanL1 core T.colour T.regions).watchSave T 1
  let s := v.arrivals.foldl (fun (s : State) h => s.arrive core h 1 0) s
  let s := s.eachCmd t (fun x => x.status == 5) (fun x => { x with status := 1 })
  match s.task T.task with
  | some k => s.setTask T.task { k with cores := if k.cores.contains core then k.cores else k.cores ++ [core] }
  | none => s

/-- Saved teams put back one after another, each at its core and team slot: none where one may not be restored there or
does not fit. -/
def State.restoreAll : List (Nat × Nat × Nat) → State → Option State
  | [], s => some s
  | (n, core, tslot) :: l, s =>
    match Tbl.get s.sched.saves n with
    | none => none
    | some v => match s.restoreSlots core tslot v with
      | none => none
      | some slots => State.restoreAll l ((s.putBack n core tslot v slots).detect core)

/-- Whether these places restore a whole grid or block, or one team that belongs to none, and no more (R366). -/
def State.wholeRestore (s : State) (ps : List (Nat × Nat × Nat)) : Bool :=
  (ps.map (·.1)).Nodup && ps.all (fun p => match Tbl.get s.sched.saves p.1 with
    | some v =>
      s.mayRestore p.1 p.2.1 v.team && s.teams.all (fun e => !s.together v.team e.2) &&
      ps.all (fun q => (Tbl.get s.sched.saves q.1).any (fun w => s.together v.team w.team)) &&
      s.sched.saves.all (fun e => !s.together v.team e.2.team || (ps.map (·.1)).contains e.1)
    | none => false)

/-- The images that a restore names, each with its core and its team slot: one team, or as many as belong with it to a
grid or a block, the j-th in the j-th digit of each operand (64, 8 and 2 bits). -/
def State.places (s : State) (n core tslot : Nat) : List (Nat × Nat × Nat) :=
  match Tbl.get s.sched.saves (n % 2 ^ 64) with
  | none => []
  | some v =>
    (List.range (max 1 (s.sched.saves.filter (fun e => s.together v.team e.2.team)).length)).map (fun j =>
      (n / 2 ^ (64 * j) % 2 ^ 64, core / 256 ^ j % 256, tslot / 4 ^ j % 4))

/-- A saved team restored, or a whole grid or block at once (R366, R399). -/
def execTeamRestore (n core tslot : Nat) (s : State) : Out1 :=
  let ps := s.places n core tslot
  if ps.isEmpty ∨ !s.wholeRestore ps then .refused .notEnabled
  else match State.restoreAll ps s with
    | some t => .next t
    | none => .refused .notEnabled

end Sys2Proof.Machine
end

