-- ==== Sys2Proof/Machine/FuncEvents.lean ====
section
/-! DEFINITION. Functions: their configuration block, the token tick (R392 to R394, R401 to R403). -/

namespace Sys2Proof.Machine

/-! The tick (R402). -/

/-- POOLCAP: 256 MiB. -/
def poolCap : Nat := 268435456

/-- RATE, DEPTH and BORROW as last written take effect (R393). -/
def Fn.latch (F : Fn) : Fn := { F with rate := F.rateNext, depth := F.depthNext, borrow := F.borrowNext }

/-- The refill of a function: half of it repays debt into the pool, what passes b goes to the pool. -/
def Fn.refill (F : Fn) (pool : Nat) : Fn × Nat :=
  let b := 4096 * F.depth.toNat
  let add := 1000 * F.rate.toNat
  let rep := min F.debt (add / 2)
  let d := F.debt - rep
  let t := F.tokens + (add - rep)
  let pool := min poolCap (pool + rep)
  ({ F with tokens := min t b, debt := d, thr := F.thr && F.beta ≤ 2 * d }, min poolCap (pool + (t - b)))

/-- The waiting transfers retried from the head until one must wait again (R401). -/
def retryFrom (F : Fn) (pool : Nat) : List Waiting → Fn × Nat × List Waiting
  | [] => (F, pool, [])
  | w :: l =>
    if w.paid then
      let (F, pool, l) := retryFrom F pool l
      (F, pool, w :: l)
    else
      let (ok, F, pool) := F.pay pool w.bytes
      if ok then
        let (F, pool, l) := retryFrom F pool l
        (F, pool, { w with paid := true } :: l)
      else (F, pool, w :: l)

/-- One function's tick. -/
def State.tickFn (s : State) (f : Nat) : State :=
  let F := s.fn f
  if !F.en then s
  else
    let F := F.latch
    if F.rate = 0 then s.setFn f F
    else
      let (F, pool) := F.refill s.sec.pool
      let (F, pool, l) := retryFrom F pool F.waiting
      let s := s.setFn f { F with waiting := l }
      { s with sec := { s.sec with pool := pool } }

/-- A tick each 1,800 cycles. -/
def execTokenTick (s : State) : Out1 :=
  stepIf (s.sec.ticks < s.clock / 1800)
    ((List.range 16).foldl State.tickFn { s with sec := { s.sec with ticks := s.sec.ticks + 1 } })

/-! Writes of the configuration block (R392, R393). -/

/-- A register with one of its 32-bit words replaced. -/
def setWord {n : Nat} (x : BitVec n) (i : Nat) (w : Word) : BitVec n :=
  (x &&& ~~~(BitVec.ofNat n ((2 ^ 32 - 1) * 2 ^ (32 * i)))) ||| BitVec.ofNat n (w.toNat * 2 ^ (32 * i))

/-- Whether EN of a function may be set. -/
def State.enOk (s : State) (f : Nat) (F : Fn) : Bool :=
  ((List.range 16).filter (fun g => g != f && (s.fn g).en)).all (fun g =>
    let G := s.fn g
    F.queues &&& G.queues == 0 && F.chsets &&& G.chsets == 0 && (F.ts || G.ts || F.clusters &&& G.clusters == 0)) &&
  (!F.ts || (match Tbl.get s.sec.exts F.csax.toNat with
    | some e => e.state == 1 && e.colour == 0
    | none => false))

/-- A function with an incomplete task, a team or a saved team. -/
def State.busyFn (s : State) (f : Nat) : Bool :=
  s.sched.tasks.any (fun e => e.2.fn == f && !e.2.complete) || s.teams.any (fun e => e.2.fn == f) ||
    s.sched.saves.any (fun e => e.2.team.fn == f)

/-- The remainder has no holder once its holder is disabled or reset (R394). -/
def State.dropHolder (s : State) (f : Nat) : State := if s.sched.holder = some f then s.giveHolder none else s

/-- Bits 255:224: TS while EN is 0, PMASK and QUANTUM, then EN. -/
def State.fcfgWord7 (s : State) (f : Nat) (w : Word) : State :=
  let F := s.fn f
  let F := { F with ts := if F.en then F.ts else w.getLsbD 1, pmask := w.extractLsb' 2 4, quantum := w.extractLsb' 8 24 }
  match F.en, w.getLsbD 0 with
  | false, true =>
    if s.enOk f F then s.setFn f { F with en := true, tokens := 4096 * F.depth.toNat, debt := 0, thr := false }
    else s.setFn f { F with cfgerr := true }
  | true, false => if s.busyFn f then s.setFn f F else (s.setFn f { F with en := false }).dropHolder f
  | _, _ => s.setFn f F

/-- A field that is RW only while EN is 0. -/
def Fn.locked (F : Fn) (new : Fn) : Fn := if F.en then F else new
/-- RATE, DEPTH and BORROW at once while EN is 0, at the next tick otherwise; a BORROW below the debt sets THR (R402). -/
def Fn.paced (F : Fn) : Fn :=
  let F := if F.en then F else F.latch
  { F with thr := F.thr || 4096 * F.borrowNext.toNat < F.debt }

/-- A write of word i of function f's configuration block. -/
def State.fcfgWrite (s : State) (f i : Nat) (w : Word) : State :=
  let F := s.fn f
  if i < 4 then s.setFn f (F.locked { F with queues := setWord F.queues i w })
  else if i < 6 then s.setFn f (F.locked { F with chsets := setWord F.chsets (i - 4) w })
  else if i = 6 then s.setFn f (F.locked { F with clusters := w })
  else if i = 7 then s.fcfgWord7 f w
  else if i = 8 then s.setFn f (F.locked { F with tlim := w.extractLsb' 14 6, rlim := w.extractLsb' 20 12 })
  else if i = 9 then
    s.setFn f (Fn.paced { F with
      rateNext := w.extractLsb' 0 14, depthNext := w.extractLsb' 14 15
      borrowNext := F.borrowNext.extractLsb' 3 14 ++ w.extractLsb' 29 3 })
  else if i = 10 then
    let F := Fn.paced { F with borrowNext := w.extractLsb' 0 14 ++ F.borrowNext.extractLsb' 0 3 }
    s.setFn f { F.locked { F with csax := w.extractLsb' 14 10 } with cfgerr := F.cfgerr && !w.getLsbD 30 }
  else s

/-- A write that sets EN: accepted, or refused with CFGERR. -/
def execFcfgEnable (f : Nat) (w : Word) (s : State) : Out1 :=
  if !s.ready then .next s
  else stepIf (f < 16 && !(s.fn f).en && w.getLsbD 0) (s.fcfgWord7 f w)

/-- A write that clears EN: accepted, or ignored. -/
def execFcfgDisable (f : Nat) (w : Word) (s : State) : Out1 :=
  if !s.ready then .next s
  else stepIf (f < 16 && (s.fn f).en && !w.getLsbD 0) (s.fcfgWord7 f w)

end Sys2Proof.Machine
end

