-- ==== Sys2Proof/Machine/MgmtEvents.lean ====
section
/-! DEFINITION. Management commands: extents, colours, key slots, sweeps (R404 to R422, R460, R462). -/

namespace Sys2Proof.Machine

/-! The command block (R404, R460, R462). -/

/-- Statuses of a command (R404). -/
def stDone : Nat := 2
def stBadop : Nat := 3
def stNotowner : Nat := 4
def stBadarg : Nat := 5
def stConflict : Nat := 6
def stMeasure : Nat := 7
def stUnwrap : Nat := 8
def stSlotbusy : Nat := 9
def stNoways : Nat := 10

/-- Bytes [b, b + n) of the block, b at least 8, as a number put into ARGS. -/
def putArg (b n x : Nat) (a : BitVec 448) : BitVec 448 :=
  (a &&& ~~~(BitVec.ofNat 448 ((2 ^ (8 * n) - 1) * 2 ^ (8 * (b - 8))))) ||| BitVec.ofNat 448 (x % 2 ^ (8 * n) * 2 ^ (8 * (b - 8)))

/-- A write of the block that includes byte 0: ignored before READY and while a command runs; else the command in OP
starts, with its arguments, and `run` makes its checks and does what comes about at once. -/
def State.command (s : State) (f op : Nat) (put : BitVec 448 → BitVec 448) (run : State → State) : Out1 :=
  if 16 ≤ f then .refused .notEnabled
  else
    let F := s.fn f
    if !s.ready ∨ F.mstatus = 1 then .next s
    else .next (run (s.setFn f { F with
      args := put F.args, mop := op % 256, mstatus := 1, mend := 0, mextent := none, mteams := [] }))

/-- A running command will end with a status. -/
def State.ends (s : State) (f st : Nat) : State := s.setFn f { s.fn f with mend := st }
/-- The same with LATE among its results. -/
def State.endsLate (s : State) (f late : Nat) : State :=
  s.setFn f { s.fn f with mend := stDone, args := putArg 32 8 late (s.fn f).args }
/-- A running command waits on an extent, colour or function. -/
def State.waitsOn (s : State) (f x : Nat) : State := s.setFn f { s.fn f with mextent := some x }
/-- Whether function g runs a command that waits on x. -/
def State.runs (s : State) (g : Nat) (ops : List Nat) (x : Nat) : Bool :=
  let G := s.fn g
  G.mstatus == 1 && ops.contains G.mop && G.mextent == some x

/-- The owner of a colour: function 0 for one that is not VALID. -/
def State.ownerOf (s : State) (c : Nat) : Nat := if (s.colour c).valid then (s.colour c).func else 0
/-- Whether a function may issue a command for what another owns. -/
def mayIssue (f owner : Nat) : Bool := f == owner || f == 0

/-- An OP that R405 does not list. -/
def execMcmdUnlistedOp (f op : Nat) (s : State) : Out1 :=
  if 1 ≤ op % 256 ∧ op % 256 ≤ 9 then .refused .notEnabled
  else s.command f op id (fun s => s.ends f stBadop)

/-! Extents (R408, R409, R416). -/

def State.ext (s : State) (i : Nat) : Ext := (Tbl.get s.sec.exts i).getD Ext.free
def State.setExt (s : State) (i : Nat) (e : Ext) : State := { s with sec := { s.sec with exts := Tbl.set s.sec.exts i e } }
def State.freeExt (s : State) (i : Nat) : State := { s with sec := { s.sec with exts := Tbl.erase s.sec.exts i } }
def State.setColour (s : State) (c : Nat) (x : Colour) : State :=
  { s with sec := { s.sec with colours := Tbl.set s.sec.colours c x } }
def Ext.inHbm (e : Ext) : Bool := e.hi' ≤ hbmTop

/-- An entry image as a LIVE entry (R408). -/
def Ext.ofImage (img : BitVec 128) : Ext :=
  let x := img.toNat
  { state := 1, hi := bitAt x 108, pi := bitAt x 109, mode := bitsOf x 107 106, chset := bitsOf x 105 100,
    colour := bitsOf x 99 88, lenp := bitsOf x 87 44, basep := bitsOf x 43 0, inflight := 0, late := 0, leftOut := false }

/-- Whether an image's own fields are in range: MODE, length, and where it lies. -/
def Ext.placed (e : Ext) : Bool :=
  (e.mode == 1 || e.mode == 2) && e.lenp != 0 && whereIs e.lo == whereIs (e.hi' - 1) &&
  (match whereIs e.lo with
    | .hbm => true
    | .chip _ => true
    | .sys => e.colour == 0
    | _ => false)

/-- Whether an HBM image lies in its channel set, one of the function's of its colour (R270). -/
def State.chsetOk (s : State) (e : Ext) : Bool :=
  whereIs e.lo != .hbm ||
  (e.lo / 0x300000000 == e.chset && (e.hi' - 1) / 0x300000000 == e.chset &&
    (s.fn (s.colour e.colour).func).chsets.getLsbD e.chset)

/-- How an extent is stored in HBM: sealed under a slot's key of a generation, or in plaintext (R413, R416). -/
def State.sealing (s : State) (e : Ext) : Option Nat :=
  let c := s.colour e.colour
  if e.inHbm ∧ c.prot ∧ c.keyed ∧ e.mode = 2 then some (c.kslot * 2 ^ 32 + (s.slot c.kslot).gen.toNat) else none

/-- What lies in [lo, hi) of storage stored otherwise than `k` is read as something else: a free value. -/
def Mem.reseal (m : Mem) (lo hi : Nat) (k : Option Nat) (free : Nat) : Mem :=
  let odd := match k with
    | none => (m.sealed.filter (fun e => e.1 < hi && lo < e.2.1)).map (fun e => (max e.1 lo, min e.2.1 hi, free))
    | some id => (m.sealed.filter (fun e => e.2.2 == id)).foldl (fun l e => cutRange e.1 e.2.1 l) [(lo, hi, free)]
  { m with
    dark := m.dark ++ odd
    sealed := cutRange lo hi m.sealed ++ (match k with | some id => [(lo, hi, id)] | none => []) }

/-- EXT_ADD (R409). -/
def State.extAdd (s : State) (f i : Nat) (e : Ext) : State :=
  if 1024 ≤ i ∨ !e.placed then s.ends f stBadarg
  else if f ≠ 0 then s.ends f stNotowner
  else if (s.ext i).state ≠ 0 ∨ !(s.colour e.colour).valid ∨ !s.chsetOk e then s.ends f stBadarg
  else if s.sec.exts.any (fun x => x.2.state != 0 && max x.2.lo e.lo < min x.2.hi' e.hi') then s.ends f stConflict
  else
    let s := if e.inHbm then
        { s with mem := s.mem.reseal e.lo e.hi' (s.sealing e) s.fresh, fresh := s.fresh + 1 }
      else s
    (s.setExt i e).ends f stDone

def execExtAdd (f i : Nat) (img : BitVec 128) (s : State) : Out1 :=
  s.command f 1 (fun a => putArg 16 16 img.toNat (putArg 8 2 i a)) (fun s => s.extAdd f (i % 65536) (Ext.ofImage img))

/-! Taking an extent back (R418, R420). A command that waits for an earlier one of the same extent waits on the index
plus 1,024. -/

/-- Whether another function's command takes the extent back now. -/
def State.takenBack (s : State) (f i : Nat) : Bool := (List.range 16).any (fun g => g != f && s.runs g [2, 3] i)

/-- A REVOKED extent lies fallow; the bound one leaves its colour without an image (R413). -/
def State.fallow (s : State) (i : Nat) : State :=
  let e := s.ext i
  let c := s.colour e.colour
  let s := s.setExt i { e with state := 3 }
  if c.bound ∧ c.bext = i then s.setColour e.colour { c with bound := false } else s

def State.takeBack (s : State) (f i : Nat) (free : Bool) : State :=
  let e := s.ext i
  if 1024 ≤ i then s.ends f stBadarg
  else if !mayIssue f (if e.state = 0 then 0 else s.ownerOf e.colour) then s.ends f stNotowner
  else if e.state = 0 then s.ends f stBadarg
  else if s.takenBack f i then s.waitsOn f (i + 1024)
  else if e.state = 1 then s.waitsOn f i
  else (if free ∧ e.state = 2 then s.fallow i else s).endsLate f 0

def execExtRevoke (f i : Nat) (s : State) : Out1 :=
  s.command f 2 (putArg 8 2 i) (fun s => s.takeBack f (i % 65536) false)
def execExtFree (f i : Nat) (s : State) : Out1 :=
  s.command f 3 (putArg 8 2 i) (fun s => s.takeBack f (i % 65536) true)

/-- Dirty L1 lines of a range of HBM. -/
def Mem.dirtyIn (m : Mem) (lo hi : Nat) : Nat :=
  (m.l1.filter (fun e => max lo (128 * l1Line e.1) < min hi (128 * l1Line e.1 + 128) && e.2.dirty != 0)).length

/-- t_m: the extent is REVOKED everywhere at once; its dirty L1 lines are written back and counted in LATE. -/
def execRevocationPoint (i : Nat) (s : State) : Out1 :=
  let e := s.ext i
  if e.state ≠ 1 ∨ !(List.range 16).any (fun f => s.runs f [2, 3] i) then .refused .notEnabled
  else
    let n := s.mem.dirtyIn e.lo e.hi'
    let m := s.mem.backWhere (fun k => max e.lo (128 * l1Line k) < min e.hi' (128 * l1Line k + 128)) false
    .next ({ s with mem := m }.setExt i { e with state := 2, late := n })

/-! Colours (R407). -/

def State.colSet (s : State) (f c fn prot ks : Nat) : State :=
  let x := s.colour c
  if c = 0 ∨ 0xFFF < c ∨ 15 < fn ∨ 1 < prot then s.ends f stBadarg
  else if f ≠ 0 then s.ends f stNotowner
  else if (x.valid ∧ s.sec.exts.any (fun e => e.2.state != 0 && e.2.colour == c)) ∨
      (prot = 1 ∧ s.sec.colours.any (fun e => e.1 != c && e.2.valid && e.2.prot && e.2.kslot == ks)) then
    s.ends f stConflict
  else (s.setColour c { x with valid := true, func := fn, prot := prot == 1, kslot := if prot = 1 then ks else x.kslot }).ends f stDone

def execColSet (f colour fn prot kslot : Nat) (s : State) : Out1 :=
  s.command f 4 (fun a => putArg 12 1 kslot (putArg 11 1 prot (putArg 10 1 fn (putArg 8 2 colour a))))
    (fun s => s.colSet f (colour % 65536) (fn % 256) (prot % 256) (kslot % 256))

/-- The bytes of an extent. -/
def State.extBytes (s : State) (e : Ext) : List Byte :=
  if isSys e.lo then s.sysRead e.lo (4096 * e.lenp) else s.mem.homeRead e.lo (4096 * e.lenp)

/-- IMG_BIND (R413). -/
def State.imgBind (s : State) (f c i : Nat) : State :=
  let x := s.colour c
  let e := s.ext i
  if c = 0 ∨ 0xFFF < c ∨ 1024 ≤ i then s.ends f stBadarg
  else if !mayIssue f (s.ownerOf c) then s.ends f stNotowner
  else if !x.valid ∨ x.keyed ∨ e.state ≠ 1 ∨ e.colour ≠ c then s.ends f stBadarg
  else
    let s := s.setExt i { e with mode := 1 }
    (s.setColour c { x with bound := true, digest := Config.sha512 (s.extBytes e), bext := i }).ends f stDone

def execImgBind (f colour i : Nat) (s : State) : Out1 :=
  s.command f 5 (fun a => putArg 10 2 i (putArg 8 2 colour a)) (fun s => s.imgBind f (colour % 65536) (i % 65536))

/-! Key slots (R410 to R414). -/

/-- The extents of a colour, not FREE, with MODE 2. -/
def State.sealables (s : State) (c : Nat) : List Ext :=
  (s.sec.exts.filter (fun e => e.2.state != 0 && e.2.colour == c && e.2.mode == 2)).map (·.2)

/-- L1 lines of a range dropped without write-back. -/
def Mem.dropLines (m : Mem) (lo hi : Nat) : Mem :=
  { m with l1 := m.l1.filter (fun e => !(max lo (128 * l1Line e.1) < min hi (128 * l1Line e.1 + 128))) }

/-- The key blob: what the host delivers, or the bytes of an extent of the colour (R412 step 2). -/
def State.blobRead (s : State) (c addr : Nat) (blob : Option (List Byte)) : Option (List Byte) :=
  if isHost addr then (if isHost (addr + 1735) then blob.filter (fun b => b.length == 1736) else none)
  else if s.sec.exts.any (fun e => e.2.state == 1 && e.2.colour == c && e.2.lo ≤ addr && addr + 1736 ≤ e.2.hi') ∧
      (s.mem.poisonIn addr 1736).isNone then
    some (s.mem.homeRead addr 1736)
  else none

/-- Bytes [a, a + n) of a string. -/
def slice (bs : List Byte) (a n : Nat) : List Byte := (bs.drop a).take n

/-- M of R412: the digest of the three digests. -/
def State.measurement (s : State) (x : Colour) : BitVec 512 :=
  Config.sha512 (leBytes 64 s.bring.fwDigest.toNat ++ leBytes 64 s.bring.cfgDigest.toNat ++ leBytes 64 x.digest.toNat)

/-- Steps 3 to 6 of R412: the key, or the status of the first step that fails. -/
def State.unwrap (s : State) (c : Nat) (x : Colour) (b : List Byte) : Except Nat (BitVec 512) :=
  if leNat (slice b 1580 4) ≠ c ∨ leNat (slice b 1648 8) ≠ Config.certId.toNat then .error stBadarg
  else
    let info := slice b 1580 76
    let kek := Config.kek s.bring.boots (slice b 0 1568) info
    match Config.gcmOpen kek (slice b 1568 12) info (slice b 1656 64) (slice b 1720 16) with
    | none => .error stUnwrap
    | some key =>
      if x.bound ∧ (s.measurement x).toNat = leNat (slice b 1584 64) then .ok (BitVec.ofNat 512 (leNat key)) else .error stMeasure

/-- Steps 7 and 8 of R412. -/
def State.loadKey (s : State) (c : Nat) (x : Colour) (key : BitVec 512) : State :=
  let sl := s.slot x.kslot
  let id := x.kslot * 2 ^ 32 + sl.gen.toNat
  let s := (s.sealables c).foldl (fun (s : State) e =>
    let m := (s.mem.dropLines e.lo e.hi').zeroRange e.lo e.hi'
    { s with mem := if e.inHbm then { m with sealed := cutRange e.lo e.hi' m.sealed ++ [(e.lo, e.hi', id)] } else m }) s
  (s.setSlot x.kslot { sl with loaded := true, key := key, high := 0 }).setColour c { x with keyed := true }

/-- KEY_RELEASE (R412). -/
def State.keyRelease (s : State) (f c addr : Nat) (blob : Option (List Byte)) : State :=
  let x := s.colour c
  if c = 0 ∨ 0xFFF < c then s.ends f stBadarg
  else if !mayIssue f (s.ownerOf c) then s.ends f stNotowner
  else if !x.valid ∨ !x.prot then s.ends f stBadarg
  else if (s.slot x.kslot).loaded then s.ends f stSlotbusy
  else if s.sec.pways = 0 then s.ends f stNoways
  else match s.blobRead c addr blob with
    | none => s.ends f stBadarg
    | some b => match s.unwrap c x b with
      | .error st => s.ends f st
      | .ok key => (s.loadKey c x key).ends f stDone

def execKeyRelease (f colour addr : Nat) (blob : Option (List Byte)) (s : State) : Out1 :=
  s.command f 6 (fun a => putArg 16 8 addr (putArg 8 2 colour a))
    (fun s => (s.keyRelease f (colour % 65536) (addr % 2 ^ 64) blob).waitsOn f (colour % 65536))

/-- A slot zeroised (R414): lines in plaintext are dropped, sealed data stays unreadable. -/
def State.zeroise (s : State) (c : Nat) (x : Colour) : State :=
  let sl := s.slot x.kslot
  if !sl.loaded then s
  else
    let s := (s.sealables c).foldl (fun (s : State) e =>
      if e.inHbm then { s with mem := s.mem.reseal e.lo e.hi' none s.fresh, fresh := s.fresh + 1 } else s) s
    let s := { s with mem := { s.mem with l1 := s.mem.l1.filter (fun e => l1Colour e.1 != c) } }
    (s.setSlot x.kslot { loaded := false, key := 0, high := 0, gen := sl.gen + 1 }).setColour c { x with keyed := false }

/-- Whether a KEY_RELEASE of a colour runs. -/
def State.keyReleasing (s : State) (f c : Nat) : Bool := (List.range 16).any (fun g => g != f && s.runs g [6] c)

/-- KEY_ZERO (R414): after any KEY_RELEASE of the colour that runs. -/
def State.keyZero (s : State) (f c : Nat) : State :=
  let x := s.colour c
  if c = 0 ∨ 0xFFF < c then s.ends f stBadarg
  else if !mayIssue f (s.ownerOf c) then s.ends f stNotowner
  else if !x.valid ∨ !x.prot then s.ends f stBadarg
  else if s.keyReleasing f c then s.waitsOn f c
  else (s.zeroise c x).ends f stDone

def execKeyZero (f colour : Nat) (s : State) : Out1 :=
  s.command f 7 (putArg 8 2 colour) (fun s => s.keyZero f (colour % 65536))

/-! PREEMPT (R405). -/

def State.preempt (s : State) (f fn : Nat) : State :=
  if 15 < fn then s.ends f stBadarg
  else if f ≠ 0 then s.ends f stNotowner
  else if (s.fn fn).csax = 0x3FF then s.ends f stBadarg
  else
    let ts := (s.teams.filter (fun e => e.2.fn == fn)).map (fun e => (e.1, e.2.task, e.2.index))
    if !(s.fn fn).en ∨ ts.isEmpty then s.ends f stDone
    else (s.setFn f { s.fn f with mteams := ts }).waitsOn f fn

def execPreempt (f fn : Nat) (s : State) : Out1 :=
  s.command f 8 (putArg 8 1 fn) (fun s => s.preempt f (fn % 256))

/-! Sweeps (R55, R419 to R422). -/

/-- The fallow extents that a pass starting now gathers: those an earlier pass left out first, at most 64. -/
def State.toGather (s : State) : List Nat × List Nat :=
  let fallow := s.sec.exts.filter (fun e => e.2.state == 3)
  let l := ((fallow.filter (·.2.leftOut)) ++ fallow.filter (fun e => !e.2.leftOut)).map (·.1)
  (l.take 64, l.drop 64)

def State.sweep (s : State) (f : Nat) : State :=
  let answer (s : State) (n : Word) : State :=
    s.setFn f { s.fn f with mend := stDone, args := putArg 32 4 n.toNat (s.fn f).args }
  if f ≠ 0 then s.ends f stNotowner
  else if s.sec.passRun ≠ 0 then answer s s.sec.passRun
  else
    let (got, left) := s.toGather
    let n := s.sec.passDone + 1
    let s := { s with sec := { s.sec with
      passRun := n, gathered := got
      exts := s.sec.exts.map (fun e => if left.contains e.1 then (e.1, { e.2 with leftOut := true }) else e) } }
    answer s n

def execSweep (f : Nat) (s : State) : Out1 := s.command f 9 id (fun s => s.sweep f)

/-- A tag that a path holds in its forwarding window cleared. -/
def Group.sweepPath (G : Group) (bad : CapV → Bool) (p : Path) : Path :=
  let cap (n : Nat) : CapV := ⟨BitVec.ofNat 128 (catWords ((List.range 4).map (fun j => G.kOf p (4 * n + j)))), true⟩
  { p with win := p.win.map (fun e => if 64 ≤ e.reg && e.val != 0 && bad (cap (e.reg - 64)) then { e with val := 0 } else e) }

/-- Every register tag of a group, in the banks and on the way to them. -/
def Group.sweep (G : Group) (bad : CapV → Bool) : Group :=
  let G := G.untagWhere bad
  { G with
    stack := G.stack.map (G.sweepPath bad)
    handler := G.handler.map (fun h => { h with path := G.sweepPath bad h.path }) }

/-- The tags of a line's granules. -/
def Line.sweep (l : Line) (bad : CapV → Bool) : Line :=
  { l with tags := (List.range 8).foldl (fun (t : BitVec 8) j =>
      if t.getLsbD j && bad ⟨BitVec.ofNat 128 (leNat (slice l.data (16 * j) 16)), true⟩ then
        t &&& ~~~(BitVec.ofNat 8 (2 ^ j)) else t) l.tags }

/-- The tags of a command's block. -/
def Cmd.sweep (c : Cmd) (bad : CapV → Bool) : Cmd :=
  { c with tags := (List.range 4).foldl (fun (t : BitVec 4) j =>
      if t.getLsbD j && bad ⟨c.blk.extractLsb' (128 * j) 128, true⟩ then t &&& ~~~(BitVec.ofNat 4 (2 ^ j)) else t) c.tags }
def Team.sweep (T : Team) (bad : CapV → Bool) : Team :=
  { T with chains := T.chains.map (fun ch => { ch with cmds := ch.cmds.map (fun c => c.sweep bad) }) }

/-- A result on its way that would set a tag. -/
def RegWrite.tags : RegWrite → Bool
  | .vtag _ m t => m &&& t != 0
  | .ktag _ t => t
  | .ctag _ t => t
  | _ => false
def Path.tagsComing (p : Path) : Bool := p.pend.any (fun q => q.writes.any RegWrite.tags)
def State.tagsComing (s : State) : Bool :=
  s.groups.any (fun e => e.2.stack.any Path.tagsComing || e.2.handler.any (fun h => h.path.tagsComing)) ||
    s.ctxs.any (fun e => e.2.path.tagsComing)

def Save.sweep (v : Save) (bad : CapV → Bool) : Save :=
  { v with
    team := v.team.sweep bad
    groups := v.groups.map (fun e => (e.1, e.2.sweep bad)), ctx := v.ctx.untagWhere bad
    tags := untagStore v.bytes v.tags bad, ctags := untagStore v.cbytes v.ctags bad }

/-- Every tag of the stores of R422 whose value meets a gathered extent cleared. -/
def State.sweepAll (s : State) : State :=
  let bad (c : CapV) : Bool := s.revoked c
  let tags := untagStore s.mem.bytes s.mem.tags bad
  let s' := (s.mem.tags.filter (fun e => !tags.contains e)).foldl (fun (s : State) e =>
    let a := 16 * e.1
    s.watchEng 4 0xC003 ((s.sec.exts.find? (fun x => x.2.state != 0 && x.2.lo ≤ a && a < x.2.hi')).map (fun x => x.2.colour) |>.getD 0)
      1 [(a, 16)]) s
  { s' with
    mem := { s'.mem with tags := tags, l1 := s'.mem.l1.map (fun e => (e.1, e.2.sweep bad)) }
    groups := s'.groups.map (fun e => (e.1, e.2.sweep bad))
    ctxs := s'.ctxs.map (fun e => (e.1, e.2.untagWhere bad))
    teams := s'.teams.map (fun e => (e.1, e.2.sweep bad))
    sched := { s'.sched with saves := s'.sched.saves.map (fun e => (e.1, e.2.sweep bad)) } }

/-- The running pass has covered every store; a result that began before it may still carry a tag to a register, so it
ends once none does. -/
def execSweepPassComplete (s : State) : Out1 :=
  if s.sec.passRun = 0 ∨ s.tagsComing then .refused .notEnabled
  else
    let s := s.sweepAll
    let s := s.sec.gathered.foldl (fun (s : State) i => s.freeExt i) s
    .next ({ s with sec := { s.sec with passDone := s.sec.passRun, passRun := 0, gathered := [] } }.send (.msix 0 1))

/-! The end of a command (R404, R460). -/

/-- STATUS and MSI-X vector 0. -/
def State.finish (s : State) (f : Nat) : State :=
  let F := s.fn f
  (s.setFn f { F with mstatus := F.mend, mend := 0, mextent := none, mteams := [] }).send (.msix f 0)

/-- What a command that waits comes to, once it waits no longer. -/
def State.resolveCmd (s : State) (f : Nat) : Option State :=
  let F := s.fn f
  match F.mop, F.mextent with
  | 7, some c => if s.keyReleasing f c then none else some (s.keyZero f c)
  | 8, _ =>
    if F.mteams.any (fun x => (s.team x.1).any (fun T => T.task == x.2.1 && T.index == x.2.2)) then none
    else some (s.ends f stDone)
  | op, some x =>
    if op ≠ 2 ∧ op ≠ 3 then none
    else
      let i := x % 1024
      let e := s.ext i
      if x < 1024 then
        if e.state = 1 then none
        else some ((if op = 3 ∧ e.state = 2 then s.fallow i else s).endsLate f e.late)
      else if s.takenBack f i then none
      else some ((if op = 3 ∧ e.state = 2 then s.fallow i else s).endsLate f 0)
  | _, none => none

def execManagementCommandEnd (f : Nat) (s : State) : Out1 :=
  let F := s.fn f
  if F.mstatus ≠ 1 then .refused .notEnabled
  else if F.mend ≠ 0 then .next (s.finish f)
  else match s.resolveCmd f with
    | some s => .next (s.finish f)
    | none => .refused .notEnabled

end Sys2Proof.Machine
end

