-- ==== Sys2Proof/Machine/Resets.lean ====
section
/-! DEFINITION. Function-level reset and its receipt, the host interface's states, SPDM, IDE failures (R423, R424, R442,
R443, R457). -/

namespace Sys2Proof.Machine

/-! What a reset scrubs, as the receipt lists it (R457). -/

/-- The colours of a function, in ascending order. -/
def State.coloursOf (s : State) (f : Nat) : List Nat :=
  (s.sec.colours.filter (fun e => e.2.valid && e.2.func == f)).map (·.1)

/-- COUNT of a class 1 to 5 for a colour on a core. -/
def State.scrubCount (s : State) (cls core c : Nat) : Nat :=
  let ts := (s.teamsOf core).filter (fun e => e.2.colour == c)
  match cls with
  | 1 => ((s.groups.filter (fun e => e.2.run != .retired && ts.any (fun t => t.1 == e.2.team))).map (fun e => e.2.held + 16)).sum
  | 2 => (ts.map (fun e => e.2.allocLen)).sum
  | 3 => (ts.map (fun e => (e.2.tiles.map (·.2)).sum)).sum
  | 4 => 0x4000 * ts.length
  | _ => (s.mem.l1.filter (fun e => l1Core e.1 == core && l1Colour e.1 == c)).length

/-- The entries of a reset of function f, in their order. BASE and LENGTH of the classes for which the spec gives them no
meaning, and which lines the L2 slices held, are free values. -/
def State.scrubList (s : State) (f : Nat) : List Scrub :=
  let cs := s.coloursOf f
  let open' (cls unit c : Nat) (k : Nat) : Nat := Config.free (s.fresh + ((cls * 2 ^ 14 + unit) * 4096 + c) * 4 + k)
  let entry (cls method c unit count : Nat) : Scrub :=
    { cls := cls, method := method, colour := c, unit := unit, base := open' cls unit c 0 % 2 ^ 64,
      length := open' cls unit c 1 % 2 ^ 64, count := count }
  let onCore (cls : Nat) : List Scrub := (List.range 256).flatMap (fun core => cs.filterMap (fun c =>
    if (s.core core).dead then (if (s.core core).heldBy.contains c then some (entry cls 3 c core 0) else none)
    else if s.scrubCount cls core c = 0 then none else some (entry cls 1 c core (s.scrubCount cls core c))))
  let inSlices (cls : Nat) : List Scrub := (List.range 256).flatMap (fun u => cs.filterMap (fun c =>
    let n := open' cls u c 2 % 16384
    if n = 0 then none else some (entry cls 1 c u n)))
  let extents (cls : Nat) (p : Nat → Bool) : List Scrub := (s.sec.exts.filter (fun e =>
      e.2.state != 0 && cs.contains e.2.colour && p e.2.lo)).map (fun e =>
    { cls := cls, method := 1, colour := e.2.colour, unit := e.1, base := e.2.lo, length := 4096 * e.2.lenp,
      count := 4096 * e.2.lenp })
  let saved : List Scrub := cs.filterMap (fun c =>
    let n := ((s.sched.saves.filter (fun e => e.2.team.fn == f && e.2.team.colour == c)).map (fun e => e.2.length)).sum
    if n = 0 then none else some (entry 10 1 c (s.fn f).csax.toNat n))
  let keys : List Scrub := (cs.filterMap (fun c =>
    let x := s.colour c
    if x.prot ∧ (s.slot x.kslot).loaded then some (entry 11 2 c x.kslot 1) else none)).mergeSort (fun a b => a.unit ≤ b.unit)
  [1, 2, 3, 4, 5].flatMap onCore ++ [6, 7].flatMap inSlices ++ extents 8 (fun a => whereIs a == .hbm) ++
    extents 9 (fun a => whereIs a != .hbm && !isSys a) ++ saved ++ keys

/-! Function-level reset (R423, R424). -/

/-- Step 1: no more records; queued ones are discarded. What depended on them waits for the host driver. -/
def State.discardTasks (s : State) (f : Nat) : State :=
  let mine (key : Nat) : Bool := (s.task key).any (fun k => k.fn == f)
  { s with
    cores := s.cores.map (fun e => (e.1, { e.2 with scanned := e.2.scanned.filter (fun m => !mine (m / 2 ^ 20)) }))
    sched := { s.sched with
      tasks := (s.sched.tasks.filter (fun e => e.2.fn != f)).map (fun e => (e.1, { e.2 with deps := e.2.deps.map (fun d =>
        if mine d.on then { d with on := d.on + 2 ^ 40 } else d) }))
      walks := s.sched.walks.filter (fun e => !(e.2.kind == .edge || e.2.kind == .forward) || !mine e.2.task) } }

/-- Step 2: teams abandoned, saved teams discarded. -/
def State.abandonTeams (s : State) (f : Nat) : State :=
  let mine := s.teams.filter (fun e => e.2.fn == f)
  let gone := s.sched.saves.filter (fun e => e.2.team.fn == f)
  let saved := gone.map (·.1)
  let s := gone.foldl (fun (s : State) e => s.zeroImage e.2) s
  let s := { s with sched := { s.sched with
    walks := s.sched.walks.filter (fun e => !(mine.any (fun t => t.1 == e.2.team) && e.2.kind != .edge && e.2.kind != .forward) &&
      !(saved.any (fun n => 2 ^ 32 + n == e.2.team)))
    saves := s.sched.saves.filter (fun e => e.2.team.fn != f) } }
  mine.foldl (fun (s : State) e => (s.freeTeam e.1 ((s.team e.1).getD e.2)).detect e.2.core) s

/-- A command in progress on the function ends with DONE (R424). -/
def State.endCommands (s : State) (f : Nat) : State :=
  let cs := s.coloursOf f
  (List.range 16).foldl (fun (s : State) g =>
    let G := s.fn g
    match G.mstatus, G.mend, G.mop, G.mextent with
    | 1, 0, 8, some h => if h = f then s.ends g stDone else s
    | 1, 0, op, some x =>
      let e := s.ext (x % 1024)
      if (op = 2 ∨ op = 3) ∧ cs.contains e.colour then
        s.endsLate g (if 1024 ≤ x then 0 else if e.state = 1 then s.mem.dirtyIn e.lo e.hi' else e.late)
      else s
    | _, _, _, _ => s) s

/-- Steps 3 to 5: colours invalid, key slots zeroised, storage zeroed. -/
def State.scrubColours (s : State) (f : Nat) : State :=
  (s.coloursOf f).foldl (fun (s : State) c =>
    let x := s.colour c
    let s := if x.prot then s.zeroise c x else s
    let s := s.setColour c { s.colour c with valid := false }
    let mine := (s.sec.exts.filter (fun e => e.2.state != 0 && e.2.colour == c && !isSys e.2.lo)).map (·.2)
    let s := mine.foldl (fun (s : State) e =>
      { s.watchEng 4 0xC004 c 1 [(e.lo, 4096 * e.lenp)] with mem := (s.mem.dropLines e.lo e.hi').zeroRange e.lo e.hi' }) s
    { s with mem := { s.mem with
      l1 := s.mem.l1.filter (fun e => l1Colour e.1 != c)
      sealed := mine.foldl (fun l e => cutRange e.lo e.hi' l) s.mem.sealed } }) s

/-- Whether a KEY_RELEASE of a colour of a function runs. -/
def State.releasesOf (s : State) (f : Nat) : Bool :=
  (List.range 16).any (fun g => let G := s.fn g; G.mstatus == 1 && G.mop == 6 &&
    (match G.mextent with | some c => (s.coloursOf f).contains c | none => false))

/-- The free values of a list of entries are spent. -/
def State.spend (s : State) : State := { s with fresh := s.fresh + 0x40000000 }

/-- A checkpoint that includes the function is aborted (R458). -/
def State.abortCk (s : State) (f : Nat) : State :=
  if s.ras.ckStatus = 1 ∧ s.ras.ckFmask.getLsbD f then { s with ras := { s.ras with ckStatus := 4 } } else s

/-- The function waits for its receipt. -/
def State.awaitReceipt (s : State) (f : Nat) (list : List Scrub) : State :=
  s.setFn f { s.fn f with flr := 6, flrStart := s.clock, scrub := list, waiting := [] }

/-- Steps 1 to 5 of a reset; the reset then waits for its receipt. -/
def State.resetFn (s : State) (f : Nat) : State :=
  let t := (s.spend.discardTasks f).dropQueued (s.isOf f)
  let t := ((t.abandonTeams f).dropHolder f).endCommands f
  ((t.scrubColours f).awaitReceipt f (s.scrubList f)).abortCk f

/-- A request for a reset; one while a reset of the function runs changes nothing. -/
def State.startReset (s : State) (f : Nat) : Out1 :=
  if (s.fn f).flr ≠ 0 then .next s else stepIf (!s.releasesOf f) (s.resetFn f)

def execFunctionLevelReset (f : Nat) (s : State) : Out1 :=
  if 16 ≤ f ∨ !s.ready then .refused .notEnabled else s.startReset f

/-! The receipt (R457) and the end of a reset. -/

def Scrub.bytes (x : Scrub) : List Byte :=
  leBytes 1 x.cls ++ leBytes 1 x.method ++ leBytes 2 x.colour ++ leBytes 2 x.unit ++ leBytes 2 0 ++ leBytes 8 x.base ++
    leBytes 8 x.length ++ leBytes 8 x.count

/-- The first n bytes of a string, filled with zeros. -/
def fixLen (n : Nat) (bs : List Byte) : List Byte := (bs ++ List.replicate n 0).take n

/-- BOOT (R455). -/
def State.bootValue (s : State) : Nat := Config.drawn s.bring.boots 1 % 2 ^ 64

/-- A receipt: the part signed, the signature, zeros up to 64 bytes. RSEQ counts the receipt itself. -/
def State.receipt (s : State) (f : Nat) : List Byte :=
  let F := s.fn f
  let head := leBytes 4 0x54435243 ++ leBytes 2 0x0201 ++ leBytes 2 s.bring.devid ++ leBytes 1 f ++ leBytes 3 0 ++
    leBytes 4 F.scrub.length ++ leBytes 8 (s.ras.rseq + 1).toNat ++ leBytes 8 s.bootValue ++ leBytes 16 F.rnonce.toNat ++
    leBytes 8 F.flrStart ++ leBytes 8 F.flrStart
  let body := head ++ F.scrub.flatMap Scrub.bytes
  let bs := body ++ fixLen 132 (Config.sign (Config.sha512 body))
  fixLen (64 * cdiv bs.length 64) bs

/-- Bytes put into a ring of LEN bytes at HEAD. -/
def putRing (base len : Nat) : Nat → List Byte → Mem → Mem
  | _, [], m => m
  | h, b :: bs, m => putRing base len (h + 1) bs (m.homeWrite (base + h % len) [b])

/-- Step 7: extents FREE but for those a running pass gathered, queues at zero, colour entries cleared (colour 0 as at
bring-up), the interface unlocked. -/
def State.endReset (s : State) (f : Nat) : State :=
  let F := s.fn f
  let mine (e : Nat × Colour) : Bool := e.2.func == f && !e.2.valid
  let cs := (s.sec.colours.filter mine).map (·.1)
  let exts := s.sec.exts.filterMap (fun e =>
    if !cs.contains e.2.colour then some e
    else if s.sec.gathered.contains e.1 then some (e.1, { e.2 with state := 3 })
    else none)
  let qs := (List.range 128).filter F.queues.getLsbD
  let s := if F.en then qs.foldl (fun (s : State) q => s.setQueue q { s.queue q with qseq := 0, qdone := 0, qcnt := 0 }) s else s
  let s := { s with sec := { s.sec with exts := exts, colours := s.sec.colours.filter (fun e => !mine e) } }
  let s := if cs.contains 0 then s.setColour 0 Colour.zero else s
  s.setFn f { F with flr := 0, scrub := [], tdi := 0, insecure := false }

/-- Step 6 once the ring has room, then step 7. -/
def execScrubReceipt (f : Nat) (s : State) : Out1 :=
  let r := s.ras
  let bs := s.receipt f
  let len := r.rcptLen.toNat
  if (s.fn f).flr ≠ 6 ∨ len < (r.rcptHead - r.rcptTail).toNat + bs.length ∨
      !s.sec.exts.any (fun e => e.2.state == 1 && e.2.colour == 0 && e.2.lo ≤ r.rcptBase.toNat && r.rcptBase.toNat + len ≤ e.2.hi') then
    .refused .notEnabled
  else
    .next ({ s with
      mem := putRing r.rcptBase.toNat len r.rcptHead.toNat bs s.mem
      ras := { r with rcptHead := r.rcptHead + BitVec.ofNat 32 bs.length, rseq := r.rseq + 1 } }.endReset f)

/-! TDISP (R442): 0 CONFIG_UNLOCKED, 1 CONFIG_LOCKED, 2 RUN, 3 ERROR. A request in a state that does not allow it
changes nothing. -/

def execLockInterface (f : Nat) (s : State) : Out1 :=
  if 16 ≤ f then .refused .notEnabled
  else if (s.fn f).tdi = 0 then .next (s.setFn f { s.fn f with tdi := 1 }) else .next s

def execStartInterface (f : Nat) (s : State) : Out1 :=
  if 16 ≤ f then .refused .notEnabled
  else if (s.fn f).tdi = 1 then .next (s.setFn f { s.fn f with tdi := 2 }) else .next s

def execStopInterface (f : Nat) (s : State) : Out1 :=
  if 16 ≤ f then .refused .notEnabled
  else if (s.fn f).tdi = 0 then .next s else s.startReset f

/-! SPDM (R442). The bytes of an answer are the SPDM standard's: an opaque function of what it is made from. -/

/-- Code and contents of a request, with the measurements that answer it. -/
def State.spdmInput (s : State) : SpdmRq → Nat × List Byte
  | .getCertificate => (0x82, [])
  | .getMeasurements nonce => (0xE0, nonce ++ leBytes 64 s.bring.fwDigest.toNat ++ leBytes 64 s.bring.cfgDigest.toNat ++
      leBytes 8 s.bring.boots)
  | .challenge nonce => (0x83, nonce ++ leBytes 64 s.bring.fwDigest.toNat ++ leBytes 64 s.bring.cfgDigest.toNat)
  | .keyExchange f share => (0xE4, leBytes 1 f ++ share)
  | .other code => (code, [])

def execSpdmRequest (rq : SpdmRq) (s : State) : Out1 :=
  stepIf (s.bring.pcie && s.bring.stage != 0) (s.send (.spdm (Config.spdm (s.spdmInput rq).1 (s.spdmInput rq).2)))

/-! IDE (R443). -/

/-- The lanes of a request that still wait end with Completer Abort. -/
def State.failReq (s : State) (id : Nat) : Nat → State
  | 0 => s
  | n + 1 => match s.hostDone id 4 [] with
    | some s => s.failReq id n
    | none => s

def execIdeIntegrityFailure (f : Nat) (s : State) : Out1 :=
  if 16 ≤ f then .refused .notEnabled
  else
    let ids := (s.io.reqs.filter (fun e => e.2.fn == f)).map (fun e => (e.1, e.2.lanes.length))
    let s := s.setFn f { s.fn f with insecure := true, tdi := 3 }
    .next (ids.foldl (fun (s : State) x => s.failReq x.1 x.2) s)

/-- Flits resent as they were encrypted, under the same counter and key set: nothing changes. -/
def execFlitReplay (s : State) : Out1 := .next s

end Sys2Proof.Machine
end

