-- ==== Sys2Proof/Machine/Ras.lean ====
section
/-! DEFINITION. Soft errors, retirement, snapshots, the watch log and its rings (R339, R445 to R456). -/

namespace Sys2Proof.Machine

/-! Counting (R447, R451). -/

/-- A saturating count. -/
def bump (t : Store 32) (k : Nat) : Store 32 :=
  let x := Store.read t k
  Store.write t k (if x.toNat = 2 ^ 32 - 1 then x else x + 1)

def State.countUe (s : State) (k : Nat) : State := { s with ras := { s.ras with ue := bump s.ras.ue k } }

/-- A core is to be retired: it issues nothing further. -/
def State.mustRetire (s : State) (core : Nat) : State := s.setCore core { s.core core with retire := true }

/-- A corrected error of structure k; the 64th of a structure of a core within one second retires the core. -/
def State.countCe (s : State) (k : Nat) (core : Option Nat) : State :=
  let s := { s with ras := { s.ras with ce := bump s.ras.ce k } }
  match core with
  | none => s
  | some i =>
    let c := s.core i
    let l := (c.ces.filter (fun e => s.clock < e.2 + 1800000000)) ++ [(k, s.clock)]
    s.setCore i { c with ces := l, retire := c.retire || 64 ≤ (l.filter (fun e => e.1 == k)).length }

/-- The structure code of R445 of a unit, and its core. -/
def errStructure : ErrAt → Option (Nat × Option Nat)
  | .v g _ _ => some (1, some (coreOfGroup g))
  | .k g _ => some (1, some (coreOfGroup g))
  | .q g _ _ => some (1, some (coreOfGroup g))
  | .vtag g _ _ => some (1, some (coreOfGroup g))
  | .ktag g _ => some (1, some (coreOfGroup g))
  | .store a => match whereIs a with
    | .hbm => some (7, none)
    | .chip _ => some (8, none)
    | .scratch c => some (2, some c)
    | .cstore c => some (3, some c)
    | _ => none
  | .tile c _ => some (4, some c)
  | .l1 c _ _ _ => some (5, some c)
  | .l2 _ => some (6, none)
  | .l1Tag c _ _ => some (5, some c)
  | .l2Tag _ _ _ => some (6, none)

/-! Uncorrectable errors (R339, R445, R446). -/

/-- A poisoned unit of storage. -/
def Mem.addPoison (m : Mem) (base n : Nat) : Mem :=
  if m.poison.contains (base, n) then m else { m with poison := m.poison ++ [(base, n)] }

/-- A word of v or q whose value the forwarding window of a path holds (R32, R241): the bank's copy is overwritten from
there, so an error in it has no effect that lasts. -/
def Group.heldOver (G : Group) (p : Poison) : Bool :=
  let has (x : Path) : Bool := x.held.any (fun h => match h, p with
    | .v r m _, .v row l => r == row && m.getLsbD l
    | .v r m _, .vtag quad l => r / 4 == quad && m.getLsbD l
    | .q n m _, .q n' l => n == n' && m.getLsbD l
    | _, _ => false)
  G.stack.any has || G.handler.any (fun h => has h.path)

def Group.addPoison (G : Group) (p : Poison) : Group :=
  if G.poison.contains p || G.heldOver p then G else { G with poison := G.poison ++ [p] }

def State.poisonWord (s : State) (g : Nat) (p : Poison) : State :=
  match s.group g with
  | some G => s.setGroup g (G.addPoison p)
  | none => s

/-- The team that holds a byte of a control store, or a word of a tile store. -/
def State.holderOf (s : State) (at_ : ErrAt) : Option Nat :=
  match at_ with
  | .store a => (s.teams.find? (fun e => cstoreOf e.2.core e.2.tslot ≤ a && a < cstoreOf e.2.core e.2.tslot + 0x4000)).map (·.1)
  | .tile core w => (s.teams.find? (fun e => e.2.core == core && e.2.tiles.any (fun (u, n) => u ≤ w / 4096 && w / 4096 < u + n))).map (·.1)
  | _ => none

/-- An error of a control store or a tile store passes to level 2. -/
def State.eccLevel2 (s : State) (at_ : ErrAt) (detail : Nat) : State :=
  match s.holderOf at_ with
  | some t => s.toLevel2 t cECC 0 (causeWord (Trap.of cECC 0 detail 0) false false)
  | none => s

/-- The granules of a line poisoned at the home. -/
def Mem.poisonLine (m : Mem) (line : Nat) : Mem :=
  (List.range 8).foldl (fun m j => m.addPoison (128 * line + 16 * j) 16) m

/-- What an uncorrectable error does. -/
def State.uncorrectable (s : State) (at_ : ErrAt) : State :=
  match at_ with
  | .v g row lane => s.poisonWord g (.v row lane)
  | .k g n => s.poisonWord g (.k n)
  | .q g n lane => s.poisonWord g (.q n lane)
  | .vtag g quad lane => s.poisonWord g (.vtag quad lane)
  | .ktag g quad => s.poisonWord g (.ktag quad)
  | .store a => match whereIs a with
    | .hbm => { s with mem := s.mem.addPoison (64 * (a / 64)) 64 }
    | .cstore _ => s.eccLevel2 at_ 3
    | _ => { s with mem := s.mem.addPoison (16 * (a / 16)) 16 }
  | .tile _ _ => s.eccLevel2 at_ 4
  | .l1 core line colour gran => match Tbl.get s.mem.l1 (l1Key core line colour) with
    | some l => { s with mem := s.mem.setLine core line colour { l with poison := l.poison ||| BitVec.ofNat 8 (2 ^ (gran % 8)) } }
    | none => s
  | .l2 a => { s with mem := s.mem.addPoison (16 * (a / 16)) 16 }
  | .l1Tag core line colour => match Tbl.get s.mem.l1 (l1Key core line colour) with
    | some l =>
      let m := { s.mem with l1 := Tbl.erase s.mem.l1 (l1Key core line colour) }
      if l.dirty = 0 then { s with mem := m } else { s with mem := m.poisonLine line }.mustRetire core
    | none => s
  | .l2Tag core line dirty => if dirty then { s with mem := s.mem.poisonLine line }.mustRetire core else s

/-- An error is found: one bit is corrected, more are not. -/
def execSoftError (loc : ErrAt) (multi : Bool) (s : State) : Out1 :=
  match errStructure loc with
  | none => .refused .notEnabled
  | some (k, core) => if multi then .next ((s.countUe k).uncorrectable loc) else .next (s.countCe k core)

/-- A parity error discards the effects of what is in the stage, and the core is to be retired (R450). -/
def execParityError (core : Nat) (s : State) : Out1 := stepIf (core < 256) (s.mustRetire core)

/-- A patrol read of a unit: what it corrects no agent observes; an error that it finds is a step of its own (R448). -/
def execPatrolScrub (_addr : Nat) (s : State) : Out1 := .next s

/-! Retirement (R451). -/

/-- The never-started teams of a core dealt again; one that no core can take stays. -/
def State.redeal (s : State) (core : Nat) : State :=
  let c := s.core core
  let all := c.queued ++ c.gleanAns.getD []
  let c' : Core := { c with teamq := [], spill := all.filter (fun x => x.saved.isSome), gleanTo := none, gleanAns := none
                            scanned := none }
  let s := s.setCore core c'.refill
  (all.filter (fun x => x.saved.isNone)).foldl (fun (s : State) x =>
    match (s.task x.task).bind (fun k => s.chooseCore k.fn ((s.dealt k.fn).filter (fun i => i != core && (s.core i).teamq.length < 16)) []) with
    | some i => s.enqueue i x
    | none => s.setCore core ((s.core core).takeBack x)) s

/-- A resident team that cannot be saved ends with cause ECC. -/
def State.killUnsavable (s : State) (core : Nat) : State :=
  (s.teamsOf core).foldl (fun (s : State) e =>
    match s.team e.1 with
    | some T => s.killTeam e.1 T 0 cECC 0 0
    | none => s) s

/-- Steps 1 to 5, once every team that can be saved is saved; teams that could not be dealt again are tried once more. -/
def execCoreRetirement (core : Nat) (s : State) : Out1 :=
  let c := s.core core
  let ts := s.teamsOf core
  if c.dead then stepIf (c.queued.any (fun x => x.saved.isNone)) (s.redeal core)
  else if !c.retire ∨ ts.any (fun e => s.savable e.2) then .refused .notEnabled
  else
    let ents := ts.flatMap (fun e => e.2.snapCmds (some 6))
    let held := ((ts.map (fun e => e.2.colour)) ++ (s.mem.l1.filter (fun e => l1Core e.1 == core)).map (fun e => l1Colour e.1) ++
      (s.sched.saves.filter (fun e => e.2.team.core == core)).map (fun e => e.2.team.colour)).eraseDups
    let (x, s) := s.draw
    let word : Word := if ts.isEmpty then BitVec.ofNat 32 x else causeWord (Trap.of cECC 0 0 0) false false
    let s := s.killUnsavable core
    let s := { s with mem := s.mem.backWhere (fun k => l1Core k == core) false }
    let s := s.setCore core { s.core core with dead := true, heldBy := held }
    let s := s.redeal core
    .next { s with ras := { s.ras with trigs := s.ras.trigs ++ [({ trig := 2, core := core, word := word, ents := ents } : SnapTrig)] } }

/-! Fault snapshots (R449). -/

/-- A walk that has started, as an entry. -/
def State.walkEntry (s : State) (w : Walk) : BitVec 512 :=
  let T := if w.team < 2 ^ 32 then s.team w.team else (Tbl.get s.sched.saves (w.team - 2 ^ 32)).map (·.team)
  let key := if w.kind == .edge || w.kind == .forward then w.task else (T.map (·.task)).getD 0
  let fn := match s.task key with | some k => k.fn | none => (T.map (·.fn)).getD 0
  snapEntry w.core ((T.map (·.tslot)).getD 0) 3 fn w.colour key
    (w.cursor * 2 ^ 192 + w.visited * 2 ^ 64 + (if w.on.isSome then 1 else 5))

/-- Every entry of a snapshot, by core, TSLOT, chain and sequence number. -/
def State.snapEntries (s : State) (more : List (BitVec 512)) : List (BitVec 512) :=
  let key (e : BitVec 512) : List Nat := [bitsOf e.toNat 7 0, bitsOf e.toNat 15 8, bitsOf e.toNat 23 16, bitsOf e.toNat 319 288]
  (s.teams.flatMap (fun e => e.2.snapCmds none) ++ s.sched.saves.flatMap (fun e => e.2.team.snapCmds none) ++
    (s.sched.walks.filter (fun e => e.2.age != 0)).map (fun e => s.walkEntry e.2) ++ more).mergeSort
    (fun a b => !decide (key b < key a))

/-- REQ written as 1: ignored while a snapshot is being written, and without an address. -/
def State.requestSnap (s : State) : State :=
  if s.bring.stage ≠ 8 ∨ !s.ras.trigs.isEmpty then s
  else
    let (x, s) := s.draw
    { s with ras := { s.ras with trigs := [({ trig := 3, core := x % 65536, word := BitVec.ofNat 32 (x / 65536), ents := [] } : SnapTrig)] } }

def execSnapshotRequest (s : State) : Out1 := .next s.requestSnap

/-- The oldest trigger's snapshot is written; with BASE 0, or no such extent, there is none. -/
def execSnapshotWrite (s : State) : Out1 :=
  match s.ras.trigs with
  | [] => .refused .notEnabled
  | g :: rest =>
    let a := s.ras.snapBase.toNat
    let s := { s with ras := { s.ras with trigs := rest } }
    match (s.sec.exts.find? (fun e => e.2.state == 1 && e.2.colour == 0 && e.2.inHbm && e.2.lo == a)).map (·.2) with
    | some e =>
      if a = 0 then .next s
      else
        let all := s.snapEntries g.ents
        let l := all.take ((e.hi' - a - 64) / 64)
        let trunc := if l.length < all.length then 1 else 0
        let head := leBytes 8 s.clock ++ leBytes 4 l.length ++ leBytes 1 g.trig ++ leBytes 1 trunc ++ leBytes 2 g.core ++
          leBytes 4 g.word.toNat ++ leBytes 44 0
        .next { s with
          mem := s.mem.homeWrite a (head ++ l.flatMap (fun x => leBytes 64 x.toNat))
          ras := { s.ras with sseq := s.ras.sseq + 1 } }
    | none => .next s

/-! Log rings (R455, R456). -/

def State.ring (s : State) (g : Nat) : LogRing := (Tbl.get s.ras.rings g).getD LogRing.empty
def State.setRing (s : State) (g : Nat) (r : LogRing) : State := { s with ras := { s.ras with rings := Tbl.set s.ras.rings g r } }

/-- The first byte of the open segment. -/
def LogRing.seg (r : LogRing) : Nat := r.base.toNat + 65536 * (r.head.toNat % max 1 r.nseg.toNat)

/-- A segment closes: unused slots zero, trailer signed, HEAD advances. -/
def State.closeSegment (s : State) (g : Nat) : State :=
  let r := s.ring g
  let body := r.recs.flatMap (fun x => leBytes 64 x.toNat) ++ List.replicate (65280 - 64 * r.recs.length) 0
  let head := leBytes 8 r.head.toNat ++ leBytes 8 s.bootValue ++ leBytes 8 s.clock ++ leBytes 2 s.bring.devid ++ leBytes 1 g ++
    leBytes 1 0 ++ leBytes 2 r.recs.length ++ leBytes 2 0 ++ leBytes 64 r.prev.toNat
  let digest := Config.sha512 (body ++ head)
  let s := { s with mem := s.mem.homeWrite r.seg (body ++ head ++ fixLen 132 (Config.sign digest) ++ leBytes 28 0) }
  s.setRing g { r with head := r.head + 1, recs := [], prev := digest }

/-- A ring takes no new segment. -/
def LogRing.fullUp (r : LogRing) : Bool := r.recs.isEmpty && r.nseg.toNat ≤ (r.head - r.tail).toNat

/-- A record put into the open segment. -/
def State.putRec (s : State) (g : Nat) (x : BitVec 512) : State :=
  let r := s.ring g
  let s := { s with mem := s.mem.homeWrite (r.seg + 64 * r.recs.length) (leBytes 64 x.toNat) }
  let s := s.setRing g { r with recs := r.recs ++ [x], firstAt := if r.recs.isEmpty then s.clock else r.firstAt }
  if (s.ring g).recs.length = 1020 then s.closeSegment g else s

/-- A gap record. What the spec gives no meaning to in it is a free value. -/
def gapRec (tower first last count x : Nat) : BitVec 512 :=
  BitVec.ofNat 512 (x / 2 ^ 40 % 2 ^ 128 * 2 ^ 384 + last % 2 ^ 64 * 2 ^ 320 + count % 2 ^ 64 * 2 ^ 256 + first % 2 ^ 64 * 2 ^ 192 +
    x % 2 ^ 28 * 2 ^ 164 + x / 2 ^ 28 % 64 * 2 ^ 151 + tower * 2 ^ 149 + 3 * 2 ^ 128)

/-- Gap records of every tower that lost records, first in a new segment. -/
def State.putGaps (s : State) (g : Nat) : State :=
  let r := s.ring g
  if !r.recs.isEmpty then s
  else r.lost.foldl (fun (s : State) e =>
    let (x, s) := s.draw
    s.putRec g (gapRec e.1 e.2.1 e.2.2.1 e.2.2.2 x)) (s.setRing g { r with lost := [] })

/-- Whether a ring's space is what R455 asks of it. -/
def State.ringPlaced (s : State) (r : LogRing) : Bool :=
  s.sec.exts.any (fun e => e.2.state == 1 && e.2.colour == 0 && e.2.inHbm && e.2.lo ≤ r.base.toNat &&
    r.base.toNat + 65536 * r.nseg.toNat ≤ e.2.hi')

/-- A tower's record goes to its ring: dropped while EN is 0, counted as lost while the ring is full. -/
def State.logRec (s : State) (g tower win : Nat) (x : BitVec 512) : State :=
  let r := s.ring g
  if !r.en ∨ !s.ringPlaced r then s
  else if r.fullUp then
    let (f, n) := match Tbl.get r.lost tower with
      | some (f, _, n) => (f, n)
      | none => (win, 0)
    s.setRing g { r with lost := Tbl.set r.lost tower (f, win, n + 1) }
  else (s.putGaps g).putRec g x

/-- A segment closes at the end of a window, one second after its first record. -/
def execSegmentClose (g : Nat) (s : State) : Out1 :=
  let r := s.ring g
  stepIf (r.en && !r.recs.isEmpty && s.ras.ended.isEmpty && r.firstAt + 1800000000 ≤ s.clock / 1800000 * 1800000)
    (s.closeSegment g)

/-! Watch windows (R454). -/

/-- A record of an entry. The agent of an overflow record is a free value. -/
def Watched.record (x : Watched) (win kind agent : Nat) : BitVec 512 :=
  BitVec.ofNat 512 (x.last % 2 ^ 64 * 2 ^ 448 + x.first % 2 ^ 64 * 2 ^ 384 + x.bytes % 2 ^ 64 * 2 ^ 320 + x.count % 2 ^ 64 * 2 ^ 256 +
    win % 2 ^ 64 * 2 ^ 192 + agent % 2 ^ 16 * 2 ^ 176 + x.colour % 4096 * 2 ^ 164 + x.op % 16 * 2 ^ 160 + x.path % 8 * 2 ^ 157 +
    x.range % 64 * 2 ^ 151 + x.tower % 4 * 2 ^ 149 + kind * 2 ^ 128)

/-- The order of R454. -/
def Watched.key (ovf : Bool) (x : Watched) : List Nat :=
  [x.tower, x.range, if ovf then 1 else 0, x.colour, x.path, x.agent, x.op]

/-- One entry written to the ring of its range. -/
def State.logWatched (s : State) (win : Nat) (e : Bool × Watched) : State :=
  let g := bitsOf (Store.read s.ras.watch (64 * e.2.tower + e.2.range)).toNat 154 151
  if e.1 then
    let (x, s) := s.draw
    s.logRec g e.2.tower win (e.2.record win 2 x)
  else s.logRec g e.2.tower win (e.2.record win 1 e.2.agent)

/-- The records of the oldest window that has ended are written. -/
def execWatchWindowEnd (s : State) : Out1 :=
  match s.ras.ended with
  | [] => .refused .notEnabled
  | (win, sums, overs) :: rest =>
    let s := { s with ras := { s.ras with ended := rest } }
    let all := (sums.map (fun x => (false, x)) ++ overs.map (fun x => (true, x))).mergeSort
      (fun a b => !decide (Watched.key b.1 b.2 < Watched.key a.1 a.2))
    .next (all.foldl (fun (s : State) e => s.logWatched win e) s)

end Sys2Proof.Machine
end

