-- ==== Sys2Proof/Machine/Checkpoint.lean ====
section
/-! DEFINITION. The checkpoint engine (R458). The spec gives what an image holds and not its layout: the image's bytes are
an opaque function of its contents. -/

namespace Sys2Proof.Machine

/-- One extent of an image: index, entry image, sealed bytes, tags and poison counted from its base. -/
structure CkExtent where
  index : Nat
  entry : BitVec 128
  bytes : List Byte
  tags : Store 1
  poison : List (Nat × Nat)
  deriving DecidableEq, Repr

/-- What an image holds. -/
structure CkImage where
  fmask : BitVec 16
  extents : List CkExtent
  saves : List Save
  deriving DecidableEq, Repr

/-- The bytes of an image with its manifest. -/
opaque ckEncode : CkImage → List Byte
/-- The contents of an image; for each extent, whether it has the digest of the manifest. -/
opaque ckDecode : List Byte → Option (CkImage × List Bool)

/-! Sealing of lines (R416, R458). -/

/-- The key under which the lines of a colour are sealed in an image. -/
def State.ckKey (s : State) (c : Nat) : BitVec 512 :=
  let x := s.colour c
  if x.prot ∧ x.keyed then (s.slot x.kslot).key else (s.slot s.ras.ckSlot.toNat).key

def State.sealRange (s : State) (c a n : Nat) (bs : List Byte) : List Byte :=
  byLines (fun x l => Config.xtsSeal (s.ckKey c) x l) (n / 128) a bs
def State.openRange (s : State) (c a n : Nat) (bs : List Byte) : List Byte :=
  byLines (fun x l => Config.xtsOpen (s.ckKey c) x l) (n / 128) a bs

/-- The functions of FMASK. -/
def State.ckFns (s : State) : List Nat := (List.range 16).filter s.ras.ckFmask.getLsbD
/-- A colour of an included function. -/
def State.ckColour (s : State) (c : Nat) : Bool := (s.colour c).valid && s.ras.ckFmask.getLsbD (s.colour c).func

/-- An extent as the image holds it. -/
def State.ckExtent (s : State) (i : Nat) (e : Ext) : CkExtent :=
  let n := 4096 * e.lenp
  { index := i, entry := BitVec.ofNat 128 e.image, bytes := s.sealRange e.colour e.lo n (s.extBytes e)
    tags := (tagsFrom e.lo e.hi' s.mem.tags).filter (fun x => s.mem.homeTag (e.lo / 16 + x.1)), poison := poisonFrom e.lo e.hi' s.mem.poison }

/-- The image of the functions in FMASK. -/
def State.ckImage (s : State) : CkImage :=
  { fmask := s.ras.ckFmask
    extents := (s.sec.exts.filter (fun e => e.2.state == 1 && s.ckColour e.2.colour)).map (fun e => s.ckExtent e.1 e.2)
    saves := (s.sched.saves.filter (fun e => s.ras.ckFmask.getLsbD e.2.team.fn)).map (·.2) }

/-- CKPT.SLOT names a LOADED slot of a protected colour of function 0. -/
def State.ckSlotOk (s : State) : Bool :=
  (s.slot s.ras.ckSlot.toNat).loaded &&
    s.sec.colours.any (fun e => e.2.valid && e.2.prot && e.2.func == 0 && e.2.kslot == s.ras.ckSlot.toNat)

def State.ckEnd (s : State) (st : Nat) : State := { s with ras := { s.ras with ckStatus := st } }

/-- OP written as 1: ignored before READY and while STATUS is 1. From here on no task of an included function is
admitted; their teams are pre-empted, or end where they cannot be saved. -/
def execCheckpoint (s : State) : Out1 :=
  if s.bring.stage ≠ 8 ∨ s.ras.ckStatus = 1 then .next s
  else .next { s with ras := { s.ras with ckStatus := 1, ckOp := 1, ckDone := 0, ckTotal := 0 } }

/-- The image leaves for a host-window or a peer-window address. -/
def State.sendImage (s : State) (bs : List Byte) : State :=
  let a := s.ras.ckTarget.toNat
  if isHost a then s.send (.hostWrite (a - hostBase) bs) else s.send (.image a bs)

/-- Steps 3 to 5, once no team of an included function is resident. -/
def execCheckpointImageWrite (s : State) : Out1 :=
  if s.ras.ckStatus ≠ 1 ∨ s.ras.ckOp ≠ 1 ∨ s.teams.any (fun e => s.ras.ckFmask.getLsbD e.2.fn) then .refused .notEnabled
  else if !s.ckSlotOk then .next (s.ckEnd 3)
  else
    let bs := ckEncode s.ckImage
    let n : Word64 := BitVec.ofNat 64 bs.length
    let s := { s with ras := { s.ras with ckTotal := n } }
    if s.ras.ckLimit.toNat < bs.length then .next (s.ckEnd 3)
    else
      let s := (s.sec.exts.filter (fun e => e.2.state == 1 && s.ckColour e.2.colour)).foldl (fun (s : State) e =>
        s.watchEng 4 0xC002 e.2.colour 0 [(e.2.lo, 4096 * e.2.lenp)]) s
      .next ({ s.sendImage bs with ras := { s.ras with ckDone := n } }.ckEnd 2)

/-! Restore. -/

/-- Whether an image fits the device: its extents LIVE as they were, the included functions without work. -/
def State.ckFits (s : State) (im : CkImage) : Bool :=
  im.extents.all (fun x =>
    let e := s.ext x.index
    e.state == 1 && BitVec.ofNat 128 e.image == x.entry && s.ckColour e.colour) &&
  s.ckFns.all (fun f => s.sched.tasks.all (fun e => e.2.fn != f || e.2.complete) && !s.residentWork f && !s.savedWork f)

/-- Whether a tag of an image is reinstated. -/
def State.ckTag (s : State) (c : CapV) : Bool :=
  s.ckColour c.colour && s.inExtent c.colour c.base c.top && !s.revoked c

/-- One extent written. -/
def State.ckWrite (s : State) (x : CkExtent) : State :=
  let e := s.ext x.index
  let n := 4096 * e.lenp
  let bs := s.openRange e.colour e.lo n x.bytes
  let tags := (untagStore (bs.zipIdx.map (fun (b, j) => (j, b))) x.tags (fun c => !s.ckTag c))
  let m := (s.mem.dropLines e.lo e.hi').homeWrite e.lo bs
  let m := putTags e.lo tags (putPoison e.lo x.poison m)
  { s with mem := m }

/-- A saved team put back in the queue of its core. -/
def State.ckSave (s : State) (v : Save) : State :=
  let n := s.sched.saveNo
  let s := { s with sched := { s.sched with saves := Tbl.set s.sched.saves n v, saveNo := n + 1 } }
  (s.sealImage v).requeue v.team (some n)

/-- OP written as 2: the image is read back and verified before anything is written. -/
def execCheckpointRestore (img : Option (List Byte)) (s : State) : Out1 :=
  if s.bring.stage ≠ 8 ∨ s.ras.ckStatus = 1 then .next s
  else
    let s := { s with ras := { s.ras with ckOp := 2, ckDone := 0, ckTotal := 0 } }
    match img with
    | none => .next (s.ckEnd 3)
    | some bs =>
      if !Config.verifyOwn bs then .next (s.ckEnd 3)
      else match ckDecode bs with
        | none => .next (s.ckEnd 3)
        | some (im, ok) =>
          if !ok.all id ∨ ok.length ≠ im.extents.length ∨ !s.ckFits im then .next (s.ckEnd 3)
          else
            let s := im.extents.foldl State.ckWrite s
            let vs := im.saves.filter (fun v => s.ras.ckFmask.getLsbD v.team.fn)
            .next ((vs.foldl State.ckSave s).ckEnd 2)

end Sys2Proof.Machine
end

