-- ==== Sys2Proof/Machine/Ports.lean ====
section
/-! DEFINITION. Fewick ports: training, flits, retrains (R437 to R441). -/

namespace Sys2Proof.Machine

/-- A port trains from stage 6 on. -/
def State.portsOn (s : State) : Bool := 6 ≤ s.bring.stage && s.bring.stage ≤ 8

/-- A step of port p in a state. -/
def State.portStep (s : State) (p state : Nat) (f : Port → Port) : Out1 :=
  stepIf (s.portsOn && p < 12 && (s.port p).enabled && (s.port p).state == state) (s.setPort p (f (s.port p)))

/-- A port becomes FAILED. -/
def Port.fail (x : Port) (reason now : Nat) : Port := { x with state := 5, reason := reason, since := now }

def execPartnerSignal (p : Nat) (s : State) : Out1 := s.portStep p 1 (fun x => { x with state := 2, since := s.clock })

/-- 400 ms in DETECT: DOWN with REASON 1; the third attempt since the retry limit passed ends in FAILED (R440). -/
def execDetectTimeout (p : Nat) (s : State) : Out1 :=
  if s.clock < (s.port p).since + 720000000 then .refused .notEnabled
  else s.portStep p 1 (fun x =>
    if 3 ≤ x.fails then x.fail 7 s.clock else { x with state := 0, reason := 1, since := s.clock })

/-- 100 ms in DOWN with REASON 1. -/
def execDetectRetry (p : Nat) (s : State) : Out1 :=
  let x := s.port p
  if x.reason ≠ 1 ∨ s.clock < x.since + 180000000 then .refused .notEnabled
  else s.portStep p 0 (fun x => { x.detect s.clock with fails := if x.fails = 0 then 0 else x.fails + 1 })

/-- Lanes that are chosen (R438): all 8, or lanes 0 to 3, or lanes 4 to 7. -/
def chooseLanes (m : BitVec 8) : Option (BitVec 8) :=
  if m = 0xFF then some 0xFF else if m &&& 0xF = 0xF then some 0xF else if m &&& 0xF0 = 0xF0 then some 0xF0 else none

def Port.agree (x : Port) (o : LinkOffer) (now : Nat) : Port :=
  match chooseLanes o.lanes with
  | none => x.fail 2 now
  | some m =>
    let go (rate : Nat) : Port :=
      { x with state := 3, since := now, lanes := if m = 0xFF then 8 else 4, rate := rate, fec := x.fecReq || o.fec, rev := o.rev }
    if o.fast &&& m = m then go 0 else if o.slow &&& m = m then go 1 else x.fail 3 now

def execNegotiate (p : Nat) (offer : LinkOffer) (s : State) : Out1 := s.portStep p 2 (fun x => x.agree offer s.clock)

/-- The partner's identity is checked (R439). -/
def Port.attest (x : Port) (pr : LinkProof) (now : Nat) : Port :=
  if !pr.chainOk then x.fail 4 now
  else if !pr.sigOk then x.fail 5 now
  else
    let x := { x with pdev := pr.dev, pport := pr.port }
    if pr.dev ≠ x.expDev ∨ pr.port ≠ x.expPort then x.fail 6 now
    else { x with state := 4, since := now, reason := 0, ctr := 0, rx := 0, flights := [], fails := 0 }

def execAttest (p : Nat) (proof : LinkProof) (s : State) : Out1 := s.portStep p 3 (fun x => x.attest proof s.clock)

/-- A flit arrives: what the partner has acknowledged leaves the list; a flit whose tag verifies is acknowledged, and the
next expected one advances the counter; one whose tag fails is not acknowledged. -/
def execFlitReceived (p : Nat) (fl : FlitIn) (s : State) : Out1 :=
  let x := s.port p
  if !s.portUp p then .refused .notEnabled
  else if !fl.macOk ∨ x.rx < fl.ctr then .next s
  else
    let y := { x with flights := x.flights.filter (fun f => fl.ack ≤ f.ctr), rx := if fl.ctr = x.rx then x.rx + 1 else x.rx }
    .next ((s.setPort p y).send (.ack p fl.ctr))

/-- A flit has been resent as often, or waits as long, as the limit allows. -/
def Flight.over (f : Flight) (now : Nat) : Bool := 64 ≤ f.resends || f.at_ + 360000 ≤ now

/-- The oldest unacknowledged flit goes out again, the same ciphertext under the same counter. -/
def execFlitResend (p : Nat) (s : State) : Out1 :=
  let x := s.port p
  match x.flights with
  | f :: rest =>
    stepIf (s.portUp p && !f.over s.clock)
      ((s.setPort p { x with flights := { f with resends := f.resends + 1 } :: rest }).send (.resend p f.ctr f.req.data))
  | [] => .refused .notEnabled

/-- A command whose message was lost while its team was stopped: it sends it again (R327). -/
def Cmd.unsend (c : Cmd) (f : Flight) : Cmd :=
  if c.opc = 1 then { c with sent := c.sent.filter (fun k => k != f.unit || c.units.contains k) }
  else if 2 ^ 40 ≤ f.unit ∧ f.dev = 16384 then
    { c with sent := c.sent.filter (· != toSwitch (f.unit - 2 ^ 40)), parts := Tbl.erase c.parts (keptKey (f.unit - 2 ^ 40)) }
  else
    let p := f.unit % 2 ^ 60
    { c with sent := c.sent.filter (fun x => !(List.range c.members).any (fun r => x == toMember p r && (c.member r).dest == f.dev)) }

/-- A team whose message was lost while it was stopped. -/
def Team.unsend (T : Team) (f : Flight) : Team :=
  match (T.chain 2).cmd (BitVec.ofNat 32 f.seq) with
  | some c => T.setChain 2 ((T.chain 2).setCmd (c.unsend f))
  | none => T

/-- The commands of messages that no partner acknowledged end with LINK; those of a stopped team, resident or saved, do not
(R327): they send the messages again. -/
def State.lostFlight (s : State) (f : Flight) : State :=
  match s.team f.team with
  | none =>
    match Tbl.get s.sched.saves (f.team - 2 ^ 32) with
    | some v =>
      if f.team < 2 ^ 32 then s
      else { s with sched := { s.sched with saves := Tbl.set s.sched.saves (f.team - 2 ^ 32) { v with team := v.team.unsend f } } }
    | none => s
  | some T => match (T.chain 2).cmd (BitVec.ofNat 32 f.seq) with
    | some c =>
      if T.halt then s.setTeam f.team (T.unsend f)
      else if !c.accepted ∨ c.status ≠ 1 ∨ c.fin ≠ 0 then s
      else if c.opc = 7 then s.collFail f.team c (linkErr 0)
      else s.failCmd f.team 2 c (linkErr (c.peerAddr f.unit)) 0
    | none => s

/-- The port loses what it had in flight. -/
def State.lose (s : State) (p : Nat) : State :=
  let x := s.port p
  x.flights.foldl State.lostFlight (s.setPort p { x with flights := [] })

/-- The retry limit passes: the port trains again. -/
def execRetryLimit (p : Nat) (s : State) : Out1 :=
  let x := s.port p
  stepIf (s.portUp p && x.flights.any (fun f => f.over s.clock))
    ((s.setPort p { x.detect s.clock with retrain := x.retrain + 1, fails := 1 }).lose p)

/-! CMD of FWKPST (R441), only at READY. -/

/-- Retrain: a DOWN or FAILED port that the blob enables. -/
def State.retrainPort (s : State) (p : Nat) : State :=
  let x := s.port p
  if s.bring.stage = 8 ∧ p < 12 ∧ x.enabled ∧ (x.state = 0 ∨ x.state = 5) then
    s.setPort p { x.detect s.clock with retrain := x.retrain + 1, fails := 0 }
  else s

/-- Disable: the port goes DOWN and stays there. -/
def State.disablePort (s : State) (p : Nat) : State :=
  if s.bring.stage = 8 ∧ p < 12 then
    let x := s.port p
    (s.setPort p { x with state := 0, reason := 8, since := s.clock, fails := 0 }).lose p
  else s

def execPortRetrain (p : Nat) (s : State) : Out1 := .next (s.retrainPort p)
def execPortDisable (p : Nat) (s : State) : Out1 := .next (s.disablePort p)

end Sys2Proof.Machine
end

