-- ==== Sys2Proof/Machine/Pred.lean ====
section
/-! DEFINITION. Predicate instructions (R116). -/

namespace Sys2Proof.Machine

/-- PLOP: bit 4 qA + 2 qB + qC of LUT. -/
def predLop (o : Op) (w : Long) (s : State) : Out1 :=
  let qa := w.a.toNat % 8
  let qb := w.b.toNat % 8
  let qc := bitsOf w.imm.toNat 4 2
  let lut := bitsOf w.imm.toNat 12 5
  laneOp o (fun _ => w.asel == 0 && w.bsel == 0) [.q qa, .q qb, .q qc]
    (fun i => i.qOut o w.d
      (((laneBits (i.G.pred qa)).zip ((laneBits (i.G.pred qb)).zip (laneBits (i.G.pred qc)))).map
        (fun (a, b, c) => lut.testBit ((if a then 4 else 0) + (if b then 2 else 0) + (if c then 1 else 0))))) s

/-- P2K: kD := the predicate's word n in the active lanes. -/
def predP2k (o : Op) (w : Long) (s : State) : Out1 :=
  let qa := w.a.toNat % 8
  let n := w.b.toNat % 4
  laneOp o (fun _ => n < 3) [.q qa]
    (fun i => kResult 32 w.d.toNat (maskWord (i.G.pred qa &&& i.active o) n).toNat) s

/-- K2P: qD := bit (L mod 32) of B; `long` forms take B by BSEL. -/
def predK2p (o : Op) (w : Long) (s : State) : Out1 :=
  laneOp o (fun _ => w.bsel != 0) (w.bRegs 32)
    (fun i => i.qOut o w.d ((i.bVals w tN32).zipIdx.map (fun (x, l) => x.testBit (l % 32)))) s

/-- PMOV: qD := qA xor NEG. -/
def predMov (o : Op) (w : Long) (s : State) : Out1 :=
  let qa := w.a.toNat % 8
  laneOp o (fun _ => true) [.q qa]
    (fun i => i.qOut o w.d ((laneBits (i.G.pred qa)).map (fun a => a != bitAt w.imm.toNat 0))) s

def execPlop (w : Long) : State → Out1 := predLop (Op.long 0x0E 2 w) w
def execP2k32 (o : Short) : State → Out1 := predP2k (Op.short 0x0E 3) (o.wide 10 0 0)
def execP2k64 (w : Long) : State → Out1 := predP2k (Op.long 0x0E 3 w) w
def execK2p32 (o : Short) : State → Out1 := predK2p (Op.short 0x0E 4) (o.wide 10 0 1)
def execK2p64 (w : Long) : State → Out1 := predK2p (Op.long 0x0E 4 w) w
def execPmov32 (o : Short) : State → Out1 := predMov (Op.short 0x0E 5) (o.wide 10 0 0)
def execPmov64 (w : Long) : State → Out1 := predMov (Op.long 0x0E 5 w) w

end Sys2Proof.Machine
end

