-- ==== Sys2Proof/Machine/Registers.lean ====
section
/-! DEFINITION. The registers of BAR0: what a read returns and what a 32-bit write does (R9, R354, R392, R404, R415, R419,
R433, R434, R441, R447, R449, R451, R453, R455, R457, R458). Words of function 0 unless an offset says otherwise. -/

namespace Sys2Proof.Machine

/-- Where an offset of BAR0 lies. -/
inductive Reg where
  | brstat (i : Nat)
  | brdesc (i : Nat)
  | fwkpst (p i : Nat)
  | wsplit (i : Nat)
  | revpass (i : Nat)
  | fcfg (f i : Nat)
  | mcmd (i : Nat)
  | watch (w i : Nat)
  | logring (g i : Nat)
  | snap (i : Nat)
  | rnonce (f i : Nat)
  | rcpt (i : Nat)
  | coreret (i : Nat)
  | phys (i : Nat)
  | ckpt (i : Nat)
  | errcnt (k i : Nat)
  | queue (q i : Nat)
  | none
  deriving DecidableEq, Repr

/-- The register and word of an offset, a multiple of 4. -/
def regOf (o : Nat) : Reg :=
  if o < 0x8 then .brstat (o / 4)
  else if o < 0x28 then .brdesc ((o - 8) / 4)
  else if 0x100 ≤ o ∧ o < 0x1C0 then .fwkpst ((o - 0x100) / 16) (o % 16 / 4)
  else if 0x1000 ≤ o ∧ o < 0x1008 then .wsplit (o % 8 / 4)
  else if 0x1008 ≤ o ∧ o < 0x1010 then .revpass (o % 8 / 4)
  else if 0x2000 ≤ o ∧ o < 0x3000 then .fcfg ((o - 0x2000) / 256) (o % 256 / 4)
  else if 0x4000 ≤ o ∧ o < 0x4040 then .mcmd ((o - 0x4000) / 4)
  else if 0x5000 ≤ o ∧ o < 0x7000 then .watch ((o - 0x5000) / 32) (o % 32 / 4)
  else if 0x7000 ≤ o ∧ o < 0x7200 then .logring ((o - 0x7000) / 32) (o % 32 / 4)
  else if 0x7200 ≤ o ∧ o < 0x7220 then .snap ((o - 0x7200) / 4)
  else if 0x7240 ≤ o ∧ o < 0x7340 then .rnonce ((o - 0x7240) / 16) (o % 16 / 4)
  else if 0x7340 ≤ o ∧ o < 0x7360 then .rcpt ((o - 0x7340) / 4)
  else if 0x7380 ≤ o ∧ o < 0x73A0 then .coreret ((o - 0x7380) / 4)
  else if 0x7400 ≤ o ∧ o < 0x7500 then .phys ((o - 0x7400) / 4)
  else if 0x7500 ≤ o ∧ o < 0x7540 then .ckpt ((o - 0x7500) / 4)
  else if 0x7540 ≤ o ∧ o < 0x7580 then .errcnt ((o - 0x7540) / 8 + 1) (o % 8 / 4)
  else if 0x10000 ≤ o ∧ o < 0x12000 then .queue ((o - 0x10000) / 64) (o % 64 / 4)
  else .none

/-- Whether a register lies in the BAR0 of a function. -/
def Reg.seen (f : Nat) : Reg → Bool
  | .mcmd _ => f < 16
  | .queue _ _ => f < 16
  | .none => false
  | _ => f == 0

/-- Registers that respond before READY (R432, R433, R434, R441). -/
def Reg.early : Reg → Bool
  | .brstat _ => true
  | .brdesc _ => true
  | .fwkpst _ _ => true
  | _ => false

/-! Reads. -/

/-- Word i of a number. -/
def wordOf (x i : Nat) : Word := BitVec.ofNat 32 (x >>> (32 * i))

/-- BRSTAT (R433). -/
def State.brstat (s : State) : Nat :=
  let b := s.bring
  let mask (st : Nat) : Nat := ((List.range 12).map (fun p => if (s.port p).state = st then 2 ^ p else 0)).sum
  (if b.pace then 2 ^ 55 else 0) + mask 4 * 2 ^ 40 + mask 5 * 2 ^ 28 + b.fail % 256 * 2 ^ 16 + b.fstage % 16 * 2 ^ 12 + b.stage % 16

/-- BRDESC (R434); GO reads zero. -/
def State.brdesc (s : State) : Nat :=
  let b := s.bring
  b.cfglen.toNat * 2 ^ 160 + b.fwlen.toNat * 2 ^ 128 + b.cfgaddr.toNat * 2 ^ 64 + b.fwaddr.toNat

/-- FWKPST (R441). -/
def Port.status (x : Port) : Nat :=
  x.pdev % 16384 * 2 ^ 114 + x.pport % 16 * 2 ^ 110 + x.retrain.toNat * 2 ^ 64 + x.reason % 256 * 2 ^ 32 +
    (if x.rev then 2 ^ 27 else 0) + (if x.fec then 2 ^ 26 else 0) + x.rate % 4 * 2 ^ 24 +
    (if x.state = 4 then x.lanes % 16 * 2 ^ 20 else 0) + x.state % 16

/-- FCFG (R392). -/
def Fn.config (F : Fn) : Nat :=
  F.debt % 2 ^ 32 * 2 ^ 384 + F.tokens % 2 ^ 32 * 2 ^ 352 + (if F.thr then 2 ^ 351 else 0) + (if F.cfgerr then 2 ^ 350 else 0) +
    F.csax.toNat * 2 ^ 334 + F.borrowNext.toNat * 2 ^ 317 + F.depthNext.toNat * 2 ^ 302 + F.rateNext.toNat * 2 ^ 288 +
    F.rlim.toNat * 2 ^ 276 + F.tlim.toNat * 2 ^ 270 + F.quantum.toNat * 2 ^ 232 + F.pmask.toNat * 2 ^ 226 +
    (if F.ts then 2 ^ 225 else 0) + (if F.en then 2 ^ 224 else 0) + F.clusters.toNat * 2 ^ 192 + F.chsets.toNat * 2 ^ 128 +
    F.queues.toNat

/-- MCMD (R404). -/
def Fn.block (F : Fn) : Nat := F.args.toNat * 2 ^ 64 + F.cookie.toNat * 2 ^ 32 + F.mstatus % 256 * 2 ^ 16 + F.mop % 256

/-- LOGRING (R455). -/
def LogRing.status (r : LogRing) : Nat :=
  (if r.en then 2 ^ 192 else 0) + r.colour.toNat * 2 ^ 160 + r.tail.toNat * 2 ^ 128 + r.head.toNat * 2 ^ 96 + r.nseg.toNat * 2 ^ 64 +
    r.base.toNat

/-- SNAP (R449): BUSY while a snapshot is to be written. -/
def State.snapReg (s : State) : Nat :=
  (if s.ras.trigs.isEmpty then 0 else 2 ^ 97) + s.ras.sseq.toNat * 2 ^ 64 + s.ras.snapBase.toNat

/-- RCPTRING (R457). -/
def Ras.receipts (r : Ras) : Nat :=
  r.rcptTail.toNat * 2 ^ 128 + r.rcptHead.toNat * 2 ^ 96 + r.rcptLen.toNat * 2 ^ 64 + r.rcptBase.toNat

/-- CORERET (R451). -/
def State.coreret (s : State) : Nat := ((List.range 256).map (fun i => if (s.core i).dead then 2 ^ i else 0)).sum

/-- PHYS (R451). -/
def State.phys (s : State) : Nat := leNat (s.bring.phys.map (BitVec.ofNat 8))

/-- CKPT (R458); OP reads zero. -/
def Ras.checkpoint (r : Ras) : Nat :=
  r.ckTotal.toNat * 2 ^ 256 + r.ckDone.toNat * 2 ^ 192 + r.ckStatus % 256 * 2 ^ 160 + r.ckSlot.toNat * 2 ^ 144 +
    r.ckFmask.toNat * 2 ^ 128 + r.ckLimit.toNat * 2 ^ 64 + r.ckTarget.toNat

/-- A queue's register block (R354). -/
def Queue.block (q : Queue) : Nat :=
  (if q.badaddr then 2 ^ 225 else 0) + (if q.full then 2 ^ 224 else 0) + q.qcnt % 2 ^ 13 * 2 ^ 192 + q.qdone.toNat * 2 ^ 160 +
    q.qseq.toNat * 2 ^ 128

/-- What function f reads at an offset of its BAR0. Reserved bits, WO fields and registers that do not answer yet read
zero (R9, R394, R432). -/
def State.readReg (s : State) (f o : Nat) : Word :=
  let r := regOf o
  if !r.seen f ∨ (!r.early ∧ !s.ready) then 0
  else match r with
    | .brstat i => wordOf s.brstat i
    | .brdesc i => wordOf s.brdesc i
    | .fwkpst p i => wordOf (s.port p).status i
    | .wsplit i => wordOf s.sec.pways i
    | .revpass i => wordOf (s.sec.passDone.toNat * 2 ^ 32 + s.sec.passRun.toNat) i
    | .fcfg g i => wordOf (s.fn g).config i
    | .mcmd i => wordOf (s.fn f).block i
    | .watch w i => wordOf (Store.read s.ras.watch w).toNat i
    | .logring g i => wordOf (s.ring g).status i
    | .snap i => wordOf s.snapReg i
    | .rnonce g i => wordOf (s.fn g).rnonce.toNat i
    | .rcpt i => wordOf s.ras.receipts i
    | .coreret i => wordOf s.coreret i
    | .phys i => wordOf s.phys i
    | .ckpt i => wordOf s.ras.checkpoint i
    | .errcnt k i => wordOf ((Store.read s.ras.ue k).toNat * 2 ^ 32 + (Store.read s.ras.ce k).toNat) i
    | .queue q i => if s.owns f q then wordOf (s.queue q).block i else 0
    | .none => 0

/-! Writes. -/

/-- BRDESC: ignored after GO; bit 0 of word 6 is GO. -/
def State.writeBrdesc (s : State) (i : Nat) (w : Word) : Out1 :=
  let b := s.bring
  let put (b : Bring) : Out1 := .next { s with bring := b }
  if b.go then .next s
  else match i with
    | 0 => put { b with fwaddr := setWord b.fwaddr 0 w }
    | 1 => put { b with fwaddr := setWord b.fwaddr 1 w }
    | 2 => put { b with cfgaddr := setWord b.cfgaddr 0 w }
    | 3 => put { b with cfgaddr := setWord b.cfgaddr 1 w }
    | 4 => put { b with fwlen := w }
    | 5 => put { b with cfglen := w }
    | 6 => if w.getLsbD 0 then execGo s else .next s
    | _ => .next s

/-- PWAYS: 13 to 15, and every write while a colour is KEYED, are ignored (R415). -/
def State.writeWsplit (s : State) (i : Nat) (w : Word) : State :=
  if i ≠ 0 ∨ 12 < w.toNat % 16 ∨ s.sec.colours.any (fun e => e.2.keyed) then s
  else { s with sec := { s.sec with pways := w.toNat % 16 } }

/-- The arguments of the command block as they stand. -/
def Fn.arg (F : Fn) (b n : Nat) : Nat := F.args.toNat / 2 ^ (8 * (b - 8)) % 2 ^ (8 * n)

/-- Word 0 of MCMD starts the command in OP with the arguments in the block; COOKIE and ARGS are stored. A KEY_RELEASE
whose blob lies in the host window is a step of its own. -/
def State.writeMcmd (s : State) (f i : Nat) (w : Word) : Out1 :=
  let F := s.fn f
  if F.mstatus = 1 then .next s
  else if i = 1 then .next (s.setFn f { F with cookie := w })
  else if 2 ≤ i then .next (s.setFn f { F with args := setWord F.args (i - 2) w })
  else match w.toNat % 256 with
    | 1 => execExtAdd f (F.arg 8 2) (BitVec.ofNat 128 (F.arg 16 16)) s
    | 2 => execExtRevoke f (F.arg 8 2) s
    | 3 => execExtFree f (F.arg 8 2) s
    | 4 => execColSet f (F.arg 8 2) (F.arg 10 1) (F.arg 11 1) (F.arg 12 1) s
    | 5 => execImgBind f (F.arg 8 2) (F.arg 10 2) s
    | 6 => if isHost (F.arg 16 8) then .refused .notEnabled else execKeyRelease f (F.arg 8 2) (F.arg 16 8) none s
    | 7 => execKeyZero f (F.arg 8 2) s
    | 8 => execPreempt f (F.arg 8 1) s
    | 9 => execSweep f s
    | op => execMcmdUnlistedOp f op s

/-- A watch range (R453): bits 255:156 and 63:56 are reserved. -/
def State.writeWatch (s : State) (w i : Nat) (x : Word) : State :=
  let mask : BitVec 256 := BitVec.ofNat 256 (2 ^ 156 - 2 ^ 64 + (2 ^ 56 - 1))
  { s with ras := { s.ras with watch := Store.write s.ras.watch w (setWord (Store.read s.ras.watch w) i x &&& mask) } }

/-- A log ring (R455): BASE and NSEG only while EN is 0. -/
def State.writeLogring (s : State) (g i : Nat) (w : Word) : State :=
  let r := s.ring g
  match i with
  | 0 => if r.en then s else s.setRing g { r with base := setWord r.base 0 w }
  | 1 => if r.en then s else s.setRing g { r with base := setWord r.base 1 w }
  | 2 => if r.en then s else s.setRing g { r with nseg := w }
  | 4 => s.setRing g { r with tail := w }
  | 5 => s.setRing g { r with colour := w }
  | 6 => s.setRing g { r with en := w.getLsbD 0 }
  | _ => s

def State.writeSnap (s : State) (i : Nat) (w : Word) : State :=
  match i with
  | 0 => { s with ras := { s.ras with snapBase := setWord s.ras.snapBase 0 w } }
  | 1 => { s with ras := { s.ras with snapBase := setWord s.ras.snapBase 1 w } }
  | 3 => if w.getLsbD 0 then s.requestSnap else s
  | _ => s

def State.writeRcpt (s : State) (i : Nat) (w : Word) : State :=
  let r := s.ras
  match i with
  | 0 => { s with ras := { r with rcptBase := setWord r.rcptBase 0 w } }
  | 1 => { s with ras := { r with rcptBase := setWord r.rcptBase 1 w } }
  | 2 => { s with ras := { r with rcptLen := w } }
  | 4 => { s with ras := { r with rcptTail := w } }
  | _ => s

/-- CKPT: OP is bits 153:152; SLOT and FMASK are the rest of word 4. A restore is a step of its own. -/
def State.writeCkpt (s : State) (i : Nat) (w : Word) : Out1 :=
  let r := s.ras
  let put (r : Ras) : Out1 := .next { s with ras := r }
  match i with
  | 0 => put { r with ckTarget := setWord r.ckTarget 0 w }
  | 1 => put { r with ckTarget := setWord r.ckTarget 1 w }
  | 2 => put { r with ckLimit := setWord r.ckLimit 0 w }
  | 3 => put { r with ckLimit := setWord r.ckLimit 1 w }
  | 4 =>
    let s := { s with ras := { r with ckFmask := w.extractLsb' 0 16, ckSlot := w.extractLsb' 16 8 } }
    match bitsOf w.toNat 25 24 with
    | 1 => execCheckpoint s
    | 2 => if s.ras.ckStatus = 1 then .next s else .refused .notEnabled
    | _ => .next s
  | _ => .next s

/-- FULL and BADADDR of a queue's block are W1C (R354). -/
def State.writeQueue (s : State) (f q i : Nat) (w : Word) : State :=
  if s.owns f q ∧ i = 7 then
    let Q := s.queue q
    s.setQueue q { Q with full := Q.full && !w.getLsbD 0, badaddr := Q.badaddr && !w.getLsbD 1 }
  else s

/-- CMD of FWKPST (R441). -/
def State.writePort (s : State) (p i : Nat) (w : Word) : State :=
  if i ≠ 0 then s
  else match bitsOf w.toNat 19 16 with
    | 1 => s.retrainPort p
    | 2 => s.disablePort p
    | _ => s

/-- A 32-bit write of function f at an offset of its BAR0. Read-only and reserved places, and registers that do not answer
yet, ignore it. QSUB and QCTL of a queue's block are steps of their own. -/
def execRegisterWrite (f off : Nat) (w : Word) (s : State) : Out1 :=
  let r := regOf (off / 4 * 4)
  if !r.seen f ∨ (!r.early ∧ !s.ready) then .next s
  else match r with
    | .brdesc i => s.writeBrdesc i w
    | .fwkpst p i => .next (s.writePort p i w)
    | .wsplit i => .next (s.writeWsplit i w)
    | .fcfg g i => .next (s.fcfgWrite g i w)
    | .mcmd i => s.writeMcmd f i w
    | .watch x i => .next (s.writeWatch x i w)
    | .logring g i => .next (s.writeLogring g i w)
    | .snap i => .next (s.writeSnap i w)
    | .rnonce g i => .next (s.setFn g { s.fn g with rnonce := setWord (s.fn g).rnonce i w })
    | .rcpt i => .next (s.writeRcpt i w)
    | .ckpt i => s.writeCkpt i w
    | .queue q i => .next (s.writeQueue f q i w)
    | .brstat _ => .next s
    | .revpass _ => .next s
    | .coreret _ => .next s
    | .phys _ => .next s
    | .errcnt _ _ => .next s
    | .none => .next s

end Sys2Proof.Machine
end

