-- ==== Sys2Proof/Machine/Special.lean ====
section
/-! DEFINITION. Special functions (R144 to R146): FSQRT and FDIV are exact roundings; of the others the spec bounds
the error, and Config.approx chooses among the results within the bound (log 13). -/

namespace Sys2Proof.Machine

/-! High-precision values: m * 2^e with a sign, to at least 80 bits, or 80 bits after the point where the bound is
absolute. -/

/-- A signed number m * 2^e. -/
structure Dyad where
  neg : Bool
  m : Nat
  e : Int
  deriving DecidableEq, Repr

/-- 1 / A. -/
def yRcp (neg : Bool) (m : Nat) (e : Int) : Dyad :=
  let k := 120 + bitLen m
  ⟨neg, 2 ^ k / m, -(k : Int) - e⟩

/-- 1 / sqrt A. -/
def yRsq (m : Nat) (e : Int) : Dyad :=
  let m1 := if e % 2 = 0 then m else 2 * m
  let e1 := if e % 2 = 0 then e else e - 1
  ⟨false, isqrt (2 ^ 320 / m1), -160 - e1 / 2⟩

/-- The fixed-point image of m * 2^e with p bits after the point, rounded down in magnitude. -/
def toFixed (p : Nat) (m : Nat) (e : Int) : Nat :=
  let sh := e + p
  if 0 ≤ sh then m <<< sh.toNat else m >>> (-sh).toNat

/-- 2^(f / 2^96) with 120 bits after the point, f < 2^96: the product of the roots of 2 that f's bits select. -/
def exp2Frac : Nat → Nat → Nat → Nat → Nat
  | 0, _, _, acc => acc
  | n + 1, f, c, acc =>
    let c := isqrt (c <<< 120)
    exp2Frac n f c (if f.testBit n then (acc * c) >>> 120 else acc)

/-- 2^x for x = n / 2^96. -/
def yExp2 (n : Int) : Dyad :=
  let i := n / 2 ^ 96
  let f := (n % 2 ^ 96).toNat
  ⟨false, exp2Frac 96 f (2 ^ 121) (2 ^ 120), max (-500) (min 500 i) - 120⟩

/-- The 64 bits after the point of log2 of t / 2^200, 1 ≤ t / 2^200 < 2, by repeated squaring. -/
def log2Bits : Nat → Nat → Nat → Nat
  | 0, _, acc => acc
  | n + 1, t, acc =>
    let q := (t * t) >>> 200
    if 2 ^ 201 ≤ q then log2Bits n (q >>> 1) (2 * acc + 1) else log2Bits n q (2 * acc)

/-- log2 of m * 2^e. -/
def yLog2 (m : Nat) (e : Int) : Dyad :=
  let k := FVal.ilog m e
  let t := m <<< (201 - bitLen m)
  let x : Int := k * 2 ^ 100 + (log2Bits 100 t 0 : Nat)
  ⟨x < 0, x.natAbs, -100⟩

/-- 1 / (2 pi) with 320 bits after the point. -/
def inv2Pi : Nat := 0x28be60db9391054a7f09d5f47d4d377036d8a5664f10e4107f9458eaf7aef1586dc91b8e909374b8
/-- pi with 100 bits after the point. -/
def pi100 : Nat := 0x3243f6a8885a308d313198a2e0
/-- log2 of e with 128 bits after the point. -/
def log2E : Nat := 0x171547652b82fe1777d0ffda0d23a7d11

/-- The angle of m * 2^e, reduced to [-pi, pi), with 100 bits after the point. -/
def angle (neg : Bool) (m : Nat) (e : Int) : Int :=
  let turns := toFixed 320 (m * inv2Pi) (e - 320) % 2 ^ 320
  let t : Int := (turns / 2 ^ 220 : Nat)
  let t := if t < 2 ^ 99 then t else t - 2 ^ 100
  let t := if neg then -t else t
  t * (2 * pi100) / 2 ^ 100

/-- The Taylor sum of sine (from term x, n = 1) or cosine (from term 1, n = 0), 100 bits after the point. -/
def taylor : Nat → Int → Nat → Int → Int → Int
  | 0, _, _, _, acc => acc
  | k + 1, x, n, term, acc =>
    let term' := -(term * x / 2 ^ 100 * x / 2 ^ 100) / ((n + 1) * (n + 2) : Nat)
    taylor k x (n + 2) term' (acc + term)

def dyad100 (x : Int) : Dyad := ⟨x < 0, x.natAbs, -100⟩
def ySin (neg : Bool) (m : Nat) (e : Int) : Dyad := let x := angle neg m e; dyad100 (taylor 30 x 1 x 0)
def yCos (neg : Bool) (m : Nat) (e : Int) : Dyad := let x := angle neg m e; dyad100 (taylor 30 x 0 (2 ^ 100) 0)

/-- tanh of m * 2^e, from 2^(2 x log2 e). -/
def yTanh (neg : Bool) (m : Nat) (e : Int) : Dyad :=
  if 64 * 2 ^ 100 ≤ toFixed 100 m (min e 20) then ⟨neg, 2 ^ 100, -100⟩
  else
    let n : Int := (toFixed 100 m e * 2 * log2E / 2 ^ 132 : Nat)
    let E := let d := yExp2 n; toFixed 120 d.m d.e
    ⟨neg, (E - 2 ^ 120) * 2 ^ 100 / (E + 2 ^ 120), -100⟩

/-! The functions, by their slot in rows 0x12 and 0x13: 0 FRCP, 1 FRSQ, 4 FEXP2, 5 FLOG2, 6 FSIN, 7 FCOS, 8 FTANH. -/

/-- The exact result, where R145 gives one; it counts as exact only where it is an f32 value. -/
def specialExact (fn : Nat) (neg : Bool) (m : Nat) (e : Int) : Option Dyad :=
  let k := bitLen m - 1
  let pow := m == 2 ^ k
  match fn with
  | 0 => if pow then some ⟨neg, 1, -(e + k)⟩ else none
  | 1 => if pow && (e + k) % 2 == 0 then some ⟨false, 1, -((e + k) / 2)⟩ else none
  | 4 =>
    if 0 ≤ e ∨ m % 2 ^ (-e).toNat = 0 then
      let n : Int := if 0 ≤ e then m <<< (min e 20).toNat else m >>> (-e).toNat
      let n := min n 400
      some ⟨false, 1, if neg then -n else n⟩
    else none
  | 5 => if pow then some ⟨e + k < 0, (e + k).natAbs, 0⟩ else none
  | _ => none

/-- The value to high precision of a finite non-special operand. -/
def specialY (fn : Nat) (neg : Bool) (m : Nat) (e : Int) : Dyad :=
  match fn with
  | 0 => yRcp neg m e
  | 1 => yRsq m e
  | 4 =>
    let n : Int := min (toFixed 96 m (min e 20)) (400 * 2 ^ 96)
    yExp2 (if neg then -n - (if toFixed 96 m e * 2 ^ 60 = toFixed 156 m e then 0 else 1) else n)
  | 5 => yLog2 m e
  | 6 => ySin neg m e
  | 7 => yCos neg m e
  | _ => yTanh neg m e

/-- The exponent of ulp(y) (R145). -/
def ulpExp (y : Dyad) : Int := if y.m = 0 then -149 else max (FVal.ilog y.m y.e) (-126) - 23

/-- Whether an f32 image lies within the bound of its function around y; an infinity stands for 2^128 (R145). -/
def withinBound (fn : Nat) (y : Dyad) (x : Nat) : Bool :=
  let g : Option (Bool × Nat × Int) := match f32.decode x with
    | .nan _ => none
    | .inf s => some (s, 1, 128)
    | .num s m e => some (s, m, e)
  match g with
  | none => false
  | some (s, m, e) =>
    let bot := min (min e y.e) (min (ulpExp y) (-24))
    let v (s : Bool) (m : Nat) (e : Int) : Int := sgnInt s (m <<< (e - bot).toNat)
    let diff := (v s m e - v y.neg y.m y.e).natAbs
    let ulp : Nat := 1 <<< (ulpExp y - bot).toNat
    let bound := if fn ≤ 1 then ulp else if fn = 4 then 2 * ulp else max (2 * ulp) (1 <<< (-24 - bot).toNat)
    diff ≤ bound

/-- The f32 result: a value the bound admits (log 13). -/
def specialF32 (fn : Nat) (a : Nat) (y : Dyad) : Nat :=
  let x := Config.approx fn a % 2 ^ 32
  if withinBound fn y x then x else (roundPack f32 0 false y.neg y.m y.e).1

/-- Below the smallest normal of a format (R145). -/
def isSub (F : Fmt) (x : Nat) : Bool :=
  match F.decode x with
  | .num _ m _ => m != 0 && m < 2 ^ F.mb
  | _ => false

/-- The special operands (R146): image and flags, or none where R145 applies. -/
def specialCase (F : Fmt) (fn : Nat) (v : FVal) : Option (Nat × Nat) :=
  let inf := F.infBits
  let one := F.bias * 2 ^ F.mb
  let nan := F.nanBits
  match v with
  | .nan sig => some (nan, if sig then flNV else 0)
  | .inf true => some (match fn with
      | 0 => (F.signed true 0, 0)
      | 4 => (0, 0)
      | 8 => (F.signed true one, 0)
      | _ => (nan, flNV))
  | .inf false => some (match fn with
      | 0 => (0, 0)
      | 1 => (0, 0)
      | 4 => (inf, 0)
      | 5 => (inf, 0)
      | 8 => (one, 0)
      | _ => (nan, flNV))
  | .num s m _ =>
    if m = 0 then some (match fn with
      | 0 => (F.signed s inf, flDZ)
      | 1 => (F.signed s inf, flDZ)
      | 4 => (one, 0)
      | 5 => (F.signed true inf, flDZ)
      | 7 => (one, 0)
      | _ => (F.signed s 0, 0))
    else if s ∧ (fn = 1 ∨ fn = 5) then some (nan, flNV)
    else none

/-- An approximate function of an image (R145, R146): the f32 value, rounded rn to the target, with the flags that the
delivered result calls for. UF is raised for a delivered non-zero result below the smallest normal: a zero raises NX
alone. -/
def special (fn : Nat) (F : Fmt) (a : Nat) : Nat × Nat :=
  match specialCase F fn (F.decode a) with
  | some r => r
  | none =>
    match F.decode a with
    | .num s m e =>
      let wide := ((F.decode a).convert f32 0 false).1
      let ex := (specialExact fn s m e).filter (fun d => (roundPack f32 0 false d.neg d.m d.e).2 == 0)
      let x := match ex with
        | some d => (roundPack f32 0 false d.neg d.m d.e).1
        | none => specialF32 fn wide (specialY fn s m e)
      let (r, fl) := if F = f32 then (x, 0) else (f32.decode x).convert F 0 false
      if ex.isSome && fl == 0 then (r, 0)
      else (r, flNX ||| (if (F.decode r).isInf then flOF else 0) ||| (if isSub F r then flUF else 0))
    | _ => (F.nanBits, flNV)

/-- FRCP to FTANH: f32, f16 or bf16; bits 10:8 are reserved. -/
def specialOp (o : Op) (w : Long) (fn : Nat) (s : State) : Out1 :=
  let F := f4Of w.ty.toNat
  floatOp o (fun i => (1 ≤ w.ty.toNat && w.ty.toNat ≤ 3) && i.fD F w.d && i.fAOk w F) (Long.fARegs w F)
    (fun i q => f1 (special fn F) (i.fA w F q)) (fun i xs => i.fWrites o F.rw w.d xs) s

/-- squareRoot under the mode (R145, R146). -/
def fsqrt (F : Fmt) (rm a : Nat) : Nat × Nat := fop F rm ((F.decode a).sqrt (F.mb + 1))
/-- division under the mode (R145). -/
def fdiv (F : Fmt) (rm a b : Nat) : Nat × Nat := fop F rm ((F.decode a).div (F.mb + 1) (F.decode b))

def execFrcp (w : Long) : State → Out1 := specialOp (Op.long 0x12 0 w) w 0
def execFrsq (w : Long) : State → Out1 := specialOp (Op.long 0x12 1 w) w 1
def execFsqrt (w : Long) : State → Out1 := float1 (Op.long 0x12 2 w) w fsqrt
def execFdiv (w : Long) : State → Out1 := float2 (Op.long 0x12 3 w) w true fdiv
def execFexp2 (w : Long) : State → Out1 := specialOp (Op.long 0x12 4 w) w 4
def execFlog2 (w : Long) : State → Out1 := specialOp (Op.long 0x12 5 w) w 5
def execFsin (w : Long) : State → Out1 := specialOp (Op.long 0x12 6 w) w 6
def execFcos (w : Long) : State → Out1 := specialOp (Op.long 0x12 7 w) w 7
def execFtanh (w : Long) : State → Out1 := specialOp (Op.long 0x13 0 w) w 8

end Sys2Proof.Machine
end

