-- ==== Sys2Proof/Machine/System.lean ====
section
/-! DEFINITION. System instructions, row 0x3F: TRAP, RTT, SYSRD, SYSWR, CLOCK, PMRD, SLEEP (R224 to R229, R334). -/

namespace Sys2Proof.Machine

/-! TRAP (R224). -/

def sysTrap (o : Op) (w : Long) (s : State) : Out1 :=
  runInstr o (fun _ => w.bsel != 3 && w.bsel != 2) (fun i => do
    let act := if i.ctl then i.p.mask else i.active o
    i.ecc act o.guardRegs
    if act = 0 then .ok (Done.only i.s)
    else .error (.trap { Trap.of cBREAK 0 (w.bits 31 19) act with resume := some (i.p.pc + BitVec.ofNat 64 o.bytes) })) s

/-! RTT (R225, R334). -/

/-- A word of the trap-save image (R30). -/
def Group.image (G : Group) (lane : Nat) : Word := ((G.row (trapRow + 15))[lane]?).getD 0
/-- The mask of the image. -/
def Group.imageMask (G : Group) : LaneMask :=
  BitVec.ofNat 96 ((G.image 4).toNat + 2 ^ 32 * (G.image 5).toNat + 2 ^ 64 * (G.image 6).toNat)
/-- The pc of the image. -/
def Group.imagePc (G : Group) : Word64 := BitVec.ofNat 64 ((G.image 7).toNat + 2 ^ 32 * (G.image 8).toNat)

/-- The mask conditions of R225 for the trapping entry ix. -/
def Group.maskOk (G : Group) (ix : Nat) (m : LaneMask) : Bool :=
  subMask m G.alive &&
  (match parentIx G.stack ix with
    | some c => match G.stack[c]? with
      | some p => subMask m p.mask
      | none => false
    | none => ix == 0) &&
  (List.range G.stack.length).all (fun j => j == ix || (match G.stack[j]? with
    | some p => p.kind == .conv || p.mask &&& m == 0
    | none => true))

/-- The span command of R334: code, rows, byte offset. -/
structure SpanCmd where
  op : Nat
  n : Nat
  off : Nat
  deriving DecidableEq, Repr

def Group.spanCmd (G : Group) : SpanCmd :=
  { op := bitsOf (G.image 10).toNat 31 30, n := bitsOf (G.image 10).toNat 11 0, off := (G.image 11).toNat }

/-- The lowest row of the span after the command. -/
def Group.newLo (G : Group) (c : SpanCmd) : Nat := if c.op = 1 then G.lo + c.n else if c.op = 2 then G.lo - c.n else G.lo
/-- The rows of [lo, lo + H) that are not in [lo', lo' + H). -/
def leaving (lo lo' h : Nat) : List Nat :=
  ((List.range h).map (· + lo)).filter (fun r => r < lo' || lo' + h ≤ r)

/-- Whether the span command is one that R334 accepts. -/
def Group.spanOk (G : Group) (c : SpanCmd) : Bool :=
  c.op != 3 && c.n % 8 == 0 && c.off % 16 == 0 &&
  (c.op != 1 || G.lo + c.n + G.held ≤ 4096) && (c.op != 2 || c.n ≤ G.lo) &&
  (leaving G.lo (G.newLo c) G.held ++ leaving (G.newLo c) G.lo G.held).all (fun r => c.off + 4 * r + 4 ≤ G.psize)

/-- The address of a quad of rows in a lane's slice. -/
def Group.spillAt (G : Group) (c : SpanCmd) (quad lane : Nat) : Nat := G.priv + lane * G.psize + c.off + 16 * quad

/-- The four words of a lane's quad, and its tag. -/
def Group.quadOf (G : Group) (quad lane : Nat) : Nat × Bool :=
  (catWords ((List.range 4).map (fun j => ((G.row (4 * quad + j))[lane]?).getD 0)), (G.quadTags quad).getLsbD lane)

/-- A quad of rows read from the slices of every lane. -/
def State.fillQuad (s : State) (G : Group) (c : SpanCmd) (quad : Nat) : Group :=
  let vals := (List.range laneCount).map (fun l =>
    let a := G.spillAt c quad l
    let v : CapV := ⟨BitVec.ofNat 128 (leNat (s.mem.homeRead a 16)), s.mem.homeTag (a / 16)⟩
    s.filter v)
  let G := (List.range 4).foldl (fun (G : Group) j =>
    { G with v := Tbl.set G.v (4 * quad + j) (vals.map (fun v => BitVec.ofNat 32 (v.bits.toNat / 2 ^ (32 * j)))) }) G
  { G with vtag := Tbl.set G.vtag quad (maskOf (vals.map (·.tag))) }

/-- The span move: leaving rows stored, entering rows loaded (R334). -/
def State.moveSpan (s : State) (G : Group) (c : SpanCmd) : State × Group :=
  let lo := G.newLo c
  let out := ((leaving G.lo lo G.held).filter (· % 4 == 0)).map (· / 4)
  let ins := ((leaving lo G.lo G.held).filter (· % 4 == 0)).map (· / 4)
  let m := out.foldl (fun m q => (List.range laneCount).foldl (fun (m : Mem) l =>
    let (x, t) := G.quadOf q l
    m.homeWriteTagged (G.spillAt c q l) (leBytes 16 x) t) m) s.mem
  let s := { s with mem := m }
  let keep (r : Nat) : Bool := (lo ≤ r && r < lo + G.held) || trapRow ≤ r
  let G := { G with lo := lo, v := Tbl.keep G.v keep, vtag := Tbl.keep G.vtag (fun q => keep (4 * q)),
                    poison := G.poison.filter (fun e => match e with
                      | .v r _ => keep r
                      | .vtag quad _ => keep (4 * quad)
                      | _ => true) }
  (s, ins.foldl (fun G q => s.fillQuad G c q) G)

/-- Whether a poisoned unit lies where the move reads: a word of a leaving row, or memory of an entering one. -/
def State.spanPoison (s : State) (G : Group) (c : SpanCmd) : Bool :=
  G.poison.any (fun e => match e with
    | .v r _ => (leaving G.lo (G.newLo c) G.held).contains r
    | .vtag quad _ => (leaving G.lo (G.newLo c) G.held).contains (4 * quad)
    | _ => false) ||
  !s.mem.poison.isEmpty && (leaving (G.newLo c) G.lo G.held).any (fun r => (List.range laneCount).any (fun l =>
    (s.mem.poisonIn (G.priv + l * G.psize + c.off + 4 * r) 4).isSome))

/-- The check of R16 for the window that resumes, against the span as the command leaves it. -/
def Iss.rttWindow (i : Iss) (h : Handler) (c : SpanCmd) : Except Stop Unit :=
  let len := min 128 i.G.held
  let nb : Int := (h.want.map (·.1)).getD (i.G.base : Int)
  let lo := i.G.newLo c
  if ((lo + i.G.held : Nat) : Int) < nb + len then
    .error (.trap (Trap.of cSPILL 0 (nb + len - (lo + i.G.held : Nat)).toNat i.p.mask))
  else if nb < lo then .error (.trap (Trap.of cFILL 0 ((lo : Int) - nb).toNat i.p.mask))
  else .ok ()

def sysRtt (o : Op) (w : Long) (s : State) : Out1 :=
  runInstr o (fun i => i.G.tf && w.bsel != 3) (fun i => do
    i.ecc (maskOfLanes [0, 1, 2, 3, 4, 5, 6, 7, 8, 10, 11]) [.v 15]
    match i.G.handler with
    | none => i.illegal
    | some h =>
      let (G, _) := i.G.quiet h.path
      let m := G.imageMask
      let c := G.spanCmd
      if !G.maskOk h.ix m ∨ !G.spanOk c then i.illegal
      else do
        ({ i with G := G } : Iss).rttWindow h c
        if i.s.spanPoison G c then
          .ok { Done.only (i.s.toLevel2 i.team cECC 0 (causeWord (Trap.of cECC 0 2 m) false false)) with moved := true }
        else
          let (s, G) := i.s.moveSpan G c
          let G := (((G.setK 48 (G.image 0)).setK 49 (G.image 1)).setK 50 (G.image 2)).setK 51 (G.image 3)
          let G := { G with
            tf := false, handler := none,
            stack := match G.stack[h.ix]? with
              | some p => G.stack.set h.ix { p with mask := m, pc := G.imagePc, code := h.code }
              | none => G.stack }
          let s := (s.setGroup i.id (G.remasked ((i.G.stack[h.ix]?.map (·.mask)).getD 0) m)).follow i.id
          .ok { Done.only s with moved := true }) s

/-! SYSRD and SYSWR (R226). -/

/-- The registers of R226. -/
def srKnown (n : Nat) : Bool :=
  n ≤ 3 || (0x10 ≤ n && n ≤ 0x12) || (0x14 ≤ n && n ≤ 0x16) || (0x18 ≤ n && n ≤ 0x1A) || (0x20 ≤ n && n ≤ 0x23) || n == 0x30

/-- P of the issuing agent's team. -/
def Iss.teamSlice (i : Iss) : Nat :=
  if i.ctl then ((i.s.task i.T.task).map (fun k => 16 * cdiv (bitsOf k.record.toNat 1343 1312) 16)).getD 0 else i.G.psize

/-- Free tile units of a core and the longest free run. -/
def State.tilesFree (s : State) (core : Nat) : Nat × Nat :=
  let free := (List.range 32).filter (fun u => s.tileFree core u)
  (free.length, ((List.range 33).filter (fun n => (s.tileRun core n).isSome)).foldl max 0)

/-- The value of a system register. -/
def Iss.sysReg (i : Iss) (n b : Nat) : Nat :=
  if n = 0 then i.C.cfw.toNat
  else if n = 1 then i.colour
  else if n = 2 then i.teamSlice
  else if n = 3 then i.core * 2 ^ 24 + i.T.tslot * 2 ^ 17
  else if n ≤ 0x12 then (i.T.chain (n - 0x10)).cseq.toNat
  else if n ≤ 0x16 then (i.T.chain (n - 0x14)).tseq.toNat
  else if n = 0x20 then i.s.freeRows i.core
  else if n = 0x21 then (i.s.tilesFree i.core).1 + (i.s.tilesFree i.core).2 * 2 ^ 8
  else if n = 0x22 then 64 - (i.s.core i.core).dq.length
  else if n = 0x23 then i.T.ringHeld
  else
    let x := i.s.bar i.core (b % 512)
    x.cph.toNat * 2 ^ 32 + x.arrN * 2 ^ 16 + x.arr % 2 ^ 16

/-- CHCTL, which is written only. -/
def srWriteOnly (n : Nat) : Bool := 0x18 ≤ n && n ≤ 0x1A

def sysSysrd (o : Op) (w : Long) (s : State) : Out1 :=
  let n := w.bits 31 19
  runInstr o (fun i => srKnown n && w.bsel < 2 && (n != 0x30 || i.bOnceReg w 32) && i.dOnce 64 w.d.toNat && (i.ctl || n != 0))
    (fun i => do
    i.ecc i.p.mask (if n = 0x30 then i.once 32 w.b.toNat else [])
    if srWriteOnly n then .ok (i.results (i.dResult tN64 w.d.toNat 0))
    else .ok (i.results (i.dResult tN64 w.d.toNat (i.sysReg n (if n = 0x30 then i.bVal1 w tN32 else 0))))) s

/-- CFW written (R133). -/
def cfwWrite (old : Word) (x : Nat) : Word :=
  BitVec.ofNat 32 (x % 32 + (if bitsOf x 10 8 < 4 then bitsOf x 10 8 else bitsOf old.toNat 10 8) * 2 ^ 8)

def sysSyswr (o : Op) (w : Long) (s : State) : Out1 :=
  let n := w.bits 31 19
  runInstr o (fun i => srKnown n && i.aOnce w 64 && w.bsel < 2) (fun i => do
    i.ecc i.p.mask (i.once 64 w.a.toNat)
    if !i.ctl then .ok (Done.only i.s)
    else
      let x := (i.cReg w.a.toNat).toNat
      if n = 0 then .ok (Done.only (i.s.setCtx i.id { i.C with cfw := cfwWrite i.C.cfw x }))
      else if srWriteOnly n ∧ x = 1 then .ok (Done.only (i.s.abandonFaulted i.team (n - 0x18)))
      else if srWriteOnly n ∧ x = 2 then .ok (Done.only (i.s.abandonAll i.team (n - 0x18)))
      else .ok (Done.only i.s)) s

/-! CLOCK, PMRD, SLEEP (R227 to R229). -/

def sysClock (o : Op) (d : Nat) (s : State) : Out1 :=
  runInstr o (fun i => i.dOnce 64 d) (fun i => .ok (i.results (i.dResult tN64 d (i.s.clock % 2 ^ 64)))) s

/-- A counter of R228. -/
def Iss.counter (i : Iss) (n : Nat) : Nat :=
  let p := if i.ctl then i.C.perf else i.G.perf
  match n with
  | 0 => i.s.clock - p.since
  | 1 => p.instrs
  | 2 => p.beats
  | 3 => p.waits
  | 4 => (i.s.core i.core).l1miss
  | 5 => (i.s.core i.core).l2req
  | _ => 0

def sysPmrd (o : Op) (w : Long) (s : State) : Out1 :=
  runInstr o (fun i => i.dOnce 64 w.d.toNat && w.bsel < 2) (fun i =>
    .ok (i.results (i.dResult tN64 w.d.toNat (i.counter (w.bits 31 19) % 2 ^ 64)))) s

def sysSleep (o : Op) (w : Long) (s : State) : Out1 :=
  runInstr o (fun i => i.bOnce w 32) (fun i => do
    i.ecc i.p.mask (if w.bsel < 2 then i.once 32 w.b.toNat else [])
    let n := min (i.bVal1 w tN32) (2 ^ 20)
    let till := match i.w0 with
      | some x => match x.why with
        | .sleep t => t
        | _ => i.s.clock + n
      | none => i.s.clock + n
    if till ≤ i.s.clock then .ok (Done.only i.s) else .error (.wait (.sleep till) (fun s => s))) s

def execTrap (w : Long) : State → Out1 := sysTrap (Op.long 0x3F 0 w) w
def execRtt (w : Long) : State → Out1 := sysRtt (Op.long 0x3F 1 w) w
def execSysrd (w : Long) : State → Out1 := sysSysrd (Op.long 0x3F 2 w) w
def execSyswr (w : Long) : State → Out1 := sysSyswr (Op.long 0x3F 3 w) w
def execClock32 (o : Short) : State → Out1 := sysClock (Op.short 0x3F 4) o.d.toNat
def execClock64 (w : Long) : State → Out1 := sysClock (Op.long 0x3F 4 w) w.d.toNat
def execPmrd (w : Long) : State → Out1 := sysPmrd (Op.long 0x3F 5 w) w
def execSleep (w : Long) : State → Out1 := sysSleep (Op.long 0x3F 6 w) w

end Sys2Proof.Machine
end

