-- ==== Sys2Proof/Machine/Uniform.lean ====
section
/-! DEFINITION. Uniform instructions, rows 0x0C to 0x0E (R115), for both streams. -/

namespace Sys2Proof.Machine

/-- The selectors of a 64- or 96-bit uniform form (R115): ASEL 0b01 and BSEL not 0b00 in the group stream, ASEL 0b00
and BSEL not 0b01 in the control stream. A 32-bit form has none. -/
def Iss.uniSel (i : Iss) (o : Op) (w : Long) : Bool :=
  o.bytes == 4 || (if i.ctl then w.asel == 0 && w.bsel != 1 else w.asel == 1 && w.bsel != 0)

/-- B of width `wd`: a register of the stream inside its limits, an immediate or the literal. -/
def Iss.uniB (i : Iss) (o : Op) (w : Long) (wd : Nat) : Bool :=
  (o.bytes != 4 && 2 ≤ w.bsel.toNat) || i.dOnce wd w.b.toNat

/-- The B operand: a 32-bit form reads its register (R83, R115). -/
def Iss.uniBVal (i : Iss) (o : Op) (w : Long) (t : ITy) : Nat :=
  if o.bytes = 4 then i.regOnce t.w w.b.toNat else i.bVal1 w t

/-- The registers B reads. -/
def Iss.uniBRegs (i : Iss) (o : Op) (w : Long) (wd : Nat) : List SrcReg :=
  if o.bytes != 4 && 2 ≤ w.bsel.toNat then [] else i.once wd w.b.toNat

/-- A uniform instruction: checks, registers read, results. -/
def uniOp (o : Op) (w : Long) (legal : Iss → Bool) (regs : Iss → List SrcReg) (res : Iss → List RegWrite) (s : State) :
    Out1 :=
  runInstr o (fun i => i.uniSel o w && legal i) (fun i => do
    i.ecc i.p.mask (regs i)
    .ok (i.results (res i))) s

/-- D := f(A, B). -/
def uni2 (o : Op) (w : Long) (ty : ITy → Bool) (satOk : Bool) (f : ITy → Nat → Nat → Nat) (s : State) : Out1 :=
  let t := tyOf w
  uniOp o w (fun i => tyIs w ty && (satOk || !w.sat) && i.dOnce t.w w.d.toNat && i.dOnce t.w w.a.toNat && i.uniB o w t.w)
    (fun i => i.once t.w w.a.toNat ++ i.uniBRegs o w t.w)
    (fun i => i.dResult t w.d.toNat (f t (i.aVal1 w t.w) (i.uniBVal o w t))) s

/-- D := f(A, s), s an n32 from one register. -/
def uniShift (o : Op) (w : Long) (ty : ITy → Bool) (f : ITy → Nat → Nat → Nat) (s : State) : Out1 :=
  let t := tyOf w
  uniOp o w (fun i => tyIs w ty && !w.sat && i.dOnce t.w w.d.toNat && i.dOnce t.w w.a.toNat && i.uniB o w 32)
    (fun i => i.once t.w w.a.toNat ++ i.uniBRegs o w 32)
    (fun i => i.dResult t w.d.toNat (f t (i.aVal1 w t.w) (i.uniBVal o w tN32))) s

/-- D := f(A), D one n32 register. -/
def uniCount (o : Op) (w : Long) (f : Nat → Nat → Nat) (s : State) : Out1 :=
  let t := tyOf w
  uniOp o w (fun i => tyIs w tyAll && !w.sat && i.dOnce t.w w.a.toNat) (fun i => i.once t.w w.a.toNat)
    (fun i => i.dResult tN32 w.d.toNat (f t.w (i.aVal1 w t.w))) s

/-- D := f(A, B, C) (R88, R115). -/
def uni3 (o : Op) (w : Long) (ty : ITy → Bool) (satOk : Bool) (f : ITy → Nat → Nat → Nat → Nat) (s : State) : Out1 :=
  let t := tyOf w
  uniOp o w (fun i => tyIs w ty && (satOk || !w.sat) && w.bsel != 2 && i.dOnce t.w w.d.toNat && i.dOnce t.w w.a.toNat &&
      i.uniB o w t.w && i.dOnce t.w w.c)
    (fun i => i.once t.w w.a.toNat ++ i.uniBRegs o w t.w ++ i.once t.w w.c)
    (fun i => i.dResult t w.d.toNat (f t (i.aVal1 w t.w) (i.uniBVal o w t) (i.regOnce t.w w.c))) s

/-- UCMP: D := 1 or 0 in one register; CQ, CN and COMB are reserved (R112, R115). -/
def uniCmp (o : Op) (w : Long) (s : State) : Out1 :=
  let t := tyOf w
  uniOp o w (fun i => tyIs w tySN && w.bsel != 2 && Long.cmpOf w < 6 && i.dOnce t.w w.a.toNat && i.uniB o w t.w)
    (fun i => i.once t.w w.a.toNat ++ i.uniBRegs o w t.w)
    (fun i => i.dResult tN32 w.d.toNat
      (if cmpInt (Long.cmpOf w) (t.val (i.aVal1 w t.w)) (t.val (i.uniBVal o w t)) then 1 else 0)) s

/-- UMOV; b128 names a kp quad or a cp pair, takes B from a register and clears the tag (R115). -/
def uniMov (o : Op) (w : Long) (s : State) : Out1 :=
  let t := tyOf w
  if t.w = 128 then
    uniOp o w (fun i => tyIs w (fun _ => true) && !w.sat && w.bsel.toNat < 2 && i.dOnce 128 w.d.toNat && i.dOnce 128 w.b.toNat)
      (fun i => i.once 128 w.b.toNat) (fun i => i.capResult w.d.toNat (i.capOnce w.b.toNat).untag) s
  else
    uniOp o w (fun i => tyIs w tyAll && !w.sat && i.dOnce t.w w.d.toNat && i.uniB o w t.w) (fun i => i.uniBRegs o w t.w)
      (fun i => i.dResult t w.d.toNat (i.uniBVal o w t)) s

def execUadd32 (o : Short) : State → Out1 := uni2 (Op.short 0x0C 0) (o.wide 2 0 0) tySN true (rAdd false)
def execUadd64 (w : Long) : State → Out1 := uni2 (Op.long 0x0C 0 w) w tySN true (rAdd w.sat)
def execUsub32 (o : Short) : State → Out1 := uni2 (Op.short 0x0C 1) (o.wide 2 0 0) tySN true (rSub false)
def execUsub64 (w : Long) : State → Out1 := uni2 (Op.long 0x0C 1 w) w tySN true (rSub w.sat)
def execUmul32 (o : Short) : State → Out1 := uni2 (Op.short 0x0C 2) (o.wide 2 0 0) tySN false rMul
def execUmul64 (w : Long) : State → Out1 := uni2 (Op.long 0x0C 2 w) w tySN false rMul
def execUmad (w : Long) : State → Out1 := uni3 (Op.long 0x0C 3 w) w tySN true (rMad w.sat)
def execUand32 (o : Short) : State → Out1 := uni2 (Op.short 0x0C 4) (o.wide 2 0 0) tyAll false rAnd
def execUand64 (w : Long) : State → Out1 := uni2 (Op.long 0x0C 4 w) w tyAll false rAnd
def execUor32 (o : Short) : State → Out1 := uni2 (Op.short 0x0C 5) (o.wide 2 0 0) tyAll false rOr
def execUor64 (w : Long) : State → Out1 := uni2 (Op.long 0x0C 5 w) w tyAll false rOr
def execUxor32 (o : Short) : State → Out1 := uni2 (Op.short 0x0C 6) (o.wide 2 0 0) tyAll false rXor
def execUxor64 (w : Long) : State → Out1 := uni2 (Op.long 0x0C 6 w) w tyAll false rXor
def execUmov32 (o : Short) : State → Out1 := uniMov (Op.short 0x0C 7) (o.wide 2 0 0)
def execUmov64 (w : Long) : State → Out1 := uniMov (Op.long 0x0C 7 w) w
def execUshl32 (o : Short) : State → Out1 := uniShift (Op.short 0x0D 0) (o.wide 2 0 0) tyAll rShl
def execUshl64 (w : Long) : State → Out1 := uniShift (Op.long 0x0D 0 w) w tyAll rShl
def execUshr32 (o : Short) : State → Out1 := uniShift (Op.short 0x0D 1) (o.wide 2 0 0) tyAll rShr
def execUshr64 (w : Long) : State → Out1 := uniShift (Op.long 0x0D 1 w) w tyAll rShr
def execUsar32 (o : Short) : State → Out1 := uniShift (Op.short 0x0D 2) (o.wide 2 0 0) tyAll rSar
def execUsar64 (w : Long) : State → Out1 := uniShift (Op.long 0x0D 2 w) w tyAll rSar
def execUmin32 (o : Short) : State → Out1 := uni2 (Op.short 0x0D 3) (o.wide 2 0 0) tySN false rMin
def execUmin64 (w : Long) : State → Out1 := uni2 (Op.long 0x0D 3 w) w tySN false rMin
def execUmax32 (o : Short) : State → Out1 := uni2 (Op.short 0x0D 4) (o.wide 2 0 0) tySN false rMax
def execUmax64 (w : Long) : State → Out1 := uni2 (Op.long 0x0D 4 w) w tySN false rMax
def execUcmp (w : Long) : State → Out1 := uniCmp (Op.long 0x0D 5 w) w
def execUsel (w : Long) : State → Out1 :=
  uni3 (Op.long 0x0D 6 w) w tyAll false (fun _ a b c => if c ≠ 0 then a else b)
def execUbfx (w : Long) : State → Out1 := uniShift (Op.long 0x0D 7 w) w tySN rBfx
def execUpopc32 (o : Short) : State → Out1 := uniCount (Op.short 0x0E 0) (o.wide 10 0 0) rPopc
def execUpopc64 (w : Long) : State → Out1 := uniCount (Op.long 0x0E 0 w) w rPopc
def execUclz32 (o : Short) : State → Out1 := uniCount (Op.short 0x0E 1) (o.wide 10 0 0) rClz
def execUclz64 (w : Long) : State → Out1 := uniCount (Op.long 0x0E 1 w) w rClz

end Sys2Proof.Machine
end

