-- ==== Sys2Proof/Machine/Dispatch.lean ====
section
/-! DEFINITION. One arm per instruction and device step: the meaning of each. -/

namespace Sys2Proof.Machine

/-- What an instruction or a device step does in a state. -/
def exec (i : Instr) (s : State) : Host.Outcome State Fault Refusal :=
  match i with
  | .iadd32 o => Sys2Proof.Machine.execIadd32 o s
  | .iadd64 w => Sys2Proof.Machine.execIadd64 w s
  | .isub32 o => Sys2Proof.Machine.execIsub32 o s
  | .isub64 w => Sys2Proof.Machine.execIsub64 w s
  | .iadc32 o => Sys2Proof.Machine.execIadc32 o s
  | .iadc64 w => Sys2Proof.Machine.execIadc64 w s
  | .imul32 o => Sys2Proof.Machine.execImul32 o s
  | .imul64 w => Sys2Proof.Machine.execImul64 w s
  | .imulh32 o => Sys2Proof.Machine.execImulh32 o s
  | .imulh64 w => Sys2Proof.Machine.execImulh64 w s
  | .imad w => Sys2Proof.Machine.execImad w s
  | .imadw w => Sys2Proof.Machine.execImadw w s
  | .idiv w => Sys2Proof.Machine.execIdiv w s
  | .irem w => Sys2Proof.Machine.execIrem w s
  | .imin32 o => Sys2Proof.Machine.execImin32 o s
  | .imin64 w => Sys2Proof.Machine.execImin64 w s
  | .imax32 o => Sys2Proof.Machine.execImax32 o s
  | .imax64 w => Sys2Proof.Machine.execImax64 w s
  | .iabs32 o => Sys2Proof.Machine.execIabs32 o s
  | .iabs64 w => Sys2Proof.Machine.execIabs64 w s
  | .ineg32 o => Sys2Proof.Machine.execIneg32 o s
  | .ineg64 w => Sys2Proof.Machine.execIneg64 w s
  | .sel w => Sys2Proof.Machine.execSel w s
  | .iset w => Sys2Proof.Machine.execIset w s
  | .icmp w => Sys2Proof.Machine.execIcmp w s
  | .and32 o => Sys2Proof.Machine.execAnd32 o s
  | .and64 w => Sys2Proof.Machine.execAnd64 w s
  | .or32 o => Sys2Proof.Machine.execOr32 o s
  | .or64 w => Sys2Proof.Machine.execOr64 w s
  | .xor32 o => Sys2Proof.Machine.execXor32 o s
  | .xor64 w => Sys2Proof.Machine.execXor64 w s
  | .andn32 o => Sys2Proof.Machine.execAndn32 o s
  | .andn64 w => Sys2Proof.Machine.execAndn64 w s
  | .not32 o => Sys2Proof.Machine.execNot32 o s
  | .not64 w => Sys2Proof.Machine.execNot64 w s
  | .mov32 o => Sys2Proof.Machine.execMov32 o s
  | .mov64 w => Sys2Proof.Machine.execMov64 w s
  | .movl w => Sys2Proof.Machine.execMovl w s
  | .shl32 o => Sys2Proof.Machine.execShl32 o s
  | .shl64 w => Sys2Proof.Machine.execShl64 w s
  | .shr32 o => Sys2Proof.Machine.execShr32 o s
  | .shr64 w => Sys2Proof.Machine.execShr64 w s
  | .sar32 o => Sys2Proof.Machine.execSar32 o s
  | .sar64 w => Sys2Proof.Machine.execSar64 w s
  | .rot32 o => Sys2Proof.Machine.execRot32 o s
  | .rot64 w => Sys2Proof.Machine.execRot64 w s
  | .shf w => Sys2Proof.Machine.execShf w s
  | .bfx w => Sys2Proof.Machine.execBfx w s
  | .bfi w => Sys2Proof.Machine.execBfi w s
  | .perm w => Sys2Proof.Machine.execPerm w s
  | .popc32 o => Sys2Proof.Machine.execPopc32 o s
  | .popc64 w => Sys2Proof.Machine.execPopc64 w s
  | .clz32 o => Sys2Proof.Machine.execClz32 o s
  | .clz64 w => Sys2Proof.Machine.execClz64 w s
  | .ctz32 o => Sys2Proof.Machine.execCtz32 o s
  | .ctz64 w => Sys2Proof.Machine.execCtz64 w s
  | .brev32 o => Sys2Proof.Machine.execBrev32 o s
  | .brev64 w => Sys2Proof.Machine.execBrev64 w s
  | .iaddUb o => Sys2Proof.Machine.execIaddUb o s
  | .isubUb o => Sys2Proof.Machine.execIsubUb o s
  | .imulUb o => Sys2Proof.Machine.execImulUb o s
  | .andUb o => Sys2Proof.Machine.execAndUb o s
  | .orUb o => Sys2Proof.Machine.execOrUb o s
  | .xorUb o => Sys2Proof.Machine.execXorUb o s
  | .shlUb o => Sys2Proof.Machine.execShlUb o s
  | .shrUb o => Sys2Proof.Machine.execShrUb o s
  | .uadd32 o => Sys2Proof.Machine.execUadd32 o s
  | .uadd64 w => Sys2Proof.Machine.execUadd64 w s
  | .usub32 o => Sys2Proof.Machine.execUsub32 o s
  | .usub64 w => Sys2Proof.Machine.execUsub64 w s
  | .umul32 o => Sys2Proof.Machine.execUmul32 o s
  | .umul64 w => Sys2Proof.Machine.execUmul64 w s
  | .umad w => Sys2Proof.Machine.execUmad w s
  | .uand32 o => Sys2Proof.Machine.execUand32 o s
  | .uand64 w => Sys2Proof.Machine.execUand64 w s
  | .uor32 o => Sys2Proof.Machine.execUor32 o s
  | .uor64 w => Sys2Proof.Machine.execUor64 w s
  | .uxor32 o => Sys2Proof.Machine.execUxor32 o s
  | .uxor64 w => Sys2Proof.Machine.execUxor64 w s
  | .umov32 o => Sys2Proof.Machine.execUmov32 o s
  | .umov64 w => Sys2Proof.Machine.execUmov64 w s
  | .ushl32 o => Sys2Proof.Machine.execUshl32 o s
  | .ushl64 w => Sys2Proof.Machine.execUshl64 w s
  | .ushr32 o => Sys2Proof.Machine.execUshr32 o s
  | .ushr64 w => Sys2Proof.Machine.execUshr64 w s
  | .usar32 o => Sys2Proof.Machine.execUsar32 o s
  | .usar64 w => Sys2Proof.Machine.execUsar64 w s
  | .umin32 o => Sys2Proof.Machine.execUmin32 o s
  | .umin64 w => Sys2Proof.Machine.execUmin64 w s
  | .umax32 o => Sys2Proof.Machine.execUmax32 o s
  | .umax64 w => Sys2Proof.Machine.execUmax64 w s
  | .ucmp w => Sys2Proof.Machine.execUcmp w s
  | .usel w => Sys2Proof.Machine.execUsel w s
  | .ubfx w => Sys2Proof.Machine.execUbfx w s
  | .upopc32 o => Sys2Proof.Machine.execUpopc32 o s
  | .upopc64 w => Sys2Proof.Machine.execUpopc64 w s
  | .uclz32 o => Sys2Proof.Machine.execUclz32 o s
  | .uclz64 w => Sys2Proof.Machine.execUclz64 w s
  | .plop w => Sys2Proof.Machine.execPlop w s
  | .p2k32 o => Sys2Proof.Machine.execP2k32 o s
  | .p2k64 w => Sys2Proof.Machine.execP2k64 w s
  | .k2p32 o => Sys2Proof.Machine.execK2p32 o s
  | .k2p64 w => Sys2Proof.Machine.execK2p64 w s
  | .pmov32 o => Sys2Proof.Machine.execPmov32 o s
  | .pmov64 w => Sys2Proof.Machine.execPmov64 w s
  | .fadd32 o => Sys2Proof.Machine.execFadd32 o s
  | .fadd64 w => Sys2Proof.Machine.execFadd64 w s
  | .fsub32 o => Sys2Proof.Machine.execFsub32 o s
  | .fsub64 w => Sys2Proof.Machine.execFsub64 w s
  | .fmul32 o => Sys2Proof.Machine.execFmul32 o s
  | .fmul64 w => Sys2Proof.Machine.execFmul64 w s
  | .ffma w => Sys2Proof.Machine.execFfma w s
  | .fmin32 o => Sys2Proof.Machine.execFmin32 o s
  | .fmin64 w => Sys2Proof.Machine.execFmin64 w s
  | .fmax32 o => Sys2Proof.Machine.execFmax32 o s
  | .fmax64 w => Sys2Proof.Machine.execFmax64 w s
  | .fset w => Sys2Proof.Machine.execFset w s
  | .fcmp w => Sys2Proof.Machine.execFcmp w s
  | .fclass w => Sys2Proof.Machine.execFclass w s
  | .frnd32 o => Sys2Proof.Machine.execFrnd32 o s
  | .frnd64 w => Sys2Proof.Machine.execFrnd64 w s
  | .fscale32 o => Sys2Proof.Machine.execFscale32 o s
  | .fscale64 w => Sys2Proof.Machine.execFscale64 w s
  | .fexpt32 o => Sys2Proof.Machine.execFexpt32 o s
  | .fexpt64 w => Sys2Proof.Machine.execFexpt64 w s
  | .fcvt w => Sys2Proof.Machine.execFcvt w s
  | .icvt w => Sys2Proof.Machine.execIcvt w s
  | .ficvt w => Sys2Proof.Machine.execFicvt w s
  | .frcp w => Sys2Proof.Machine.execFrcp w s
  | .frsq w => Sys2Proof.Machine.execFrsq w s
  | .fsqrt w => Sys2Proof.Machine.execFsqrt w s
  | .fdiv w => Sys2Proof.Machine.execFdiv w s
  | .fexp2 w => Sys2Proof.Machine.execFexp2 w s
  | .flog2 w => Sys2Proof.Machine.execFlog2 w s
  | .fsin w => Sys2Proof.Machine.execFsin w s
  | .fcos w => Sys2Proof.Machine.execFcos w s
  | .ftanh w => Sys2Proof.Machine.execFtanh w s
  | .hadd232 o => Sys2Proof.Machine.execHadd232 o s
  | .hadd264 w => Sys2Proof.Machine.execHadd264 w s
  | .hmul232 o => Sys2Proof.Machine.execHmul232 o s
  | .hmul264 w => Sys2Proof.Machine.execHmul264 w s
  | .hfma2 w => Sys2Proof.Machine.execHfma2 w s
  | .dot4 w => Sys2Proof.Machine.execDot4 w s
  | .dot2 w => Sys2Proof.Machine.execDot2 w s
  | .mxq w => Sys2Proof.Machine.execMxq w s
  | .mxdq w => Sys2Proof.Machine.execMxdq w s
  | .shfl w => Sys2Proof.Machine.execShfl w s
  | .vote w => Sys2Proof.Machine.execVote w s
  | .rdfl w => Sys2Proof.Machine.execRdfl w s
  | .rdln w => Sys2Proof.Machine.execRdln w s
  | .redg w => Sys2Proof.Machine.execRedg w s
  | .scang w => Sys2Proof.Machine.execScang w s
  | .matchg w => Sys2Proof.Machine.execMatchg w s
  | .lid32 o => Sys2Proof.Machine.execLid32 o s
  | .lid64 w => Sys2Proof.Machine.execLid64 w s
  | .ld w => Sys2Proof.Machine.execLd w s
  | .st w => Sys2Proof.Machine.execSt w s
  | .ldu w => Sys2Proof.Machine.execLdu w s
  | .stu w => Sys2Proof.Machine.execStu w s
  | .ldc w => Sys2Proof.Machine.execLdc w s
  | .stc w => Sys2Proof.Machine.execStc w s
  | .pref w => Sys2Proof.Machine.execPref w s
  | .atom w => Sys2Proof.Machine.execAtom w s
  | .cas w => Sys2Proof.Machine.execCas w s
  | .atomf w => Sys2Proof.Machine.execAtomf w s
  | .red w => Sys2Proof.Machine.execRed w s
  | .cadd32 o => Sys2Proof.Machine.execCadd32 o s
  | .cadd64 w => Sys2Proof.Machine.execCadd64 w s
  | .cset32 o => Sys2Proof.Machine.execCset32 o s
  | .cset64 w => Sys2Proof.Machine.execCset64 w s
  | .cbnd w => Sys2Proof.Machine.execCbnd w s
  | .cperm32 o => Sys2Proof.Machine.execCperm32 o s
  | .cperm64 w => Sys2Proof.Machine.execCperm64 w s
  | .cget w => Sys2Proof.Machine.execCget w s
  | .cseal w => Sys2Proof.Machine.execCseal w s
  | .cunseal w => Sys2Proof.Machine.execCunseal w s
  | .ctest w => Sys2Proof.Machine.execCtest w s
  | .cclr32 o => Sys2Proof.Machine.execCclr32 o s
  | .cclr64 w => Sys2Proof.Machine.execCclr64 w s
  | .fence w => Sys2Proof.Machine.execFence w s
  | .fencex w => Sys2Proof.Machine.execFencex w s
  | .cflush w => Sys2Proof.Machine.execCflush w s
  | .cinv w => Sys2Proof.Machine.execCinv w s
  | .icinv w => Sys2Proof.Machine.execIcinv w s
  | .bra32 o => Sys2Proof.Machine.execBra32 o s
  | .bra96 w => Sys2Proof.Machine.execBra96 w s
  | .brc32 o => Sys2Proof.Machine.execBrc32 o s
  | .brc96 w => Sys2Proof.Machine.execBrc96 w s
  | .brx w => Sys2Proof.Machine.execBrx w s
  | .brd w => Sys2Proof.Machine.execBrd w s
  | .join32 => Sys2Proof.Machine.execJoin32 s
  | .join64 w => Sys2Proof.Machine.execJoin64 w s
  | .call32 o => Sys2Proof.Machine.execCall32 o s
  | .call96 w => Sys2Proof.Machine.execCall96 w s
  | .calli w => Sys2Proof.Machine.execCalli w s
  | .ret32 => Sys2Proof.Machine.execRet32 s
  | .ret64 w => Sys2Proof.Machine.execRet64 w s
  | .winb32 o => Sys2Proof.Machine.execWinb32 o s
  | .winb64 w => Sys2Proof.Machine.execWinb64 w s
  | .exit32 => Sys2Proof.Machine.execExit32 s
  | .exit64 w => Sys2Proof.Machine.execExit64 w s
  | .take w => Sys2Proof.Machine.execTake w s
  | .yield32 => Sys2Proof.Machine.execYield32 s
  | .yield64 w => Sys2Proof.Machine.execYield64 w s
  | .nop32 => Sys2Proof.Machine.execNop32 s
  | .nop64 w => Sys2Proof.Machine.execNop64 w s
  | .hint n => Sys2Proof.Machine.execHint n s
  | .cpl w => Sys2Proof.Machine.execCpl w s
  | .sheaf w => Sys2Proof.Machine.execSheaf w s
  | .wsheaf w => Sys2Proof.Machine.execWsheaf w s
  | .tcopy w => Sys2Proof.Machine.execTcopy w s
  | .wchk w => Sys2Proof.Machine.execWchk w s
  | .apnd w => Sys2Proof.Machine.execApnd w s
  | .wseq w => Sys2Proof.Machine.execWseq w s
  | .dpost w => Sys2Proof.Machine.execDpost w s
  | .mma w => Sys2Proof.Machine.execMma w s
  | .mzero w => Sys2Proof.Machine.execMzero w s
  | .mload w => Sys2Proof.Machine.execMload w s
  | .mstore w => Sys2Proof.Machine.execMstore w s
  | .mdrain w => Sys2Proof.Machine.execMdrain w s
  | .coll w => Sys2Proof.Machine.execColl w s
  | .rcopy w => Sys2Proof.Machine.execRcopy w s
  | .crec w => Sys2Proof.Machine.execCrec w s
  | .binit w => Sys2Proof.Machine.execBinit w s
  | .barv w => Sys2Proof.Machine.execBarv w s
  | .bwait w => Sys2Proof.Machine.execBwait w s
  | .bsync w => Sys2Proof.Machine.execBsync w s
  | .claim w => Sys2Proof.Machine.execClaim w s
  | .release w => Sys2Proof.Machine.execRelease w s
  | .tclaim w => Sys2Proof.Machine.execTclaim w s
  | .trelease w => Sys2Proof.Machine.execTrelease w s
  | .trap w => Sys2Proof.Machine.execTrap w s
  | .rtt w => Sys2Proof.Machine.execRtt w s
  | .sysrd w => Sys2Proof.Machine.execSysrd w s
  | .syswr w => Sys2Proof.Machine.execSyswr w s
  | .clock32 o => Sys2Proof.Machine.execClock32 o s
  | .clock64 w => Sys2Proof.Machine.execClock64 w s
  | .pmrd w => Sys2Proof.Machine.execPmrd w s
  | .sleep w => Sys2Proof.Machine.execSleep w s
  | .gstop w => Sys2Proof.Machine.execGstop w s
  | .grd w => Sys2Proof.Machine.execGrd w s
  | .gwr w => Sys2Proof.Machine.execGwr w s
  | .gres w => Sys2Proof.Machine.execGres w s
  | .gstat w => Sys2Proof.Machine.execGstat w s
  | .tlaunch w => Sys2Proof.Machine.execTlaunch w s
  | .chctlAbandonFaulted t ch => Sys2Proof.Machine.execChctlAbandonFaulted t ch s
  | .chctlAbandonAll t ch => Sys2Proof.Machine.execChctlAbandonAll t ch s
  | .loadResult ag n => Sys2Proof.Machine.execLoadResult ag n s
  | .atomicAtHome core rq => Sys2Proof.Machine.execAtomicAtHome core rq s
  | .hostWindowCompletion id status data => Sys2Proof.Machine.execHostWindowCompletion id status data s
  | .lateFault ag => Sys2Proof.Machine.execLateFault ag s
  | .noticeRecord t => Sys2Proof.Machine.execNoticeRecord t s
  | .level2Fault t => Sys2Proof.Machine.execLevel2Fault t s
  | .groupRetirement g => Sys2Proof.Machine.execGroupRetirement g s
  | .starvationRaise g => Sys2Proof.Machine.execStarvationRaise g s
  | .hintCyclesExpiry ag => Sys2Proof.Machine.execHintCyclesExpiry ag s
  | .sleepEnd ag => Sys2Proof.Machine.execSleepEnd ag s
  | .chainEntryAcceptance t ch => Sys2Proof.Machine.execChainEntryAcceptance t ch s
  | .copyChunk t ch n c => Sys2Proof.Machine.execCopyChunk t ch n c s
  | .lineOperation g n => Sys2Proof.Machine.execLineOperation g n s
  | .gcmRecord t n j => Sys2Proof.Machine.execGcmRecord t n j s
  | .tileFetch t n => Sys2Proof.Machine.execTileFetch t n s
  | .mmaKblock t n => Sys2Proof.Machine.execMmaKblock t n s
  | .tileStoreRowOperation t n => Sys2Proof.Machine.execTileStoreRowOperation t n s
  | .drainRowStaging t n => Sys2Proof.Machine.execDrainRowStaging t n s
  | .collMessage t n m => Sys2Proof.Machine.execCollMessage t n m s
  | .abortNotice t n cause sub => Sys2Proof.Machine.execAbortNotice t n cause sub s
  | .switchReductionResult t n u data => Sys2Proof.Machine.execSwitchReductionResult t n u data s
  | .switchStateLost t n us => Sys2Proof.Machine.execSwitchStateLost t n us s
  | .peerAcknowledgement t n c => Sys2Proof.Machine.execPeerAcknowledgement t n c s
  | .engineCompletionRecord t ch n => Sys2Proof.Machine.execEngineCompletionRecord t ch n s
  | .cacheWalk w => Sys2Proof.Machine.execCacheWalk w s
  | .walkResume w => Sys2Proof.Machine.execWalkResume w s
  | .walkEnd w => Sys2Proof.Machine.execWalkEnd w s
  | .drainRequest core colour => Sys2Proof.Machine.execDrainRequest core colour s
  | .releaseRecordRetirement line colour => Sys2Proof.Machine.execReleaseRecordRetirement line colour s
  | .teamStart core => Sys2Proof.Machine.execTeamStart core s
  | .l1RegionScan core => Sys2Proof.Machine.execL1RegionScan core s
  | .teamEnd t => Sys2Proof.Machine.execTeamEnd t s
  | .forward w => Sys2Proof.Machine.execForward w s
  | .taskCompletion k => Sys2Proof.Machine.execTaskCompletion k s
  | .preemptionRequest ts => Sys2Proof.Machine.execPreemptionRequest ts s
  | .teamSave t => Sys2Proof.Machine.execTeamSave t s
  | .teamRestore n core tslot => Sys2Proof.Machine.execTeamRestore n core tslot s
  | .qsub f q addr data => Sys2Proof.Machine.execQsub f q addr data s
  | .qctlRelease f q n => Sys2Proof.Machine.execQctlRelease f q n s
  | .qctlCancel f q n => Sys2Proof.Machine.execQctlCancel f q n s
  | .recordExamination q => Sys2Proof.Machine.execRecordExamination q s
  | .admission k => Sys2Proof.Machine.execAdmission k s
  | .teamDeal k => Sys2Proof.Machine.execTeamDeal k s
  | .glean core => Sys2Proof.Machine.execGlean core s
  | .gleanAnswer core => Sys2Proof.Machine.execGleanAnswer core s
  | .gleanAnswerArrival core => Sys2Proof.Machine.execGleanAnswerArrival core s
  | .quantumEnd => Sys2Proof.Machine.execQuantumEnd s
  | .holderChange => Sys2Proof.Machine.execHolderChange s
  | .tokenTick => Sys2Proof.Machine.execTokenTick s
  | .fcfgEnable f w => Sys2Proof.Machine.execFcfgEnable f w s
  | .fcfgDisable f w => Sys2Proof.Machine.execFcfgDisable f w s
  | .registerWrite f off w => Sys2Proof.Machine.execRegisterWrite f off w s
  | .extAdd f x_i img => Sys2Proof.Machine.execExtAdd f x_i img s
  | .extRevoke f x_i => Sys2Proof.Machine.execExtRevoke f x_i s
  | .revocationPoint x_i => Sys2Proof.Machine.execRevocationPoint x_i s
  | .extFree f x_i => Sys2Proof.Machine.execExtFree f x_i s
  | .colSet f colour fn prot kslot => Sys2Proof.Machine.execColSet f colour fn prot kslot s
  | .imgBind f colour x_i => Sys2Proof.Machine.execImgBind f colour x_i s
  | .keyRelease f colour addr blob => Sys2Proof.Machine.execKeyRelease f colour addr blob s
  | .keyZero f colour => Sys2Proof.Machine.execKeyZero f colour s
  | .preempt f fn => Sys2Proof.Machine.execPreempt f fn s
  | .sweep f => Sys2Proof.Machine.execSweep f s
  | .mcmdUnlistedOp f op => Sys2Proof.Machine.execMcmdUnlistedOp f op s
  | .managementCommandEnd f => Sys2Proof.Machine.execManagementCommandEnd f s
  | .sweepPassComplete => Sys2Proof.Machine.execSweepPassComplete s
  | .functionLevelReset f => Sys2Proof.Machine.execFunctionLevelReset f s
  | .stopInterface f => Sys2Proof.Machine.execStopInterface f s
  | .scrubReceipt f => Sys2Proof.Machine.execScrubReceipt f s
  | .spdmRequest rq => Sys2Proof.Machine.execSpdmRequest rq s
  | .ideIntegrityFailure f => Sys2Proof.Machine.execIdeIntegrityFailure f s
  | .flitReplay => Sys2Proof.Machine.execFlitReplay s
  | .hostInboundRequest f rq => Sys2Proof.Machine.execHostInboundRequest f rq s
  | .peerInboundRequest dev cap tag rq => Sys2Proof.Machine.execPeerInboundRequest dev cap tag rq s
  | .powerUp => Sys2Proof.Machine.execPowerUp s
  | .conventionalReset => Sys2Proof.Machine.execConventionalReset s
  | .pcieTraining flit => Sys2Proof.Machine.execPcieTraining flit s
  | .go => Sys2Proof.Machine.execGo s
  | .firmwareVerify img => Sys2Proof.Machine.execFirmwareVerify img s
  | .configApply blob => Sys2Proof.Machine.execConfigApply blob s
  | .hbmTraining ok => Sys2Proof.Machine.execHbmTraining ok s
  | .fabricBringUp ok => Sys2Proof.Machine.execFabricBringUp ok s
  | .fewickStageEnd => Sys2Proof.Machine.execFewickStageEnd s
  | .stageTimeLimit => Sys2Proof.Machine.execStageTimeLimit s
  | .partnerSignal p => Sys2Proof.Machine.execPartnerSignal p s
  | .detectTimeout p => Sys2Proof.Machine.execDetectTimeout p s
  | .detectRetry p => Sys2Proof.Machine.execDetectRetry p s
  | .negotiate p offer => Sys2Proof.Machine.execNegotiate p offer s
  | .attest p proof => Sys2Proof.Machine.execAttest p proof s
  | .flitReceived p fl => Sys2Proof.Machine.execFlitReceived p fl s
  | .flitResend p => Sys2Proof.Machine.execFlitResend p s
  | .retryLimit p => Sys2Proof.Machine.execRetryLimit p s
  | .portRetrain p => Sys2Proof.Machine.execPortRetrain p s
  | .portDisable p => Sys2Proof.Machine.execPortDisable p s
  | .pacing on => Sys2Proof.Machine.execPacing on s
  | .softError loc multi => Sys2Proof.Machine.execSoftError loc multi s
  | .parityError core => Sys2Proof.Machine.execParityError core s
  | .coreRetirement core => Sys2Proof.Machine.execCoreRetirement core s
  | .patrolScrub addr => Sys2Proof.Machine.execPatrolScrub addr s
  | .snapshotRequest => Sys2Proof.Machine.execSnapshotRequest s
  | .snapshotWrite => Sys2Proof.Machine.execSnapshotWrite s
  | .watchWindowEnd => Sys2Proof.Machine.execWatchWindowEnd s
  | .segmentClose r => Sys2Proof.Machine.execSegmentClose r s
  | .checkpoint => Sys2Proof.Machine.execCheckpoint s
  | .checkpointRestore img => Sys2Proof.Machine.execCheckpointRestore img s
  | .checkpointImageWrite => Sys2Proof.Machine.execCheckpointImageWrite s
  | .powerOff => Sys2Proof.Machine.execPowerOff s
  | .lockInterface f => Sys2Proof.Machine.execLockInterface f s
  | .startInterface f => Sys2Proof.Machine.execStartInterface f s

end Sys2Proof.Machine
end

