-- ==== Sys2Proof/Machine/Choice.lean ====
section
/-! DEFINITION. One instruction of the current agent, which agents are ready to start one (R235), cycles that pass (R228,
R251, R454), and the choices of the pipes and of the control thread's port (R132, R238, R240, R244, R250). -/

namespace Sys2Proof.Machine

/-- One instruction of the current agent: fetched, decoded, executed. A fetch or a decoding that fails traps, as an
instruction that does nothing else. -/
def runNext (s : State) : Out1 :=
  match s.issuing with
  | none => .refused .noAgent
  | some i =>
    match i.fetch with
    | .error t => runInstr (Op.short 0x39 4) (fun _ => true) (fun _ => .error (.trap t)) s
    | .ok (ws, s') =>
      match decode ws with
      | .ok x => exec x s'
      | .error e => runInstr (badOp e ws) (fun _ => false) (fun j => .ok (Done.only j.s)) s'

/-! Readiness (R235, R240, R257). -/

/-- What keeps an agent that can issue from starting its next instruction: the wait that it would still stand at. An agent
that waits for nothing is ready, and so is one whose wait is over. -/
def State.stall (s : State) (ag : Agent) (p : Path) : Option Wait :=
  if p.wait.isNone && p.pend.all (·.ready) then none
  else match runNext { s with cur := some ag } with
    | .next t => ((t.path ag).bind (·.wait)).filter (fun w => w.why == .result || p.wait.any (·.no == w.no))
    | _ => p.wait

/-- The ready candidates of a group. -/
def State.readyOf (s : State) (g : Nat) (G : Group) : List (Agent × Path) :=
  if G.run == .running && !s.teamHalted G.team G.canHalt then
    (G.issuers g).filterMap (fun a => match s.path a with
      | some p => if (s.stall a p).isNone then some (a, p) else none
      | none => none)
  else []

/-- Whether a path of a group waits for a long-latency result (R228). -/
def State.onResult (s : State) (a : Agent) : Bool :=
  match s.path a with
  | some p => s.canIssue a && (s.stall a p).any (fun w => w.why == .result)
  | none => false

/-- A group after cycles have passed: its starvation counter grows while it has a ready candidate and starts nothing, and
its run of ready cycles begins anew after cycles without one (R250, R251). -/
def State.aged (s : State) (dt g : Nat) (G : Group) : Group :=
  let idle := (s.readyOf g G).isEmpty
  { G with
    starve := if idle then G.starve else G.starve + (dt - (if G.startedAt = s.clock + 1 then 1 else 0))
    readySince := if idle then s.clock + dt else G.readySince
    perf := if (G.issuers g).any s.onResult then { G.perf with waits := G.perf.waits + dt } else G.perf }

/-- Cycles pass: the counter, the end of a watch window (R454), the accounts of groups and contexts. -/
def State.elapse (s : State) (dt : Nat) : State :=
  if dt = 0 then s
  else
    let n := s.clock / 1800000
    let r := s.ras
    let s := if n = (s.clock + dt) / 1800000 ∨ (r.sums.isEmpty ∧ r.overs.isEmpty) then s
      else { s with ras := { r with ended := r.ended ++ [(n, r.sums, r.overs)], sums := [], overs := [] } }
    { s with
      clock := s.clock + dt
      groups := s.groups.map (fun (g, G) => (g, s.aged dt g G))
      ctxs := s.ctxs.map (fun (t, C) => (t, { C with
        perf := if s.onResult (.ctl t) then { C.perf with waits := C.perf.waits + dt } else C.perf })) }

/-! The choice of a pipe (R240, R244, R250). -/

/-- The task of a team number. -/
def State.taskOf (s : State) (t : Nat) : Option Nat := (s.team t).map (·.task)

/-- Whether the skew rule holds a group back (R244): of the ready groups of its role and task on its core, one is more
than 1,024 instructions behind it. -/
def State.skewed (s : State) (core : Nat) (G : Group) : Bool :=
  s.groups.any (fun (h, H) => coreOfGroup h == core && H.role == G.role && s.taskOf H.team == s.taskOf G.team &&
    H.issued + 1024 < G.issued && !(s.readyOf h H).isEmpty)

/-- The cycle in which the starvation counter raised a group, if it has (R251). -/
def State.raisedAt (s : State) (G : Group) : Option Nat :=
  G.raised.orElse (fun _ => if 64 ≤ G.starve then some (s.clock - (G.starve - 64)) else none)

/-- Whether an arm of a group is under CRITICAL (R243). -/
def Group.critical (G : Group) (now : Nat) : Bool :=
  G.stack.any (fun p => now < p.crit) || G.handler.any (fun h => now < h.path.crit)

/-- A group's place in the order of R250: rank and BOOST, then age, then slot; lower is better. -/
def State.issueRank (s : State) (core g : Nat) (G : Group) : Nat × Nat × Nat :=
  let ready := s.readyOf g G
  let spin := !ready.isEmpty && ready.all (fun (_, p) => s.clock < p.spin)
  let base := (if G.critical s.clock then 1 else 5) + (3 - min G.boost 3)
  match s.raisedAt G with
  | some t => (0, t, slotOf g)
  | none => (if spin || s.skewed core G then base + 8 else base, G.readySince, slotOf g)

/-- Lexicographic order of places. -/
def rankBefore (a b : Nat × Nat × Nat) : Bool :=
  a.1 < b.1 || (a.1 == b.1 && (a.2.1 < b.2.1 || (a.2.1 == b.2.1 && a.2.2 < b.2.2)))

/-- The arm that issues among a group's ready candidates (R240, R243). -/
def State.pickArm (s : State) (ready : List (Agent × Path)) : Option Agent :=
  let crit := ready.filter (fun (_, p) => s.clock < p.crit)
  let calm := ready.filter (fun (_, p) => !decide (s.clock < p.spin))
  let l := if crit.length = 1 then crit else if calm.isEmpty then ready else calm
  (l.foldl (fun (b : Option (Agent × Path)) x =>
    match b with
    | none => some x
    | some y =>
      if x.2.lastIssue < y.2.lastIssue || (x.2.lastIssue == y.2.lastIssue && firstLane x.2.mask < firstLane y.2.mask)
      then some x else some y) none).map (·.1)

/-- The agent that a pipe of a core starts (R250). -/
def State.pickPipe (s : State) (core pipe : Nat) : Option Agent :=
  let gs := s.groups.filter (fun (g, G) => coreOfGroup g == core && slotOf g % 4 == pipe && !(s.readyOf g G).isEmpty)
  match gs.foldl (fun (b : Option (Nat × Group)) x =>
    match b with
    | none => some x
    | some y => if rankBefore (s.issueRank core x.1 x.2) (s.issueRank core y.1 y.2) then some x else some y) none with
  | some (g, G) => s.pickArm (s.readyOf g G)
  | none => none

/-! The control thread's port (R132, R238, R257). -/

/-- The context of a core that issued last. -/
def State.lastCtx (s : State) (core : Nat) : Option Nat :=
  ((s.ctxs.filter (fun e => coreOfTeam e.1 == core)).foldl (fun (b : Option (Nat × Ctx)) e =>
    match b with
    | none => some e
    | some x => if x.2.startedAt ≤ e.2.startedAt then some e else some x) none).map (·.1)

/-- The ready context that follows one in ascending TSLOT order, itself the last. -/
def State.nextCtx (s : State) (core t : Nat) : Option Nat :=
  let ready := sortKey id ((s.ctxs.filter (fun e => coreOfTeam e.1 == core && s.canIssue (.ctl e.1) &&
    (s.stall (.ctl e.1) e.2.path).isNone)).map (·.1))
  (ready.find? (t < ·)).orElse (fun _ => ready.head?)

/-- The port goes on from a context: the next ready one issues. -/
def State.rotated (s : State) (core t : Nat) : State :=
  let s := s.setCore core { s.core core with yielded := none }
  { s with cur := (s.nextCtx core t).map Agent.ctl }

/-- A turn of the port: after a YIELD the one that yielded comes last. -/
def State.rotate (s : State) (core : Nat) : State :=
  s.rotated core ((s.core core).yielded.getD ((s.lastCtx core).getD (4 * core + 3)))

/-- With no turn left and no agent named, a context that has yielded is followed by the next, or goes on itself where no
other is ready (R132). -/
def State.handOver (s : State) : State :=
  match s.cur, s.cores.find? (fun e => e.2.yielded.isSome) with
  | none, some (core, c) =>
    let t := c.yielded.getD 0
    let s := s.rotated core t
    if s.cur.isNone then { s with cur := some (.ctl t) } else s
  | _, _ => s

end Sys2Proof.Machine
end

