-- ==== Sys2Proof/Machine/Step.lean ====
section
/-! DEFINITION. One step of the machine: a turn of the agenda, or one instruction of the agent that issues. -/

namespace Sys2Proof.Machine

/-- A turn of the agenda. -/
def runTurn (a : Act) (s : State) : Out1 :=
  match a with
  | .event i => match i.shape with
    | .event => exec i s
    | _ => .refused .notEnabled
  | .issue ag => runNext { s with cur := some ag }
  | .pick core pipe => match s.pickPipe core pipe with
    | some ag => runNext { s with cur := some ag }
    | none => .refused .notEnabled
  | .rotate core => runNext (s.rotate core)
  | .evict core line colour => .next (s.evict core line colour)
  | .evictCode core ctl line => .next (s.evictCode core ctl line)
  | .visit w n => s.visitWalk w n

/-- One step: the head of the agenda, the cycles that pass before it first; with no turn left, an instruction of the
current agent. -/
def step (s : State) : Out1 :=
  match s.agenda with
  | [] => runNext s.handOver
  | t :: rest => runTurn t.act ((({ s with agenda := rest } : State)).elapse t.dt)

/-- The state in which step fetches and runs the instruction whose table bits are `w`: its bytes at pc 0 of a group's
converged path, or of a control thread where the instruction is one of the control stream only. -/
def State.withFetchWord (s : State) (nbits w : Nat) : State :=
  let bs := tableBytes nbits w
  let maj := bitsOf w 7 2
  let f := bitsOf w 31 29
  s.placed (w % 4 != 3 && !(Op.short maj f).inGroup) bs

end Sys2Proof.Machine
end

