-- ==== Sys2Proof/Safety.lean ====
section
/-! DEFINITION. What counts as a safe run: every step answers a next state, and storage keeps its canonical form. The
conditions under which an instruction issues with nothing in its way, what its results leave in the registers, and what
it leaves alone: the terms that the statements use. -/

namespace Sys2Proof.Machine

/-! An instruction's view once its issue has been accounted (R91, R228, R255). -/

/-- The path of the agent when its instruction's accounts are settled. -/
def Iss.issuedPath (i : Iss) (o : Op) (n : Nat) : Path :=
  { i.p with
    pend := [], win := [], held := (i.p.held.map Held.older).filter (·.age < 8), wait := none, released := false
    parkAt := .none, lastIssue := n
    arrived := if o.isBsync then i.p.arrived else none, target := if o.isWseq then i.p.target else none }

/-- The group when its instruction's accounts are settled. -/
def Iss.issuedGroup (i : Iss) (o : Op) : Group :=
  { i.G.setPathAt i.ag (i.issuedPath o (i.G.issued + 1)) with
    issued := i.G.issued + 1, starve := 0, raised := none, startedAt := i.s.clock + 1
    perf := { i.G.perf with instrs := i.G.perf.instrs + 1,
                            beats := i.G.perf.beats + (if o.oneCycle then 1 else beats i.p.mask) } }

/-- The context when its instruction's accounts are settled. -/
def Iss.issuedCtx (i : Iss) (o : Op) : Ctx :=
  { i.C with
    path := { i.p with
      pend := [], wait := none, lastIssue := i.C.perf.instrs + 1
      arrived := if o.isBsync then i.p.arrived else none, target := if o.isWseq then i.p.target else none }
    startedAt := i.s.clock + 1
    perf := { i.C.perf with instrs := i.C.perf.instrs + 1, beats := i.C.perf.beats + 1 } }

/-- What a group's instruction sees: registers, team and code as before. -/
def Iss.issuedG (i : Iss) (o : Op) : Iss :=
  { i with
    s := i.s.setGroup i.id (i.issuedGroup o), G := i.issuedGroup o, p := i.issuedPath o (i.G.issued + 1)
    lanes := if o.actsOnce then i.p.mask else i.active o }

/-- What a control thread's instruction sees. -/
def Iss.issuedC (i : Iss) (o : Op) : Iss :=
  { i with
    s := i.s.setCtx i.id (i.issuedCtx o), C := i.issuedCtx o, p := (i.issuedCtx o).path, lanes := i.p.mask }

/-- The view that an instruction's body works on. -/
def Iss.issued (i : Iss) (o : Op) : Iss := if i.ctl then i.issuedC o else i.issuedG o

/-- The decode checks that the state and the stream settle (R87, R94, R95). -/
def Iss.admits (i : Iss) (o : Op) (legal : Iss → Bool) : Prop :=
  (if i.ctl then o.inControl else o.inGroup) = true ∧ (i.ctl || !o.once || o.unguarded) = true ∧
  (o.asel != 2 || (!i.ctl && o.dqRow)) = true ∧ legal i = true

/-- A result that leaves the mask of its path alone: not a write of k60 to k62 (R27). -/
def RegWrite.keepsMask : RegWrite → Bool
  | .k n _ => n < 60 || 63 ≤ n
  | _ => true


/-- A write of a c register or pair that exists. -/
def RegWrite.inC : RegWrite → Bool
  | .c n _ => n < 64
  | .ctag pair _ => pair < 32
  | _ => true

/-- Whether a write reaches a register of its stream and leaves the path's mask alone. -/
def Iss.takes (i : Iss) (w : RegWrite) : Bool := if i.ctl then w.inC else w.keepsMask

/-! What a list of results, applied in order, leaves at one place: the value there, from the value before. -/

/-- A word of a lane of a row (R19, R69). -/
def RegWrite.onRow (r L : Nat) (x : Word) : RegWrite → Word
  | .v r' m y => if r' = r ∧ m.getLsbD L = true then y.getD L 0 else x
  | _ => x
/-- A lane's tag of a quad of rows: a write of a row clears it (R19). -/
def RegWrite.onTag (q L : Nat) (x : Bool) : RegWrite → Bool
  | .v r m _ => if r / 4 = q ∧ m.getLsbD L = true then false else x
  | .vtag q' m t => if q' = q ∧ m.getLsbD L = true then t.getLsbD L else x
  | _ => x
/-- A lane's bit of a predicate; a write of q7 is ignored (R31). -/
def RegWrite.onPred (n L : Nat) (x : Bool) : RegWrite → Bool
  | .q n' m y => if n' = n ∧ n < 7 ∧ m.getLsbD L = true then y.getLsbD L else x
  | _ => x
/-- A k register; a write of k57 may keep RM (R21, R26). -/
def RegWrite.onK (n : Nat) (x : Word) : RegWrite → Word
  | .k n' y => if n' = n ∧ kTaken n = true then fixFlagWrite n x y else x
  | _ => x
/-- The tag of a uniform quad: a write of one of its registers clears it (R22). -/
def RegWrite.onKtag (q : Nat) (x : Bool) : RegWrite → Bool
  | .k n _ => if n < 48 ∧ n / 4 = q then false else x
  | .ktag q' t => if q' = q then t else x
  | _ => x
/-- A c register; c63 ignores a write (R34). -/
def RegWrite.onC (n : Nat) (x : Word64) : RegWrite → Word64
  | .c n' y => if n' = n ∧ n ≠ 63 then y else x
  | _ => x
/-- The tag of a c pair; cp31 has none (R34). -/
def RegWrite.onCtag (q : Nat) (x : Bool) : RegWrite → Bool
  | .c n _ => if n / 2 = q ∧ n ≠ 63 then false else x
  | .ctag q' t => if q' = q then t && q < 31 else x
  | _ => x

end Sys2Proof.Machine

namespace Sys2Proof.Safety

open Sys2Proof.Machine

/-- Storage in its canonical form: bytes, tags, release records, tile words; every L1 line has 128 bytes. -/
structure memoryWf (m : Mem) : Prop where
  bytes : Memory.wf m.bytes = true
  tags : Store.wf m.tags = true
  rel : Store.wf m.rel = true
  tile : Store.wf m.tile = true
  lines : ∀ e ∈ m.l1, e.2.data.length = 128

/-- A step that answers a next state. -/
def steps (s t : State) : Prop := step s = .next t

/-- A run of n steps from s to t. -/
def runs : Nat → State → State → Prop
  | 0, s, t => s = t
  | n + 1, s, t => ∃ u, steps s u ∧ runs n u t

/-- A state from which the machine runs n steps, storage canonical throughout. -/
def safe (n : Nat) (s : State) : Prop := ∀ k, k ≤ n → ∃ t, runs k s t ∧ memoryWf t.mem

/-- Nothing stands between the agent that issues, seen as `i`, and its instruction: no late fault and no result is
outstanding, no result is in the forwarding window, a lane is active, the path is not parked, the group is asked neither
to stop nor to step once, and no register is poisoned. -/
structure Clear (s : State) (i : Iss) : Prop where
  issuing : s.issuing = some i
  late : i.p.late = []
  pend : i.p.pend = []
  win : i.p.win = []
  mask : i.p.mask ≠ 0
  kind : i.p.kind ≠ .park
  stop : i.G.stopReq = false
  single : i.G.step = false ∧ i.G.stepDue = false
  poison : i.G.poison = []

/-- What results and flags leave in the registers of a group and of the path that issued, seen as `i` before and as `j`
after: rows, tags, predicates, k registers as the path reads them; the window of rows, every other path, the handler,
and the path's own mask, kind, reconvergence pc, code capability and hints as before. -/
structure groupAfter (i j : Iss) (ws : List RegWrite) (fl : Nat) : Prop where
  rows : ∀ r L, L < 96 → (j.G.row r).getD L 0 = ws.foldl (RegWrite.onRow r L) ((i.G.row r).getD L 0)
  tags : ∀ q L, L < 96 → (j.G.quadTags q).getLsbD L = ws.foldl (RegWrite.onTag q L) ((i.G.quadTags q).getLsbD L)
  preds : ∀ n L, L < 96 → (j.G.pred n).getLsbD L = ws.foldl (RegWrite.onPred n L) ((i.G.pred n).getLsbD L)
  k : ∀ n, n < 64 → n ≠ 56 → j.kReg n = ws.foldl (RegWrite.onK n) (i.kReg n)
  flags : j.kReg 56 = ws.foldl (RegWrite.onK 56) (i.kReg 56) ||| BitVec.ofNat 32 (fl % 32)
  ktag : ∀ q, q < 12 → j.G.kpTag j.p q = ws.foldl (RegWrite.onKtag q) (i.G.kpTag i.p q)
  window : j.G.base = i.G.base ∧ j.G.tf = i.G.tf ∧ j.G.held = i.G.held ∧ j.G.fsz = i.G.fsz ∧ j.G.lo = i.G.lo
  others : ∀ ix, i.ag ≠ .path i.id ix → j.G.stack[ix]? = i.G.stack[ix]?
  handler : i.ag ≠ .handler i.id → j.G.handler = i.G.handler
  path : j.p.mask = i.p.mask ∧ j.p.kind = i.p.kind ∧ j.p.rpc = i.p.rpc ∧ j.p.code = i.p.code ∧ j.p.spin = i.p.spin ∧
    j.p.crit = i.p.crit

/-- The same for a control thread: c registers, tags, the control float word. -/
structure ctxAfter (i j : Iss) (ws : List RegWrite) (fl : Nat) : Prop where
  c : ∀ n, n < 64 → j.cReg n = ws.foldl (RegWrite.onC n) (i.cReg n)
  ctag : ∀ q, q < 32 → j.C.tag q = ws.foldl (RegWrite.onCtag q) (i.C.tag q)
  cfw : j.C.cfw = i.C.cfw ||| BitVec.ofNat 32 (fl % 32)
  thread : j.C.exited = i.C.exited ∧ j.C.trapped = i.C.trapped ∧ j.C.appended = i.C.appended
  path : j.p.mask = i.p.mask ∧ j.p.kind = i.p.kind ∧ j.p.rpc = i.p.rpc ∧ j.p.code = i.p.code ∧ j.p.spin = i.p.spin ∧
    j.p.crit = i.p.crit

/-- What results and flags leave in the registers of the stream. -/
def after (i j : Iss) (ws : List RegWrite) (fl : Nat) : Prop :=
  (i.ctl = false → groupAfter i j ws fl) ∧ (i.ctl = true → ctxAfter i j ws fl)

/-- Everything outside the issuing agent's own group or context is in `t` as in `u`: every byte and tag of storage, the
other groups and contexts, teams, cores, barriers, tasks, protection, bring-up, records, and what waits outside. -/
structure elsewhere (u : State) (i : Iss) (t : State) : Prop where
  groups : ∀ g, (i.ctl = true ∨ g ≠ i.id) → t.group g = u.group g
  ctxs : ∀ c, (i.ctl = false ∨ c ≠ i.id) → t.ctx c = u.ctx c
  storage : t.mem = u.mem
  clock : t.clock = u.clock
  rest : t.teams = u.teams ∧ t.cores = u.cores ∧ t.bars = u.bars ∧ t.sched = u.sched ∧ t.sec = u.sec ∧
    t.bring = u.bring ∧ t.ras = u.ras ∧ t.io = u.io ∧ t.agenda = u.agenda ∧ t.cur = u.cur ∧ t.fresh = u.fresh ∧
    t.waitNo = u.waitNo

/-- AN INSTRUCTION HAS COMPLETED: its outcome is a next state; the agent stands at `pc`, not waiting; its registers hold
the results `ws` and the flags `fl` and are otherwise as before; everything else is as in `u`. -/
def lands (i : Iss) (out : Out1) (pc : Word64) (ws : List RegWrite) (fl : Nat) (u : State) : Prop :=
  ∃ t j, out = .next t ∧ t.view i.ag = some j ∧ j.p.pc = pc ∧ j.p.wait = none ∧ after i j ws fl ∧ elsewhere u i t

/-- The address `n` bytes on from the instruction. -/
def pcOn (i : Iss) (n : Nat) : Word64 := i.p.pc + BitVec.ofNat 64 n

/-- The values `f 0` to `f 95`. -/
def lanewise (f : Nat → Nat) : List Nat := (List.range 96).map f

/-- An instruction of lanes has completed: vD holds the images `f` in the lanes of `act`, nothing but vD's lanes, its
quad's tags and the flags `fl` has changed, and the pc is `n` bytes further on. -/
def laneDone (s : State) (i : Iss) (out : Out1) (n : Nat) (act : LaneMask) (wd d : Nat) (f : Nat → Nat) (fl : Nat) :
    Prop :=
  lands i out (pcOn i n) (i.vResult wd d act (lanewise f)) fl s

end Sys2Proof.Safety
end

