-- ==== Sys2Proof/Rules.lean ====
section
/-! DEFINITION. The spec's rules for results, as tables over the constructors of Instr: what the statements compare the
machine with. -/

namespace Sys2Proof.Rules

open Sys2Proof.Machine Sys2Proof.Safety

/-! Operands of one lane. -/

/-- Lane L of A at a width. -/
def aL (i : Iss) (w : Long) (wd L : Nat) : Nat := (i.aVals w wd).getD L 0
/-- Lane L of B at an integer type. -/
def bL (i : Iss) (w : Long) (t : ITy) (L : Nat) : Nat := (i.bVals w t).getD L 0
/-- Lane L of C at a width. -/
def cL (i : Iss) (w : Long) (wd L : Nat) : Nat := (i.vVals wd w.c).getD L 0
/-- Lane L of a predicate. -/
def qL (i : Iss) (n L : Nat) : Bool := (i.G.pred n).getLsbD L

/-- A form whose result is one lane result: its issue data, the decode checks of R94 that its page adds, the width and
number of its destination, and lane L's image. -/
structure LaneRule where
  op : Op
  ok : Iss → Bool
  wd : Nat
  d : Nat
  val : Iss → Nat → Nat

/-- D := f(A, B). -/
def two (o : Op) (w : Long) (ty : ITy → Bool) (satOk : Bool) (f : ITy → Nat → Nat → Nat) : LaneRule :=
  let t := tyOf w
  { op := o, wd := t.w, d := w.d.toNat, val := fun i L => t.image (f t (aL i w t.w L) (bL i w t L))
    ok := fun i => tyIs w ty && (satOk || !w.sat) && i.vOk t.w w.d.toNat && i.aOk w t.w && i.bOk w t.w }
/-- D := f(A). -/
def one (o : Op) (w : Long) (ty : ITy → Bool) (f : ITy → Nat → Nat) : LaneRule :=
  let t := tyOf w
  { op := o, wd := t.w, d := w.d.toNat, val := fun i L => t.image (f t (aL i w t.w L))
    ok := fun i => tyIs w ty && !w.sat && i.vOk t.w w.d.toNat && i.aOk w t.w }
/-- D := f(A), D one n32 register. -/
def count (o : Op) (w : Long) (f : Nat → Nat → Nat) : LaneRule :=
  let t := tyOf w
  { op := o, wd := 32, d := w.d.toNat, val := fun i L => f t.w (aL i w t.w L)
    ok := fun i => tyIs w tyAll && !w.sat && i.vOk 32 w.d.toNat && i.aOk w t.w }
/-- D := f(A, s), s an n32 from one register. -/
def shift (o : Op) (w : Long) (ty : ITy → Bool) (f : ITy → Nat → Nat → Nat) : LaneRule :=
  let t := tyOf w
  { op := o, wd := t.w, d := w.d.toNat, val := fun i L => t.image (f t (aL i w t.w L) (bL i w tN32 L))
    ok := fun i => tyIs w ty && !w.sat && i.vOk t.w w.d.toNat && i.aOk w t.w && i.bOk w 32 }
/-- D := f(A, B, C), B at its own type. -/
def three (o : Op) (w : Long) (ty : ITy → Bool) (satOk : Bool) (tb : ITy → ITy) (subOk : Bool)
    (f : ITy → Nat → Nat → Nat → Nat) : LaneRule :=
  let t := tyOf w
  { op := o, wd := t.w, d := w.d.toNat
    val := fun i L => t.image (f t (aL i w t.w L) (bL i w (tb t) L) (cL i w t.w L))
    ok := fun i => tyIs w ty && (satOk || !w.sat) && subOk && w.bsel != 2 && i.vOk t.w w.d.toNat && i.aOk w t.w &&
      i.bOk w (tb t).w && i.vOk t.w w.c }

/-- A + B, A − B, A × B, the high half, min and max (R105): exact results reduced mod 2^w, or clamped under .sat. -/
def sum (sat : Bool) (t : ITy) (a b : Nat) : Nat := t.fit sat (t.val a + t.val b)
def diff (sat : Bool) (t : ITy) (a b : Nat) : Nat := t.fit sat (t.val a - t.val b)
def prod (t : ITy) (a b : Nat) : Nat := wrap t.w (t.val a * t.val b)
def high (t : ITy) (a b : Nat) : Nat := wrap t.w (t.val a * t.val b / 2 ^ t.w)
def smaller (t : ITy) (a b : Nat) : Nat := wrap t.w (if t.val a ≤ t.val b then t.val a else t.val b)
def larger (t : ITy) (a b : Nat) : Nat := wrap t.w (if t.val a ≤ t.val b then t.val b else t.val a)
/-- Quotient and remainder (R108). -/
def quot (t : ITy) (a b : Nat) : Nat :=
  if t.val b = 0 then 2 ^ t.w - 1
  else if t.signed ∧ t.val a = -2 ^ (t.w - 1) ∧ t.val b = -1 then wrap t.w (-2 ^ (t.w - 1))
  else wrap t.w ((t.val a).tdiv (t.val b))
def rem (t : ITy) (a b : Nat) : Nat :=
  if t.val b = 0 then a % 2 ^ t.w
  else if t.signed ∧ t.val a = -2 ^ (t.w - 1) ∧ t.val b = -1 then 0
  else wrap t.w (t.val a - (t.val a).tdiv (t.val b) * t.val b)

/-- The lane arithmetic of rows 0x00 and 0x01 and its uniform-B forms (R105, R107, R108). -/
def arith : Instr → Option LaneRule
  | .iadd32 o => some (two (Op.short 0x00 1) (o.wide 2 0 0) tySN true (sum false))
  | .iadd64 w => some (two (Op.long 0x00 1 w) w tySN true (sum w.sat))
  | .iaddUb o => some (two (Op.short 0x0B 0) (o.wide 2 0 1) tySN true (sum false))
  | .isub32 o => some (two (Op.short 0x00 2) (o.wide 2 0 0) tySN true (diff false))
  | .isub64 w => some (two (Op.long 0x00 2 w) w tySN true (diff w.sat))
  | .isubUb o => some (two (Op.short 0x0B 1) (o.wide 2 0 1) tySN true (diff false))
  | .imul32 o => some (two (Op.short 0x00 4) (o.wide 2 0 0) tySN false prod)
  | .imul64 w => some (two (Op.long 0x00 4 w) w tySN false prod)
  | .imulUb o => some (two (Op.short 0x0B 2) (o.wide 2 0 1) tySN false prod)
  | .imulh32 o => some (two (Op.short 0x00 5) (o.wide 2 0 0) tyWide false high)
  | .imulh64 w => some (two (Op.long 0x00 5 w) w tyWide false high)
  | .imad w => some (three (Op.long 0x00 6 w) w tySN true id true
      (fun t a b c => t.fit w.sat (t.val a * t.val b + t.val c)))
  | .imadw w =>
    let t := tyOf w
    some { op := Op.long 0x00 7 w, wd := 64, d := w.d.toNat
           val := fun i L => wrap 64 (t.val (aL i w 32 L) * t.val (bL i w t L) + (cL i w 64 L : Nat))
           ok := fun i => tyIs w (fun t => tyWide t && t.w = 32) && !w.sat && w.bsel != 2 && i.vOk 64 w.d.toNat &&
             i.aOk w 32 && i.bOk w 32 && i.vOk 64 w.c }
  | .idiv w => some (two (Op.long 0x01 0 w) w tySN false quot)
  | .irem w => some (two (Op.long 0x01 1 w) w tySN false rem)
  | .imin32 o => some (two (Op.short 0x01 2) (o.wide 2 0 0) tySN false smaller)
  | .imin64 w => some (two (Op.long 0x01 2 w) w tySN false smaller)
  | .imax32 o => some (two (Op.short 0x01 3) (o.wide 2 0 0) tySN false larger)
  | .imax64 w => some (two (Op.long 0x01 3 w) w tySN false larger)
  | .iabs32 o => some (one (Op.short 0x01 4) (o.wide 2 0 0) (fun t => t.signed) (fun t a => wrap t.w |t.val a|))
  | .iabs64 w => some (one (Op.long 0x01 4 w) w (fun t => t.signed) (fun t a => wrap t.w |t.val a|))
  | .ineg32 o => some (one (Op.short 0x01 5) (o.wide 2 0 0) tySN (fun t a => wrap t.w (-t.val a)))
  | .ineg64 w => some (one (Op.long 0x01 5 w) w tySN (fun t a => wrap t.w (-t.val a)))
  | _ => none

/-- A shift left and right, zero once s ≥ w (R109). -/
def shl (t : ITy) (a s : Nat) : Nat := if s < t.w then a * 2 ^ s % 2 ^ t.w else 0
def shr (t : ITy) (a s : Nat) : Nat := if s < t.w then a % 2 ^ t.w / 2 ^ s else 0
/-- The arithmetic shift: every bit equals bit w − 1 once s ≥ w (R109). -/
def sar (t : ITy) (a s : Nat) : Nat := wrap t.w (sext t.w a / 2 ^ min s t.w)
/-- Rotation left by s mod w (R109). -/
def rot (t : ITy) (a s : Nat) : Nat :=
  (a % 2 ^ t.w * 2 ^ (s % t.w) + a % 2 ^ t.w / 2 ^ (t.w - s % t.w)) % 2 ^ t.w
/-- The funnel shifts (R110). -/
def shf (left : Bool) (t : ITy) (a s c : Nat) : Nat :=
  if left then (a * 2 ^ t.w + c) * 2 ^ min s t.w / 2 ^ t.w % 2 ^ t.w else (c * 2 ^ t.w + a) / 2 ^ min s t.w % 2 ^ t.w

/-- The lane logic, shifts and bit counts of rows 0x02 to 0x04 and the uniform-B forms (R105, R109 to R111, PERM). -/
def logic : Instr → Option LaneRule
  | .and32 o => some (two (Op.short 0x02 1) (o.wide 10 0 0) tyAll false (fun _ a b => a &&& b))
  | .and64 w => some (two (Op.long 0x02 1 w) w tyAll false (fun _ a b => a &&& b))
  | .andUb o => some (two (Op.short 0x0B 3) (o.wide 2 0 1) tyAll false (fun _ a b => a &&& b))
  | .or32 o => some (two (Op.short 0x02 2) (o.wide 10 0 0) tyAll false (fun _ a b => a ||| b))
  | .or64 w => some (two (Op.long 0x02 2 w) w tyAll false (fun _ a b => a ||| b))
  | .orUb o => some (two (Op.short 0x0B 4) (o.wide 2 0 1) tyAll false (fun _ a b => a ||| b))
  | .xor32 o => some (two (Op.short 0x02 3) (o.wide 10 0 0) tyAll false (fun _ a b => a ^^^ b))
  | .xor64 w => some (two (Op.long 0x02 3 w) w tyAll false (fun _ a b => a ^^^ b))
  | .xorUb o => some (two (Op.short 0x0B 5) (o.wide 2 0 1) tyAll false (fun _ a b => a ^^^ b))
  | .andn32 o => some (two (Op.short 0x02 4) (o.wide 10 0 0) tyAll false
      (fun t a b => a &&& (2 ^ t.w - 1 - b % 2 ^ t.w)))
  | .andn64 w => some (two (Op.long 0x02 4 w) w tyAll false (fun t a b => a &&& (2 ^ t.w - 1 - b % 2 ^ t.w)))
  | .not32 o => some (one (Op.short 0x02 5) (o.wide 10 0 0) tyAll (fun t a => 2 ^ t.w - 1 - a % 2 ^ t.w))
  | .not64 w => some (one (Op.long 0x02 5 w) w tyAll (fun t a => 2 ^ t.w - 1 - a % 2 ^ t.w))
  | .shl32 o => some (shift (Op.short 0x03 0) (o.wide 10 0 0) tyAll shl)
  | .shl64 w => some (shift (Op.long 0x03 0 w) w tyAll shl)
  | .shlUb o => some (shift (Op.short 0x0B 6) (o.wide 2 0 1) tyAll shl)
  | .shr32 o => some (shift (Op.short 0x03 1) (o.wide 10 0 0) tyAll shr)
  | .shr64 w => some (shift (Op.long 0x03 1 w) w tyAll shr)
  | .shrUb o => some (shift (Op.short 0x0B 7) (o.wide 2 0 1) tyAll shr)
  | .sar32 o => some (shift (Op.short 0x03 2) (o.wide 10 0 0) tyAll sar)
  | .sar64 w => some (shift (Op.long 0x03 2 w) w tyAll sar)
  | .rot32 o => some (shift (Op.short 0x03 3) (o.wide 10 0 0) tyAll rot)
  | .rot64 w => some (shift (Op.long 0x03 3 w) w tyAll rot)
  | .shf w => some (three (Op.long 0x03 4 w) w (fun t => t.isBits && (t.w = 32 || t.w = 64)) false (fun _ => tN32)
      (w.sub < 2) (shf (w.sub == 1)))
  | .bfx w => some (shift (Op.long 0x03 5 w) w tySN rBfx)
  | .bfi w => some (three (Op.long 0x03 6 w) w tyAll false (fun _ => tN32) true rBfi)
  | .perm w => some (three (Op.long 0x03 7 w) w (fun t => t.isBits && t.w = 32) false (fun _ => tN32) true rPerm)
  | .popc32 o => some (count (Op.short 0x04 0) (o.wide 10 0 0) rPopc)
  | .popc64 w => some (count (Op.long 0x04 0 w) w rPopc)
  | .clz32 o => some (count (Op.short 0x04 1) (o.wide 10 0 0) rClz)
  | .clz64 w => some (count (Op.long 0x04 1 w) w rClz)
  | .ctz32 o => some (count (Op.short 0x04 2) (o.wide 10 0 0) rCtz)
  | .ctz64 w => some (count (Op.long 0x04 2 w) w rCtz)
  | .brev32 o => some (one (Op.short 0x04 3) (o.wide 10 0 0) tyAll rBrev)
  | .brev64 w => some (one (Op.long 0x04 3 w) w tyAll rBrev)
  | _ => none

/-- A source to a destination of a type (R105, R113, R114): MOV, MOVL, SEL; and LID (R161). -/
def moves : Instr → Option LaneRule
  | .mov32 o => some (mov (Op.short 0x02 6) (o.wide 10 0 0))
  | .mov64 w => some (mov (Op.long 0x02 6 w) w)
  | .movl w =>
    let t := tyOf w
    some { op := Op.long 0x02 7 w, wd := t.w, d := w.d.toNat
           val := fun _ _ => t.image (if t.w = 64 then wrap 32 w.immI * 2 ^ 32 + w.litNat else w.litNat)
           ok := fun i => tyIs w (fun t => t.isBits && (t.w = 32 || t.w = 64)) && !w.sat && w.lit.isSome &&
             w.bsel == 3 && i.vOk t.w w.d.toNat }
  | .sel w =>
    let t := tyOf w
    some { op := Op.long 0x01 6 w, wd := t.w, d := w.d.toNat
           val := fun i L => t.image (if qL i (bitsOf w.imm.toNat 2 0) L != bitAt w.imm.toNat 3 then aL i w t.w L
             else bL i w t L)
           ok := fun i => tyIs w (fun _ => true) && w.bsel != 2 && i.vOk t.w w.d.toNat && i.aOk w t.w && i.bOk w t.w }
  | .lid32 o => some (lid (Op.short 0x20 7) (o.a.toNat % 4) o.d)
  | .lid64 w => some (lid (Op.long 0x20 7 w) (w.a.toNat % 4) w.d)
  | _ => none
where
  mov (o : Op) (w : Long) : LaneRule :=
    let t := tyOf w
    { op := o, wd := t.w, d := w.d.toNat, val := fun i L => t.image (bL i w t L)
      ok := fun i => tyIs w (fun _ => true) && !w.sat && i.vOk t.w w.d.toNat && i.bOk w t.w }
  lid (o : Op) (sel : Nat) (d : BitVec 7) : LaneRule :=
    { op := o, wd := 32, d := d.toNat, val := fun _ L => if sel = 0 then L else if sel = 1 then L % 32 else L / 32
      ok := fun i => sel != 3 && i.vOk 32 d.toNat }

/-! Forms of any results and effects. -/

/-- What the spec gives a form: its issue data and the decode checks that its page adds (R94); when it has its own
effect; the registers it writes, the flags it raises, where it goes, and what it changes besides: the view with its
effects on the state and on the agent's own group, context and path. All but `ok` read the view once the issue has been
accounted, which shows every register as before. -/
structure Rule where
  op : Op
  ok : Iss → Bool
  pre : Iss → Prop := fun _ => True
  ws : Iss → List RegWrite := fun _ => []
  fl : Iss → Nat := fun _ => 0
  pc : Iss → Option Word64 := fun _ => none
  eff : Iss → Iss := fun j => j

/-- The form, issued by the agent seen as `i`, completes as its rule says. -/
def Rule.does (r : Rule) (i : Iss) (out : Out1) : Prop :=
  let j := i.issued r.op
  i.admits r.op r.ok → i.mustPark r.op = none → r.op.lookahead = 0 → r.pre j → (∀ w ∈ r.ws j, i.takes w = true) →
    lands (r.eff j) out ((r.pc j).getD (pcOn i r.op.bytes)) (r.ws j) (r.fl j) (r.eff j).s

/-- With a lookahead the form completes and holds its results and its flags in one entry whose shadow is open; all else
happens at once (R68, R91). -/
def Rule.delays (r : Rule) (i : Iss) (out : Out1) : Prop :=
  let j := i.issued r.op
  i.admits r.op r.ok → i.mustPark r.op = none → 0 < r.op.lookahead → r.pre j → r.ws j ≠ [] →
    (∀ w ∈ r.ws j, i.takes w = true) →
    ∃ t k, out = .next t ∧ t.view i.ag = some k ∧ k.p.pc = (r.pc j).getD (pcOn i r.op.bytes) ∧ k.p.wait = none ∧
      after (r.eff j) k [] 0 ∧ elsewhere (r.eff j).s (r.eff j) t ∧
      k.p.pend = [{ la := r.op.lookahead, left := r.op.lookahead, ready := true, writes := r.ws j, req := none,
                    flags := r.fl j % 32, gained := 0 }]

/-- A lane rule as a rule of results. -/
def LaneRule.rule (r : LaneRule) : Rule :=
  { op := r.op, ok := r.ok, ws := fun i => i.vResult r.wd r.d (i.active r.op) (lanewise (r.val i)) }

/-- Every form of a table, from any state in which it issues with nothing in its way, completes as its rule says. -/
def follows (R : Instr → Option Rule) : Prop :=
  ∀ x r s i, R x = some r → Clear s i → r.does i (exec x s)

/-! Comparison (R112). -/

/-- A CMP B in the type's order. -/
def cmp (c : Nat) (a b : Int) : Bool :=
  match c with
  | 0 => a == b
  | 1 => a != b
  | 2 => a < b
  | 3 => a ≤ b
  | 4 => b < a
  | _ => b ≤ a

/-- The combination of an outcome with q[CQ] xor CN, by COMB. -/
def comb (w : Long) (i : Iss) (L : Nat) (c : Bool) : Bool :=
  let x := qL i (bitsOf w.imm.toNat 9 7) L != bitAt w.imm.toNat 6
  match bitsOf w.imm.toNat 5 4 with
  | 0 => c
  | 1 => c && x
  | 2 => c || x
  | _ => c != x

/-- Lane L's outcome of ICMP and ISET. -/
def outcome (w : Long) (i : Iss) (L : Nat) : Bool :=
  comb w i L (cmp (bitsOf w.imm.toNat 12 10) ((tyOf w).val (aL i w (tyOf w).w L)) ((tyOf w).val (bL i w (tyOf w) L)))

/-- The mask of the lanes at which a test holds. -/
def lanesAt (f : Nat → Bool) : LaneMask := maskOf ((List.range 96).map f)

/-- The decode checks of the compare overlay. -/
def cmpOk (w : Long) (i : Iss) : Bool :=
  tyIs w tySN && w.bsel != 2 && bitsOf w.imm.toNat 12 10 < 6 && i.aOk w (tyOf w).w && i.bOk w (tyOf w).w

/-- The carry-in and the sum of a lane (R106). -/
def carrySum (w : Long) (i : Iss) (L : Nat) : Nat :=
  aL i w (tyOf w).w L + bL i w (tyOf w) L + (if qL i w.sc.toNat L then 1 else 0)

/-- IADC: D and the carry predicate CQ (R106). -/
def adc (o : Op) (w : Long) : Rule :=
  { op := o, ok := fun i => tyIs w tyWide && i.vOk (tyOf w).w w.d.toNat && i.aOk w (tyOf w).w && i.bOk w (tyOf w).w
    ws := fun i =>
      i.vResult (tyOf w).w w.d.toNat (i.active o) (lanewise (fun L => (tyOf w).image (carrySum w i L % 2 ^ (tyOf w).w))) ++
        [.q w.sc.toNat (i.active o) (lanesAt (fun L => 2 ^ (tyOf w).w ≤ carrySum w i L))] }

/-- P2K, K2P, PMOV (R116). -/
def p2k (o : Op) (w : Long) : Rule :=
  { op := o, ok := fun _ => w.b.toNat % 4 < 3
    ws := fun i => [.k (w.d.toNat % 64) (maskWord (i.G.pred (w.a.toNat % 8) &&& i.active o) (w.b.toNat % 4))] }
def k2p (o : Op) (w : Long) : Rule :=
  { op := o, ok := fun _ => w.bsel != 0
    ws := fun i => [.q (w.d.toNat % 8) (i.active o) (lanesAt (fun L => (bL i w tN32 L).testBit (L % 32)))] }
def pmov (o : Op) (w : Long) : Rule :=
  { op := o, ok := fun _ => true
    ws := fun i => [.q (w.d.toNat % 8) (i.active o)
      (lanesAt (fun L => qL i (w.a.toNat % 8) L != bitAt w.imm.toNat 0))] }

/-- Comparisons, the carry addition and the predicate instructions of the group stream (R106, R112, R116). -/
def preds : Instr → Option Rule
  | .icmp w => some
      { op := Op.long 0x02 0 w, ok := cmpOk w
        ws := fun i => [.q (w.d.toNat % 8) (i.active (Op.long 0x02 0 w)) (lanesAt (outcome w i))] }
  | .iset w => some
      { op := Op.long 0x01 7 w, ok := fun i => cmpOk w i && i.vOk 32 w.d.toNat
        ws := fun i => i.vResult 32 w.d.toNat (i.active (Op.long 0x01 7 w))
          (lanewise (fun L => if outcome w i L then 0xFFFFFFFF else 0)) }
  | .iadc32 o => some (adc (Op.short 0x00 3) (o.wide 2 6 0))
  | .iadc64 w => some (adc (Op.long 0x00 3 w) w)
  | .plop w => some
      { op := Op.long 0x0E 2 w, ok := fun _ => w.asel == 0 && w.bsel == 0
        ws := fun i => [.q (w.d.toNat % 8) (i.active (Op.long 0x0E 2 w)) (lanesAt (fun L =>
          (bitsOf w.imm.toNat 12 5).testBit ((if qL i (w.a.toNat % 8) L then 4 else 0) +
            (if qL i (w.b.toNat % 8) L then 2 else 0) + (if qL i (bitsOf w.imm.toNat 4 2) L then 1 else 0))))] }
  | .p2k32 o => some (p2k (Op.short 0x0E 3) (o.wide 10 0 0))
  | .p2k64 w => some (p2k (Op.long 0x0E 3 w) w)
  | .k2p32 o => some (k2p (Op.short 0x0E 4) (o.wide 10 0 1))
  | .k2p64 w => some (k2p (Op.long 0x0E 4 w) w)
  | .pmov32 o => some (pmov (Op.short 0x0E 5) (o.wide 10 0 0))
  | .pmov64 w => some (pmov (Op.long 0x0E 5 w) w)
  | _ => none

/-! Uniform instructions (R115). -/

/-- D := f(A, B), in both streams. -/
def u2 (o : Op) (w : Long) (ty : ITy → Bool) (satOk : Bool) (f : ITy → Nat → Nat → Nat) : Rule :=
  let t := tyOf w
  { op := o
    ok := fun i => i.uniSel o w && (tyIs w ty && (satOk || !w.sat) && i.dOnce t.w w.d.toNat && i.dOnce t.w w.a.toNat &&
      i.uniB o w t.w)
    ws := fun i => i.dResult t w.d.toNat (f t (i.aVal1 w t.w) (i.uniBVal o w t)) }
/-- D := f(A, s), s an n32 from one register. -/
def uShift (o : Op) (w : Long) (ty : ITy → Bool) (f : ITy → Nat → Nat → Nat) : Rule :=
  let t := tyOf w
  { op := o
    ok := fun i => i.uniSel o w && (tyIs w ty && !w.sat && i.dOnce t.w w.d.toNat && i.dOnce t.w w.a.toNat && i.uniB o w 32)
    ws := fun i => i.dResult t w.d.toNat (f t (i.aVal1 w t.w) (i.uniBVal o w tN32)) }
/-- D := f(A), D one n32 register. -/
def uCount (o : Op) (w : Long) (f : Nat → Nat → Nat) : Rule :=
  let t := tyOf w
  { op := o, ok := fun i => i.uniSel o w && (tyIs w tyAll && !w.sat && i.dOnce t.w w.a.toNat)
    ws := fun i => i.dResult tN32 w.d.toNat (f t.w (i.aVal1 w t.w)) }
/-- D := f(A, B, C). -/
def u3 (o : Op) (w : Long) (ty : ITy → Bool) (satOk : Bool) (f : ITy → Nat → Nat → Nat → Nat) : Rule :=
  let t := tyOf w
  { op := o
    ok := fun i => i.uniSel o w && (tyIs w ty && (satOk || !w.sat) && w.bsel != 2 && i.dOnce t.w w.d.toNat &&
      i.dOnce t.w w.a.toNat && i.uniB o w t.w && i.dOnce t.w w.c)
    ws := fun i => i.dResult t w.d.toNat (f t (i.aVal1 w t.w) (i.uniBVal o w t) (i.regOnce t.w w.c)) }
/-- UMOV; b128 names a kp quad or a cp pair and clears the tag. -/
def uMov (o : Op) (w : Long) : Rule :=
  let t := tyOf w
  { op := o
    ok := fun i => i.uniSel o w && (if t.w = 128 then
        tyIs w (fun _ => true) && !w.sat && w.bsel.toNat < 2 && i.dOnce 128 w.d.toNat && i.dOnce 128 w.b.toNat
      else tyIs w tyAll && !w.sat && i.dOnce t.w w.d.toNat && i.uniB o w t.w)
    ws := fun i => if t.w = 128 then i.capResult w.d.toNat ⟨(i.capOnce w.b.toNat).bits, false⟩
      else i.dResult t w.d.toNat (i.uniBVal o w t) }

/-- The uniform instructions of both streams: the results of their lane counterparts (R115). -/
def uniform : Instr → Option Rule
  | .uadd32 o => some (u2 (Op.short 0x0C 0) (o.wide 2 0 0) tySN true (sum false))
  | .uadd64 w => some (u2 (Op.long 0x0C 0 w) w tySN true (sum w.sat))
  | .usub32 o => some (u2 (Op.short 0x0C 1) (o.wide 2 0 0) tySN true (diff false))
  | .usub64 w => some (u2 (Op.long 0x0C 1 w) w tySN true (diff w.sat))
  | .umul32 o => some (u2 (Op.short 0x0C 2) (o.wide 2 0 0) tySN false prod)
  | .umul64 w => some (u2 (Op.long 0x0C 2 w) w tySN false prod)
  | .umad w => some (u3 (Op.long 0x0C 3 w) w tySN true (fun t a b c => t.fit w.sat (t.val a * t.val b + t.val c)))
  | .uand32 o => some (u2 (Op.short 0x0C 4) (o.wide 2 0 0) tyAll false (fun _ a b => a &&& b))
  | .uand64 w => some (u2 (Op.long 0x0C 4 w) w tyAll false (fun _ a b => a &&& b))
  | .uor32 o => some (u2 (Op.short 0x0C 5) (o.wide 2 0 0) tyAll false (fun _ a b => a ||| b))
  | .uor64 w => some (u2 (Op.long 0x0C 5 w) w tyAll false (fun _ a b => a ||| b))
  | .uxor32 o => some (u2 (Op.short 0x0C 6) (o.wide 2 0 0) tyAll false (fun _ a b => a ^^^ b))
  | .uxor64 w => some (u2 (Op.long 0x0C 6 w) w tyAll false (fun _ a b => a ^^^ b))
  | .umov32 o => some (uMov (Op.short 0x0C 7) (o.wide 2 0 0))
  | .umov64 w => some (uMov (Op.long 0x0C 7 w) w)
  | .ushl32 o => some (uShift (Op.short 0x0D 0) (o.wide 2 0 0) tyAll shl)
  | .ushl64 w => some (uShift (Op.long 0x0D 0 w) w tyAll shl)
  | .ushr32 o => some (uShift (Op.short 0x0D 1) (o.wide 2 0 0) tyAll shr)
  | .ushr64 w => some (uShift (Op.long 0x0D 1 w) w tyAll shr)
  | .usar32 o => some (uShift (Op.short 0x0D 2) (o.wide 2 0 0) tyAll sar)
  | .usar64 w => some (uShift (Op.long 0x0D 2 w) w tyAll sar)
  | .umin32 o => some (u2 (Op.short 0x0D 3) (o.wide 2 0 0) tySN false smaller)
  | .umin64 w => some (u2 (Op.long 0x0D 3 w) w tySN false smaller)
  | .umax32 o => some (u2 (Op.short 0x0D 4) (o.wide 2 0 0) tySN false larger)
  | .umax64 w => some (u2 (Op.long 0x0D 4 w) w tySN false larger)
  | .ucmp w =>
    let t := tyOf w
    some { op := Op.long 0x0D 5 w
           ok := fun i => i.uniSel (Op.long 0x0D 5 w) w && (tyIs w tySN && w.bsel != 2 && bitsOf w.imm.toNat 12 10 < 6 &&
             i.dOnce t.w w.a.toNat && i.uniB (Op.long 0x0D 5 w) w t.w)
           ws := fun i => i.dResult tN32 w.d.toNat (if cmp (bitsOf w.imm.toNat 12 10) (t.val (i.aVal1 w t.w))
             (t.val (i.uniBVal (Op.long 0x0D 5 w) w t)) then 1 else 0) }
  | .usel w => some (u3 (Op.long 0x0D 6 w) w tyAll false (fun _ a b c => if c = 0 then b else a))
  | .ubfx w => some (uShift (Op.long 0x0D 7 w) w tySN rBfx)
  | .upopc32 o => some (uCount (Op.short 0x0E 0) (o.wide 10 0 0) rPopc)
  | .upopc64 w => some (uCount (Op.long 0x0E 0 w) w rPopc)
  | .uclz32 o => some (uCount (Op.short 0x0E 1) (o.wide 10 0 0) rClz)
  | .uclz64 w => some (uCount (Op.long 0x0E 1 w) w rClz)
  | _ => none

end Sys2Proof.Rules
end

