-- ==== Sys2Proof/Rules/Cap.lean ====
section
/-! DEFINITION. The rules of the capability instructions, rows 0x2A and 0x2B, in lane, uniform and control form (R182 to
R189). -/

namespace Sys2Proof.Rules

open Sys2Proof.Machine Sys2Proof.Safety

/-- The lanes that take part: lane 0 stands for a form that executes once. -/
def capPart (i : Iss) (o : Op) (w : Long) (L : Nat) : Prop :=
  if i.capOnceForm w then L = 0 else (i.active o).getLsbD L = true

/-- D := f(A) for a capability A: lane by lane, or once. It has its effect where no derivation refuses (R182). -/
def derive (o : Op) (w : Long) (ok : Iss → Bool) (f : Iss → Nat → CapV → Except CapErr CapV) : Rule :=
  let got (i : Iss) (L : Nat) : CapV := match f i L (i.capAt w L) with
    | .ok c => c
    | .error _ => CapV.zero
  { op := o, ok := fun i => i.capSel o w && i.capDestOk w && ok i
    pre := fun i => ∀ L, L < 96 → capPart i o w L → ∃ c, f i L (i.capAt w L) = .ok c
    ws := fun i => if i.capOnceForm w then i.capResult w.d.toNat (got i 0)
      else i.vpResult w.d.toNat (i.active o)
        (lanewise (fun L => if (i.active o).getLsbD L then (got i L).bits.toNat else 0))
        (lanesAt (fun L => (i.active o).getLsbD L && (got i L).tag)) }

/-- B of a lane at an integer type; the one value of a form that executes once. -/
def capBL (i : Iss) (w : Long) (t : ITy) (L : Nat) : Nat := (i.capB w t).getD L 0

/-- D := f(A, B) for an integer B of the type codes given. -/
def byInt (o : Op) (w : Long) (tys : List Nat) (legal : Bool) (f : ITy → CapV → Nat → Except CapErr CapV) : Rule :=
  let t := tyOf w
  derive o w (fun i => tys.contains w.ty.toNat && legal && i.capBOk w t.w) (fun i L c => f t c (capBL i w t L))

/-- The cursor moves by a signed amount, or to base + an unsigned one (R184). -/
def cadd (o : Op) (w : Long) : Rule := byInt o w [2, 3] true (fun t c b => c.setCursor ((c.cursor : Int) + t.val b))
def cset (o : Op) (w : Long) : Rule := byInt o w [6, 7] true (fun _ c b => c.setCursor ((c.base : Int) + b))
/-- PERMS and a mask (R186). -/
def cperm (o : Op) (w : Long) : Rule := byInt o w [6] true (fun _ c b => c.andPerms (b % 2 ^ 12))
/-- The tag clears and nothing else changes (R186). -/
def cclr (o : Op) (w : Long) : Rule := derive o w (fun _ => true) (fun _ _ c => .ok ⟨c.bits, false⟩)

/-- D := one plain value of each capability (R188, R189). -/
def observe (o : Op) (w : Long) (wd : Nat) (ok : Iss → Bool) (f : Iss → Nat → CapV → Nat) : Rule :=
  { op := o, ok := fun i => i.capSel o w && i.capPlainOk w wd && ok i
    ws := fun i => if i.ctl then [.c (w.d.toNat % 64) (BitVec.ofNat 64 (f i 0 (i.capAt w 0)))]
      else if w.asel = 1 then kResult wd w.d.toNat (f i 0 (i.capAt w 0))
      else i.vResult wd w.d.toNat (i.active o)
        (lanewise (fun L => if (i.active o).getLsbD L then f i L (i.capAt w L) else 0)) }

/-- The result of CTEST: the subcause of the first of steps 1 to 7 of R49 that fails, 7 for an unallocated form, else
0 (R189); no check reads permission bit 11 (R42). -/
def testCode (i : Iss) (pm : Nat) (c : CapV) (n : Nat) : Nat :=
  if c.tag = false then subTAG
  else if 5 ≤ c.form then 7
  else if c.form = 1 ∨ c.form = 2 ∨ c.form = 4 then subSEALED
  else if c.colour ≠ i.colour ∨ i.s.colourOk i.colour = false then subCOLOUR
  else if c.perms &&& (pm % 2 ^ 11) ≠ pm % 2 ^ 11 then subPERM
  else if c.cursor < c.base ∨ c.top < c.cursor + n then subBOUNDS
  else 0

/-- Rows 0x2A and 0x2B. -/
def caps : Instr → Option Rule
  | .cadd32 o => some (cadd (Op.short 0x2A 0) (o.wide 2 0 0))
  | .cadd64 w => some (cadd (Op.long 0x2A 0 w) w)
  | .cset32 o => some (cset (Op.short 0x2A 1) (o.wide 6 0 0))
  | .cset64 w => some (cset (Op.long 0x2A 1 w) w)
  | .cbnd w => some (byInt (Op.long 0x2A 2 w) w [6, 7] (w.sc.toNat < 2) (fun _ c b =>
      if b < 2 ^ 56 then c.narrow b (w.sc == 0) else .ok ⟨c.bits, false⟩))
  | .cperm32 o => some (cperm (Op.short 0x2A 3) (o.wide 6 0 0))
  | .cperm64 w => some (cperm (Op.long 0x2A 3 w) w)
  | .cget w => some (observe (Op.long 0x2A 4 w) w (if w.sc.toNat ≤ 3 then 64 else 32) (fun _ => true) (fun _ _ c =>
      match w.sc.toNat with
      | 0 => c.cursor
      | 1 => c.base
      | 2 => c.top - c.base
      | 3 => wrap 64 ((c.cursor : Int) - c.base)
      | 4 => c.perms
      | 5 => c.colour
      | 6 => c.form
      | _ => if c.tag then 1 else 0))
  | .cseal w => some (derive (Op.long 0x2A 5 w) w
      (fun i => (w.sc == 1 || w.sc == 2 || w.sc == 4) && i.capB2Ok w) (fun i L c => c.seal (i.capB2 w L) w.sc.toNat))
  | .cunseal w => some (derive (Op.long 0x2A 6 w) w (fun i => i.capB2Ok w) (fun i L c => c.unseal (i.capB2 w L)))
  | .ctest w => some (observe (Op.long 0x2A 7 w) w 32 (fun i => w.bsel != 2 && i.capBOk w 32)
      (fun i L c => testCode i (w.bits 31 20) c (capBL i w tN32 L)))
  | .cclr32 o => some (cclr (Op.short 0x2B 0) (o.wide 0 0 0))
  | .cclr64 w => some (cclr (Op.long 0x2B 0 w) w)
  | _ => none

end Sys2Proof.Rules
end

