-- ==== Sys2Proof/Rules/Memory.lean ====
section
/-! DEFINITION. The rules of loads, stores and atomics, rows 0x28 and 0x29 (R162 to R181, R285 to R293, R377). -/

namespace Sys2Proof.Rules

open Sys2Proof.Machine Sys2Proof.Safety

/-- Lane L's access: cursor + offset, with PV the lane's private slice (R162). -/
def accAt (i : Iss) (w : Long) (imm : Int) (pv : Bool) (L : Nat) : Acc :=
  ⟨L, i.capAt w L, ((i.capAt w L).cursor : Int) + (i.offs w imm).getD L 0 + (if pv then (L * i.slice : Nat) else 0)⟩
/-- The accesses of the lanes of a mask, in ascending lane order. -/
def accesses (i : Iss) (w : Long) (m : LaneMask) (imm : Int) (pv : Bool) : List Acc := (lanesOf m).map (accAt i w imm pv)
/-- The PV bit of the RM overlay. -/
def pvBit (w : Long) : Bool := bitAt w.imm.toNat 10

/-- Every access passes the checks of R173 and meets no memory-side refusal in the state in which the memory side answers
(R174); none is to the host window. -/
def passes (i : Iss) (at_ : State) (u : LsUse) (n : Nat) (k : RKind) (write reads : Bool) (xs : List Acc) : Prop :=
  ∀ x ∈ xs, i.lsErr u n x = none ∧ i.refusal at_ n write reads x = none ∧ isHost x.addr = false ∧
    (regionChecked x.addr = false ∨ (k = .read ∧ i.inParam x.addr n = true) ∨
      admitting i.T.regions x.addr (x.addr + n) k ≠ [])
/-- The records whose written bits the accesses set (R377). -/
def marked (i : Iss) (k : RKind) (n : Nat) (xs : List Acc) : List Nat :=
  (xs.filter (fun x => regionChecked x.addr)).flatMap (fun x => admitting i.T.regions x.addr (x.addr + n) k)
/-- The byte runs of the accesses. -/
def spans (xs : List Acc) (n : Nat) : List (Nat × Nat) := xs.map (fun x => (x.addr, n))

/-- A read with acquire at a scope wider than the core (R291). -/
def acquires (w : Long) : Bool := w.ord == 1 && scopeWide w.sc.toNat
/-- The state that a load reads: with acquire, the copies of its lines given up; else its lines in the L1 (R163, R243,
R291). -/
def seen (i : Iss) (w : Long) (xs : List Acc) (n : Nat) : State :=
  i.fills (i.atHome (acquires w) n false xs) (acquires w) xs n
/-- The state after a load: with acquire, the clean copies dropped; the watch log's count (R291, R454). -/
def loaded (i : Iss) (w : Long) (xs : List Acc) (n : Nat) : Iss :=
  { i with s := ((seen i w xs n).afterLoad i.core i.colour w.sc.toNat (acquires w)).watchLs i.core i.colour 0 (spans xs n) }
/-- The state after a store, whose accesses are performed in order by `put` (R285, R290, R292, R377, R454). -/
def stored (i : Iss) (w : Long) (xs : List Acc) (n : Nat) (put : State → Acc → State) : Iss :=
  let s := i.storing (i.s.markWritten i.T.task (marked i .write n xs)) xs n (fun s =>
    s.releasing i.core i.colour w.sc.toNat (w.ord == 2) (xs.map Acc.addr) (fun s => xs.foldl put s))
  { i with s := s.watchLs i.core i.colour 1 (spans xs n) }

def useLd : LsUse := ⟨[0, 3], pLD, false, false, fun _ => none⟩
def useSt : LsUse := ⟨[0, 3], pST, false, true, fun _ => none⟩
def useLdc : LsUse := ⟨[0, 3], pLD, true, false, fun _ => none⟩

/-- LD (R166). -/
def ruleLd (o : Op) (w : Long) : Rule :=
  let t := tyOf w
  let n := t.w / 8
  let xs (i : Iss) : List Acc := accesses i w (i.active o) w.off10 (pvBit w)
  let val (i : Iss) (L : Nat) : Nat :=
    t.image ((seen i w (xs i) n).loadNat i.core i.colour (accAt i w w.off10 (pvBit w) L).addr n)
  let vals (i : Iss) : List Nat := lanewise (fun L => if (i.active o).getLsbD L then val i L else 0)
  { op := o, ok := fun i => w.ty.toNat ≤ 12 && w.ord < 2 && i.capOk w && i.offOk w && i.vOk t.w w.d.toNat
    pre := fun i => passes i (i.atHome (acquires w) n false (xs i)) useLd n .read false true (xs i)
    ws := fun i => if t.w = 128 then i.vpResult w.d.toNat (i.active o) (vals i) 0
      else i.vResult t.w w.d.toNat (i.active o) (vals i)
    eff := fun i => loaded i w (xs i) n }
/-- LDC (R168). -/
def ruleLdc (o : Op) (w : Long) : Rule :=
  let xs (i : Iss) : List Acc := accesses i w (i.active o) w.off10 (pvBit w)
  let val (i : Iss) (L : Nat) : CapV := (seen i w (xs i) 16).loadCap i.core i.colour (accAt i w w.off10 (pvBit w) L)
  { op := o, ok := fun i => w.ty == 12 && w.ord < 2 && i.capOk w && i.offOk w && i.vOk 128 w.d.toNat
    pre := fun i => passes i (i.atHome (acquires w) 16 false (xs i)) useLdc 16 .read false true (xs i)
    ws := fun i => i.vpResult w.d.toNat (i.active o)
      (lanewise (fun L => if (i.active o).getLsbD L then (val i L).bits.toNat else 0))
      (lanesAt (fun L => (i.active o).getLsbD L && (val i L).tag))
    eff := fun i => loaded i w (xs i) 16 }
/-- ST (R166): one lane's bytes after another's, ascending (R172). -/
def ruleSt (o : Op) (w : Long) : Rule :=
  let t := tyOf w
  let n := t.w / 8
  let xs (i : Iss) : List Acc := accesses i w (i.active o) w.off10 (pvBit w)
  { op := o
    ok := fun i => w.ty.toNat ≤ 12 && (w.ord == 0 || w.ord == 2) && i.capOk w && i.offOk w && i.vOk t.w w.d.toNat
    pre := fun i => passes i i.s useSt n .write true false (xs i)
    eff := fun i => stored i w (xs i) n (fun s x =>
      s.storeBytes i.core i.colour x.addr (leBytes n ((i.vVals t.w w.d.toNat).getD x.l 0))) }
/-- STC (R169). -/
def ruleStc (o : Op) (w : Long) : Rule :=
  let xs (i : Iss) : List Acc := accesses i w (i.active o) w.off10 (pvBit w)
  { op := o
    ok := fun i => w.ty == 12 && (w.ord == 0 || w.ord == 2) && i.capOk w && i.offOk w && i.vOk 128 w.d.toNat
    pre := fun i =>
      passes i i.s ⟨[0, 3], pST, true, true, fun L => some (i.vpVal w.d.toNat L)⟩ 16 .write true false (xs i)
    eff := fun i => stored i w (xs i) 16 (fun s x => s.storeCap i.core i.colour x.addr (i.vpVal w.d.toNat x.l)) }

/-- LDU and STU: one access, by the uniform operands or the control thread's (R167). -/
def ruleLdu (o : Op) (w : Long) : Rule :=
  let t := tyOf w
  let n := t.w / 8
  let x (i : Iss) : Acc := accAt i w w.off10 false 0
  { op := o, ok := fun i => w.ty.toNat ≤ 12 && w.ord < 2 && i.onceOk o w && i.dOnce t.w w.d.toNat
    pre := fun i => passes i (i.atHome (acquires w) n false [x i]) ⟨[0, 3], pLD, t.w = 128, false, fun _ => none⟩ n .read
      false true [x i]
    ws := fun i => if t.w = 128 then i.capResult (w.d.toNat % 64) ((seen i w [x i] n).loadCap i.core i.colour (x i))
      else i.dResult t (w.d.toNat % 64) ((seen i w [x i] n).loadNat i.core i.colour (x i).addr n)
    eff := fun i => loaded i w [x i] n }
def ruleStu (o : Op) (w : Long) : Rule :=
  let t := tyOf w
  let n := t.w / 8
  let x (i : Iss) : Acc := accAt i w w.off10 false 0
  { op := o
    ok := fun i => w.ty.toNat ≤ 12 && (w.ord == 0 || w.ord == 2) && i.onceOk o w && i.dOnce t.w w.d.toNat
    pre := fun i => passes i i.s
      ⟨[0, 3], pST, t.w = 128, true, fun _ => if t.w = 128 then some (i.capOnce w.d.toNat) else none⟩ n .write true false
      [x i]
    eff := fun i => stored i w [x i] n (fun s x =>
      if t.w = 128 then s.storeCap i.core i.colour x.addr (i.capOnce w.d.toNat)
      else s.storeBytes i.core i.colour x.addr (leBytes n (i.regOnce t.w w.d.toNat))) }
/-- PREF: at hint 0 the lines of the accesses that pass their checks come into the L1 (R170). -/
def rulePref (o : Op) (w : Long) : Rule :=
  let ok (i : Iss) : List Acc := (accesses i w (i.active o) w.off10 (pvBit w)).filter (fun x =>
    (i.lsErr useLd 1 x).isNone && (i.s.extRange i.colour x.addr 1 false).isNone)
  { op := o, ok := fun i => w.ord == 0 && w.d.toNat % 4 < 2 && i.capOk w && i.offOk w
    eff := fun i => if w.d.toNat % 4 = 0 then { i with s := i.s.fill i.core i.colour (hbmLines (ok i) 1) } else i }

/-! Atomics. -/

/-- The accesses of an atomic: the active lanes', or the control thread's one. -/
def atomAccs (i : Iss) (o : Op) (w : Long) : List Acc := accesses i w (if i.ctl then 1 else i.active o) 0 false
/-- The old values, in lane order, and the state: each lane's operation after the one before (R172, R175). -/
def atomAll (i : Iss) (o : Op) (w : Long) (rop : Option Nat) (n : Nat) (f : State → Acc → Nat × State) :
    List (Nat × Nat) × State :=
  i.atomRun w ((i.atomHome w n (atomAccs i o w)).markWritten i.T.task (marked i (.atomic rop) n (atomAccs i o w))) n
    (atomAccs i o w) (atomAccs i o w) f

/-- ATOM, ATOMF and RED: `dst` whether the old value is returned; memory := f(memory, C). -/
def ruleAtomic (o : Op) (w : Long) (legal : Bool) (dst : Bool) (f : Nat → Nat → Nat) (rop : Option Nat) : Rule :=
  let t := tyOf w
  let n := t.w / 8
  let run (i : Iss) : List (Nat × Nat) × State := atomAll i o w rop n (fun s x =>
    let (old, m) := s.mem.atomAt i.core x.addr n (fun old => f old ((i.atomData t.w w.c).getD x.l 0))
    (old, { s with mem := m }))
  { op := o
    ok := fun i => legal && (dst || w.ord == 0 || w.ord == 2) && i.capOk w && i.offOk w && i.atomReg t.w w.c &&
      (!dst || i.atomReg t.w w.d.toNat)
    pre := fun i => passes i (i.atomHome w n (atomAccs i o w))
      ⟨[0], (if dst then pLD else 0) ||| pST ||| pAT, true, true, fun _ => none⟩ n (.atomic rop) true true (atomAccs i o w)
    ws := fun i => if !dst then []
      else if i.ctl then (run i).1.map (fun e => .c (w.d.toNat % 64) (BitVec.ofNat 64 (cImage t e.2)))
      else i.vResult t.w w.d.toNat (i.active o) (byLane (run i).1)
    eff := fun i => { i with s := (run i).2 } }

/-- CAS: each lane's old value, whether it equalled D, and memory := C where it did (R178). -/
def ruleCas (o : Op) (w : Long) : Rule :=
  let t := tyOf w
  let n := t.w / 8
  let d := w.d.toNat
  let capOf (i : Iss) (r l : Nat) : CapV := if i.ctl then i.cpVal r else i.vpVal r l
  -- bit 128: the old value's tag; bit 129: success
  let run (i : Iss) : List (Nat × Nat) × State := atomAll i o w none n (fun s x =>
    if t.w = 128 then
      let (old, ok, s) := s.casCap i.core x (capOf i d x.l) (capOf i w.c x.l)
      (old.bits.toNat + (if old.tag then 2 ^ 128 else 0) + (if ok then 2 ^ 129 else 0), s)
    else
      let (old, ok, m) := s.mem.casAt i.core x.addr n ((i.atomData t.w d).getD x.l 0) ((i.atomData t.w w.c).getD x.l 0)
      (old + (if ok then 2 ^ 129 else 0), { s with mem := m }))
  let bit (i : Iss) (k : Nat) : LaneMask := maskOfLanes (((run i).1.filter (fun v => v.2.testBit k)).map (·.1))
  let vals (i : Iss) : List Nat := byLane ((run i).1.map (fun v => (v.1, v.2 % 2 ^ t.w)))
  { op := o
    ok := fun i => tyIs w (fun t => t.isBits && 32 ≤ t.w) && i.capOk w && i.offOk w && i.atomReg t.w w.c && i.atomReg t.w d
    pre := fun i => passes i (i.atomHome w n (atomAccs i o w)) ⟨[0], pLD ||| pST ||| pAT, true, true,
      fun L => if t.w = 128 then some (capOf i w.c L) else none⟩ n (.atomic none) true true (atomAccs i o w)
    ws := fun i => if i.ctl then (run i).1.flatMap (fun e =>
        if t.w = 128 then cpResult d (e.2 % 2 ^ 128) (e.2.testBit 128) else [.c (d % 64) (BitVec.ofNat 64 (e.2 % 2 ^ t.w))])
      else (if t.w = 128 then i.vpResult d (i.active o) (vals i) (bit i 128)
        else i.vResult t.w d (i.active o) (vals i)) ++ [.q (w.bits 29 27) (i.active o) (bit i 129)]
    eff := fun i => { i with s := (run i).2 } }

/-- The integer operations of ATOM and RED (R177). -/
def atomOp (t : ITy) (op old x : Nat) : Nat :=
  match op with
  | 0 => (old + x) % 2 ^ t.w
  | 1 => smaller t old x
  | 2 => larger t old x
  | 3 => old &&& x
  | 4 => old ||| x
  | 5 => old ^^^ x
  | 6 => x
  | 7 => if old < x then old + 1 else 0
  | _ => if 0 < old ∧ old ≤ x then old - 1 else x
/-- The types that an operation takes: add, min and max 32 and 64 bits; and, or, xor, exch bits; inc and dec unsigned. -/
def atomTypes (op : Nat) (t : ITy) : Bool :=
  if op < 3 then tyWide t else if op < 7 then t.isBits && (t.w == 32 || t.w == 64)
  else op < 9 && tyWide t && !t.signed

/-- Rows 0x28 and 0x29. -/
def memory : Instr → Option Rule
  | .ld w => some (ruleLd (Op.long 0x28 0 w) w)
  | .st w => some (ruleSt (Op.long 0x28 1 w) w)
  | .ldu w => some (ruleLdu (Op.long 0x28 2 w) w)
  | .stu w => some (ruleStu (Op.long 0x28 3 w) w)
  | .ldc w => some (ruleLdc (Op.long 0x28 4 w) w)
  | .stc w => some (ruleStc (Op.long 0x28 5 w) w)
  | .pref w => some (rulePref (Op.long 0x28 6 w) w)
  | .atom w =>
    let op := w.bits 29 26
    some (ruleAtomic (Op.long 0x29 0 w) w (op < 9 && tyIs w (atomTypes op)) true (atomOp (tyOf w) op) (some op))
  | .cas w => some (ruleCas (Op.long 0x29 1 w) w)
  | .atomf w =>
    let op := w.bits 29 26
    some (ruleAtomic (Op.long 0x29 2 w) w (op < 5 && w.ty == 10) true (atomFloat op)
      (if op = 0 then some 9 else if op = 3 then some 10 else if op = 4 then some 11 else none))
  | .red w =>
    let op := w.bits 29 26
    some (if op < 9 then ruleAtomic (Op.long 0x29 3 w) w (tyIs w (atomTypes op)) false (atomOp (tyOf w) op) (some op)
      else ruleAtomic (Op.long 0x29 3 w) w (op < 12 && w.ty == 10) false (atomFloat (if op = 9 then 0 else op - 7)) (some op))
  | _ => none

end Sys2Proof.Rules
end

