-- ==== Sys2Proof/Rules/Control.lean ====
section
/-! DEFINITION. The rules of control flow, windows, TAKE, YIELD, NOP and HINT, rows 0x38 and 0x39 (R16, R79, R119 to R132,
R243). -/

namespace Sys2Proof.Rules

open Sys2Proof.Machine Sys2Proof.Safety

/-- The view with a changed group, or with another code capability of the agent. -/
def withG (j : Iss) (G : Group) : Iss := { j with s := j.s.setGroup j.id G, G := G }
def withPath (j : Iss) (p : Path) : Iss :=
  if j.ctl then { j with s := j.s.setCtx j.id { j.C with path := p }, C := { j.C with path := p }, p := p }
  else { j with s := j.s.setGroup j.id (j.G.setPathAt j.ag p), G := j.G.setPathAt j.ag p, p := p }
def withCode (j : Iss) (c : CapV) : Iss := withPath j { j.p with code := c }

/-- An address a signed number of words on (R117). -/
def words (pc : Word64) (n : Int) : Word64 := pc + BitVec.ofInt 64 (4 * n)

/-- A transfer within the code. -/
def jump (o : Op) (ok : Iss → Bool) (dest : Iss → Option Word64) : Rule := { op := o, ok := ok, pc := dest }
/-- BRA (R119). -/
def bra (o : Op) (off : Int) : Rule := jump o (fun _ => true) (fun i => some (words i.p.pc off))
/-- BRC: `z` branches on zero; a k register, or all of a c register (R119). -/
def brc (o : Op) (reg : Nat) (z : Bool) (off : Int) : Rule :=
  jump o (fun _ => true) (fun i =>
    if decide (if i.ctl then i.cReg reg = 0 else i.kReg reg = 0) = z then some (words i.p.pc off) else none)

/-- The window of LEN rows at `nb` lies in the resident span (R16), and below row 4,096 where `top`. -/
def fits (i : Iss) (top : Bool) (nb : Int) : Prop :=
  (i.G.lo : Int) ≤ nb ∧ nb + (min 128 i.G.held : Nat) ≤ (i.G.lo + i.G.held : Nat) ∧
    (top = true → nb + (min 128 i.G.held : Nat) ≤ 4096)
/-- A code capability passes R49 steps 1 to 6 for a transfer: tagged, of a form named, of the agent's valid colour, with
EX. -/
def codeOk (i : Iss) (forms : List Nat) (c : CapV) : Prop :=
  c.tag = true ∧ c.form ∈ forms ∧ c.colour = i.colour ∧ i.s.colourOk i.colour = true ∧ c.has pEX = true

/-- The link: the code capability with its cursor at an address, tagged (R128). -/
def link (i : Iss) (pc : Word64) : CapV :=
  match i.p.code.setCursor pc.toNat with
  | .ok c => { c with tag := true }
  | .error _ => i.p.code
/-- Rows of a frame. -/
def frame (d : BitVec 7) : Nat := 8 * (d.toNat % 16 + 1)
/-- What CALL and CALLI write: the link, and FSZ in k59 (R128). -/
def linkWrites (o : Op) (i : Iss) : List RegWrite :=
  let l := link i (pcOn i o.bytes)
  if i.ctl then cpResult 60 l.bits.toNat true else kpResult 44 l.bits.toNat true ++ [.k 59 (BitVec.ofNat 32 i.G.fsz)]
/-- The window slid forward by F; no window in the control stream. -/
def slid (d : BitVec 7) (i : Iss) : Iss :=
  if i.ctl then i else withG i { i.G with base := i.G.base + frame d, fsz := frame d }
/-- CALL (R128). -/
def call (o : Op) (d : BitVec 7) (off : Int) : Rule :=
  { op := o, ok := fun i => !i.G.tf
    pre := fun i => i.ctl = true ∨ fits i true ((i.G.base + frame d : Nat) : Int)
    ws := linkWrites o
    pc := fun i => some (words i.p.pc off)
    eff := slid d }
/-- CALLI: a form-4 entry is entered at its base as form 3 (R48, R128). -/
def calli (o : Op) (w : Long) : Rule :=
  let t (i : Iss) : CapV := if (i.capOnce w.a.toNat).form = 4 then (i.capOnce w.a.toNat).entry else i.capOnce w.a.toNat
  { op := o, ok := fun i => !i.G.tf && i.aOnce w 128
    pre := fun i => codeOk i [3, 4] (i.capOnce w.a.toNat) ∧ (i.ctl = true ∨ fits i true ((i.G.base + frame w.d : Nat) : Int))
    ws := linkWrites o
    pc := fun i => some (BitVec.ofNat 64 (t i).cursor)
    eff := fun i => withCode (slid w.d i) (t i) }
/-- RET (R129): the caller's window and code. -/
def ret (o : Op) : Rule :=
  let l (i : Iss) : CapV := if i.ctl then i.cpVal 60 else i.kpVal 44
  let f (i : Iss) : Nat := (i.kReg 59).toNat % 256
  { op := o, ok := fun i => !i.G.tf
    pre := fun i => codeOk i [3] (l i) ∧
      (i.ctl = true ∨ (i.G.fsz ≠ 0 ∧ f i % 8 = 0 ∧ fits i false ((i.G.base : Int) - i.G.fsz)))
    pc := fun i => some (BitVec.ofNat 64 (l i).cursor)
    eff := fun i => if i.ctl then withCode i (l i)
      else withCode (withG i { i.G with base := i.G.base - i.G.fsz, fsz := f i }) (l i) }
/-- WINB by a number of rows (R130). -/
def winb (o : Op) (legal : Bool) (delta : Iss → Int) : Rule :=
  { op := o, ok := fun i => !i.G.tf && legal
    pre := fun i => delta i % 8 = 0 ∧ 0 ≤ (i.G.base : Int) + delta i ∧ 0 ≤ (i.G.fsz : Int) + delta i ∧
      (i.G.fsz : Int) + delta i ≤ 248 ∧ fits i true ((i.G.base : Int) + delta i)
    eff := fun i => withG i { i.G with base := ((i.G.base : Int) + delta i).toNat, fsz := ((i.G.fsz : Int) + delta i).toNat } }

/-- The oldest decision entry that names the group: itself, its role or the whole team; no other arm or group that waits
for it comes first (R131, R261). -/
def decision (i : Iss) : Option Decision := (i.s.core i.core).dq.find? (fun d => d.names i.team i.G)
/-- The decision queue without it. -/
def taken (i : Iss) : Iss :=
  let c := i.s.core i.core
  { i with s := i.s.setCore i.core { c with dq := dropFirst (fun d => d.names i.team i.G) c.dq } }
/-- YIELD: the scheduler treats the group as if it had just issued; a control thread gives way to another (R132). -/
def yielded (i : Iss) : Iss :=
  if i.ctl then { i with s := if i.s.otherCtx i.id then i.s.handOn i.id else i.s }
  else withG i { i.G with readySince := i.s.clock + 1, starve := 0 }
/-- HINT 7 and 12 steer issue for 64 cycles; 14 and 15 are recorded in the trace buffer; 1 to 6 and 8 to 11 steer the
path's fetches and its place in the L1 (R243). -/
def hinted (n : Nat) (i : Iss) : Iss :=
  if n = 7 then withPath i { i.p with spin := i.s.clock + 64 }
  else if n = 12 then withPath i { i.p with crit := i.s.clock + 64 }
  else if n = 14 ∨ n = 15 then { i with s := i.s.send (.mark i.core n) }
  else if n = 0 ∨ n = 13 ∨ 16 ≤ n then i
  else withPath i { i.p with steer := i.p.steer.hint n (i.p.pc.toNat / 128) }

/-- Rows 0x38 and 0x39 but BRD, JOIN and EXIT. -/
def flow : Instr → Option Rule
  | .bra32 o => some (bra (Op.short 0x38 0) (sext 21 (o.b.toNat * 2 ^ 14 + o.a.toNat * 2 ^ 7 + o.d.toNat)))
  | .bra96 w => some (bra (Op.long 0x38 0 w) (sext 32 w.litNat))
  | .brc32 o => some (brc (Op.short 0x38 1) o.a.toNat (o.d.getLsbD 6) (sext 13 (o.b.toNat * 2 ^ 6 + o.d.toNat % 64)))
  | .brc96 w => some (brc (Op.long 0x38 1 w) w.a.toNat (w.d.getLsbD 6) (sext 32 w.litNat))
  | .brx w => some (jump (Op.long 0x38 2 w) (fun i => (if i.ctl then w.asel == 0 else w.asel == 1) && 1 ≤ sext 13 w.imm.toNat)
      (fun i =>
        let x : Int := if i.ctl then (i.cReg w.a.toNat).toNat else (i.kReg w.a.toNat).toNat
        some (words i.p.pc (2 + (if x < sext 13 w.imm.toNat then x else sext 13 w.imm.toNat)))))
  | .call32 o => some (call (Op.short 0x38 5) o.d (sext 14 (o.b.toNat * 2 ^ 7 + o.a.toNat)))
  | .call96 w => some (call (Op.long 0x38 5 w) w.d (sext 32 w.litNat))
  | .calli w => some (calli (Op.long 0x38 6 w) w)
  | .ret32 => some (ret (Op.short 0x38 7))
  | .ret64 w => some (ret (Op.long 0x38 7 w))
  | .winb32 o => some (winb (Op.short 0x39 0) true (fun _ => 8 * sext 7 o.d.toNat))
  | .winb64 w => some (winb (Op.long 0x39 0 w) (w.bsel == 1 || w.bsel == 2)
      (fun i => if w.bsel = 1 then (i.kReg w.b.toNat).toInt else sext 13 w.imm.toNat))
  | .take w => some
      { op := Op.long 0x39 2 w, ok := fun _ => true
        pre := fun i => ∃ d, decision i = some d ∧ i.takeRival d = false
        ws := fun i => [.k (w.d.toNat % 64) (((decision i).map (·.payload)).getD 0)]
        eff := taken }
  | .yield32 => some { op := Op.short 0x39 3, ok := fun _ => true, eff := yielded }
  | .yield64 w => some { op := Op.long 0x39 3 w, ok := fun _ => true, eff := yielded }
  | .nop32 => some { op := Op.short 0x39 4, ok := fun _ => true }
  | .nop64 w => some { op := Op.long 0x39 4 w, ok := fun _ => true }
  | .hint n => some { op := Op.short 0x40 0, ok := fun _ => true, eff := hinted n.toNat }
  | _ => none

end Sys2Proof.Rules
end

