-- ==== Sys2Proof/Rules/Moves.lean ====
section
/-! DEFINITION. The rules of the instructions that change which entries a group has: BRD, JOIN, EXIT, RTT; and of a TRAP of
an active lane (R121 to R126, R224, R225, R334). -/

namespace Sys2Proof.Rules

open Sys2Proof.Machine Sys2Proof.Safety

/-- What the spec gives such a form: its issue data and decode checks, when it has its own effect, and the state after
it. All but `ok` read the view once the issue has been accounted, but for TRAP, which is taken as if it had not issued. -/
structure Move where
  op : Op
  ok : Iss → Bool
  pre : Iss → Prop := fun _ => True
  after : Iss → State

/-- The form, issued by the agent seen as `i`, completes as its rule says. -/
def Move.does (m : Move) (i : Iss) (out : Out1) : Prop :=
  i.admits m.op m.ok → i.mustPark m.op = none → m.pre (i.issued m.op) → out = .next (m.after i)

/-- The stack replaced: operations parked before are resolved, and the group's next issuer follows. -/
def restacked (j : Iss) (G : Group) : State := (j.s.setGroup j.id G.resolve).follow j.id

/-- The lanes of a BRD that take the branch, and its arms: nonempty ones only, lower first active lane first (R122), under
the hints of their path (R243). -/
def brdTaken (w : Long) (j : Iss) : LaneMask :=
  lanesAt (fun L => j.p.mask.getLsbD L && (qL j (w.a.toNat % 8) L != bitAt w.a.toNat 3))
def brdArms (w : Long) (j : Iss) : List Path :=
  let T := brdTaken w j
  let N := j.p.mask &&& ~~~T
  let arm (pc : Word64) (m : LaneMask) : Path :=
    { Path.fresh .defer pc m j.p.code with crit := j.p.crit, spin := j.p.spin, steer := j.p.steer.after true false }
  let t := arm (words j.p.pc (sext 32 w.litNat)) T
  let n := arm (j.p.pc + 12) N
  if T = 0 then [n] else if N = 0 then [t] else if firstLane T ≤ firstLane N then [t, n] else [n, t]
/-- BRD's entry becomes CONV at the reconvergence pc; the arms are pushed; select() (R122, R124). -/
def brdStack (w : Long) (j : Iss) (ix : Nat) : List Path :=
  let rpc := words j.p.pc (sext 13 w.imm.toNat)
  select (j.G.stack.set ix { j.p with kind := .conv, pc := rpc, rpc := rpc, held := [] } ++ brdArms w j)
def brd (o : Op) (w : Long) : Move :=
  { op := o, ok := fun i => !i.G.tf && w.bsel == 3
    pre := fun j => (∃ ix, j.ag = .path j.id ix) ∧ words j.p.pc (sext 13 w.imm.toNat) ≠ 0 ∧
      j.G.stack.length + (brdArms w j).length ≤ 32
    after := fun i =>
      let j := i.issued o
      match j.ag with
      | .path _ ix => restacked j { j.G with stack := brdStack w j ix }
      | _ => j.s }

/-- JOIN: the entry parks at the JOIN, and its parent's merge check runs (R123, R125). -/
def join (o : Op) : Move :=
  { op := o
    ok := fun i => !i.G.tf && (match i.ag with
      | .path _ ix => (parentIx i.G.stack ix).isSome
      | _ => false)
    after := fun i =>
      let j := i.issued o
      match j.ag with
      | .path _ ix =>
        let G := { j.G with stack := j.G.stack.set ix { j.p with kind := .park, parkAt := .join } }
        let G := match parentIx j.G.stack ix with
          | some c => mergeCheck 33 G c
          | none => G
        restacked j { G with stack := select G.stack }
      | _ => j.s }

/-- EXIT (R126): the path's lanes retire and its entry goes; every lane, while TF is set; the control thread ends. -/
def exit (o : Op) : Move :=
  { op := o, ok := fun _ => true
    pre := fun j => j.ctl = true →
      j.ownPending = false ∧
      (j.s.groups.find? (fun e => e.2.team == j.id && e.2.run == .trapped)).isNone ∧
      (j.s.setCtx j.id { j.C with exited := true, path := { j.p with pc := pcOn j o.bytes } }).deadlocked j.core = none
    after := fun i =>
      let j := i.issued o
      match j.ag with
      | .path _ ix =>
        let G := { j.G with gone := j.G.gone ||| j.p.mask, stack := j.G.stack.set ix { j.p with mask := 0 } }
        restacked j (G.dropEmpty ix (parentIx j.G.stack ix))
      | .handler _ =>
        (j.s.setGroup j.id { j.G.quietAll with gone := j.G.launched, stack := [], handler := none, tf := false }).follow j.id
      | .ctl _ =>
        { j.s.setCtx j.id { j.C with exited := true, path := { j.p with pc := pcOn j o.bytes } } with cur := none } }

/-- RTT (R225, R334): the span moves, k48 to k51 take the image, the trapping entry its mask, pc and code capability; where
that mask is another, the entries that issue are fixed again (R121, R124). -/
def returned (h : Handler) (i : Iss) (o : Op) : State :=
  let j := i.issued o
  let m := j.G.imageMask
  let (s, G) := j.s.moveSpan j.G j.G.spanCmd
  let G := (((G.setK 48 (G.image 0)).setK 49 (G.image 1)).setK 50 (G.image 2)).setK 51 (G.image 3)
  let G := { G with
    tf := false, handler := none
    stack := match G.stack[h.ix]? with
      | some p => G.stack.set h.ix { p with mask := m, pc := G.imagePc, code := h.code }
      | none => G.stack }
  (s.setGroup j.id (G.remasked ((j.G.stack[h.ix]?.map (·.mask)).getD 0) m)).follow j.id
def rtt (o : Op) (w : Long) : Move :=
  { op := o, ok := fun i => i.G.tf && w.bsel != 3
    pre := fun j => ∃ h, j.G.handler = some h ∧ j.G.maskOk h.ix j.G.imageMask = true ∧ j.G.spanOk j.G.spanCmd = true ∧
      j.rttWindow h j.G.spanCmd = .ok () ∧ j.s.spanPoison j.G j.G.spanCmd = false
    after := fun i => match (i.issued o).G.handler with
      | some h => returned h i o
      | none => i.s }

/-- TRAP of an active lane, or of a control thread: BREAK with the code as DETAIL, the next instruction the resume pc
(R224). -/
def trap (o : Op) (w : Long) : Move :=
  { op := o, ok := fun _ => w.bsel != 3 && w.bsel != 2
    pre := fun j => j.ctl = true ∨ j.active o ≠ 0
    after := fun i => i.s.takeTrap i.ag
      { Trap.of cBREAK 0 (w.bits 31 19) (if i.ctl then i.p.mask else i.active o) with resume := some (pcOn i o.bytes) } }

/-- BRD, JOIN, EXIT, RTT and TRAP. -/
def moving : Instr → Option Move
  | .brd w => some (brd (Op.long 0x38 3 w) w)
  | .join32 => some (join (Op.short 0x38 4))
  | .join64 w => some (join (Op.long 0x38 4 w))
  | .exit32 => some (exit (Op.short 0x39 1))
  | .exit64 w => some (exit (Op.long 0x39 1 w))
  | .trap w => some (trap (Op.long 0x3F 0 w) w)
  | .rtt w => some (rtt (Op.long 0x3F 1 w) w)
  | _ => none

end Sys2Proof.Rules
end

