-- ==== Sys2Proof/Rules/Turns.lean ====
section
/-! DEFINITION. The rules of the device steps: what the statements compare them with. First those of issue: results,
atomics at their home, completions, late faults, records, retirement, starvation, hints, sleep, chain restarts. -/

namespace Sys2Proof.Rules

open Sys2Proof.Machine Sys2Proof.Safety

/-- The parts of the machine, for frames. -/
inductive Part where
  | agenda | cur | fresh | waitNo | clock | groups | ctxs | teams | cores | bars | mem | sched | sec | bring | ras | io
  deriving DecidableEq, Repr

/-- A part is in `t` as in `s`. -/
def Part.same (s t : State) : Part → Prop
  | .agenda => t.agenda = s.agenda
  | .cur => t.cur = s.cur
  | .fresh => t.fresh = s.fresh
  | .waitNo => t.waitNo = s.waitNo
  | .clock => t.clock = s.clock
  | .groups => t.groups = s.groups
  | .ctxs => t.ctxs = s.ctxs
  | .teams => t.teams = s.teams
  | .cores => t.cores = s.cores
  | .bars => t.bars = s.bars
  | .mem => t.mem = s.mem
  | .sched => t.sched = s.sched
  | .sec => t.sec = s.sec
  | .bring => t.bring = s.bring
  | .ras => t.ras = s.ras
  | .io => t.io = s.io

/-- Only the listed parts differ. -/
def only (ps : List Part) (s t : State) : Prop := ∀ p, p ∉ ps → p.same s t

/-- What the spec gives a device step: when it comes about, and what then holds of the states before and after. -/
structure Event where
  ok : State → Prop
  gives : State → State → Prop

/-- Every step of a table, in any state in which it comes about, answers a next state of which its rule holds. -/
def comes (R : Instr → Option Event) : Prop := ∀ x r s, R x = some r → r.ok s → ∃ t, exec x s = .next t ∧ r.gives s t

/-- The state with a team replaced. -/
def teamNow (s t : State) (n : Nat) (f : Team → Team → Prop) : Prop :=
  ∀ T, s.team n = some T → ∃ T', t.team n = some T' ∧ f T T'

/-- Every other team is as before. -/
def otherTeams (s t : State) (n : Nat) : Prop := ∀ m, m ≠ n → t.team m = s.team m

/-- Every byte outside [a, a + n) reads as before at its home. -/
def bytesElse (s t : State) (a n : Nat) : Prop := ∀ b, b < a ∨ a + n ≤ b → t.mem.home b = s.mem.home b

/-! Results (R91). -/

/-- The n-th outstanding result of an agent. -/
def nthResult (s : State) (ag : Agent) (n : Nat) (q : Pending) : Prop := ∃ p, s.path ag = some p ∧ p.pend[n]? = some q

/-- A result written to a group's registers: rows, tags, predicates; k registers as its path reads them, where nothing
is in its window (k57, of which a write may keep a field, apart); its flags are ORed into k56, and a k56 that it writes has
those that its shadow has gained (R68). -/
structure inGroup (i j : Iss) (q : Pending) : Prop where
  rows : ∀ r L, L < 96 → (j.G.row r).getD L 0 = q.landing.foldl (RegWrite.onRow r L) ((i.G.row r).getD L 0)
  tags : ∀ n L, L < 96 → (j.G.quadTags n).getLsbD L = q.landing.foldl (RegWrite.onTag n L) ((i.G.quadTags n).getLsbD L)
  preds : ∀ n L, L < 96 → (j.G.pred n).getLsbD L = q.landing.foldl (RegWrite.onPred n L) ((i.G.pred n).getLsbD L)
  k : i.p.win = [] → ∀ n, n < 64 → n ≠ 57 → j.kReg n = q.landing.foldl (RegWrite.onK n) (i.kReg n) |||
    (if n = 56 then BitVec.ofNat 32 (q.flags % 32) else 0)

/-- A result written to a thread's registers, and its flags. -/
structure inThread (i j : Iss) (q : Pending) : Prop where
  c : ∀ n, n < 64 → j.cReg n = q.writes.foldl (RegWrite.onC n) (i.cReg n)
  ctag : ∀ n, n < 32 → j.C.tag n = q.writes.foldl (RegWrite.onCtag n) (i.C.tag n)
  cfw : j.C.cfw = i.C.cfw ||| BitVec.ofNat 32 (q.flags % 32)

/-- An outstanding result of a group beside one that lands: it gains that one's flags where it is the older. -/
def beside (q r : Pending) : Pending :=
  if q.la - q.left + 1 ≤ r.la - r.left then { r with gained := r.gained ||| q.flags % 32 } else r

/-- The n-th result written: its agent's registers hold it, and it is outstanding no longer. -/
def landed (ag : Agent) (n : Nat) (s t : State) : Prop :=
  ∀ i q, s.view ag = some i → i.p.pend[n]? = some q → (∀ w ∈ q.writes, i.takes w = true) →
    ∃ j, t.view ag = some j ∧ j.p.pend = (if i.ctl then i.p.pend.eraseIdx n else (i.p.pend.eraseIdx n).map (beside q)) ∧ j.p.pc = i.p.pc ∧ j.p.wait = i.p.wait ∧
      j.p.mask = i.p.mask ∧ (i.ctl = false → inGroup i j q) ∧ (i.ctl = true → inThread i j q) ∧
      elsewhere s i t

/-! Completions at the host (R163, R174, R181). -/

/-- A request whose first lane still waits, and the agent that holds its result. -/
def awaited (s : State) (id : Nat) (r : HostReq) : Prop :=
  Tbl.get s.io.reqs id = some r ∧ r.lanes ≠ [] ∧ ∃ p, s.path (s.reqAgent id r.ag) = some p

/-- The lanes that a completion serves, taken off its request; after the last the request is gone. -/
def served (id n : Nat) (s t : State) : Prop :=
  ∀ r, Tbl.get s.io.reqs id = some r →
    (n < r.lanes.length → ∃ r', Tbl.get t.io.reqs id = some r' ∧ r'.lanes = r.lanes.drop n ∧ r'.dst = r.dst ∧ r'.size = r.size) ∧
    (n = r.lanes.length → Tbl.get t.io.reqs id = none)

/-- What one lane's completion leaves in the result that waits: its data in its place, or the lane taken out and a late
fault HOSTERR with the status as DETAIL (R174). -/
def answered (id status : Nat) (d : List Byte) (s t : State) : Prop :=
  ∀ r l p, Tbl.get s.io.reqs id = some r → r.lanes.head? = some l → s.path (s.reqAgent id r.ag) = some p →
    ∃ p', t.path (s.reqAgent id r.ag) = some p' ∧ p'.pc = p.pc ∧ p'.mask = p.mask ∧
      p'.pend.length = p.pend.length ∧
      (status = 0 → p'.late = p.late) ∧
      (status ≠ 0 → ∃ f, p'.late = p.late ++ [f] ∧ f.cause = cHOSTERR ∧ f.detail = status ∧ f.pc = r.pc ∧
        ((∃ row, r.dst = .v row) → f.lanes = laneMask1 l)) ∧
      ∀ (n : Nat) (q : Pending), p.pend[n]? = some q → ∃ q' : Pending, p'.pend[n]? = some q' ∧ q'.req = q.req ∧ q'.left = q.left ∧
        (q.req ≠ some id → q' = q) ∧ (q.req = some id → q'.ready = (q.ready || r.lanes.length == 1) ∧
          ∀ row m vals, status = 0 → r.dst = .v row → 8 * r.size ≤ 32 → q.writes = [.v row m vals] →
            q'.writes = [.v row m (vals.set l (BitVec.ofNat 32 ((⟨8 * r.size, r.signed, false⟩ : ITy).image (leNat d))))])

/-! Records (R222, R223, R335). -/

/-- The first record of a team's ring queue that satisfies a test, room in the ring, and its turn among the records of
one cycle (R262). -/
def queued (s : State) (n : Nat) (p : RingRec → Bool) (rank : Team → Nat) (r : RingRec) : Prop :=
  ∃ T, s.team n = some T ∧ T.ringQ.find? p = some r ∧ T.ridx - T.taken < 32 ∧ T.ringLast.past s.clock (rank T) = false
/-- A notice of a group that waits for the ring (R223, R335). -/
def noticed (s : State) (n : Nat) (r : RingRec) : Prop :=
  queued s n (fun r => r.chain.isNone) (fun T => T.ringRank (bitsOf r.bits.toNat 29 26)) r

/-- A record written to the ring's next slot, RIDX in its bits 255:192. -/
def ringed (n : Nat) (r : RingRec) (s t : State) : Prop :=
  ∀ T, s.team n = some T →
    (∃ T', t.team n = some T' ∧ T'.ridx = T.ridx + 1 ∧ T'.taken = T.taken ∧ T'.ringQ = T.ringQ.erase r) ∧
    (∀ j, j < 32 → t.mem.bytes.read (cstoreOf T.core T.tslot + 0x3000 + 32 * (T.ridx % 32) + j) =
      (leBytes 32 (r.bits.toNat + (T.ridx + 1) % 2 ^ 64 * 2 ^ 192)).getD j 0) ∧
    ∀ b, b < cstoreOf T.core T.tslot + 0x3000 + 32 * (T.ridx % 32) ∨
      cstoreOf T.core T.tslot + 0x3000 + 32 * (T.ridx % 32) + 32 ≤ b → t.mem.bytes.read b = s.mem.bytes.read b

/-- The team and its chain after a CHCTL: not halted; `all` moves CSEQ to TSEQ (R226). -/
def restarted (ch : Nat) (all : Bool) (T T' : Team) : Prop :=
  (T'.chain ch).halted = false ∧ (all = true → (T'.chain ch).cseq = (T.chain ch).tseq) ∧
    (T'.chain ch).tseq = (T.chain ch).tseq ∧ T'.ridx = T.ridx ∧ T'.regions = T.regions

/-- A sleep that is over: the agent at its SLEEP, its next word, the state after the fetch, the view that issues. -/
structure woken (s : State) (ag : Agent) (o : Op) (j : Iss) : Prop where
  ended : ∃ i till w ws u, s.view ag = some i ∧ i.p.wait.map Wait.why = some (.sleep till) ∧ till ≤ s.clock ∧
    i.fetch = .ok (w :: ws, u) ∧ o = { Op.short 0x3F 6 with bytes := 4 * wordCount w } ∧ Clear { u with cur := some ag } j
  admits : j.admits o (fun _ => true)
  parks : j.mustPark o = none

/-- Every result that the boundary of an agent waits for is there: of its whole group, or of its thread (R93). -/
def resultsIn (s : State) (ag : Agent) : Prop :=
  match ag with
  | .path g _ => ∃ G, s.group g = some G ∧ G.allReady = true
  | .handler g => ∃ G, s.group g = some G ∧ G.allReady = true
  | .ctl t => ∃ C, s.ctx t = some C ∧ ∀ q ∈ C.path.pend, q.ready = true

/-- The device steps of issue. -/
def issueTurns : Instr → Option Event
  | .chctlAbandonFaulted n ch => some
      { ok := fun s => ch < 3 ∧ ∃ T, s.team n = some T ∧ (T.chain ch).halted = true
        gives := fun s t => teamNow s t n (restarted ch false) ∧ otherTeams s t n ∧ only [.teams, .mem] s t }
  | .chctlAbandonAll n ch => some
      { ok := fun s => ch < 3 ∧ ∃ T, s.team n = some T
        gives := fun s t => teamNow s t n (restarted ch true) ∧ otherTeams s t n ∧ only [.teams, .mem] s t }
  | .loadResult ag n => some
      { ok := fun s => ∃ q, nthResult s ag n q ∧ q.ready = true ∧ q.left = 0
        gives := fun s t => landed ag n s t ∧ only [.groups, .ctxs] s t }
  | .atomicAtHome core rq => some
      { ok := fun s =>
          (match whereIs rq.addr with
            | .hbm => True
            | .chip _ => True
            | .scratch _ => True
            | .cstore _ => True
            | _ => False) ∧
          rq.addr % (((ityOf rq.ty).getD tN32).w / 8) = 0 ∧ s.extRefusal rq.colour rq.addr true = none ∧
          (if rq.fl then rq.op < 5 else rq.op < 10)
        gives := fun s t =>
          let y := (ityOf rq.ty).getD tN32
          only [.mem] s t ∧ t.mem =
            (if rq.fl then (s.mem.atomAt core rq.addr (y.w / 8) (fun old => atomFloat rq.op old rq.a)).2
            else if rq.op = 9 then (s.mem.casAt core rq.addr (y.w / 8) rq.c rq.a).2.2
            else (s.mem.atomAt core rq.addr (y.w / 8) (fun old => atomOp y rq.op old rq.a)).2) }
  | .hostWindowCompletion id status data => some
      { ok := fun s => ∃ r, awaited s id r ∧ data ≠ [] ∧ data.length ≤ r.lanes.length ∧
          (status = 0 → ∀ d ∈ data, d.length = r.size)
        gives := fun s t => served id data.length s t ∧ (∀ d, data = [d] → answered id status d s t) ∧
          only [.groups, .ctxs, .io] s t }
  | .lateFault ag => some
      { ok := fun s => (∃ p f l, s.path ag = some p ∧ p.late = f :: l) ∧ s.canIssue ag = true ∧ resultsIn s ag
        gives := fun s t => ∀ p f l, s.path ag = some p → p.late = f :: l →
          t = (s.setPath ag { p with late := l }).takeTrap ag
            { Trap.of f.cause f.sub f.detail f.lanes with late := true, faultPc := f.pc } }
  | _ => none

/-- The device steps of records, retirement, starvation, hints and sleep. -/
def recordTurns : Instr → Option Event
  | .noticeRecord n => some
      { ok := fun s => ∃ r, noticed s n r
        gives := fun s t => (∀ r, noticed s n r → ringed n r s t) ∧
          otherTeams s t n ∧ only [.teams, .mem] s t }
  | .engineCompletionRecord n ch q => some
      { ok := fun s => ∃ r, queued s n (fun r => r.chain == some ch && r.seq == BitVec.ofNat 32 q) (fun _ => ch) r
        gives := fun s t => teamNow s t n (fun T T' => T'.ridx = T.ridx + 1 ∧
            ∀ c, (T.chain ch).cmd (BitVec.ofNat 32 q) = some c → ch < T.chains.length → c.fin = 2 ∨ c.fin = 3 ∨ c.fin = 6 →
              ∃ c', (T'.chain ch).cmd (BitVec.ofNat 32 q) = some c' ∧ c'.complete = true) ∧
          otherTeams s t n ∧ only [.teams, .mem] s t }
  | .groupRetirement g => some
      { ok := fun s => ∃ G, s.group g = some G ∧ G.run = .running ∧ G.stack = [] ∧ G.handler = none ∧ G.ops = [] ∧
          G.orphans = []
        gives := fun s t => ∃ G', t.group g = some G' ∧ G'.run = .retired ∧ (∀ r, G'.row r = zeroRow) ∧
          (∀ r, G'.quadTags r = 0) ∧ G'.drain = [] }
  | .starvationRaise g => some
      { ok := fun s => ∃ G, s.group g = some G ∧ 64 ≤ G.starve ∧ G.raised = none
        gives := fun s t => ∀ G, s.group g = some G → t = s.setGroup g { G with raised := some s.clock } }
  | .hintCyclesExpiry ag => some
      { ok := fun s => ∃ p, s.path ag = some p ∧ ((p.crit ≠ 0 ∧ p.crit ≤ s.clock) ∨ (p.spin ≠ 0 ∧ p.spin ≤ s.clock))
        gives := fun s t => ∀ p, s.path ag = some p → t = s.setPath ag
          { p with crit := if p.crit ≤ s.clock then 0 else p.crit, spin := if p.spin ≤ s.clock then 0 else p.spin } }
  | .sleepEnd ag => some
      { ok := fun s => ∃ o j, woken s ag o j
        gives := fun s t => ∀ o j, woken s ag o j →
          lands (j.issued o) (.next t) (pcOn j o.bytes) [] 0 (j.issued o).s }
  | _ => none

end Sys2Proof.Rules
end

