-- ==== Sys2Proof/Rules/TurnsEngine.lean ====
section
/-! DEFINITION. The rules of the device steps of the engines: acceptance, copies, the matrix unit, collectives. -/

namespace Sys2Proof.Rules

open Sys2Proof.Machine Sys2Proof.Safety

/-- A command of a chain satisfies a test. -/
def cmdIs (t : State) (n ch : Nat) (q : Word) (P : Cmd → Prop) : Prop := ∃ c, t.cmd n ch q = some c ∧ P c

/-- A command that an engine works on (R199): accepted, RUNNING, its end not yet reached, its team not halted. -/
structure working (s : State) (n ch q : Nat) (T : Team) (c : Cmd) : Prop where
  team : s.team n = some T
  cmd : (T.chain ch).cmd (BitVec.ofNat 32 q) = some c
  run : c.accepted = true ∧ c.status = 1 ∧ c.fin = 0
  free : T.halt = false

/-- No tokens are asked for: RATE of the team's function is 0 and nothing of it waits (R401). -/
def unpaced (s : State) (T : Team) : Prop :=
  (s.fn (s.colour T.colour).func).rate = 0 ∧ (s.fn (s.colour T.colour).func).waiting = []

/-- A command has failed (R199): FAULT with the cause, subcause and FADDR; its chain accepts nothing further. -/
def faulted (t : State) (n ch : Nat) (q : Word) (e : EngErr) : Prop :=
  cmdIs t n ch q (fun y => y.status = 4 ∧ y.cause = e.cause ∧ y.sub = e.sub ∧ y.faddr = e.faddr) ∧
    ∃ T, t.team n = some T ∧ (T.chain ch).halted = true

/-- Storage that is read and written as bytes at its home. -/
def plainly (a : Nat) : Prop := isHost a = false ∧ isSys a = false

/-- Chunks have been added to a command's (R199, R200): after the last it ends DONE, or TAGFAIL where a record failed. -/
def chunked (t : State) (n ch : Nat) (x : Cmd) (cs : List Nat) (bytes : Nat) : Prop :=
  cmdIs t n ch x.seq (fun y => y.units = x.units ++ cs ∧ y.done = x.done + bytes ∧
    (x.units.length + cs.length = x.nc → y.fin = if x.nfail = 0 then 2 else 3) ∧
    (x.units.length + cs.length ≠ x.nc → y.status = 1 ∧ y.fin = 0))

/-- A chunk copied: the bytes of a run are read before anything is written and are then at the destination; the chunk's
bit, the watch log and the command's progress follow (R307, R308, R454). -/
def copied (s t : State) (T : Team) (n ch : Nat) (x : Cmd) (c : Nat) : Prop :=
  ∃ u : State, t = (((u.setChunkBit T x.block c).watchEng 1 T.core T.colour 0 (srcRuns (x.block.chunkRuns c))).watchEng
      1 T.core T.colour 1 (dstRuns (x.block.chunkRuns c))).chunksDone n ch x [c] (x.block.chunkHi c - x.block.chunkLo c) ∧
    u.teams = s.teams ∧ u.groups = s.groups ∧
    ∀ a d m, x.block.chunkRuns c = [(a, d, m)] → plainly a → plainly d → ∀ j, j < m → u.mem.home (d + j) = s.mem.home (a + j)

/-- The refusal of a chunk's runs at the memory side: a source first. -/
def chunkRefused (s : State) (T : Team) (b : Blk) (c : Nat) (src dst : Bool) : Option EngErr :=
  firstFail [if src then s.runsRefusal T.colour false (srcRuns (b.chunkRuns c)) else none,
    if dst then s.runsRefusal T.colour true (dstRuns (b.chunkRuns c)) else none]

/-- A message in a flit of an UP port, as it leaves (R328, R440). -/
def sent (s t : State) (dev n seq unit : Nat) (req : PeerReq) : Prop :=
  let p := Config.route s.bring.cfgDigest s.upMask dev
  t.io.out = s.io.out ++ [.peer p (s.port p).ctr dev n seq unit req] ∧ (t.port p).ctr = (s.port p).ctr + 1

/-- The device that a chunk's message goes to, and whether a port carries it. -/
def peerDev (b : Blk) : Nat := if b.toPeer then (b.cap 1).dest else (b.cap 0).dest
def reachable (s : State) (dev : Nat) : Prop := s.portUp (Config.route s.bring.cfgDigest s.upMask dev) = true

/-- A chunk that its engine may begin now: of the command next in its team's turn (R303). -/
structure begins (s : State) (T : Team) (x : Cmd) (c : Nat) : Prop where
  fresh : c ∉ x.begun
  next : (s.nextCopy T).map (·.seq) = some x.seq
  turn : s.copyTurn T false = true
  tokens : unpaced s T
/-- A chunk on which work may go on now: begun; or to be begun; or, on the collective chain, to be sent for. -/
def chunkDue (s : State) (ch : Nat) (T : Team) (x : Cmd) (c : Nat) : Prop :=
  (ch = 0 ∧ c ∈ x.begun) ∨ (ch = 0 ∧ begins s T x c) ∨
    (ch = 2 ∧ c ∉ x.sent ∧ s.clTurn T = true ∧ unpaced s T ∧ reachable s (peerDev x.block))

/-- What a step of a copy's chunk does where no check refuses it: begun; its bytes copied, or a record's ciphertext read;
on the collective chain sent, or sent for. -/
def chunkMoved (s t : State) (n ch c : Nat) (T : Team) (x : Cmd) : Prop :=
  if ch = 0 ∧ c ∉ x.begun then
    cmdIs t n 0 x.seq (fun y => y = { x with begun := x.begun ++ [c], exec := true }) ∧ only [.teams, .cores] s t
  else if ch = 0 then
    if x.block.gcm then
      cmdIs t n 0 x.seq (fun y => Tbl.get y.parts c = some (s.engReads (srcRuns (x.block.chunkRuns c))).1 ∧
        y.units = x.units ∧ y.status = 1) ∧ t.mem = s.mem
    else copied s t T n 0 x c
  else
    cmdIs t n 2 x.seq (fun y => y.sent = x.sent ++ [c] ∧ y.units = x.units ∧ y.status = 1) ∧ t.mem = s.mem ∧
      sent s t (peerDev x.block) n x.seq.toNat c
        (x.block.peerReq c (if x.block.toPeer then (s.engReads (srcRuns (x.block.chunkRuns c))).1 else []))
/-- The refusal that a step of a copy's chunk meets. -/
def chunkStop (s : State) (ch c : Nat) (T : Team) (x : Cmd) : Option EngErr :=
  if ch = 0 ∧ c ∉ x.begun then none else chunkRefused s T x.block c (ch == 0 || x.block.toPeer) (ch == 0 && !x.block.gcm)

/-- The line operation of one lane (R208, R304). -/
def laneCopied (s t : State) (T : Team) (o : LineOp) : Prop :=
  ∀ x, o.lanes = [x] → x.keep = true → plainly x.src → plainly x.dst →
    s.engRefusal T.colour x.src o.width false = none → s.engRefusal T.colour x.dst o.width true = none →
    ∀ j, j < o.width → t.mem.home (x.dst + j) = s.mem.home (x.src + j)

/-- A region's words: element (i, j) as `f` says, every word outside [first, first + count) as before. -/
def regionIs (s t : State) (core : Nat) (c : Cmd) (f : Nat → Nat → Word) : Prop :=
  (∀ i j, i < c.mRows → j < c.nCols → Store.read t.mem.tile (tileWord core c i j) = f i j) ∧
  ∀ w, w < tileWord core c 0 0 ∨ tileWord core c 0 0 + c.mRows * c.nCols ≤ w →
    Store.read t.mem.tile w = Store.read s.mem.tile w

/-- An accumulator element in the format of an MSTORE, and the flags raised: rn, or clamped under SAT (R213). -/
def tileOut (d : Tile) (c : Cmd) (x : Word) : Nat × Nat :=
  (f32.decode x.toNat).convert ((fmtOf d.ty).getD f32) 0 (bitAt c.blk.toNat 380)

/-- A row of a command has been done (R213). -/
def rowed (t : State) (n : Nat) (c : Cmd) : Prop :=
  cmdIs t n 1 c.seq (fun y => y.done = c.done + 1 ∧ (c.done + 1 = c.mRows → y.fin = 2) ∧
    (c.done + 1 ≠ c.mRows → y.status = 1 ∧ y.fin = 0))

/-- A message of another member of the same collective, which the port does not refuse (R47, R322). -/
structure heard (s : State) (m : PeerMsg) (c : Cmd) : Prop where
  src : m.src ≠ c.rank ∧ m.src < c.members
  port : (s.msgErr m).1 = none
  kind : m.kind = c.kind

/-- What a message of another member finds at a collective: the piece's owner, a contribution of its size, none of it held
yet and others still missing (R322 to R324). -/
structure contributes (s : State) (n q : Nat) (m : PeerMsg) (T : Team) (c : Cmd) : Prop where
  work : working s n 2 q T c
  opc : c.opc = 7
  src : heard s m c
  piece : c.pieces.contains m.unit = true ∧ m.data.length = c.pieceBytes m.unit
  kind : c.reduces = true ∧ m.result = false ∧ pieceOwner m.unit = c.rank ∧ c.switched (pieceUnit m.unit) = false
  fresh : Tbl.get c.parts (partKey m.unit m.src) = none ∧ c.result m.unit = none
  missing : ∃ r, r < c.members ∧ r ≠ m.src ∧ Tbl.get c.parts (partKey m.unit r) = none
  going : c.collFinished = false

/-- A message that brings a part of an allgather or a broadcast (R322), or an own contribution that leaves for the piece's
owner (R324), or the data of a chunk of a copy from a peer (R328). -/
structure partArrives (s : State) (n q : Nat) (m : PeerMsg) (T : Team) (c : Cmd) : Prop where
  work : working s n 2 q T c
  opc : c.opc = 7 ∧ c.reduces = false
  src : heard s m c ∧ m.src = pieceOwner m.unit ∧ c.given (pieceUnit m.unit) = true
  piece : c.pieces.contains m.unit = true ∧ m.data.length = c.pieceBytes m.unit ∧ c.due.contains m.unit = true
  clear : s.runsRefusal T.colour true (c.opRuns (c.pieceRange m.unit).1 (c.pieceRange m.unit).2) = none
structure partLeaves (s : State) (n q : Nat) (m : PeerMsg) (T : Team) (c : Cmd) : Prop where
  work : working s n 2 q T c
  opc : c.opc = 7 ∧ c.reduces = true ∧ unpaced s T ∧ s.clTurn T = true
  src : m.src = c.rank ∧ m.unit < 2 ^ 40 ∧ m.result = false ∧ pieceOwner m.unit ≠ c.rank
  piece : c.pieces.contains m.unit = true ∧ c.switched (pieceUnit m.unit) = false ∧
    toMember m.unit (pieceOwner m.unit) ∉ c.sent ∧ Tbl.get c.parts (keptKey (pieceUnit m.unit)) = none ∧
    ∀ p ∈ c.unitPieces (pieceUnit m.unit), c.result p = none
  clear : s.runsRefusal T.colour false (c.opRuns (c.pieceRange m.unit).1 (c.pieceRange m.unit).2) = none
  there : reachable s (c.member (pieceOwner m.unit)).dest
structure dataArrives (s : State) (n q : Nat) (m : PeerMsg) (T : Team) (c : Cmd) : Prop where
  work : working s n 2 q T c
  opc : c.opc = 1 ∧ c.block.toPeer = false
  piece : m.unit ∈ c.sent ∧ m.unit ∉ c.units ∧ m.data.length = c.block.chunkHi m.unit - c.block.chunkLo m.unit
  clear : s.runsRefusal T.colour true (dstRuns (c.block.chunkRuns m.unit)) = none

/-- Where a record's tag stands, and the refusal that its step meets (R206, R311). -/
def tagPlace (j : Nat) (x : Cmd) : Nat := (((x.block.cap 2).cursor : Int) + 16 + 16 * (x.k0 + j)).toNat
def recordStop (s : State) (j : Nat) (T : Team) (x : Cmd) : Option EngErr :=
  firstFail [s.engRefusal T.colour (tagPlace j x) 16 false,
    s.runsRefusal T.colour true (dstRuns (x.block.runs 4096 (4096 * j) (4096 * j + x.block.recordLen j)))]
/-- A record opened: its chunks are done; one that fails counts, with the lowest index (R206, R312). -/
def recordOpened (s t : State) (n j : Nat) (x : Cmd) (ct : List Byte) (k : KeySlot) : Prop :=
  cmdIs t n 0 x.seq (fun y =>
    y.units = x.units ++ (List.range (cdiv (x.block.recordLen j) 512)).map (· + 8 * j) ∧ y.done = x.done + ct.length ∧
    match Config.gcmOpen (k.key.setWidth 256) (gcmIv x.salt (x.counter j)) [] ct (s.engRead (tagPlace j x) 16).1 with
    | some pt => pt.length = ct.length → y.nfail = x.nfail
    | none => y.nfail = x.nfail + 1 ∧ y.index = if x.nfail = 0 then j else min x.index j)

/-- The failure of an operation. -/
def errorOf {α : Type} : Except EngErr α → Option EngErr
  | .error e => some e
  | .ok _ => none
/-- The refusal of an entry at its acceptance (R204 to R206, R212, R213, R216). -/
def acceptStop (s : State) (n ch : Nat) (T : Team) (c : Cmd) : Option EngErr :=
  let y := { c with accepted := true, status := 1, exec := ch == 0 }
  let u := s.putCmd n ch y
  if c.opc = 1 then
    firstFail [if ch = 0 then u.copyErr T y else u.rcopyErr T y, if c.block.gcm then errorOf (u.gcmAccept T y) else none]
  else if c.opc = 7 then u.collErr T y
  else if c.opc = 2 then u.mmaErr T y
  else u.tileCmdErr T y

/-- The device steps of the engines. -/
def engineTurns : Instr → Option Event
  | .chainEntryAcceptance n ch => some
      { ok := fun s => ch < 3 ∧ ∃ T c, s.team n = some T ∧ (T.chain ch).next = some c ∧ s.mayAccept T ch c = true
        gives := fun s t => ∀ T c, s.team n = some T → (T.chain ch).next = some c →
          cmdIs t n ch c.seq (fun y => y.accepted = true ∧ y.blk = c.blk ∧ (y.status = 1 ∨ y.status = 4 ∨ y.fin ≠ 0)) ∧
          (ch = 0 → c.opc = 1 → match acceptStop s n ch T c with
            | some e => faulted t n ch c.seq e
            | none => cmdIs t n ch c.seq (fun y => y.status = 1)) }
  | .copyChunk n ch q c => some
      { ok := fun s => ∃ T x, working s n ch q T x ∧ x.block.opc = 1 ∧ c < x.nc ∧ c ∉ x.units ∧ Tbl.get x.parts c = none ∧
          chunkDue s ch T x c
        gives := fun s t => ∀ T x, working s n ch q T x →
          match chunkStop s ch c T x with
          | some e => faulted t n ch x.seq e
          | none => chunkMoved s t n ch c T x }
  | .lineOperation g n => some
      { ok := fun s => ∃ G T o, s.group g = some G ∧ s.team G.team = some T ∧ G.ops[n]? = some o ∧
          (o.begun = true ∨ (s.copyTurn T true = true ∧ unpaced s T))
        gives := fun s t => ∀ G T (o : LineOp), s.group g = some G → s.team G.team = some T → G.ops[n]? = some o →
          (o.begun = false → t.group g = some { G with ops := G.ops.set n { o with begun := true } } ∧
            only [.groups, .cores] s t) ∧ (o.begun = true → (∃ G', t.group g = some G' ∧ G'.ops = G.ops.erase o ∧ G'.stack = G.stack ∧
            ((∀ x ∈ o.lanes, s.engRefusal T.colour x.src o.width false = none ∧
              s.engRefusal T.colour x.dst o.width true = none) → G'.fails = G.fails) ∧
            ∀ x e, o.lanes = [x] → s.engRefusal T.colour x.src o.width false = some e →
              ∃ f, G'.fails = G.fails ++ [f] ∧ f.sheaf = o.sheaf ∧ f.cause = e.cause ∧ f.sub = e.sub ∧
                f.lanes = maskOfLanes [x.lane]) ∧
          laneCopied s t T o ∧ (∀ h, h ≠ g → t.group h = s.group h) ∧ t.teams = s.teams) }
  | .gcmRecord n q j => some
      { ok := fun s => ∃ T x ct k, working s n 0 q T x ∧ x.block.gcm = true ∧ x.cipher j = some ct ∧ j < x.block.records ∧
          8 * j ∉ x.units ∧ Tbl.get s.sec.slots x.kslot = some k ∧ k.gen.toNat = x.slotGen
        gives := fun s t => ∀ T x ct k, working s n 0 q T x → x.cipher j = some ct →
          Tbl.get s.sec.slots x.kslot = some k → k.gen.toNat = x.slotGen →
          match recordStop s j T x with
          | some e => faulted t n 0 x.seq e
          | none => recordOpened s t n j x ct k }
  | _ => none

/-- The K-block that an MMA fetches next, as the queue for pins holds it (R316): the team, the command, the block. -/
def nextBlock (n : Nat) (c : Cmd) : Nat × Nat × Nat := (n, c.seq.toNat, c.done + c.blocksHeld)

/-- Whether that block waits for pins (R316); its runs of A and of B. -/
def blockWaits (s : State) (n : Nat) (T : Team) (c : Cmd) : Bool :=
  s.pinWaits (nextBlock n c) (s.protWays T.colour) (c.blockLines (c.done + c.blocksHeld))
def aRuns (c : Cmd) : List (Nat × Nat) := (c.desc 0).blockRuns c.mRows (c.koff + (c.done + c.blocksHeld))
def bRuns (c : Cmd) : List (Nat × Nat) := (c.desc 1).blockRuns c.nCols (c.koff + (c.done + c.blocksHeld))
/-- A K-block fetched: it holds what is at the home, B where no line of it was shared in the cluster (R315, R317). -/
def blockFetched (s t : State) (n : Nat) (c : Cmd) : Prop :=
  let k := c.done + c.blocksHeld
  cmdIs t n 1 c.seq (fun y => y.done = c.done ∧ y.status = 1 ∧ 0 ∈ y.sent ∧
    ((∀ r ∈ aRuns c ++ bRuns c, plainly r.1) →
      Tbl.get y.parts (2 * k + 2) = some ((aRuns c).flatMap (fun r => s.mem.homeRead r.1 r.2)) ∧
      (s.mem.shared = [] → Tbl.get y.parts (2 * k + 3) = some ((bRuns c).flatMap (fun r => s.mem.homeRead r.1 r.2))))) ∧
  nextBlock n c ∉ t.mem.pinQ ∧ t.mem.bytes = s.mem.bytes ∧ t.mem.tags = s.mem.tags ∧ t.mem.tile = s.mem.tile ∧
  t.mem.l1 = s.mem.l1

/-- The row that a command moves next: first byte and length; the refusal that its step meets. -/
def rowPlace (c : Cmd) : Nat × Nat :=
  ((c.desc 0).data.cursor + c.done * (c.desc 0).pitch, (c.desc 0).rowBytes c.nCols)
def rowStop (s : State) (T : Team) (c : Cmd) : Option EngErr :=
  if c.opc = 3 then none else s.runsRefusal T.colour (c.opc == 5) [rowPlace c]
/-- A row of an MZERO, an MLOAD or an MSTORE done (R213). -/
def rowMoved (s t : State) (n : Nat) (T : Team) (c : Cmd) : Prop :=
  let d := c.desc 0
  let (a, m) := rowPlace c
  if c.opc = 3 then
    rowed t n c ∧ ∀ w, Store.read t.mem.tile w =
      if tileWord T.core c 0 0 + 64 * c.accUnits.2 * c.done ≤ w ∧
        w < tileWord T.core c 0 0 + 64 * c.accUnits.2 * (c.done + 1) then 0 else Store.read s.mem.tile w
  else rowed t n c ∧
    (c.opc = 4 → plainly a → (∀ j, j < c.nCols → Store.read t.mem.tile (tileWord T.core c c.done j) =
        BitVec.ofNat 32 (leNat (partOf (s.mem.homeRead a m) 4 j))) ∧
      ∀ w, w < tileWord T.core c c.done 0 ∨ tileWord T.core c c.done 0 + c.nCols ≤ w →
        Store.read t.mem.tile w = Store.read s.mem.tile w) ∧
    (c.opc = 5 → ∃ u : State, u = (s.unitFor n T c).engStore T.core a ((List.range c.nCols).flatMap (fun j =>
        leBytes (((fmtOf d.ty).getD f32).width / 8) (tileOut d c (Store.read s.mem.tile (tileWord T.core c c.done j))).1)) ∧
      t.mem.tile = s.mem.tile ∧ t = (u.watchEng 2 T.core T.colour 1 [(a, m)]).rowDone n { c with
        mfl := (List.range c.nCols).foldl (fun f j =>
          f ||| (tileOut d c (Store.read s.mem.tile (tileWord T.core c c.done j))).2) c.mfl })

/-- The device steps of the matrix unit. -/
def matrixTurns : Instr → Option Event
  | .tileFetch n q => some
      { ok := fun s => ∃ T c, working s n 1 q T c ∧ c.opc = 2 ∧ T.fetchTurn c = true ∧ c.done + c.blocksHeld < c.kb ∧
          c.blocksHeld < 2 ∧ (bitAt c.blk.toNat 349 = false ∨ 0 ∈ c.sent) ∧
          (blockWaits s n T c = true → nextBlock n c ∉ s.mem.pinQ)
        gives := fun s t => ∀ T c, working s n 1 q T c →
          if blockWaits s n T c = true then
            t.mem = { s.mem with pinQ := s.mem.pinQ ++ [nextBlock n c] } ∧ only [.mem, .fresh] s t
          else match s.draw.2.runsRefusal T.colour false (aRuns c ++ bRuns c) with
          | some e => faulted t n 1 c.seq e
          | none => blockFetched s t n c }
  | .mmaKblock n q => some
      { ok := fun s => ∃ T c xa xb, working s n 1 q T c ∧ c.opc = 2 ∧ s.unitTurn n T c = true ∧
          Tbl.get c.parts (2 * c.done + 2) = some xa ∧ Tbl.get c.parts (2 * c.done + 3) = some xb
        gives := fun s t => ∀ T c xa xb, working s n 1 q T c → Tbl.get c.parts (2 * c.done + 2) = some xa →
          Tbl.get c.parts (2 * c.done + 3) = some xb →
          let (a, b) := (c.desc 0, c.desc 1)
          regionIs s t T.core c (fun i j => BitVec.ofNat 32 (mmaStep (Store.read s.mem.tile (tileWord T.core c i j)).toNat
            (a.elems (partOf xa a.partBytes i)) (b.elems (partOf xb b.partBytes j))).1) ∧
          cmdIs t n 1 c.seq (fun y => y.done = c.done + 1 ∧ (c.done + 1 = c.kb → y.fin = 2)) }
  | .tileStoreRowOperation n q => some
      { ok := fun s => ∃ T c, working s n 1 q T c ∧ 3 ≤ c.opc ∧ c.opc ≤ 5 ∧ s.unitTurn n T c = true
        gives := fun s t => ∀ T c, working s n 1 q T c →
          match rowStop s T c with
          | some e => faulted t n 1 c.seq e
          | none => rowMoved s t n T c }
  | .drainRowStaging n q => some
      { ok := fun s => ∃ T c g G, working s n 1 q T c ∧ c.opc = 6 ∧ s.unitTurn n T c = true ∧ c.rows ≠ c.drainRows ∧
          T.groups[bitsOf c.blk.toNat 379 376]? = some g ∧ s.group g = some G ∧ G.drain.length < 4
        gives := fun s t => ∀ T c g G, working s n 1 q T c → T.groups[bitsOf c.blk.toNat 379 376]? = some g →
          s.group g = some G →
          (∃ G' row, t.group g = some G' ∧ G'.drain = G.drain ++ [⟨c.seq, row⟩] ∧ ∀ L, L < 96 →
            row.getD L 0 = if 96 * (c.rows % cdiv c.nCols 96) + L < c.nCols then
              Store.read s.mem.tile (tileWord T.core c (c.rows / cdiv c.nCols 96) (96 * (c.rows % cdiv c.nCols 96) + L))
            else 0) ∧
          cmdIs t n 1 c.seq (fun y => y.rows = c.rows + 1 ∧ y.done = c.done) ∧ t.mem = s.mem }
  | _ => none

/-- The device steps of collectives and of peers. -/
def collTurns : Instr → Option Event
  | .collMessage n q m => some
      { ok := fun s => ∃ T c, contributes s n q m T c ∨ partArrives s n q m T c ∨ partLeaves s n q m T c ∨
          dataArrives s n q m T c
        gives := fun s t => ∀ T c,
          (contributes s n q m T c → cmdIs t n 2 c.seq (fun y =>
            Tbl.get y.parts (partKey m.unit m.src) = some m.data ∧ y.units = c.units ∧ y.status = 1) ∧ only [.teams] s t) ∧
          (partArrives s n q m T c → cmdIs t n 2 c.seq (fun y => m.unit ∈ y.units)) ∧
          (partLeaves s n q m T c → cmdIs t n 2 c.seq (fun y => toMember m.unit (pieceOwner m.unit) ∈ y.sent) ∧
            sent s t (c.member (pieceOwner m.unit)).dest n c.seq.toNat m.unit (c.peerReq (pieceOwner m.unit) m.unit
              (s.engReads (c.opRuns (c.pieceRange m.unit).1 (c.pieceRange m.unit).2)).1)) ∧
          (dataArrives s n q m T c → chunked t n 2 c [m.unit] m.data.length) }
  | .abortNotice n q cause sub => some
      { ok := fun s => ∃ T c, working s n 2 q T c ∧ c.opc = 7
        gives := fun s t => ∀ T c, working s n 2 q T c → faulted t n 2 c.seq ⟨cause, sub, 0⟩ }
  | .switchReductionResult n q u data => some
      { ok := fun s => ∃ T c, working s n 2 q T c ∧ c.opc = 7 ∧ c.switched u = true ∧
          data.length = (min c.nelem (u * c.perUnit + c.perUnit) - u * c.perUnit) * c.esize
        gives := fun s t => ∀ T c, working s n 2 q T c →
          (∀ p ∈ c.unitPieces u, s.runsRefusal T.colour true (c.opRuns (c.pieceRange p).1 (c.pieceRange p).2) = none) →
          cmdIs t n 2 c.seq (fun y => ∀ p ∈ c.unitPieces u, p ∈ y.units) }
  | .switchStateLost n q us => some
      { ok := fun s => ∃ T c, working s n 2 q T c ∧ c.opc = 7 ∧ c.reduces = true ∧ c.sw = true ∧ us ≠ [] ∧
          ∀ u ∈ us, u < c.unitCount
        gives := fun s t => ∀ T c, working s n 2 q T c →
          cmdIs t n 2 c.seq (fun y => (∀ u ∈ us, y.switched u = false ∧ lostUnit u ∈ y.sent) ∧ y.units = c.units ∧
            ∀ u, u < c.unitCount → u ∉ us → y.switched u = c.switched u) ∧ only [.teams] s t }
  | .peerAcknowledgement n q a =>
    let c := ackUnit a
    match ackRefused a with
    | none => some
      { ok := fun s => ∃ T x, working s n 2 q T x ∧ x.block.opc = 1 ∧ x.block.toPeer = true ∧ c ∈ x.sent ∧ c ∉ x.units
        gives := fun s t => ∀ T x, working s n 2 q T x →
          chunked t n 2 x [c] (x.block.chunkHi c - x.block.chunkLo c) }
    | some r => some
      { ok := fun s => ∃ T x, working s n 2 q T x ∧ ((x.block.opc = 1 ∧ c ∈ x.sent ∧ c ∉ x.units) ∨
          (x.opc = 7 ∧ ∃ m ∈ x.sent, m < 2 ^ 60 ∧ m / 16384 = c))
        gives := fun s t => ∀ T x, working s n 2 q T x →
          faulted t n 2 x.seq ⟨r.1, r.2, if x.opc = 1 then x.peerAddr c else x.peerAt c⟩ }
  | _ => none

end Sys2Proof.Rules
end

