-- ==== Sys2Proof/Rules/TurnsTask.lean ====
section
/-! DEFINITION. The rules of the device steps of walkers, teams, tasks, queues, gleaning, the remainder, the tick. -/

namespace Sys2Proof.Rules

open Sys2Proof.Machine Sys2Proof.Safety

/-- No line of a core's L1 of a colour is dirty. -/
def cleanOf (t : State) (core colour : Nat) : Prop :=
  ∀ e ∈ t.mem.l1, l1Core e.1 = core → l1Colour e.1 = colour → e.2.dirty = 0

/-- No line of a core's L1 of a colour lies in an R or RW record (R382). -/
def scannedOf (t : State) (core colour : Nat) (rs : List Region) : Prop :=
  ∀ e ∈ t.mem.l1, l1Core e.1 = core → l1Colour e.1 = colour →
    meets rs [1, 3] (128 * l1Line e.1) (128 * l1Line e.1 + 128) = false

/-- A walk that a walker of its tower takes at once (R385): a walker is free for it beside the better waiting ones, and
no earlier stripe of the same edge still waits. -/
structure startable (s : State) (n : Nat) (w : Walk) (k : Nat) : Prop where
  walk : Tbl.get s.sched.walks n = some w
  off : w.on = none
  free : (s.freeWalkers w.tower)[(s.sched.walks.filter (fun e =>
    e.2.tower == w.tower && e.2.on.isNone && e.2.cls < w.cls)).length]? = some k
  first : w.kind = .flush ∨ w.kind = .inv ∨ ∀ e ∈ s.sched.walks, ¬(e.2.on = none ∧ e.2.age = 0 ∧ w.age = 0 ∧
    e.2.kind = w.kind ∧ e.2.task = w.task ∧ e.2.tower = w.tower ∧ e.2.lo < w.lo)

/-- The head of a core's team queue, its task, and where it fits. -/
structure startsAt (s : State) (core : Nat) (x : QTeam) (rest : List QTeam) (k : Task) (p : Spot) : Prop where
  head : (s.core core).teamq = x :: rest
  task : s.task x.task = some k
  spot : s.spot core k.need = some p

/-- A team ready to end (R249): groups retired, control thread exited, every command complete. -/
structure ended (s : State) (n : Nat) (T : Team) (C : Ctx) : Prop where
  team : s.team n = some T
  ctx : s.ctx n = some C
  done : s.liveGroups n = [] ∧ C.exited = true ∧ C.trapped = none
  cmds : ∀ c ∈ T.chains, ∀ x ∈ c.cmds, x.complete = true

/-- A team is gone: its number is free, no group is its, its storage reads zero. -/
def gone (s t : State) (n : Nat) : Prop :=
  t.team n = none ∧ t.ctx n = none ∧ (∀ e ∈ t.groups, e.2.team ≠ n) ∧
    ∀ T, s.team n = some T → ∀ a, T.scratch ≤ a → a < T.scratch + T.allocLen → t.mem.bytes.read a = 0

/-- A grid or block fits whole now: cores for all its teams, room in the save area, and every team starts (R366). -/
def wholeAt (s : State) (key : Nat) (k : Task) : Prop :=
  ∃ l u, s.plan key k = some l ∧ s.canReserve k l.length = true ∧ startOn key k k.dealt l s = some u

/-- A dependence after a release (R361) or as examined (R359): satisfied by a producer that has completed so. -/
def depAfter (s : State) (done : Bool) (d : Dep) : Dep :=
  if (s.task d.on).any (fun p => p.complete && (p.status == 1) == done) then { d with sat := true } else d

/-- The device steps of walkers and of drains. -/
def walkTurns : Instr → Option Event
  | .cacheWalk n => some
      { ok := fun s => ∃ w k, startable s n w k ∧ w.age = 0
        gives := fun s t => ∀ w k, startable s n w k →
          t = s.setWalk n { w with on := some k, age := s.clock + 1 } }
  | .walkResume n => some
      { ok := fun s => ∃ w k, startable s n w k ∧ w.age ≠ 0
        gives := fun s t => ∀ w k, startable s n w k → t = s.setWalk n { w with on := some k } }
  | .walkEnd n => some
      { ok := fun s => ∃ w, Tbl.get s.sched.walks n = some w ∧ w.on ≠ none ∧ w.hi ≤ w.cursor
        gives := fun s t => ∀ w, Tbl.get s.sched.walks n = some w →
          Tbl.get t.sched.walks n = none ∧ t.mem = s.mem ∧
          ((w.kind = .edge ∨ w.kind = .forward) → t = s.dropWalk n) ∧
          ((w.kind = .flush ∨ w.kind = .inv) → w.team < 2 ^ 32 → ∀ T, s.team w.team = some T →
            t = ((s.dropWalk n).arrive T.core w.bar 1 0).detect T.core) }
  | .forward n => some
      { ok := fun s => ∃ w, Tbl.get s.sched.walks n = some w ∧ w.kind = .forward ∧ w.on ≠ none ∧ w.cursor < w.hi
        gives := fun s t => ∀ w, Tbl.get s.sched.walks n = some w →
          Tbl.get t.sched.walks n = some { w with cursor := w.cursor + 128, visited := w.visited + 1 } ∧
          Store.read t.mem.l2 (lineOf w.cursor) = Store.read s.mem.l2 (lineOf w.cursor) ||| BitVec.ofNat 4 w.scope ∧
          t.mem.bytes = s.mem.bytes ∧ t.mem.l1 = s.mem.l1 ∧ only [.mem, .sched] s t }
  | .drainRequest core colour => some
      { ok := fun s => ∃ e ∈ s.mem.rel, e.1 % 4096 = colour ∧ core ∈ s.mem.relCores (e.1 / 4096) colour
        gives := fun s t => cleanOf t core colour ∧ t.mem.rel = s.mem.rel ∧ only [.mem] s t }
  | .releaseRecordRetirement line colour => some
      { ok := fun s => Store.read s.mem.rel (relKey line colour) ≠ 0
        gives := fun s t => Store.read t.mem.rel (relKey line colour) = 0 ∧
          (∀ k, k ≠ relKey line colour → Store.read t.mem.rel k = Store.read s.mem.rel k) ∧
          (∀ core ∈ s.mem.relCores line colour, cleanOf t core colour) ∧ only [.mem] s t }
  | _ => none

/-- The device steps of teams and tasks. -/
def teamTurns : Instr → Option Event
  | .l1RegionScan core => some
      { ok := fun s => ∃ x rest k, (s.core core).teamq = x :: rest ∧ s.task x.task = some k ∧ (s.core core).dead = false
        gives := fun s t => ∀ x rest k, (s.core core).teamq = x :: rest → s.task x.task = some k →
          (t.core core).scanned = some (x.task * 2 ^ 20 + x.index) ∧ (t.core core).teamq = x :: rest ∧
          scannedOf t core k.colour k.regions ∧ only [.mem, .cores] s t }
  | .teamStart core => some
      { ok := fun s => ∃ x rest k p, startsAt s core x rest k p ∧ x.saved = none ∧ (s.core core).scanned = some x.mark ∧
          s.canReserve k 1 = true ∧ core ∈ s.dealt k.fn ∧ s.frozen k.fn = false ∧ (s.core core).answered.past s.clock 0 = false
        gives := fun s t => ∀ x rest k p, startsAt s core x rest k p →
          (t.core core).teamq = (takeIn rest (s.core core).spill).1 ∧ (t.core core).scanned = none ∧
          (∃ T, t.team (core * 4 + p.tslot) = some T ∧ T.task = x.task ∧ T.index = x.index ∧ T.core = core ∧
            T.colour = k.colour ∧ T.scratch = windowOf core + p.off ∧ T.regions = k.regions ∧ T.tiles = [] ∧ T.halt = false) ∧
          (∃ C, t.ctx (core * 4 + p.tslot) = some C ∧ C.exited = false ∧ C.reg 6 = BitVec.ofNat 64 x.index ∧
            (plainly k.code.cursor → C.path.pc =
              BitVec.ofNat 64 (k.code.cursor + (Header.mk (leNat (s.mem.homeRead k.code.cursor 32))).centry))) ∧
          (∃ k', t.task x.task = some k' ∧ k'.started = k.started + 1 ∧ core ∈ k'.cores) ∧
          (p.slots.Nodup → ∀ j g (r : Nat × Nat × Role), p.slots[j]? = some g → k.groupRoles[j]? = some r →
            ∃ G, t.group (core * 32 + g) = some G ∧ G.team = core * 4 + p.tslot ∧ G.held = r.2.2.rows ∧ G.run = .running ∧
              G.k53 = k53Of core g p.tslot r.1 j r.2.1) }
  | .teamEnd n => some
      { ok := fun s => ∃ T C, ended s n T C
        gives := fun s t => gone s t n ∧ ∀ T, s.team n = some T → ∀ k, s.task T.task = some k →
          ∃ k', t.task T.task = some k' ∧ k'.ended = k.ended + 1 ∧ (k.total ≤ k.ended + 1 → k'.edgeBegun = true) }
  | .level2Fault n => some
      { ok := fun s => ∃ T C c, s.team n = some T ∧ s.ctx n = some C ∧ C.trapped = some c
        gives := fun s t => ∀ T C cause sub w, s.team n = some T → s.ctx n = some C → C.trapped = some (cause, sub, w) →
          t.team n = none ∧ t.ctx n = none ∧
          (∃ ents, t.ras.trigs = s.ras.trigs ++ [⟨1, T.core, BitVec.ofNat 32 w, ents⟩]) ∧
          ∀ k, s.task T.task = some k → ∃ k', t.task T.task = some k' ∧
            k'.partialRun = some (k.partialRun.getD (cause, sub)) ∧ k'.ended = k.ended + 1 }
  | .taskCompletion key => some
      { ok := fun s => ∃ k, s.task key = some k ∧ k.complete = false ∧ k.edgeBegun = true ∧
          ∀ e ∈ s.sched.walks, ¬(e.2.kind = .edge ∧ e.2.task = key)
        gives := fun s t => ∀ k, s.task key = some k →
          (∃ k', t.task key = some k' ∧ k'.complete = true ∧ k'.record = k.record ∧
            (k.partialRun = none → k'.status = 1) ∧
            ∀ c e, k.partialRun = some (c, e) → k'.status = 2 ∧ k'.cause = c ∧ k'.sub = e) ∧
          (t.queue (taskQueue key)).qcnt = (s.queue (taskQueue key)).qcnt - 1 ∧ only [.mem, .sched, .io] s t }
  | .preemptionRequest ts => some
      { ok := fun s => ts.Nodup ∧ s.requested ts = true ∧ ∀ n ∈ ts, ∃ T, s.team n = some T ∧ T.halt = false ∧ s.savable T = true
        gives := fun s t => ∀ n ∈ ts, ∀ T, t.team n = some T → T.halt = true }
  | .teamSave n => some
      { ok := fun s => ∃ T C, s.team n = some T ∧ s.ctx n = some C ∧ T.halt = true ∧ C.trapped = none ∧
          s.finished n T C = false ∧ T.quiesced = true ∧ s.savable T = true ∧ s.atBoundary n = true
        gives := fun s t => ∀ T C, s.team n = some T → s.ctx n = some C →
          t.team n = none ∧ t.ctx n = none ∧ t.sched.saveNo = s.sched.saveNo + 1 ∧
          (∃ v, Tbl.get t.sched.saves s.sched.saveNo = some v ∧ v.key = n ∧ v.team.task = T.task ∧
            v.team.index = T.index ∧ v.team.regions = T.regions ∧ v.ctx = C.asSaved s.clock) ∧
          ∃ x ∈ (t.core T.core).queued, x.saved = some s.sched.saveNo ∧ x.task = T.task ∧ x.index = T.index ∧ x.cls = T.cls }
  | .teamRestore ns is js => some
      { ok := fun s => s.places ns is js ≠ [] ∧ s.wholeRestore (s.places ns is js) = true ∧
          ∃ u, State.restoreAll (s.places ns is js) s = some u
        gives := fun s t => ∀ n core tslot, (n, core, tslot) ∈ s.places ns is js → ∀ v, Tbl.get s.sched.saves n = some v →
          Tbl.get t.sched.saves n = none ∧
          (∃ T, t.team (core * 4 + tslot) = some T ∧ T.task = v.team.task ∧ T.index = v.team.index ∧ T.core = core ∧
            T.tslot = tslot ∧ T.colour = v.team.colour ∧ T.regions = v.team.regions ∧ T.ridx = v.team.ridx ∧
            T.taken = v.team.taken) ∧
          ∃ C, t.ctx (core * 4 + tslot) = some C ∧
            (v.ctx.path.pend = [] → ∀ r, C.reg r = v.ctx.reg r) }
  | _ => none

/-- The device steps of queues, admission and dealing. -/
def queueTurns : Instr → Option Event
  | .qsub f q addr data => some
      { ok := fun _ => True
        gives := fun s t =>
          let Q := s.queue q
          if s.owns f q = false ∨ (s.fn f).flr ≠ 0 then t = s
          else if 4096 ≤ Q.qcnt then t = s.setQueue q { Q with full := true }
          else match s.qsubRead f (addr % 2 ^ 56) data with
            | none => t = s.setQueue q { Q with badaddr := true }
            | some (r, _) => (t.queue q).qseq = Q.qseq + 1 ∧ ∃ k, t.task (taskKey q (Q.qseq + 1).toNat) = some k ∧
                k.fn = f ∧ k.record = r ∧ k.order = s.appendOrder q ∧ (k.complete = true → k.status = 3) }
  | .qctlRelease f q n => some
      { ok := fun _ => True
        gives := fun s t => match s.owns f q, s.task (taskKey q n) with
          | true, some k =>
            if k.complete then t = s
            else ∃ k', t.task (taskKey q n) = some k' ∧ k'.deps = k.deps.map (depAfter s false) ∧
              (k.examined = true → k.eligible = none → (∀ d ∈ k'.deps, d.sat = true) → k'.eligible = some s.clock) ∧
              only [.sched] s t
          | _, _ => t = s }
  | .qctlCancel f q n => some
      { ok := fun _ => True
        gives := fun s t => match s.owns f q, s.task (taskKey q n) with
          | true, some k =>
            if k.complete ∨ k.started ≠ 0 then t = s
            else (∃ k', t.task (taskKey q n) = some k' ∧ k'.complete = true ∧ k'.status = 4) ∧
              ∀ e ∈ t.cores, ∀ x ∈ e.2.queued, x.task ≠ taskKey q n
          | _, _ => t = s }
  | .recordExamination q => some
      { ok := fun s => ∃ e, s.toExamine q = some e
        gives := fun s t => ∀ key k, s.toExamine q = some (key, k) → ∃ k', t.task key = some k' ∧ k'.examined = true ∧
          k'.deps = k.deps.map (depAfter s true) ++
            (s.implicitOn k (k.deps.map (·.on))).map (fun on => (⟨on, true, false⟩ : Dep)) ∧
          (k.complete = false → k.eligible = none → (∀ d ∈ k'.deps, d.sat = true) → k'.eligible = some s.clock) ∧
          only [.sched] s t }
  | .admission key => some
      { ok := fun s => ∃ k, s.task key = some k ∧ (s.nextAdmitted k.fn).map (·.1) = some key ∧ s.frozen k.fn = false ∧
          s.dealt k.fn ≠ [] ∧ (k.cores' = true → wholeAt (s.setTask key { k with admitted := true }) key k)
        gives := fun s t => ∃ k', t.task key = some k' ∧ k'.admitted = true ∧
          ∀ k, s.task key = some k → (k.cores' = false → t = s.setTask key { k with admitted := true }) ∧
            (k.cores' = true → k.dealt ≤ k'.dealt) }
  | .teamDeal key => some
      { ok := fun s => ∃ k, s.task key = some k ∧ k.admitted = true ∧ k.complete = false ∧ k.dealt < k.total ∧
          s.frozen k.fn = false ∧ (if k.cspan then wholeAt s key k else ∃ c, s.chooseCore k.fn ((s.dealt k.fn).filter (fun c => (s.core c).teamq.length < 16)) [] = some c)
        gives := fun s t => ∀ k, s.task key = some k → ∃ k', t.task key = some k' ∧ k.dealt ≤ k'.dealt ∧
          (k.cspan = false → k'.dealt = k.dealt + 1 ∧ ∀ c,
            s.chooseCore k.fn ((s.dealt k.fn).filter (fun c => (s.core c).teamq.length < 16)) [] = some c →
            (t.core c).teamq = queueIn ⟨key, k.dealt, k.cls, none⟩ (s.core c).teamq ∧ k'.place = k.place ++ [c]) }
  | _ => none

/-- The device steps of gleaning and of the remainder's holder. -/
def gleanTurns : Instr → Option Event
  | .glean core => some
      { ok := fun s => ∃ f, s.fnOfCore core = some f ∧ (s.core core).dead = false ∧ s.teamsOf core = [] ∧
          (s.core core).queued = [] ∧ (s.core core).gleanTo = none
        gives := fun s t => (t.core core).glean = gleanNext (s.core core).glean ∧ only [.cores] s t ∧
          ((∃ v, (t.core core).gleanTo = some v ∧ v ≠ core ∧ (t.core core).gleanFails = (s.core core).gleanFails ∧
            ((s.core core).gleanFails < 4 → v / 64 = core / 64)) ∨
          ((t.core core).gleanTo = none ∧ (t.core core).gleanFails = (s.core core).gleanFails + 1)) }
  | .gleanAnswer core => some
      { ok := fun s => (∃ v, (s.core core).gleanTo = some v ∧ (s.core v).answered.past s.clock (255 - core) = false) ∧
          (s.core core).gleanAns = none
        gives := fun s t => ∀ v, (s.core core).gleanTo = some v →
          only [.cores] s t ∧ ∃ l, (t.core core).gleanAns = some l ∧ (∀ x ∈ l, x.saved = none ∧ x ∈ (s.core v).teamq) ∧
            l.length = cdiv ((s.core v).teamq.filter (fun x => x.saved.isNone)).length 2 ∧
            (v ≠ core → (t.core v).queued.length + l.length = (s.core v).queued.length) }
  | .gleanAnswerArrival core => some
      { ok := fun s => ∃ l, (s.core core).gleanAns = some l ∧ (s.core core).teamq.length + l.length ≤ 16
        gives := fun s t => ∀ l, (s.core core).gleanAns = some l →
          (t.core core).gleanAns = none ∧ (t.core core).gleanTo = none ∧ (∀ x ∈ l, x ∈ (t.core core).teamq) ∧
          (∀ x ∈ (s.core core).teamq, x ∈ (t.core core).teamq) ∧
          (t.core core).gleanFails = (if l = [] then (s.core core).gleanFails + 1 else 0) ∧ only [.cores] s t }
  | .quantumEnd => some
      { ok := fun s => ∃ h, s.sched.holder = some h ∧ s.sched.quantumEnd ≤ s.clock ∧ (s.residentWork h = false ∨
          (List.range 16).any (fun f => f != h && s.sliced f && (s.eligibleWork f || s.savedWork f)) = false)
        gives := fun s t => only [.sched] s t ∧ ∃ f, t.sched.holder = some f ∧
          t.sched.quantumEnd = s.clock + 1800 * (s.fn f).quantum.toNat ∧ ∀ h, s.sched.holder = some h →
          f = if (List.range 16).any (fun f => f != h && s.sliced f && (s.eligibleWork f || s.savedWork f)) then
              (s.nextHolder h).getD h else h }
  | .holderChange => some
      { ok := fun s => match s.sched.holder with
          | none => ∃ f, f < 16 ∧ s.sliced f = true ∧ s.hasWork f = true
          | some h => s.hasWork h = false
        gives := fun s t => only [.sched] s t ∧ (∀ f, t.sched.holder = some f → s.sliced f = true ∧ s.hasWork f = true ∧
            t.sched.quantumEnd = s.clock + 1800 * (s.fn f).quantum.toNat) ∧
          (s.sched.holder = none → t.sched.holder ≠ none) }
  | _ => none

/-- The device steps of functions. -/
def fnTurns : Instr → Option Event
  | .tokenTick => some
      { ok := fun s => s.sec.ticks < s.clock / 1800
        gives := fun s t => only [.sec] s t ∧ t.sec.ticks = s.sec.ticks + 1 ∧
          (s.sec.pool ≤ poolCap → t.sec.pool ≤ poolCap) ∧
          ∀ f, f < 16 → (t.fn f).en = (s.fn f).en ∧
            ((s.fn f).en = true → (t.fn f).rate = (s.fn f).rateNext ∧ (t.fn f).depth = (s.fn f).depthNext ∧
              (t.fn f).borrow = (s.fn f).borrowNext ∧ ((s.fn f).rateNext ≠ 0 →
                (t.fn f).tokens ≤ 4096 * (s.fn f).depthNext.toNat)) ∧
            ((s.fn f).en = false → t.fn f = s.fn f) }
  | .fcfgEnable f w => some
      { ok := fun s => s.ready = true → f < 16 ∧ (s.fn f).en = false ∧ w.getLsbD 0 = true
        gives := fun s t => (s.ready = false → t = s) ∧ (s.ready = true → only [.sec] s t ∧
          let F := { s.fn f with ts := w.getLsbD 1, pmask := w.extractLsb' 2 4, quantum := w.extractLsb' 8 24 }
          if s.enOk f F then (t.fn f).en = true ∧ (t.fn f).tokens = 4096 * (s.fn f).depth.toNat ∧ (t.fn f).debt = 0 ∧
            (t.fn f).ts = w.getLsbD 1 ∧ (t.fn f).cfgerr = (s.fn f).cfgerr
          else (t.fn f).en = false ∧ (t.fn f).cfgerr = true) }
  | .fcfgDisable f w => some
      { ok := fun s => s.ready = true → f < 16 ∧ (s.fn f).en = true ∧ w.getLsbD 0 = false
        gives := fun s t => (s.ready = false → t = s) ∧ (s.ready = true → only [.sec, .sched] s t ∧
          (s.busyFn f = true → (t.fn f).en = true) ∧ (s.busyFn f = false → (t.fn f).en = false ∧
            (s.sched.holder = some f → t.sched.holder = none)) ∧ (t.fn f).ts = (s.fn f).ts) }
  | _ => none

end Sys2Proof.Rules
end

