-- ==== Sys2Proof/Rules/TurnsMgmt.lean ====
section
/-! DEFINITION. The rules of the device steps of the registers of BAR0, of management commands, of the reset of a
function and of the host interface. -/

namespace Sys2Proof.Rules

open Sys2Proof.Machine Sys2Proof.Safety

/-! Management commands (R404, R405). -/

/-- Checks in their order, each with the status with which the command ends where it is the first to fail. -/
def first : List (Prop × Nat) → (Nat → Prop) → Prop → Prop
  | [], _, d => d
  | (p, st) :: l, e, d => (p → e st) ∧ (¬p → first l e d)

/-- A command ends with a status and has changed nothing beside its function's registers. -/
def refusedWith (f : Nat) (s t : State) (st : Nat) : Prop :=
  (t.fn f).mend = st ∧ only [.sec] s t ∧ t.sec.exts = s.sec.exts ∧ t.sec.colours = s.sec.colours ∧ t.sec.slots = s.sec.slots

/-- A write of OP: nothing before READY and while a command runs; else the command runs, ends with the status of the first
check that fails, or does what it does. -/
def commands (f op : Nat) (checks : List (Prop × Nat)) (done : Prop) (s t : State) : Prop :=
  (s.ready = false ∨ (s.fn f).mstatus = 1 → t = s) ∧
  (s.ready = true → (s.fn f).mstatus ≠ 1 → (t.fn f).mstatus = 1 ∧ (t.fn f).mop = op ∧
    first checks (refusedWith f s t) done)

/-- No colour of that number can be named by a command. -/
def badColour (c : Nat) : Prop := c = 0 ∨ 0xFFF < c

/-- Another colour-table entry than c is as before. -/
def otherColours (s t : State) (c : Nat) : Prop := ∀ d, d ≠ c → t.colour d = s.colour d
/-- Another extent-table entry than i is as before. -/
def otherExts (s t : State) (i : Nat) : Prop := ∀ j, j ≠ i → t.ext j = s.ext j

/-- The checks of EXT_REVOKE and EXT_FREE (R409). -/
def takeChecks (f i : Nat) (s : State) : List (Prop × Nat) :=
  [(1024 ≤ i, 5), (mayIssue f (if (s.ext i).state = 0 then 0 else s.ownerOf (s.ext i).colour) = false, 4),
   ((s.ext i).state = 0, 5)]

/-- What taking an extent back comes to at once: a wait on an earlier command of the extent, a wait on the revocation, or
its end. -/
def takes (f i : Nat) (free : Bool) (s t : State) : Prop :=
  (s.takenBack f i = true → (t.fn f).mend = 0 ∧ (t.fn f).mextent = some (i + 1024) ∧ t.ext i = s.ext i) ∧
  (s.takenBack f i = false → (s.ext i).state = 1 → (t.fn f).mend = 0 ∧ (t.fn f).mextent = some i ∧ t.ext i = s.ext i) ∧
  (s.takenBack f i = false → (s.ext i).state ≠ 1 → (t.fn f).mend = 2 ∧
    (t.ext i).state = (if free ∧ (s.ext i).state = 2 then 3 else (s.ext i).state)) ∧
  otherExts s t i ∧ only [.sec] s t

/-- The register that a write of BAR0 reaches: the function sees it, and it responds. -/
def reachesReg (s : State) (f off : Nat) : Prop :=
  (regOf (off / 4 * 4)).seen f = true ∧ ((regOf (off / 4 * 4)).early = true ∨ s.ready = true)

/-- Registers that read back what was written (R434, R453, R455, R457, R458), where nothing locks them. -/
def readsBack (s : State) : Reg → Prop
  | .brdesc i => i < 6 ∧ s.bring.go = false
  | .logring g i => i < 6 ∧ i ≠ 3 ∧ (i < 3 → (s.ring g).en = false)
  | .snap i => i < 2
  | .rnonce _ i => i < 4
  | .rcpt i => i < 3 ∨ i = 4
  | .ckpt i => i = 0 ∨ i = 2 ∨ i = 3
  | .mcmd i => 1 ≤ i
  | _ => False

/-- Writes of the registers of BAR0. -/
def mgmtTurns : Instr → Option Event
  | .registerWrite f off w => some
      { ok := fun s => reachesReg s f off → match regOf (off / 4 * 4) with
          | .mcmd 0 => w.toNat % 256 = 6 → (s.fn f).mstatus = 1 ∨ isHost ((s.fn f).arg 16 8) = false
          | .ckpt 4 => bitsOf w.toNat 25 24 = 2 → s.ras.ckStatus = 1
          | _ => True
        gives := fun s t => (¬reachesReg s f off → t = s) ∧ (reachesReg s f off →
          (readsBack s (regOf (off / 4 * 4)) → ((s.fn f).mstatus ≠ 1 ∨ ∀ i, regOf (off / 4 * 4) ≠ .mcmd i) →
            t.readReg f (off / 4 * 4) = w) ∧
          match regOf (off / 4 * 4) with
          | .brstat _ => t = s
          | .revpass _ => t = s
          | .coreret _ => t = s
          | .phys _ => t = s
          | .errcnt _ _ => t = s
          | .brdesc _ => s.bring.go = true → t = s
          | .wsplit i => if i = 0 ∧ w.toNat % 16 ≤ 12 ∧ (s.sec.colours.any (fun e => e.2.keyed)) = false then
              t.sec.pways = w.toNat % 16 ∧ only [.sec] s t else t = s
          | .queue q i => if s.owns f q = true ∧ i = 7 then
              (t.queue q).full = ((s.queue q).full && !w.getLsbD 0) ∧
              (t.queue q).badaddr = ((s.queue q).badaddr && !w.getLsbD 1) ∧ (t.queue q).qcnt = (s.queue q).qcnt ∧
              only [.sched] s t else t = s
          | .logring g i => i = 6 → (t.ring g).en = w.getLsbD 0
          | _ => True) }
  | _ => none

/-- What the spec gives a management command: its code, its checks in their order, what else its success depends on, and
what it then does. -/
structure Command where
  op : Nat
  checks : State → List (Prop × Nat)
  grants : State → Prop := fun _ => True
  done : State → State → Prop
/-- The command written by a function, as a step. -/
def Command.event (c : Command) (f : Nat) : Event :=
  { ok := fun _ => f < 16
    gives := fun s t => commands f c.op (c.checks s) (c.done s t) s t }
/-- The command that runs and meets no check: it does what it does. -/
def Command.granted (c : Command) (f : Nat) : Event :=
  { ok := fun s => f < 16 ∧ s.ready = true ∧ (s.fn f).mstatus ≠ 1 ∧ (∀ x ∈ c.checks s, ¬x.1) ∧ c.grants s
    gives := fun s t => (t.fn f).mstatus = 1 ∧ (t.fn f).mop = c.op ∧ c.done s t }

/-- The commands of extents (R405, R408, R409). -/
def extAddCommand (f i : Nat) (img : BitVec 128) : Command :=
  let n := i % 65536
  let e := Ext.ofImage img
  { op := 1
    checks := fun s => [(1024 ≤ n ∨ e.placed = false, 5), (f ≠ 0, 4),
      ((s.ext n).state ≠ 0 ∨ (s.colour e.colour).valid = false ∨ s.chsetOk e = false, 5),
      (∃ x ∈ s.sec.exts, x.2.state ≠ 0 ∧ max x.2.lo e.lo < min x.2.hi' e.hi', 6)]
    done := fun s t => (t.fn f).mend = 2 ∧ t.ext n = e ∧ otherExts s t n ∧ t.sec.colours = s.sec.colours ∧
      t.mem.bytes = s.mem.bytes ∧ t.mem.tags = s.mem.tags ∧ only [.fresh, .mem, .sec] s t }
def takeCommand (f i : Nat) (free : Bool) : Command :=
  { op := if free then 3 else 2, checks := takeChecks f (i % 65536), done := takes f (i % 65536) free }

/-- Management commands of extents. -/
def extentTurns : Instr → Option Event
  | .extAdd f i img => some ((extAddCommand f i img).event f)
  | .extRevoke f i => some ((takeCommand f i false).event f)
  | .extFree f i => some ((takeCommand f i true).event f)
  | .revocationPoint i => some
      { ok := fun s => (s.ext i).state = 1 ∧ ∃ f, f < 16 ∧ s.runs f [2, 3] i = true
        gives := fun s t => (t.ext i).state = 2 ∧ (t.ext i).late = s.mem.dirtyIn (s.ext i).lo (s.ext i).hi' ∧
          otherExts s t i ∧ only [.mem, .sec] s t ∧
          ∀ e ∈ t.mem.l1, ¬max (s.ext i).lo (128 * l1Line e.1) < min (s.ext i).hi' (128 * l1Line e.1 + 128) }
  | _ => none

/-- The commands of colours and keys (R405, R407, R410 to R414). -/
def colSetCommand (f colour fn prot kslot : Nat) : Command :=
  let c := colour % 65536
  { op := 4
    checks := fun s => [(badColour c ∨ 15 < fn % 256 ∨ 1 < prot % 256, 5), (f ≠ 0, 4),
      (((s.colour c).valid = true ∧ ∃ e ∈ s.sec.exts, e.2.state ≠ 0 ∧ e.2.colour = c) ∨
        (prot % 256 = 1 ∧ ∃ e ∈ s.sec.colours, e.1 ≠ c ∧ e.2.valid = true ∧ e.2.prot = true ∧ e.2.kslot = kslot % 256), 6)]
    done := fun s t => (t.fn f).mend = 2 ∧ (t.colour c).valid = true ∧ (t.colour c).func = fn % 256 ∧
      ((t.colour c).prot = true ↔ prot % 256 = 1) ∧ (prot % 256 = 1 → (t.colour c).kslot = kslot % 256) ∧
      otherColours s t c ∧ t.sec.exts = s.sec.exts ∧ only [.sec] s t }
def imgBindCommand (f colour i : Nat) : Command :=
  let c := colour % 65536
  let n := i % 65536
  { op := 5
    checks := fun s => [(badColour c ∨ 1024 ≤ n, 5), (mayIssue f (s.ownerOf c) = false, 4),
      ((s.colour c).valid = false ∨ (s.colour c).keyed = true ∨ (s.ext n).state ≠ 1 ∨ (s.ext n).colour ≠ c, 5)]
    done := fun s t => (t.fn f).mend = 2 ∧ (t.ext n).mode = 1 ∧ (t.colour c).bound = true ∧ (t.colour c).bext = n ∧
      (isSys (s.ext n).lo = false →
        (t.colour c).digest = Config.sha512 (s.mem.homeRead (s.ext n).lo (4096 * (s.ext n).lenp))) ∧
      otherColours s t c ∧ otherExts s t n ∧ only [.sec] s t }
def keyReleaseCommand (f colour addr : Nat) (blob : Option (List Byte)) : Command :=
  let c := colour % 65536
  { op := 6
    checks := fun s => [(badColour c, 5), (mayIssue f (s.ownerOf c) = false, 4),
      ((s.colour c).valid = false ∨ (s.colour c).prot = false, 5), ((s.slot (s.colour c).kslot).loaded = true, 9),
      (s.sec.pways = 0, 10), (s.blobRead c (addr % 2 ^ 64) blob = none, 5)]
    grants := fun s => ∃ bs key, s.blobRead c (addr % 2 ^ 64) blob = some bs ∧ s.unwrap c (s.colour c) bs = .ok key
    done := fun s t =>
      let x := s.colour c
      ∀ bs, s.blobRead c (addr % 2 ^ 64) blob = some bs → match s.unwrap c x bs with
        | .error st => refusedWith f s t st
        | .ok key => (t.fn f).mend = 2 ∧ (t.slot x.kslot).loaded = true ∧ (t.slot x.kslot).key = key ∧
            (t.slot x.kslot).high = 0 ∧ (t.slot x.kslot).gen = (s.slot x.kslot).gen ∧ (t.colour c).keyed = true ∧
            (∀ e ∈ s.sealables c, ∀ a, e.lo ≤ a → a < e.hi' → t.mem.bytes.read a = 0) ∧
            otherColours s t c ∧ t.sec.exts = s.sec.exts ∧ only [.mem, .sec] s t }
def keyZeroCommand (f colour : Nat) : Command :=
  let c := colour % 65536
  { op := 7
    checks := fun s => [(badColour c, 5), (mayIssue f (s.ownerOf c) = false, 4),
      ((s.colour c).valid = false ∨ (s.colour c).prot = false, 5)]
    done := fun s t =>
      let x := s.colour c
      (s.keyReleasing f c = true → (t.fn f).mend = 0 ∧ (t.fn f).mextent = some c ∧ only [.sec] s t) ∧
        (s.keyReleasing f c = false → (t.fn f).mend = 2 ∧ ((s.slot x.kslot).loaded = true →
          t.slot x.kslot = { loaded := false, key := 0, high := 0, gen := (s.slot x.kslot).gen + 1 } ∧
          (t.colour c).keyed = false ∧ ∀ e ∈ t.mem.l1, l1Colour e.1 ≠ c)) ∧
        otherColours s t c ∧ t.sec.exts = s.sec.exts ∧ only [.fresh, .mem, .sec] s t }

/-- Management commands of colours and keys. -/
def colourTurns : Instr → Option Event
  | .colSet f colour fn prot kslot => some ((colSetCommand f colour fn prot kslot).event f)
  | .imgBind f colour i => some ((imgBindCommand f colour i).event f)
  | .keyRelease f colour addr blob => some ((keyReleaseCommand f colour addr blob).event f)
  | .keyZero f colour => some ((keyZeroCommand f colour).event f)
  | _ => none

/-- PREEMPT and SWEEP (R405, R420, R421). -/
def preemptCommand (f fn : Nat) : Command :=
  let g := fn % 256
  { op := 8
    checks := fun s => [(15 < g, 5), (f ≠ 0, 4), ((s.fn g).csax = 0x3FF, 5)]
    done := fun s t => ((s.fn g).en = true → (∃ e ∈ s.teams, e.2.fn = g) → (t.fn f).mend = 0 ∧ (t.fn f).mextent = some g ∧
        ∀ e ∈ s.teams, e.2.fn = g → (e.1, e.2.task, e.2.index) ∈ (t.fn f).mteams) ∧
      ((s.fn g).en = false ∨ (∀ e ∈ s.teams, e.2.fn ≠ g) → (t.fn f).mend = 2) ∧ only [.sec] s t }
def sweepCommand (f : Nat) : Command :=
  { op := 9
    checks := fun _ => [(f ≠ 0, 4)]
    done := fun s t => (t.fn f).mend = 2 ∧ (t.fn f).arg 32 4 = t.sec.passRun.toNat ∧
      (s.sec.passRun ≠ 0 → t.sec.passRun = s.sec.passRun ∧ t.sec.gathered = s.sec.gathered) ∧
      (s.sec.passRun = 0 → t.sec.passRun = s.sec.passDone + 1 ∧ t.sec.gathered.length ≤ 64 ∧
        ∀ i ∈ t.sec.gathered, ∃ e ∈ s.sec.exts, e.1 = i ∧ e.2.state = 3) ∧ only [.sec] s t }

/-- The other management commands, the end of one and of a sweep. -/
def sweepTurns : Instr → Option Event
  | .preempt f fn => some ((preemptCommand f fn).event f)
  | .sweep f => some ((sweepCommand f).event f)
  | .mcmdUnlistedOp f op => some
      { ok := fun _ => f < 16 ∧ ¬(1 ≤ op % 256 ∧ op % 256 ≤ 9)
        gives := fun s t => commands f (op % 256) [(True, 3)] True s t }
  | .managementCommandEnd f => some
      { ok := fun s => (s.fn f).mstatus = 1 ∧ ((s.fn f).mend ≠ 0 ∨ ∃ u, s.resolveCmd f = some u)
        gives := fun s t => t.io.out = s.io.out ++ [.msix f 0] ∧ (t.fn f).mend = 0 ∧ (t.fn f).mextent = none ∧
          ((s.fn f).mend ≠ 0 → (t.fn f).mstatus = (s.fn f).mend ∧ t.mem = s.mem ∧ only [.sec, .io] s t) ∧
          ((s.fn f).mend = 0 → (s.fn f).mop ≠ 7 → (t.fn f).mstatus = 2) ∧
          ((s.fn f).mend = 0 → ∀ i, (s.fn f).mop = 3 → (s.fn f).mextent = some i → i < 1024 → (s.ext i).state = 2 →
            (t.ext i).state = 3) }
  | .sweepPassComplete => some
      { ok := fun s => s.sec.passRun ≠ 0 ∧ s.tagsComing = false
        gives := fun s t => t.sec.passDone = s.sec.passRun ∧ t.sec.passRun = 0 ∧ t.sec.gathered = [] ∧
          (∀ i ∈ s.sec.gathered, (t.ext i).state = 0) ∧ t.io.out = s.io.out ++ [.msix 0 1] ∧
          t.mem.bytes = s.mem.bytes ∧
          (∀ g, Store.read t.mem.tags g ≠ 0 → ∃ b, (g, b) ∈ s.mem.tags ∧
            s.revoked ⟨BitVec.ofNat 128 (leNat (s.mem.bytes.readN (16 * g) 16)), true⟩ = false) ∧
          ∀ n C, s.ctx n = some C → ∃ C', t.ctx n = some C' ∧ C'.c = C.c ∧ ∀ r, r < 31 → C'.ctag.getLsbD r = (C.ctag.getLsbD r &&
            !s.revoked ⟨BitVec.ofNat 128 ((C.reg (2 * r)).toNat + 2 ^ 64 * (C.reg (2 * r + 1)).toNat), true⟩) }
  | _ => none

/-! The reset of a function and the host interface (R423, R424, R442, R443, R457). -/

/-- Nothing of a function is left at work: no task, no resident or saved team, no waiting transfer; its colours are
invalid, their lines gone, their storage zero. -/
structure scrubbed (s t : State) (f : Nat) : Prop where
  tasks : ∀ e ∈ t.sched.tasks, e.2.fn ≠ f
  saves : ∀ e ∈ t.sched.saves, e.2.team.fn ≠ f
  colours : ∀ c ∈ s.coloursOf f, (t.colour c).valid = false
  lines : ∀ e ∈ t.mem.l1, l1Colour e.1 ∉ s.coloursOf f
  waits : (t.fn f).flr = 6 ∧ (t.fn f).waiting = [] ∧ (t.fn f).scrub = s.scrubList f

/-- A reset asked for: nothing while one runs, else steps 1 to 5. -/
def resets (s t : State) (f : Nat) : Prop := ((s.fn f).flr ≠ 0 → t = s) ∧ ((s.fn f).flr = 0 → scrubbed s t f)

/-- A change of TDISP state: from one, to another; in any other nothing. -/
def tdi (f a b : Nat) (s t : State) : Prop :=
  ((s.fn f).tdi ≠ a → t = s) ∧ ((s.fn f).tdi = a → (t.fn f).tdi = b ∧ (t.fn f).en = (s.fn f).en ∧ only [.sec] s t)

/-- A request that the host or a peer is refused: nothing at the home; an answer with that status but for a host write. -/
def turnedAway (dst st : Nat) (answers : Bool) (s t : State) : Prop :=
  t.mem = s.mem ∧ t.io.out = s.io.out ++ (if answers then [.answer dst [] st] else [])

/-- What an admitted request does (R50, R175): a read's bytes, a write's bytes, an atomic's old value and effect,
no effect where it meets a poisoned unit (R446). -/
def servedAt (dst : Nat) (rq : InRq) (peer : Bool) (s t : State) : Prop :=
  match rq with
  | .read a n => t.mem = s.mem ∧ (s.mem.poisonIn a n = none → isSys a = false →
      t.io.out = s.io.out ++ [.answer dst (s.mem.homeRead a n) 0])
  | .write a d => t.mem = s.mem.homeWrite a d ∧ t.io.out = s.io.out ++ (if peer then [.answer dst [] 0] else [])
  | .atomic r =>
    let y := (ityOf r.ty).getD tN32
    let old := leNat (s.mem.homeRead r.addr (y.w / 8))
    if (s.mem.poisonIn r.addr (y.w / 8)).isSome then
      t.mem = s.mem ∧ t.io.out = s.io.out ++ [.answer dst (leBytes (y.w / 8) old) 8]
    else t.io.out = s.io.out ++ [.answer dst (leBytes (y.w / 8) old) 0] ∧
      t.mem = s.mem.homeWrite r.addr (leBytes (y.w / 8)
        (if r.fl = false ∧ r.op = 9 then (if old = r.c then r.a else old) else atomValue r.fl r.op y old r.a))

/-- The device steps of resets and of the host interface. -/
def hostTurns : Instr → Option Event
  | .functionLevelReset f => some
      { ok := fun s => f < 16 ∧ s.ready = true ∧ ((s.fn f).flr = 0 → s.releasesOf f = false)
        gives := fun s t => resets s t f }
  | .stopInterface f => some
      { ok := fun s => f < 16 ∧ ((s.fn f).tdi ≠ 0 → (s.fn f).flr = 0 → s.releasesOf f = false)
        gives := fun s t => ((s.fn f).tdi = 0 → t = s) ∧ ((s.fn f).tdi ≠ 0 → resets s t f) }
  | .scrubReceipt f => some
      { ok := fun s => (s.fn f).flr = 6 ∧
          (s.ras.rcptHead - s.ras.rcptTail).toNat + (s.receipt f).length ≤ s.ras.rcptLen.toNat ∧
          ∃ e ∈ s.sec.exts, e.2.state = 1 ∧ e.2.colour = 0 ∧ e.2.lo ≤ s.ras.rcptBase.toNat ∧
            s.ras.rcptBase.toNat + s.ras.rcptLen.toNat ≤ e.2.hi'
        gives := fun s t => t.ras.rseq = s.ras.rseq + 1 ∧
          t.ras.rcptHead = s.ras.rcptHead + BitVec.ofNat 32 (s.receipt f).length ∧
          t.mem = putRing s.ras.rcptBase.toNat s.ras.rcptLen.toNat s.ras.rcptHead.toNat (s.receipt f) s.mem ∧
          (t.fn f).flr = 0 ∧ (t.fn f).tdi = 0 ∧ (t.fn f).insecure = false ∧ (t.fn f).en = (s.fn f).en ∧
          ((s.fn f).en = true → ∀ q, q < 128 → (s.fn f).queues.getLsbD q = true →
            (t.queue q).qseq = 0 ∧ (t.queue q).qdone = 0 ∧ (t.queue q).qcnt = 0) }
  | .lockInterface f => some { ok := fun _ => f < 16, gives := tdi f 0 1 }
  | .startInterface f => some { ok := fun _ => f < 16, gives := tdi f 1 2 }
  | .spdmRequest rq => some
      { ok := fun s => s.bring.pcie = true ∧ s.bring.stage ≠ 0
        gives := fun s t => only [.io] s t ∧ ∃ d, t.io.out = s.io.out ++ [.spdm d] }
  | .ideIntegrityFailure f => some
      { ok := fun _ => f < 16
        gives := fun s t => (t.fn f).insecure = true ∧ (t.fn f).tdi = 3 ∧ (∀ g, g ≠ f → t.fn g = s.fn g) ∧ t.mem = s.mem }
  | .flitReplay => some { ok := fun _ => True, gives := fun s t => t = s }
  | _ => none

/-- Requests that arrive from the host and from peers. -/
def inboundTurns : Instr → Option Event
  | .hostInboundRequest f rq => some
      { ok := fun _ => f < 16
        gives := fun s t =>
          let (a, n, k) := reqSpan rq
          if (s.fn f).insecure = true then t = s
          else if s.ready = false ∨ (s.fn f).en = false ∨ (s.hiErr f a n (k != 0)).1 ≠ none then turnedAway f 1 (k != 1) s t
          else servedAt f rq false s t }
  | .peerInboundRequest dev cap tag rq => some
      { ok := fun _ => True
        gives := fun s t =>
          match (if s.ready then s.portErr ⟨cap, tag⟩ rq else (some (cCAPABILITY, subCOLOUR), 0)).1 with
          | some e => turnedAway (16 + dev) (256 + e.1 + 4096 * e.2) true s t
          | none => servedAt (16 + dev) (reqHere rq) true s t }
  | _ => none

end Sys2Proof.Rules
end

