-- ==== Sys2Proof/Rules/TurnsPower.lean ====
section
/-! DEFINITION. The rules of the device steps of bring-up and of the Fewick ports (R432 to R444). -/

namespace Sys2Proof.Rules

open Sys2Proof.Machine Sys2Proof.Safety

/-! Bring-up (R432 to R436, R442, R444). -/

/-- The machine is as after reset but for the parts that a power-up leaves: bring-up at a stage. -/
def fromReset (s t : State) (stage : Nat) : Prop :=
  t.clock = 0 ∧ t.groups = [] ∧ t.ctxs = [] ∧ t.teams = [] ∧ t.cores = [] ∧ t.bars = [] ∧ t.mem = State.reset.mem ∧
    t.sched = State.reset.sched ∧ t.sec = State.reset.sec ∧ t.bring.stage = stage ∧ t.bring.pcie = false ∧
    t.bring.boots = s.bring.boots + 1

/-- A stage ends and the next begins. -/
def entered (s t : State) (stage : Nat) : Prop := t.bring.stage = stage ∧ t.bring.since = t.clock

/-- A stage fails with a code (R432, R433). -/
def failedWith (s t : State) (code : Nat) : Prop :=
  t.bring.stage = 15 ∧ t.bring.fstage = s.bring.stage ∧ t.bring.fail = code ∧ only [.bring] s t

/-- The device steps of bring-up. -/
def powerTurns : Instr → Option Event
  | .powerUp => some
      { ok := fun _ => True
        gives := fun s t => fromReset s t 1 ∧ t.ras = State.reset.ras ∧ t.bring.go = false ∧ t.bring.ports = [] }
  | .powerOff => some
      { ok := fun _ => True
        gives := fun s t => fromReset s t 0 ∧ t.ras = State.reset.ras ∧ t.bring.go = false ∧ t.bring.ports = [] }
  | .conventionalReset => some
      { ok := fun s => s.bring.stage ≠ 0
        gives := fun s t => t.clock = 0 ∧ t.groups = [] ∧ t.ctxs = [] ∧ t.teams = [] ∧ t.bars = [] ∧
          t.mem = State.reset.mem ∧ t.sched = State.reset.sched ∧ t.sec = State.reset.sec ∧ t.bring.stage = 1 ∧
          t.bring.pcie = false ∧ t.bring.boots = s.bring.boots ∧ t.bring.go = s.bring.go ∧
          t.bring.fwaddr = s.bring.fwaddr ∧ t.bring.cfgaddr = s.bring.cfgaddr ∧ t.bring.fwlen = s.bring.fwlen ∧
          t.bring.cfglen = s.bring.cfglen ∧ t.ras.ue = s.ras.ue ∧ t.ras.ce = s.ras.ce ∧ t.ras.rseq = s.ras.rseq }
  | .pcieTraining flit => some
      { ok := fun s => s.bring.stage = 1 ∧ s.bring.pcie = false
        gives := fun s t => only [.bring] s t ∧
          (flit = false → t.bring.stage = 1 ∧ t.bring.fail = 1 ∧ t.bring.fstage = 1) ∧
          (flit = true → t.bring.pcie = true ∧ t.bring.fail = 0 ∧ t.bring.stage = (if s.bring.go then 2 else 1)) }
  | .go => some
      { ok := fun _ => True
        gives := fun s t => only [.bring] s t ∧ (s.bring.go = true ∨ s.bring.stage ≠ 1 → t = s) ∧
          (s.bring.go = false → s.bring.stage = 1 → t.bring.go = true ∧
            t.bring.stage = (if s.bring.pcie then 2 else 1)) }
  | .firmwareVerify img => some
      { ok := fun s => s.bring.stage = 2 ∧ ∀ bs, img = some bs → bs.length = s.bring.fwlen.toNat
        gives := fun s t => only [.bring] s t ∧
          let n := s.bring.fwlen.toNat
          first [(n < 4096 ∨ 67108864 < n, 10), (img = none, 9), (∃ bs, img = some bs ∧ Config.verify bs = false, 2),
            (∃ bs, img = some bs ∧ Config.fwVersion bs < Config.fuseVersion, 3)] (failedWith s t)
            (entered s t 3 ∧ ∀ bs, img = some bs → t.bring.fwDigest = Config.sha512 bs) }
  | .configApply blob => some
      { ok := fun s => s.bring.stage = 3 ∧ ∀ bs, blob = some bs → bs.length = s.bring.cfglen.toNat
        gives := fun s t => only [.bring, .sec] s t ∧
          let n := s.bring.cfglen.toNat
          first [(n < 4096 ∨ 1048576 < n, 10), (blob = none, 9), (∃ bs, blob = some bs ∧ Config.verify bs = false, 4),
            (∃ bs, blob = some bs ∧ Config.blobBound bs = false, 5),
            (∃ bs, blob = some bs ∧ (2 < (Config.blobSpares bs).1 ∨ 1 < (Config.blobSpares bs).2 ∨
              (Config.blobNums bs).2.2.1 ≤ (Config.blobNums bs).2.1), 6)] (failedWith s t)
            (entered s t 4 ∧ ∀ bs, blob = some bs → t.bring.cfgDigest = Config.sha512 bs ∧
              t.sec.pways = min 12 (Config.blobNums bs).1 ∧ t.bring.podmod = (Config.blobNums bs).2.2.1 ∧
              ∀ p, p < 12 → (t.port p).enabled = (Config.blobPort bs p).1 ∧ (t.port p).state = 0 ∧
                (t.port p).retrain = (s.port p).retrain) }
  | .hbmTraining ok => some
      { ok := fun s => s.bring.stage = 4
        gives := fun s t => only [.bring] s t ∧ (ok = true → entered s t 5) ∧ (ok = false → failedWith s t 7) }
  | .fabricBringUp ok => some
      { ok := fun s => s.bring.stage = 5
        gives := fun s t => only [.bring, .clock] s t ∧ (ok = false → failedWith s t 8) ∧
          (ok = true → t.clock = 0 ∧ entered s t 6 ∧ ∀ p x, Tbl.get s.bring.ports p = some x →
            (t.port p).state = (if x.enabled then 1 else x.state)) }
  | .stageTimeLimit => some
      { ok := fun s => ∃ ms, stageLimit s.bring.stage = some ms ∧ s.bring.since + 1800000 * ms ≤ s.clock
        gives := fun s t => t.bring.stage = 15 ∧ t.bring.fstage = s.bring.stage ∧
          t.bring.fail ∈ stageCodes s.bring.stage ∧ only [.bring, .fresh] s t }
  | .fewickStageEnd => some
      { ok := fun s => s.bring.stage = 6 ∧ ((∀ e ∈ s.bring.ports, e.2.enabled = true → e.2.state = 4 ∨ e.2.state = 5) ∨
          s.bring.since + 900000000 ≤ s.clock)
        gives := fun s t => entered s t 8 ∧ t.ready = true ∧ only [.mem, .cores, .bring] s t ∧
          t.mem = s.mem.homeWrite (sysBase + 0x1000) s.discovery ∧ t.bring.ports = s.bring.ports ∧
          ∀ i, i < 256 → (t.core i).glean = BitVec.ofNat 16 (0xA500 + i) }
  | .pacing on => some
      { ok := fun _ => True
        gives := fun s t => t = { s with bring := { s.bring with pace := on } } }
  | _ => none

/-! The ports (R437 to R441). -/

/-- A port that trains: stages 6 to 8, enabled, in a state. -/
def trains (s : State) (p st : Nat) : Prop :=
  6 ≤ s.bring.stage ∧ s.bring.stage ≤ 8 ∧ p < 12 ∧ (s.port p).enabled = true ∧ (s.port p).state = st

/-- A port in a new state; the others, and the rest of the machine, as before. -/
def moved (p st reason : Nat) (s t : State) : Prop :=
  (t.port p).state = st ∧ (t.port p).reason = reason ∧ (t.port p).since = s.clock ∧ (∀ q, q ≠ p → t.port q = s.port q) ∧
    (t.port p).enabled = (s.port p).enabled ∧ only [.bring] s t

/-- A port leaves UP or is disabled: it holds nothing in flight. -/
def lostAll (p st reason : Nat) (s t : State) : Prop :=
  (t.port p).state = st ∧ (t.port p).reason = reason ∧ (t.port p).flights = []

/-- The device steps of the ports. -/
def portTurns : Instr → Option Event
  | .partnerSignal p => some
      { ok := fun s => trains s p 1
        gives := fun s t => moved p 2 (s.port p).reason s t }
  | .detectTimeout p => some
      { ok := fun s => trains s p 1 ∧ (s.port p).since + 720000000 ≤ s.clock
        gives := fun s t => if 3 ≤ (s.port p).fails then moved p 5 7 s t else moved p 0 1 s t }
  | .detectRetry p => some
      { ok := fun s => trains s p 0 ∧ (s.port p).reason = 1 ∧ (s.port p).since + 180000000 ≤ s.clock
        gives := fun s t => moved p 1 0 s t }
  | .negotiate p o => some
      { ok := fun s => trains s p 2
        gives := fun s t =>
          let all := o.lanes = 0xFF
          let low := o.lanes &&& 0xF = 0xF
          let high := o.lanes &&& 0xF0 = 0xF0
          let m : BitVec 8 := if o.lanes = 0xFF then 0xFF else if o.lanes &&& 0xF = 0xF then 0xF else 0xF0
          if ¬all ∧ ¬low ∧ ¬high then moved p 5 2 s t
          else if o.fast &&& m ≠ m ∧ o.slow &&& m ≠ m then moved p 5 3 s t
          else moved p 3 (s.port p).reason s t ∧ (t.port p).lanes = (if m = 0xFF then 8 else 4) ∧
            (t.port p).rate = (if o.fast &&& m = m then 0 else 1) ∧
            (t.port p).fec = ((s.port p).fecReq || o.fec) ∧ (t.port p).rev = o.rev }
  | .attest p pr => some
      { ok := fun s => trains s p 3
        gives := fun s t =>
          if pr.chainOk = false then moved p 5 4 s t
          else if pr.sigOk = false then moved p 5 5 s t
          else if pr.dev ≠ (s.port p).expDev ∨ pr.port ≠ (s.port p).expPort then moved p 5 6 s t
          else moved p 4 0 s t ∧ (t.port p).pdev = pr.dev ∧ (t.port p).pport = pr.port ∧ (t.port p).ctr = 0 ∧
            t.portUp p = true }
  | .flitReceived p fl => some
      { ok := fun s => s.portUp p = true
        gives := fun s t => (fl.macOk = false ∨ (s.port p).rx < fl.ctr → t = s) ∧
          (fl.macOk = true → fl.ctr ≤ (s.port p).rx → t.io.out = s.io.out ++ [.ack p fl.ctr] ∧
            (t.port p).rx = (if fl.ctr = (s.port p).rx then fl.ctr + 1 else (s.port p).rx) ∧
            (∀ f ∈ (t.port p).flights, fl.ack ≤ f.ctr ∧ f ∈ (s.port p).flights) ∧
            (∀ f ∈ (s.port p).flights, fl.ack ≤ f.ctr → f ∈ (t.port p).flights) ∧ only [.bring, .io] s t) }
  | .flitResend p => some
      { ok := fun s => s.portUp p = true ∧ ∃ f l, (s.port p).flights = f :: l ∧ f.over s.clock = false
        gives := fun s t => ∀ f l, (s.port p).flights = f :: l →
          t.io.out = s.io.out ++ [.resend p f.ctr f.req.data] ∧
          (t.port p).flights = { f with resends := f.resends + 1 } :: l ∧ only [.bring, .io] s t }
  | .retryLimit p => some
      { ok := fun s => s.portUp p = true ∧ ∃ f ∈ (s.port p).flights, f.over s.clock = true
        gives := fun s t => lostAll p 1 0 s t ∧ (t.port p).retrain = (s.port p).retrain + 1 ∧ (t.port p).fails = 1 }
  | .portRetrain p => some
      { ok := fun _ => True
        gives := fun s t =>
          if s.bring.stage = 8 ∧ p < 12 ∧ (s.port p).enabled = true ∧ ((s.port p).state = 0 ∨ (s.port p).state = 5) then
            moved p 1 0 s t ∧ (t.port p).retrain = (s.port p).retrain + 1
          else t = s }
  | .portDisable p => some
      { ok := fun _ => True
        gives := fun s t => if s.bring.stage = 8 ∧ p < 12 then lostAll p 0 8 s t else t = s }
  | _ => none

end Sys2Proof.Rules
end

