-- ==== Sys2Proof/Rules/TurnsRas.lean ====
section
/-! DEFINITION. The rules of the device steps of errors, retirement, snapshots, the watch log and the checkpoint engine
(R445 to R458). -/

namespace Sys2Proof.Rules

open Sys2Proof.Machine Sys2Proof.Safety

/-- A saturating count after one more (R447). -/
def counted (old new : Word) : Prop := new.toNat = min (2 ^ 32 - 1) (old.toNat + 1)

/-- What an uncorrectable error leaves in the unit where it is found (R339, R446); a word of v or q that the forwarding
window is still to write stays as the window has it (R32, R241). -/
def poisoned (at_ : ErrAt) (s t : State) : Prop :=
  match at_ with
  | .v g row lane => inUnit g (.v row lane)
  | .k g n => inUnit g (.k n)
  | .q g n lane => inUnit g (.q n lane)
  | .vtag g quad lane => inUnit g (.vtag quad lane)
  | .ktag g quad => inUnit g (.ktag quad)
  | .store a => match whereIs a with
    | .hbm => (64 * (a / 64), 64) ∈ t.mem.poison ∧ t.mem.bytes = s.mem.bytes
    | .chip _ => (16 * (a / 16), 16) ∈ t.mem.poison ∧ t.mem.bytes = s.mem.bytes
    | .scratch _ => (16 * (a / 16), 16) ∈ t.mem.poison ∧ t.mem.bytes = s.mem.bytes
    | .cstore _ => ∀ n T, s.holderOf at_ = some n → s.team n = some T → ∃ T', t.team n = some T' ∧ T'.halt = true
    | _ => True
  | .tile _ _ => ∀ n T, s.holderOf at_ = some n → s.team n = some T → ∃ T', t.team n = some T' ∧ T'.halt = true
  | .l1 core line colour gran => ∀ l, Tbl.get s.mem.l1 (l1Key core line colour) = some l →
      ∃ l', Tbl.get t.mem.l1 (l1Key core line colour) = some l' ∧ l'.poison = l.poison ||| BitVec.ofNat 8 (2 ^ (gran % 8)) ∧
        l'.data = l.data
  | .l2 a => (16 * (a / 16), 16) ∈ t.mem.poison
  | .l1Tag core line colour => ∀ l, Tbl.get s.mem.l1 (l1Key core line colour) = some l →
      Tbl.get t.mem.l1 (l1Key core line colour) = none ∧ (l.dirty ≠ 0 → (t.core core).retire = true ∧
        ∀ j, j < 8 → (128 * line + 16 * j, 16) ∈ t.mem.poison)
  | .l2Tag core line dirty => dirty = true → (t.core core).retire = true ∧ ∀ j, j < 8 → (128 * line + 16 * j, 16) ∈ t.mem.poison
where
  /-- A register word or tag of a group is poisoned; its value stays. -/
  inUnit (g : Nat) (p : Poison) : Prop := ∀ G, s.group g = some G → ∃ G', t.group g = some G' ∧
    (G.heldOver p = false → p ∈ G'.poison) ∧ G'.v = G.v ∧ G'.k = G.k ∧ G'.q = G.q ∧ G'.vtag = G.vtag ∧ G'.ktag = G.ktag

/-- The LIVE colour-0 extent of HBM that SNAP.BASE names (R449). -/
def snapPlace (s : State) (e : Nat × Ext) : Prop :=
  s.ras.snapBase ≠ 0 ∧ s.sec.exts.find? (fun e => e.2.state == 1 && e.2.colour == 0 && e.2.inHbm && e.2.lo == s.ras.snapBase.toNat) =
    some e

/-- A segment that closes (R455): HEAD advances, its records and its trailer's first field are in memory. -/
def closed (g : Nat) (s t : State) : Prop :=
  let r := s.ring g
  (t.ring g).head = r.head + 1 ∧ (t.ring g).recs = [] ∧ (t.ring g).en = r.en ∧ (t.ring g).tail = r.tail ∧
    (∀ h, h ≠ g → t.ring h = s.ring h) ∧
    (∀ (j : Nat) (x : BitVec 512), r.recs[j]? = some x → ∀ b, b < 64 →
      t.mem.bytes.read (r.seg + 64 * j + b) = (leBytes 64 x.toNat).getD b 0) ∧
    (r.recs.length ≤ 1020 → ∀ b, b < 8 → t.mem.bytes.read (r.seg + 65280 + b) = (leBytes 8 r.head.toNat).getD b 0)

/-- The device steps of errors, records and checkpoints. -/
def rasTurns : Instr → Option Event
  | .softError loc multi => some
      { ok := fun _ => errStructure loc ≠ none
        gives := fun s t => ∀ k c, errStructure loc = some (k, c) →
          if multi = true then counted (Store.read s.ras.ue k) (Store.read t.ras.ue k) ∧ t.ras.ce = s.ras.ce ∧ poisoned loc s t
          else counted (Store.read s.ras.ce k) (Store.read t.ras.ce k) ∧ t.ras.ue = s.ras.ue ∧ only [.ras, .cores] s t ∧
            (∀ i, c = some i → 63 ≤ ((s.core i).ces.filter (fun e => e.1 == k && s.clock < e.2 + 1800000000)).length →
              (t.core i).retire = true) }
  | .parityError core => some
      { ok := fun _ => core < 256
        gives := fun s t => (t.core core).retire = true ∧ (∀ c, c ≠ core → t.core c = s.core c) ∧ only [.cores] s t }
  | .patrolScrub _ => some { ok := fun _ => True, gives := fun s t => t = s }
  | .coreRetirement core => some
      { ok := fun s => if (s.core core).dead then ∃ x ∈ (s.core core).queued, x.saved = none
          else (s.core core).retire = true ∧ ∀ e ∈ s.teamsOf core, s.savable e.2 = false
        gives := fun s t => (t.core core).dead = true ∧ ((s.core core).dead = true → only [.cores] s t) ∧
          ((s.core core).dead = false → t.teamsOf core = [] ∧ (∀ e ∈ t.mem.l1, l1Core e.1 ≠ core) ∧
            ∃ l g, t.ras.trigs = l ++ [g] ∧ g.trig = 2 ∧ g.core = core) }
  | _ => none

/-- The device steps of snapshots and of the watch log. -/
def logTurns : Instr → Option Event
  | .snapshotRequest => some
      { ok := fun _ => True
        gives := fun s t => (s.bring.stage ≠ 8 ∨ s.ras.trigs ≠ [] → t = s) ∧
          (s.bring.stage = 8 → s.ras.trigs = [] → only [.fresh, .ras] s t ∧ ∃ g, t.ras.trigs = [g] ∧ g.trig = 3 ∧ g.ents = []) }
  | .snapshotWrite => some
      { ok := fun s => s.ras.trigs ≠ []
        gives := fun s t => ∀ g rest, s.ras.trigs = g :: rest → t.ras.trigs = rest ∧ only [.mem, .ras] s t ∧
          ((∀ e, ¬snapPlace s e) → t.ras.sseq = s.ras.sseq ∧ t.mem = s.mem) ∧
          ∀ e, snapPlace s e → t.ras.sseq = s.ras.sseq + 1 ∧
            (∀ b, b < 8 → t.mem.bytes.read (s.ras.snapBase.toNat + b) = (leBytes 8 s.clock).getD b 0) ∧
            t.mem.bytes.read (s.ras.snapBase.toNat + 12) = BitVec.ofNat 8 g.trig }
  | .watchWindowEnd => some
      { ok := fun s => s.ras.ended ≠ []
        gives := fun s t => (∀ w rest, s.ras.ended = w :: rest → t.ras.ended = rest) ∧ only [.fresh, .mem, .ras] s t }
  | .segmentClose g => some
      { ok := fun s => (s.ring g).en = true ∧ (s.ring g).recs ≠ [] ∧ s.ras.ended = [] ∧
          (s.ring g).firstAt + 1800000000 ≤ s.clock / 1800000 * 1800000
        gives := fun s t => closed g s t ∧ only [.mem, .ras] s t }
  | _ => none

/-- The device steps of the checkpoint engine. -/
def checkpointTurns : Instr → Option Event
  | .checkpoint => some
      { ok := fun _ => True
        gives := fun s t => (s.bring.stage ≠ 8 ∨ s.ras.ckStatus = 1 → t = s) ∧
          (s.bring.stage = 8 → s.ras.ckStatus ≠ 1 → t.ras.ckStatus = 1 ∧ t.ras.ckDone = 0 ∧ only [.ras] s t ∧
            ∀ f, t.frozen f = s.ras.ckFmask.getLsbD f) }
  | .checkpointImageWrite => some
      { ok := fun s => s.ras.ckStatus = 1 ∧ s.ras.ckOp = 1 ∧ ∀ e ∈ s.teams, s.ras.ckFmask.getLsbD e.2.fn = false
        gives := fun s t => only [.ras, .io] s t ∧
          if s.ckSlotOk = false ∨ s.ras.ckLimit.toNat < (ckEncode s.ckImage).length then t.ras.ckStatus = 3 ∧ t.io = s.io
          else t.ras.ckStatus = 2 ∧ t.ras.ckDone = BitVec.ofNat 64 (ckEncode s.ckImage).length ∧
            t.ras.ckTotal = t.ras.ckDone ∧ t.io.out = s.io.out ++
              [if isHost s.ras.ckTarget.toNat then .hostWrite (s.ras.ckTarget.toNat - hostBase) (ckEncode s.ckImage)
                else .image s.ras.ckTarget.toNat (ckEncode s.ckImage)] }
  | .checkpointRestore img => some
      { ok := fun _ => True
        gives := fun s t => (s.bring.stage ≠ 8 ∨ s.ras.ckStatus = 1 → t = s) ∧
          (s.bring.stage = 8 → s.ras.ckStatus ≠ 1 →
            first [(img = none, 3), (∃ bs, img = some bs ∧ Config.verifyOwn bs = false, 3),
                (∃ bs, img = some bs ∧ ckDecode bs = none, 3),
                (∃ bs im ok, img = some bs ∧ ckDecode bs = some (im, ok) ∧
                  (false ∈ ok ∨ ok.length ≠ im.extents.length ∨ s.ckFits im = false), 3)]
              (fun st => t.ras.ckStatus = st ∧ only [.ras] s t)
              (t.ras.ckStatus = 2 ∧ t.sched.tasks = s.sched.tasks ∧ t.teams = s.teams ∧ t.groups = s.groups ∧
                ∀ bs im ok, img = some bs → ckDecode bs = some (im, ok) → ∀ v ∈ im.saves,
                  s.ras.ckFmask.getLsbD v.team.fn = true → ∃ n, Tbl.get t.sched.saves n = some v)) }
  | _ => none

end Sys2Proof.Rules
end

