-- ==== Sys2Proof/Rules/Completions.lean ====
section
/-! DEFINITION. Where a device step that can also be turned away, refused or failed completes: conditions on the state and on
its operands alone, and what it then does by itself. -/

namespace Sys2Proof.Rules

open Sys2Proof.Machine Sys2Proof.Safety

/-- A step where more holds than that it comes about: then what it does. -/
def Event.own (e : Event) (more : State → Prop) (does : State → State → Prop) : Event :=
  { ok := fun s => e.ok s ∧ more s, gives := does }

/-- Entries accepted, chunks, line operations, records, the matrix unit's steps, a switch's result (R199 to R216, R299 to
R317, R325). -/
def engineCompletions (x : Instr) : Option Event :=
  match x with
  | .chainEntryAcceptance n ch => (engineTurns x).map (·.own
      (fun s => ∀ T c, s.team n = some T → (T.chain ch).next = some c → acceptStop s n ch T c = none ∧
        (c.opc = 6 → s.grpLive T (bitsOf c.blk.toNat 379 376) = true))
      (fun s t => ∀ T c, s.team n = some T → (T.chain ch).next = some c →
        cmdIs t n ch c.seq (fun y => y.accepted = true ∧ y.blk = c.blk ∧ y.status ≠ 4 ∧
          (y.fin = 0 ∨ (c.opc = 7 ∧ y.fin = 2)))))
  | .copyChunk n ch q c => (engineTurns x).map (·.own
      (fun s => ∀ T x, working s n ch q T x → chunkStop s ch c T x = none)
      (fun s t => ∀ T x, working s n ch q T x → chunkMoved s t n ch c T x))
  | .lineOperation g n => (engineTurns x).map (·.own
      (fun s => ∀ G T (o : LineOp), s.group g = some G → s.team G.team = some T → G.ops[n]? = some o → o.begun = true →
        ∀ y ∈ o.lanes, s.engRefusal T.colour y.src o.width false = none ∧ s.engRefusal T.colour y.dst o.width true = none)
      (fun s t => ∀ G T (o : LineOp), s.group g = some G → s.team G.team = some T → G.ops[n]? = some o →
        ∃ G', t.group g = some G' ∧ G'.fails = G.fails ∧ G'.stack = G.stack ∧
          (o.begun = false → G'.ops = G.ops.set n { o with begun := true }) ∧
          (o.begun = true → G'.ops = G.ops.erase o ∧ laneCopied s t T o)))
  | .gcmRecord n q j => (engineTurns x).map (·.own
      (fun s => ∀ T x, working s n 0 q T x → recordStop s j T x = none)
      (fun s t => ∀ T x ct k, working s n 0 q T x → x.cipher j = some ct → Tbl.get s.sec.slots x.kslot = some k →
        recordOpened s t n j x ct k))
  | .tileFetch n q => (matrixTurns x).map (·.own
      (fun s => ∀ T c, working s n 1 q T c → blockWaits s n T c = false ∧
        s.draw.2.runsRefusal T.colour false (aRuns c ++ bRuns c) = none)
      (fun s t => ∀ T c, working s n 1 q T c → blockFetched s t n c))
  | .tileStoreRowOperation n q => (matrixTurns x).map (·.own
      (fun s => ∀ T c, working s n 1 q T c → rowStop s T c = none)
      (fun s t => ∀ T c, working s n 1 q T c → rowMoved s t n T c))
  | .switchReductionResult n q u _ => (collTurns x).map (·.own
      (fun s => ∀ T c, working s n 2 q T c → ∀ p ∈ c.unitPieces u,
        s.runsRefusal T.colour true (c.opRuns (c.pieceRange p).1 (c.pieceRange p).2) = none)
      (fun s t => ∀ T c, working s n 2 q T c → cmdIs t n 2 c.seq (fun y => ∀ p ∈ c.unitPieces u, p ∈ y.units)))
  | _ => none

/-- Submissions, releases, cancellations, FCFG.EN, a register that reads back what was written, and the management commands
that meet no check (R9, R354 to R361, R379, R392, R404 to R421). -/
def commandCompletions (x : Instr) : Option Event :=
  match x with
  | .qsub f q addr data => (queueTurns x).map (·.own
      (fun s => s.owns f q = true ∧ (s.fn f).flr = 0 ∧ (s.queue q).qcnt < 4096 ∧ s.qsubRead f (addr % 2 ^ 56) data ≠ none)
      (fun s t => (t.queue q).qseq = (s.queue q).qseq + 1 ∧ ∀ r u, s.qsubRead f (addr % 2 ^ 56) data = some (r, u) →
        ∃ k, t.task (taskKey q ((s.queue q).qseq + 1).toNat) = some k ∧ k.fn = f ∧ k.record = r ∧ k.order = s.appendOrder q))
  | .qctlRelease f q n => (queueTurns x).map (·.own
      (fun s => s.owns f q = true ∧ ∃ k, s.task (taskKey q n) = some k ∧ k.complete = false)
      (fun s t => ∀ k, s.task (taskKey q n) = some k → ∃ k', t.task (taskKey q n) = some k' ∧
        k'.deps = k.deps.map (depAfter s false) ∧ only [.sched] s t))
  | .qctlCancel f q n => (queueTurns x).map (·.own
      (fun s => s.owns f q = true ∧ ∃ k, s.task (taskKey q n) = some k ∧ k.complete = false ∧ k.started = 0)
      (fun _ t => ∃ k', t.task (taskKey q n) = some k' ∧ k'.complete = true ∧ k'.status = 4))
  | .fcfgEnable f w => (fnTurns x).map (·.own
      (fun s => s.ready = true ∧ s.enOk f { s.fn f with ts := w.getLsbD 1, pmask := w.extractLsb' 2 4, quantum := w.extractLsb' 8 24 } = true)
      (fun s t => (t.fn f).en = true ∧ (t.fn f).tokens = 4096 * (s.fn f).depth.toNat ∧ (t.fn f).ts = w.getLsbD 1 ∧ only [.sec] s t))
  | .fcfgDisable f _ => (fnTurns x).map (·.own
      (fun s => s.ready = true ∧ s.busyFn f = false) (fun s t => (t.fn f).en = false ∧ only [.sec, .sched] s t))
  | .registerWrite f off w => (mgmtTurns x).map (·.own
      (fun s => reachesReg s f off ∧ readsBack s (regOf (off / 4 * 4)) ∧
        ((s.fn f).mstatus ≠ 1 ∨ ∀ i, regOf (off / 4 * 4) ≠ .mcmd i))
      (fun _ t => t.readReg f (off / 4 * 4) = w))
  | .extAdd f i img => some ((extAddCommand f i img).granted f)
  | .extRevoke f i => some ((takeCommand f i false).granted f)
  | .extFree f i => some ((takeCommand f i true).granted f)
  | .colSet f colour fn prot kslot => some ((colSetCommand f colour fn prot kslot).granted f)
  | .imgBind f colour i => some ((imgBindCommand f colour i).granted f)
  | .keyRelease f colour addr blob => some ((keyReleaseCommand f colour addr blob).granted f)
  | .keyZero f colour => some ((keyZeroCommand f colour).granted f)
  | .preempt f fn => some ((preemptCommand f fn).granted f)
  | .sweep f => some ((sweepCommand f).granted f)
  | _ => none

/-- Resets, TDISP, requests that pass every check (R47, R50, R407, R409, R423, R443, R457). -/
def interfaceCompletions (x : Instr) : Option Event :=
  match x with
  | .functionLevelReset f => (hostTurns x).map (·.own (fun s => (s.fn f).flr = 0) (fun s t => scrubbed s t f))
  | .stopInterface f => (hostTurns x).map (·.own (fun s => (s.fn f).tdi ≠ 0 ∧ (s.fn f).flr = 0) (fun s t => scrubbed s t f))
  | .lockInterface f => (hostTurns x).map (·.own (fun s => (s.fn f).tdi = 0)
      (fun s t => (t.fn f).tdi = 1 ∧ (t.fn f).en = (s.fn f).en ∧ only [.sec] s t))
  | .startInterface f => (hostTurns x).map (·.own (fun s => (s.fn f).tdi = 1)
      (fun s t => (t.fn f).tdi = 2 ∧ (t.fn f).en = (s.fn f).en ∧ only [.sec] s t))
  | .hostInboundRequest f rq => (inboundTurns x).map (·.own
      (fun s => (s.fn f).insecure = false ∧ s.ready = true ∧ (s.fn f).en = true ∧
        (s.hiErr f (reqSpan rq).1 (reqSpan rq).2.1 ((reqSpan rq).2.2 != 0)).1 = none)
      (servedAt f rq false))
  | .peerInboundRequest dev cap tag rq => (inboundTurns x).map (·.own
      (fun s => s.ready = true ∧ (s.portErr ⟨cap, tag⟩ rq).1 = none) (servedAt (16 + dev) (reqHere rq) true))
  | _ => none

/-- The stages of bring-up and of the ports that succeed; snapshots and checkpoints (R432 to R441, R449, R458). -/
def powerCompletions (x : Instr) : Option Event :=
  match x with
  | .pcieTraining flit => (powerTurns x).map (·.own (fun _ => flit = true)
      (fun s t => t.bring.pcie = true ∧ t.bring.fail = 0 ∧ t.bring.stage = (if s.bring.go then 2 else 1) ∧ only [.bring] s t))
  | .go => (powerTurns x).map (·.own (fun s => s.bring.go = false ∧ s.bring.stage = 1)
      (fun s t => t.bring.go = true ∧ t.bring.stage = (if s.bring.pcie then 2 else 1) ∧ only [.bring] s t))
  | .firmwareVerify img => (powerTurns x).map (·.own
      (fun s => 4096 ≤ s.bring.fwlen.toNat ∧ s.bring.fwlen.toNat ≤ 67108864 ∧
        ∃ bs, img = some bs ∧ Config.verify bs = true ∧ Config.fuseVersion ≤ Config.fwVersion bs)
      (fun s t => entered s t 3 ∧ only [.bring] s t ∧ ∀ bs, img = some bs → t.bring.fwDigest = Config.sha512 bs))
  | .configApply blob => (powerTurns x).map (·.own
      (fun s => 4096 ≤ s.bring.cfglen.toNat ∧ s.bring.cfglen.toNat ≤ 1048576 ∧
        ∃ bs, blob = some bs ∧ Config.verify bs = true ∧ Config.blobBound bs = true ∧ (Config.blobSpares bs).1 ≤ 2 ∧
          (Config.blobSpares bs).2 ≤ 1 ∧ (Config.blobNums bs).2.1 < (Config.blobNums bs).2.2.1)
      (fun s t => entered s t 4 ∧ only [.bring, .sec] s t ∧ ∀ bs, blob = some bs →
        t.bring.cfgDigest = Config.sha512 bs ∧ t.sec.pways = min 12 (Config.blobNums bs).1))
  | .hbmTraining ok => (powerTurns x).map (·.own (fun _ => ok = true) (fun s t => entered s t 5 ∧ only [.bring] s t))
  | .fabricBringUp ok => (powerTurns x).map (·.own (fun _ => ok = true)
      (fun s t => t.clock = 0 ∧ entered s t 6 ∧ only [.bring, .clock] s t))
  | .negotiate p o => (portTurns x).map (·.own (fun _ => o.lanes = 0xFF ∧ o.fast = 0xFF)
      (fun s t => moved p 3 (s.port p).reason s t ∧ (t.port p).lanes = 8 ∧ (t.port p).rate = 0))
  | .attest p pr => (portTurns x).map (·.own
      (fun s => pr.chainOk = true ∧ pr.sigOk = true ∧ pr.dev = (s.port p).expDev ∧ pr.port = (s.port p).expPort)
      (fun s t => moved p 4 0 s t ∧ (t.port p).pdev = pr.dev ∧ (t.port p).pport = pr.port ∧ t.portUp p = true))
  | .flitReceived p fl => (portTurns x).map (·.own (fun s => fl.macOk = true ∧ fl.ctr ≤ (s.port p).rx)
      (fun s t => t.io.out = s.io.out ++ [.ack p fl.ctr] ∧
        (t.port p).rx = (if fl.ctr = (s.port p).rx then fl.ctr + 1 else (s.port p).rx) ∧ only [.bring, .io] s t))
  | .portRetrain p => (portTurns x).map (·.own
      (fun s => s.bring.stage = 8 ∧ p < 12 ∧ (s.port p).enabled = true ∧ ((s.port p).state = 0 ∨ (s.port p).state = 5))
      (fun s t => moved p 1 0 s t ∧ (t.port p).retrain = (s.port p).retrain + 1))
  | .portDisable p => (portTurns x).map (·.own (fun s => s.bring.stage = 8 ∧ p < 12) (lostAll p 0 8))
  | .snapshotRequest => (logTurns x).map (·.own (fun s => s.bring.stage = 8 ∧ s.ras.trigs = [])
      (fun s t => only [.fresh, .ras] s t ∧ ∃ g, t.ras.trigs = [g] ∧ g.trig = 3 ∧ g.ents = []))
  | .snapshotWrite => (logTurns x).map (·.own (fun s => ∃ e, snapPlace s e)
      (fun s t => t.ras.sseq = s.ras.sseq + 1 ∧ only [.mem, .ras] s t ∧
        ∀ b, b < 8 → t.mem.bytes.read (s.ras.snapBase.toNat + b) = (leBytes 8 s.clock).getD b 0))
  | .checkpoint => (checkpointTurns x).map (·.own (fun s => s.bring.stage = 8 ∧ s.ras.ckStatus ≠ 1)
      (fun s t => t.ras.ckStatus = 1 ∧ t.ras.ckDone = 0 ∧ only [.ras] s t ∧ ∀ f, t.frozen f = s.ras.ckFmask.getLsbD f))
  | .checkpointImageWrite => (checkpointTurns x).map (·.own
      (fun s => s.ckSlotOk = true ∧ (ckEncode s.ckImage).length ≤ s.ras.ckLimit.toNat)
      (fun s t => t.ras.ckStatus = 2 ∧ t.ras.ckTotal = t.ras.ckDone ∧ only [.ras, .io] s t))
  | .checkpointRestore img => (checkpointTurns x).map (·.own
      (fun s => s.bring.stage = 8 ∧ s.ras.ckStatus ≠ 1 ∧ ∃ bs im ok, img = some bs ∧ Config.verifyOwn bs = true ∧
        ckDecode bs = some (im, ok) ∧ false ∉ ok ∧ ok.length = im.extents.length ∧ s.ckFits im = true)
      (fun s t => t.ras.ckStatus = 2 ∧ t.sched.tasks = s.sched.tasks ∧ t.teams = s.teams ∧ t.groups = s.groups))
  | _ => none

/-- Every such step. -/
def completions (x : Instr) : Option Event :=
  engineCompletions x <|> commandCompletions x <|> interfaceCompletions x <|> powerCompletions x

end Sys2Proof.Rules
end

