-- ==== Sys2Proof/Rules/System.lean ====
section
/-! DEFINITION. The rules of fences and walks, barriers, pools, the system instructions and the group window, rows 0x2C,
0x3E and 0x3F (R190 to R193, R214, R217 to R231, R336). -/

namespace Sys2Proof.Rules

open Sys2Proof.Machine Sys2Proof.Safety

/-! Fences and walks. -/

/-- The view with another memory. -/
def withMem (i : Iss) (m : Mem) : Iss := { i with s := { i.s with mem := m } }
/-- The release side of a fence, then its acquire side (R190, R285, R291, R292). -/
def fenced (w : Long) (i : Iss) : Iss :=
  let wide := 2 ≤ w.sc.toNat
  let m := if 2 ≤ w.ord ∧ wide then i.s.mem.drain i.core i.colour else i.s.mem
  withMem i (if w.ord % 2 = 1 ∧ wide then m.dropClean i.core i.colour else m)
/-- FENCEX between two paths (R191). -/
def crossed (w : Long) (i : Iss) : Iss :=
  let x := w.bits 31 29
  let y := w.bits 28 26
  if x = 0 ∧ y = 0 ∧ w.sc.toNat < 2 then i
  else
    let m := if x = 0 then i.s.mem.drain i.core i.colour else i.s.mem
    withMem i (if y = 0 then m.dropClean i.core i.colour else m)

/-- The capability and the length of a walk (R192). -/
def walkCap (i : Iss) (w : Long) : CapV := i.capOnce w.a.toNat
def walkLen (i : Iss) (w : Long) : Nat :=
  if w.bsel = 3 then w.litNat else if i.ctl then (i.cReg w.b.toNat).toNat else (i.kReg w.b.toNat).toNat
/-- The range passes its checks as a read of n bytes. -/
def rangeOk (i : Iss) (w : Long) (perms : Nat) : Prop :=
  let c := walkCap i w
  let n := walkLen i w
  i.lsErr ⟨[0, 3], perms, false, false, fun _ => none⟩ n ⟨0, c, c.cursor⟩ = none ∧
    (n = 0 ∨ regionChecked c.cursor = false ∨ admitting i.T.regions c.cursor (c.cursor + n) .read ≠ [])
/-- CFLUSH and CINV (R192): a walk handed to a walker of the tower, or at once an arrival where there is nothing to do. -/
def walk (o : Op) (w : Long) (inv : Bool) : Rule :=
  let h := w.bits 31 23
  let idle (i : Iss) : Prop := walkLen i w = 0 ∨ w.sc.toNat < 2
  let job (i : Iss) (k : Nat) : Walk :=
    let a := (walkCap i w).cursor
    { kind := if inv then .inv else .flush, tower := i.core / 64, lo := a, hi := a + walkLen i w, cursor := a / 128 * 128,
      cls := i.cls, age := i.s.clock + 1, on := some k, core := i.core, scope := w.sc.toNat, colour := i.colour,
      team := i.team, bar := h, task := i.T.task, visited := 0 }
  { op := o, ok := fun i => i.rangeOk o w && i.ownsBar h
    pre := fun i => rangeOk i w pLD ∧ (idle i ∨ (i.s.takeWalker (i.core / 64) i.cls).isSome)
    eff := fun i =>
      if walkLen i w = 0 ∨ w.sc.toNat < 2 then { i with s := i.s.arrive i.core h 1 0 }
      else match i.s.takeWalker (i.core / 64) i.cls with
        | some (k, s) =>
          let t := s.setWalk s.sched.walkNo (job i k)
          { i with s := i.noteGiven { t with sched := { t.sched with walkNo := s.sched.walkNo + 1 } } 3 s.sched.walkNo }
        | none => i }
/-- ICINV (R193): dirty bytes written back, instruction-cache lines of every core in scope dropped. -/
def icinv (o : Op) (w : Long) : Rule :=
  let lo (i : Iss) : Nat := (walkCap i w).cursor / 128
  let hi (i : Iss) : Nat := ((walkCap i w).cursor + walkLen i w + 127) / 128
  { op := o, ok := fun i => i.rangeOk o w
    pre := fun i => rangeOk i w (if (walkCap i w).form = 3 then pEX else pLD)
    eff := fun i =>
      let m := i.s.mem.backWhere (fun k => l1Core k == i.core && l1Colour k == i.colour && lo i ≤ l1Line k && l1Line k < hi i)
        true
      withMem i (m.dropCode (fun k => inScope w.sc.toNat i.core (icCore k) && lo i ≤ icLine k && icLine k < hi i &&
        walkLen i w != 0)) }

/-! Barriers. -/

/-- The barrier a form names, and its core's. -/
def hbOf (w : Long) : Nat := w.bits 31 23
def barOf (i : Iss) (w : Long) : Barrier := i.s.bar i.core (hbOf w)
/-- A fresh barrier of the issuing team (R218). -/
def opened (w : Long) (i : Iss) : Barrier :=
  { owner := some i.team, arrN := (i.cReg w.a.toNat).toNat, bytN := i.bVal1 w tN32, arr := 0, byt := 0, cph := 0 }
/-- BSYNC's awaited phase: that of its arrival when it first issued, else the one before its arrival now (R219). -/
def syncPhase (w : Long) (i : Iss) : Word := i.arrivedAt.getD (barOf i w).cph
def synced (w : Long) (i : Iss) : Iss :=
  if i.arrivedAt.isSome then withPath i { i.p with arrived := none } else { i with s := i.s.arrive i.core (hbOf w) 1 0 }

/-! Pools. -/

/-- n rounded up to rows of eight (R220). -/
def eights (i : Iss) (w : Long) : Nat := 8 * ((i.bVal1 w tN32 + 7) / 8)
def claimed (w : Long) (i : Iss) : Iss :=
  let top := i.G.lo + i.G.held
  if eights i w = 0 then i
  else withG i { i.G.clearRows top (top + eights i w) with held := i.G.held + eights i w }
def released (w : Long) (i : Iss) : Iss :=
  let h := i.G.held - eights i w
  if eights i w = 0 then i else withG i { i.G.clearRows (i.G.lo + h) (i.G.lo + i.G.held) with held := h }
/-- The units of a handle (R214). -/
def unitsOf (i : Iss) (w : Long) : Nat × Nat := (i.bVal1 w tN32 % 32, i.bVal1 w tN32 / 32 % 64)
def tclaimed (w : Long) (i : Iss) : Iss :=
  let n := i.bVal1 w tN32
  match i.s.tileRun i.core n with
  | some u =>
    let s := (i.s.setTeam i.team { i.T with tiles := i.T.tiles ++ [(u, n)] }).zeroTiles i.core u n
    { i with s := s }
  | none => i
def treleased (w : Long) (i : Iss) : Iss :=
  let r := unitsOf i w
  let s := (i.s.setTeam i.team { i.T with tiles := i.T.tiles.erase r }).zeroTiles i.core r.1 r.2
  { i with s := s }
/-- No set of waiters of the core is stuck once an effect has been made (R338). -/
def unstuck (e : Iss → Iss) (i : Iss) : Prop := (e i).s.deadlocked i.core = none

/-! System registers. -/

/-- A system register read (R226); CHCTL is written only and reads zero (R9). -/
def sysVal (i : Iss) (n b : Nat) : Nat :=
  if n = 0x000 then i.C.cfw.toNat
  else if n = 0x001 then i.colour
  else if n = 0x002 then i.teamSlice
  else if n = 0x003 then i.core * 2 ^ 24 + i.T.tslot * 2 ^ 17
  else if 0x010 ≤ n ∧ n ≤ 0x012 then (i.T.chain (n - 0x010)).cseq.toNat
  else if 0x014 ≤ n ∧ n ≤ 0x016 then (i.T.chain (n - 0x014)).tseq.toNat
  else if 0x018 ≤ n ∧ n ≤ 0x01A then 0
  else if n = 0x020 then i.s.freeRows i.core
  else if n = 0x021 then (i.s.tilesFree i.core).1 + (i.s.tilesFree i.core).2 * 2 ^ 8
  else if n = 0x022 then 64 - (i.s.core i.core).dq.length
  else if n = 0x023 then i.T.ringHeld
  else (i.s.bar i.core (b % 512)).cph.toNat * 2 ^ 32 + (i.s.bar i.core (b % 512)).arrN * 2 ^ 16 +
    (i.s.bar i.core (b % 512)).arr % 2 ^ 16
/-- CHCTL of chain 0 to 2. -/
def isChctl (n : Nat) : Bool := 0x018 ≤ n && n ≤ 0x01A
/-- SYSWR (R133, R226): CFW and CHCTL in the control stream; every other register ignores the write. -/
def sysWritten (w : Long) (i : Iss) : Iss :=
  let n := w.bits 31 19
  let x := (i.cReg w.a.toNat).toNat
  if !i.ctl then i
  else if n = 0 then
    let C := { i.C with cfw := cfwWrite i.C.cfw x }
    { i with s := i.s.setCtx i.id C, C := C }
  else if isChctl n ∧ x = 1 then { i with s := i.s.abandonFaulted i.team (n - 0x018) }
  else if isChctl n ∧ x = 2 then { i with s := i.s.abandonAll i.team (n - 0x018) }
  else i
/-- The cycle at which a SLEEP ends: set when it began (R229). -/
def sleepEnds (w : Long) (i : Iss) : Nat :=
  match i.w0 with
  | some x => match x.why with
    | .sleep t => t
    | _ => i.s.clock + min (i.bVal1 w tN32) (2 ^ 20)
  | none => i.s.clock + min (i.bVal1 w tN32) (2 ^ 20)

/-! The group window. -/

/-- STATE and the cause of a group (R231). -/
def statusOf (G : Group) : Nat :=
  match G.run with
  | .running => 0
  | .stopped => 1
  | .trapped => 2 + 256 * (G.cause.toNat % 256)
  | .retired => 3
/-- The group that A names. -/
def named (i : Iss) (w : Long) : Nat × Group :=
  match i.target w with
  | .ok x => x
  | .error _ => (0, Group.blank)
def isNamed (i : Iss) (w : Long) : Prop := (i.cReg w.a.toNat).toNat < i.T.groups.length
/-- A form of the group window: control stream, registers, and the selectors that B may have. -/
def windowForm (w : Long) (bs : List (BitVec 2)) (pre : Iss → Prop) (ws : Iss → List RegWrite) (eff : Iss → Iss) : Rule :=
  { op := Op.long 0x3F 7 w, ok := fun i => i.ctl && w.asel == 0 && bs.contains w.bsel
    pre := fun i => isNamed i w ∧ pre i, ws := ws, eff := eff }
/-- D := an n64 value, in a c register. -/
def toD (w : Long) (x : Nat) : List RegWrite := [.c (w.d.toNat % 64) (BitVec.ofNat 64 x)]
/-- A running group stopped (R93, R231). -/
def stoppedNow (w : Long) (i : Iss) : Group :=
  if (named i w).2.run = .running then (named i w).2.halted (named i w).1 else (named i w).2
def gstopped (w : Long) (i : Iss) : Iss :=
  if (named i w).2.run = .running then { i with s := i.s.setGroup (named i w).1 (stoppedNow w i) } else i
/-- Stopped, or at a level-1 trap. -/
def isHeld (i : Iss) (w : Long) : Prop := (named i w).2.run = .stopped ∨ (named i w).2.run = .trapped
/-- The item B names, as GRD reads it; the group as GWR leaves it. -/
def itemOf (i : Iss) (w : Long) : Option Item := (named i w).2.item (i.bVal1 w tN32)
def gwritten (w : Long) (i : Iss) : Option Group := (itemOf i w).bind (fun it => (named i w).2.put it (i.cReg w.d.toNat).toNat)
/-- GRES (R231, R336): a group that is held and passes the checks runs again. -/
def gresumed (w : Long) (i : Iss) : Iss :=
  let (g, G) := named i w
  let st := i.s.reparked i.core i.colour G.stack
  if (G.run = .stopped ∨ G.run = .trapped) ∧ gresOk G.alive st = true then
    let R := { G with stack := select st, run := .running, stopReq := false }
    { i with s := i.s.setGroup g (if G.tf then R else R.resolve) }
  else i

/-- Rows 0x2C, 0x3E and 0x3F but RTT and a TRAP of an active lane. -/
def system : Instr → Option Rule
  | .fence w => some
      { op := Op.long 0x2C 0 w, ok := fun i => w.ord != 0 && (i.ctl || (Op.long 0x2C 0 w).unguarded), eff := fenced w }
  | .fencex w => some
      { op := Op.long 0x2C 1 w
        ok := fun i => w.bits 31 29 < 7 && w.bits 28 26 < 7 && (i.ctl || (Op.long 0x2C 1 w).unguarded)
        pre := fun i => i.pathDone (w.bits 31 29) = true
        eff := crossed w }
  | .cflush w => some (walk (Op.long 0x2C 2 w) w false)
  | .cinv w => some (walk (Op.long 0x2C 3 w) w true)
  | .icinv w => some (icinv (Op.long 0x2C 4 w) w)
  | .binit w => some
      { op := Op.long 0x3E 0 w
        ok := fun i => w.asel == 0 && (w.bsel == 0 || w.bsel == 3) && 1 ≤ (i.cReg w.a.toNat).toNat &&
          (i.cReg w.a.toNat).toNat ≤ 65535 &&
          (match (barOf i w).owner with
            | some t => t == i.team || (i.s.team t).isNone
            | none => true) &&
          (i.s.coreAgents i.core).all (fun (_, p) => !p.wait.any (fun x => match x.why with
            | .barrier b _ => b == hbOf w
            | _ => false))
        eff := fun i => { i with s := i.s.setBar i.core (hbOf w) ((opened w i).settle 1) } }
  | .barv w => some
      { op := Op.long 0x3E 1 w, ok := fun _ => w.bsel != 2
        pre := fun i => i.ownsBar (hbOf w) = true
        ws := fun i => i.dResult tN32 w.d.toNat (barOf i w).cph.toNat
        eff := fun i => { i with s := i.s.arrive i.core (hbOf w) 1 0 } }
  | .bwait w => some
      { op := Op.long 0x3E 2 w, ok := fun i => w.bsel != 2 && i.aOnce w 32
        pre := fun i => i.ownsBar (hbOf w) = true ∧ seqBefore (BitVec.ofNat 32 (i.aVal1 w 32)) (barOf i w).cph = true }
  | .bsync w => some
      { op := Op.long 0x3E 3 w, ok := fun _ => w.bsel != 2
        pre := fun i => i.ownsBar (hbOf w) = true ∧ seqBefore (syncPhase w i) ((synced w i).s.bar i.core (hbOf w)).cph = true
        ws := fun i => i.dResult tN32 w.d.toNat (syncPhase w i).toNat
        eff := synced w }
  | .claim w => some
      { op := Op.long 0x3E 4 w, ok := fun i => i.bOnce w 32
        pre := fun i => eights i w = 0 ∨ (i.G.held + eights i w ≤ 1024 ∧ eights i w ≤ i.s.freeRows i.core ∧
          i.earlier isClaim = false ∧ unstuck (claimed w) i)
        eff := claimed w }
  | .release w => some
      { op := Op.long 0x3E 5 w, ok := fun i => i.bOnce w 32
        pre := fun i => eights i w = 0 ∨ (8 + eights i w ≤ i.G.held ∧ i.G.lo ≤ i.G.base ∧
          i.G.base + min 128 (i.G.held - eights i w) ≤ i.G.lo + (i.G.held - eights i w) ∧ unstuck (released w) i)
        eff := released w }
  | .tclaim w => some
      { op := Op.long 0x3E 6 w, ok := fun i => i.bOnce w 32 && i.dOnce 32 w.d.toNat
        pre := fun i => 1 ≤ i.bVal1 w tN32 ∧ i.bVal1 w tN32 ≤ 32 ∧
          (i.T.tiles.map (·.2)).sum + i.bVal1 w tN32 ≤ i.T.tileMax ∧
          (i.s.tileRun i.core (i.bVal1 w tN32)).isSome ∧ i.earlier isTclaim = false ∧ unstuck (tclaimed w) i
        ws := fun i => i.dResult tN32 w.d.toNat
          ((i.s.tileRun i.core (i.bVal1 w tN32)).getD 0 + 32 * i.bVal1 w tN32)
        eff := tclaimed w }
  | .trelease w => some
      { op := Op.long 0x3E 7 w, ok := fun i => i.bOnceReg w 32
        pre := fun i => i.bVal1 w tN32 < 2 ^ 11 ∧ unitsOf i w ∈ i.T.tiles ∧ i.T.tileBusy (unitsOf i w) = false ∧
          unstuck (treleased w) i
        eff := treleased w }
  | .trap w => some
      { op := Op.long 0x3F 0 w, ok := fun _ => w.bsel != 3 && w.bsel != 2
        pre := fun i => i.ctl = false ∧ i.active (Op.long 0x3F 0 w) = 0 }
  | .sysrd w => some
      { op := Op.long 0x3F 2 w
        ok := fun i => srKnown (w.bits 31 19) && w.bsel < 2 && (w.bits 31 19 != 0x30 || i.bOnceReg w 32) &&
          i.dOnce 64 w.d.toNat && (i.ctl || w.bits 31 19 != 0)
        ws := fun i => i.dResult tN64 w.d.toNat (sysVal i (w.bits 31 19) (if w.bits 31 19 = 0x30 then i.bVal1 w tN32 else 0)) }
  | .syswr w => some
      { op := Op.long 0x3F 3 w, ok := fun i => srKnown (w.bits 31 19) && i.aOnce w 64 && w.bsel < 2, eff := sysWritten w }
  | .clock32 o => some (readClock (Op.short 0x3F 4) o.d)
  | .clock64 w => some (readClock (Op.long 0x3F 4 w) w.d)
  | .pmrd w => some
      { op := Op.long 0x3F 5 w, ok := fun i => i.dOnce 64 w.d.toNat && w.bsel < 2
        ws := fun i =>
          let p := if i.ctl then i.C.perf else i.G.perf
          i.dResult tN64 w.d.toNat ((match w.bits 31 19 with
            | 0 => i.s.clock - p.since
            | 1 => p.instrs
            | 2 => p.beats
            | 3 => p.waits
            | 4 => (i.s.core i.core).l1miss
            | 5 => (i.s.core i.core).l2req
            | _ => 0) % 2 ^ 64) }
  | .sleep w => some
      { op := Op.long 0x3F 6 w, ok := fun i => i.bOnce w 32, pre := fun i => sleepEnds w i ≤ i.s.clock }
  | .gstop w => some (windowForm w [0, 1, 3]
      (fun i => (named i w).2.run = .running → (named i w).2.canHalt = true ∧ unstuck (gstopped w) i)
      (fun i => toD w (statusOf (stoppedNow w i))) (gstopped w))
  | .grd w => some (windowForm w [0, 3] (fun i => isHeld i w ∧ (itemOf i w).isSome)
      (fun i => toD w (((itemOf i w).map (named i w).2.read).getD 0)) (fun i => i))
  | .gwr w => some (windowForm w [0, 3] (fun i => isHeld i w ∧ (gwritten w i).isSome) (fun _ => [])
      (fun i => match gwritten w i with
        | some G => { i with s := i.s.setGroup (named i w).1 G }
        | none => i))
  | .gres w => some (windowForm w [0, 1, 3] (fun _ => True) (fun _ => []) (gresumed w))
  | .gstat w => some (windowForm w [0, 1, 3] (fun _ => True) (fun i => toD w (statusOf (named i w).2)) (fun i => i))
  | _ => none
where
  /-- CLOCK: the package's cycle counter (R227). -/
  readClock (o : Op) (d : BitVec 7) : Rule :=
    { op := o, ok := fun i => i.dOnce 64 d.toNat, ws := fun i => i.dResult tN64 d.toNat (i.s.clock % 2 ^ 64) }

end Sys2Proof.Rules
end

