-- ==== Sys2Proof/Rules/Engine.lean ====
section
/-! DEFINITION. The rules of the instructions that give work to the engines and wait for it, rows 0x3C and 0x3D, and of
TLAUNCH (R197 to R216, R221 to R223, R232). -/

namespace Sys2Proof.Rules

open Sys2Proof.Machine Sys2Proof.Safety

/-! Appending a command (R198). -/

/-- Fewer than 64 commands of the chain are outstanding. -/
def hasPermit (i : Iss) (ch : Nat) : Prop := ((i.T.chain ch).tseq - (i.T.chain ch).cseq).toNat ≠ 64
/-- What an answer holds; none where the instruction traps or waits. -/
def answer {α : Type} : Except Stop α → Option α
  | .ok x => some x
  | .error _ => none
/-- The block read, and the state once it has been: 64 bytes at the base of a form-2 capability. -/
def blockAt (i : Iss) (c : CapV) : Option (Blk × State) := answer (i.readBlk c)
/-- The view once a block has been appended to a chain of the team: TSEQ moves on by one, the entry holds the block, and
a control thread notes the command (R126, R197, R198). -/
def appended (i : Iss) (s : State) (ch : Nat) (b : Blk) (bm : Option Nat) (k0 : Int) : Iss :=
  let n := (i.T.chain ch).tseq + 1
  { i with s := (i.append s ch b bm k0).2
           C := if i.ctl then { i.C with appended := i.C.appended ++ [(ch, n.toNat)] } else i.C }
/-- D := the command's sequence number. -/
def seqWrite (i : Iss) (w : Long) (ch : Nat) : List RegWrite := i.dResult tN32 w.d.toNat ((i.T.chain ch).tseq + 1).toNat
/-- A form that appends what `entry` gives: the block, the state in which it is appended, bitmap and first K-block. -/
def appends (o : Op) (w : Long) (ch : Iss → Nat) (ok : Iss → Bool) (entry : Iss → Option (Blk × State × Option Nat × Int)) :
    Rule :=
  { op := o, ok := ok
    pre := fun i => hasPermit i (ch i) ∧ (entry i).isSome
    ws := fun i => seqWrite i w (ch i)
    eff := fun i => match entry i with
      | some (b, s, bm, k0) => appended i s (ch i) b bm k0
      | none => i }

/-- TCOPY and RCOPY (R205, R216): both cursors moved, the bitmap range cleared. -/
def copyEntry (w : Long) (ch : Nat) (i : Iss) : Option (Blk × State × Option Nat × Int) :=
  match blockAt i (i.capOnce w.a.toNat) with
  | none => none
  | some (b, s) =>
    let (soff, doff) := i.copyOffs w
    if b.opc ≠ 1 ∨ (ch = 2 ∧ b.gcm = true) ∨ b.badSize i.T.scratchLen soff = true ∨
      (b.nobm = false ∧ i.T.bitmapBusy b.bitmap = true) then none
    else match answer (i.moveCap ch b 0 soff) with
      | none => none
      | some b => match answer (i.moveCap ch b 1 doff) with
        | none => none
        | some b =>
          let m := if b.nobm then s.mem else s.mem.homeWrite (i.T.scratch + b.bitmap.1) (List.replicate b.bitmap.2 0)
          some (b, { s with mem := m }, if b.nobm then none else some (b.get 503 491), soff / 4096)
def copy (o : Op) (w : Long) (ch : Nat) : Rule :=
  appends o w (fun _ => ch)
    (fun i => i.aOnce w 128 && i.dOnce 32 w.d.toNat && w.bsel != 3 && (w.bsel == 2 || i.bOnceReg w 64) &&
      (ch == 0 || (i.T.roles[i.G.role]?).any (fun r => r.2 == 1)))
    (copyEntry w ch)
/-- APND: the block as it stands (R202). -/
def apnd (o : Op) (w : Long) : Rule :=
  let ch := w.sc.toNat % 4
  appends o w (fun _ => ch) (fun i => i.aOnce w 128 && i.dOnce 32 w.d.toNat && ch < 3) (fun i =>
    match blockAt i (i.capOnce w.a.toNat) with
    | some (b, s) => if chainTakes ch b.opc then some (b, s, none, 0) else none
    | none => none)
/-- MMA: KOFF moves by B (R212). -/
def mma (o : Op) (w : Long) : Rule :=
  appends o w (fun _ => 1) (fun i => i.aOnce w 128 && i.bOnce w 32) (fun i =>
    match blockAt i (i.capOnce w.a.toNat) with
    | some (b, s) => if b.opc = 2 then some (b.put 447 416 (b.get 447 416 + i.bVal1 w tN32), s, none, 0) else none
    | none => none)
/-- MZERO, MLOAD, MSTORE and MDRAIN: an entry of the fields named (R211, R213). -/
def tile (o : Op) (w : Long) (opc : Nat) (desc : Bool) : Rule :=
  appends o w (fun _ => 1) (fun i => if desc then i.aOnce w 128 && i.bOnceReg w 32 else i.aOnce w 32 && w.bsel != 3 &&
      !(opc == 6 && w.bsel == 2)) (fun i =>
    let h := if desc then (i.cReg w.b.toNat).toNat % 2 ^ 11 else (i.cReg w.a.toNat).toNat % 2 ^ 11
    some (tileBlk opc h (if opc = 3 then 0 else w.bits 31 30) (if opc = 3 then 0 else w.bits 29 28)
      (if opc = 5 then w.bits 27 27 else 0) (if opc = 6 then w.bits 27 24 else 0)
      (if desc then some (i.cpVal w.a.toNat) else none), i.s, none, 0))

/-- COLL (R216): the first of the team appends the block and opens a join, a later one that names the same block through a
capability that passes its checks joins; each arrives once at HB. -/
def collJoined (w : Long) (i : Iss) : Option (Word × Iss) :=
  let cap := i.capOnce w.a.toNat
  match i.T.openJoin with
  | some (n, c, gs) =>
    let h := (((i.T.chain 2).cmd n).map (fun x => x.block.get 344 336)).getD 0
    let s := i.s.setTeam i.team { i.T with join := some (n, c, (i.G.grp :: gs).eraseDups) }
    if c.base = cap.base ∧ i.commandErr cap = none ∧ i.ownsBar h = true then
      some (n, { i with s := i.noteGiven (s.arrive i.core h 1 0) 2 n.toNat })
    else none
  | none =>
    match blockAt i cap with
    | none => none
    | some (b, s) =>
      let n := (i.T.chain 2).tseq + 1
      let t := (i.append s 2 b none 0).2
      let t := match t.team i.team with
        | some T => t.setTeam i.team { T with join := some (n, cap, [i.G.grp]) }
        | none => t
      if b.opc = 7 ∧ i.ownsBar (b.get 344 336) = true then some (n, { i with s := t.arrive i.core (b.get 344 336) 1 0 }) else none
def coll (o : Op) (w : Long) : Rule :=
  { op := o, ok := fun i => i.aOnce w 128 && i.dOnce 32 w.d.toNat
    pre := fun i => (i.T.openJoin.isNone → hasPermit i 2) ∧ (collJoined w i).isSome
    ws := fun i => i.dResult tN32 w.d.toNat (((collJoined w i).map (fun x => x.1.toNat)).getD 0)
    eff := fun i => ((collJoined w i).map (·.2)).getD i }

/-! Lane copies and sheaves (R208, R209). -/

/-- Lane L's source and destination: the cursors of both capabilities moved by B. -/
def cplSrc (i : Iss) (w : Long) (L : Nat) : Acc := accAt i w w.immI false L
def cplDst (i : Iss) (w : Long) (L : Nat) : Acc :=
  ⟨L, i.cplDst w L, (cplSrc i w L).a - ((cplSrc i w L).c.cursor : Int) + ((i.cplDst w L).cursor : Int)⟩
/-- Every access passes its capability and region checks. -/
def checked (i : Iss) (u : LsUse) (n : Nat) (k : RKind) (xs : List Acc) : Prop :=
  ∀ x ∈ xs, i.cplErr u n x = none ∧ (regionChecked x.addr = false ∨ (k = .read ∧ i.inParam x.addr n = true) ∨
    admitting i.T.regions x.addr (x.addr + n) k ≠ [])
/-- The copies of a CPL: of two lanes that write one place the highest remains (R208). -/
def cplLanes (i : Iss) (w : Long) (n : Nat) : List CopyLane :=
  let dst := (lanesOf i.p.mask).map (cplDst i w)
  (lanesOf i.p.mask).map (fun L =>
    let x := cplSrc i w L
    let d := cplDst i w L
    { lane := L, src := x.addr, dst := d.addr, keep := !dst.any (fun e => L < e.l && e.addr == d.addr)
      tagged := n == 16 && x.c.has pLC && d.c.has pSC })
/-- CPL. -/
def cpl (o : Op) (w : Long) : Rule :=
  let n := (cplWidth w.ty.toNat).getD 4
  let src (i : Iss) : List Acc := (lanesOf i.p.mask).map (cplSrc i w)
  let dst (i : Iss) : List Acc := (lanesOf i.p.mask).map (cplDst i w)
  { op := o
    ok := fun i => (cplWidth w.ty.toNat).isSome && i.capOk w && i.offOk w &&
      (if w.sc.getLsbD 0 then kOk 128 w.d.toNat else i.vOk 128 w.d.toNat)
    pre := fun i => i.G.cplsOut < 256 ∧ checked i ⟨[0, 3], pLD, true, false, fun _ => none⟩ n .read (src i) ∧
      checked i ⟨[0], pST, true, true, fun _ => none⟩ n .write (dst i)
    eff := fun i =>
      let G := { i.G with ops := i.G.ops ++ lineOps i.G.cplNo (i.G.k55 + 1) n (cplLanes i w n), cplNo := i.G.cplNo + 1 }
      { i with s := (i.s.markWritten i.T.task (marked i .write n (dst i))).setGroup i.id G, G := G } }
/-- The sheaf that a WSHEAF names. -/
def sheafNo (w : Long) (i : Iss) : Word := if w.bsel = 2 then i.G.k55 + BitVec.ofInt 32 w.immI else BitVec.ofNat 32 (i.bVal1 w tN32)

/-! Waits, decisions, records. -/

/-- The number that a WSEQ waits for; a relative one keeps the number that it formed when it first issued (R201). -/
def seqTarget (w : Long) (i : Iss) : Word :=
  if w.bsel = 2 then i.targetAt.getD ((i.T.chain (w.sc.toNat % 4)).tseq + BitVec.ofInt 32 w.immI)
  else BitVec.ofNat 32 (i.bVal1 w tN32)
/-- The mask of a WCHK, the free value for bits outside the scratchpad, and the bits that do not count as set (R207). -/
def chunkMask (w : Long) (i : Iss) : Nat := if i.ctl then (i.cReg w.a.toNat).toNat else i.kVal 64 w.a.toNat
def chunkOut (w : Long) (i : Iss) : Bool := i.T.scratchLen < 64 * w.bits 31 19 + (i.bVal1 w tN32 + 64) / 8 + 1
def chunkLeft (w : Long) (i : Iss) : Nat :=
  i.s.chunksClear i.T (w.bits 31 19) (i.bVal1 w tN32) (chunkMask w i) (if chunkOut w i then i.s.draw.1 else 0)
/-- A WCHK ends: no owner; the owner complete; every bit set, or with ANY one of them. -/
def chunkEnds (w : Long) (i : Iss) : Prop :=
  match i.T.owner (w.bits 31 19) with
  | none => True
  | some c => c.status ≠ 4 ∧ (c.complete = true ∨
      if w.sc.getLsbD 0 then chunkLeft w i ≠ chunkMask w i else chunkLeft w i = 0)
/-- Target kind and index of a DPOST. -/
def postKind (w : Long) : Nat := w.d.toNat / 16 % 4
def postIx (w : Long) : Nat := w.d.toNat % 16
/-- DPOST to a group that has retired is dropped (R221). -/
def postDropped (w : Long) (i : Iss) : Prop := postKind w = 0 ∧ i.s.grpLive i.T (postIx w) = false
def posted (w : Long) (i : Iss) : Iss :=
  let c := i.s.core i.core
  let d : Decision := { team := i.team, kind := postKind w, index := postIx w, payload := BitVec.ofNat 32 (i.bVal1 w tN32) }
  if postKind w = 0 ∧ i.s.grpLive i.T (postIx w) = false then i
  else { i with s := i.s.setCore i.core { c with dq := c.dq ++ [d] } }
/-- CREC (R222, R223): a group's record goes to the ring's next slot; the oldest record moves to cD to cD+3. -/
def recorded (w : Long) (i : Iss) : Iss :=
  if i.ctl then { i with s := i.s.setTeam i.team { i.T with taken := i.T.taken + 1 } }
  else
    let r : BitVec 192 := BitVec.ofNat 192 (i.kVal 128 w.a.toNat * 2 ^ 64 + i.G.grp * 2 ^ 26)
    { i with s := i.s.ringWrite i.team r (i.T.ringRank i.G.grp) }
def recordRead (w : Long) (i : Iss) : List RegWrite :=
  let x := leNat (i.s.mem.homeRead (cstoreOf i.T.core i.T.tslot + 0x3000 + 32 * (i.T.taken % 32)) 32)
  if i.ctl then (List.range 4).map (fun j => .c (w.d.toNat % 64 + j) (BitVec.ofNat 64 (x / 2 ^ (64 * j)))) else []

/-- TLAUNCH (R232): the record read after a release at package scope, and appended to the queue. -/
def launched (w : Long) (i : Iss) : Word × State :=
  let a := (i.cpVal w.a.toNat).cursor
  let (bs, s) := (i.s.fence i.core i.colour 6 false true).engRead a 256
  let tags := ((List.range 16).map (fun j => if s.mem.homeTag (a / 16 + j) then 2 ^ j else 0)).sum
  s.appendTask (i.bVal1 w tN64) i.T.fn (BitVec.ofNat 2048 (leNat bs)) (BitVec.ofNat 16 tags) false (launchRank i.core)
def tlaunch (w : Long) : Rule :=
  let c (i : Iss) : CapV := i.cpVal w.a.toNat
  let a (i : Iss) : Nat := (c i).cursor
  let q (i : Iss) : Nat := i.bVal1 w tN64
  { op := Op.long 0x3F 7 w
    ok := fun i => winLegal w i && cOk 128 w.a.toNat && q i < 128 && i.s.queueFn (q i) == some i.T.fn
    pre := fun i => (c i).check ⟨[0], pLD ||| (if isSys (a i) then pSY else 0)⟩ i.colour (i.s.colourOk i.colour) false (a i)
        256 = none ∧ a i % 64 = 0 ∧ i.s.rangeRefusal i.core i.colour (a i) 256 false = none ∧
      (i.s.queue (q i)).qcnt < 4096 ∧ (i.s.fn i.T.fn).flr = 0 ∧
      (i.s.queue (q i)).last.past i.s.clock (launchRank i.core) = false ∧
      (i.s.fence i.core i.colour 6 false true).engRefusal i.colour (a i) 256 false = none
    ws := fun i => i.dResult tN32 w.d.toNat (launched w i).1.toNat
    eff := fun i => { i with s := (launched w i).2 } }

/-- Rows 0x3C and 0x3D, and TLAUNCH. -/
def engine : Instr → Option Rule
  | .cpl w => some (cpl (Op.long 0x3C 0 w) w)
  | .sheaf w => some
      { op := Op.long 0x3C 1 w, ok := fun i => i.dOnce 32 w.d.toNat && w.bsel != 3
        pre := fun i => i.G.openSheaves < 16
        ws := fun i => [.k (w.d.toNat % 64) (i.G.k55 + 1)]
        eff := fun i => withG i { i.G with k55 := i.G.k55 + 1 } }
  | .wsheaf w => some
      { op := Op.long 0x3C 2 w, ok := fun i => i.bOnce w 32
        pre := fun i => seqBefore i.G.k55 (sheafNo w i) = false ∧
          (∀ x ∈ i.G.ops, i.G.sheafUpTo (sheafNo w i) x.sheaf = false) ∧
          ∀ f ∈ i.G.fails, i.G.sheafUpTo (sheafNo w i) f.sheaf = false }
  | .tcopy w => some (copy (Op.long 0x3C 3 w) w 0)
  | .wchk w => some
      { op := Op.long 0x3C 4 w, ok := fun i => i.aOnce w 64 && i.dOnce 64 w.d.toNat && w.bsel != 2 && i.bOnce w 32
        pre := chunkEnds w
        ws := fun i => i.dResult tN64 w.d.toNat (chunkLeft w i)
        eff := fun i => if chunkOut w i then { i with s := i.s.draw.2 } else i }
  | .apnd w => some (apnd (Op.long 0x3C 5 w) w)
  | .wseq w => some
      { op := Op.long 0x3C 6 w, ok := fun i => w.sc.toNat % 4 < 3 && i.bOnce w 32
        pre := fun i => seqBefore (i.T.chain (w.sc.toNat % 4)).cseq (seqTarget w i) = false
        eff := fun i => withPath i { i.p with target := none } }
  | .dpost w => some
      { op := Op.long 0x3C 7 w
        ok := fun i => i.bOnce w 32 && (if postKind w = 0 then decide (postIx w < i.T.groups.length)
          else if postKind w = 1 then decide (postIx w < i.T.roles.length) else postKind w == 2)
        pre := fun i => postDropped w i ∨ (i.s.core i.core).dq.length < 64
        eff := posted w }
  | .mma w => some (mma (Op.long 0x3D 0 w) w)
  | .mzero w => some (tile (Op.long 0x3D 1 w) w 3 false)
  | .mload w => some (tile (Op.long 0x3D 2 w) w 4 true)
  | .mstore w => some (tile (Op.long 0x3D 3 w) w 5 true)
  | .mdrain w => some (tile (Op.long 0x3D 4 w) w 6 false)
  | .coll w => some (coll (Op.long 0x3D 5 w) w)
  | .rcopy w => some (copy (Op.long 0x3D 6 w) w 2)
  | .crec w => some
      { op := Op.long 0x3D 7 w
        ok := fun i => if i.ctl then w.d.toNat % 64 % 4 == 0 && w.d.toNat % 64 ≤ 56 && w.bsel != 3
          else w.asel == 1 && w.a.toNat % 4 == 0 && w.bsel != 3
        pre := fun i => if i.ctl then i.T.ringHeld ≠ 0 else
          i.T.ringHeld < 32 ∧ i.T.ringLast.past i.s.clock (i.T.ringRank i.G.grp) = false
        ws := recordRead w
        eff := recorded w }
  | .tlaunch w => some (tlaunch w)
  | _ => none

end Sys2Proof.Rules
end

