-- ==== Sys2Proof/Rules/Float.lean ====
section
/-! DEFINITION. The rules of the float, special-function and packed rows, 0x10 to 0x14 (R133 to R152): results and
flags. -/

namespace Sys2Proof.Rules

open Sys2Proof.Machine Sys2Proof.Safety

/-- The row that a read of the drain port takes: the oldest staged (R153, R320). -/
def portRow (i : Iss) : Row := laneRow ((i.G.drain.head?.map (·.row)).getD zeroRow)
/-- The view with that row taken, where A is the drain port: the buffer's slot is free, DONE of the MDRAIN that staged it
counts the row, which ends with its last (R319, R320). -/
def rowTaken (o : Op) (i : Iss) : Iss :=
  if o.asel ≠ 2 then i
  else match i.G.drain with
    | [] => i
    | r :: rest =>
      let s := i.s.setGroup i.id { i.G with drain := rest }
      let t := match s.cmd i.team 1 r.seq with
        | some c =>
          if c.complete then s
          else if c.done + 1 = c.drainRows then s.endCmd i.team 1 { c with done := c.done + 1 } 2
          else s.noteCmd i.team 1 { c with done := c.done + 1 }
        | none => s
      { i with s := t, G := { i.G with drain := rest } }

/-- A float form: `r` gives the image and the flags of each lane, or of the context's one value. It has its effect where
no flag raised is enabled in k57 (R26, R70), which no context's is (R134), and where a row is staged if A is the drain
port (R153). -/
def flt (o : Op) (wd : Nat) (d : BitVec 7) (ok : Iss → Bool) (r : Iss → FRes) : Rule :=
  { op := o, ok := ok
    pre := fun i => (o.asel = 2 → i.G.drain ≠ []) ∧ (i.ctl = true ∨ flagsOf (i.active o) ((r i).map (·.2)) &&& i.enables = 0)
    ws := fun i => if i.ctl then [.c (d.toNat % 64) (BitVec.ofNat 64 (((r i).headD (0, 0)).1))]
      else i.vResult wd d.toNat (i.active o) ((r i).map (·.1))
    fl := fun i => if i.ctl then ((r i).headD (0, 0)).2 else flagsOf (i.active o) ((r i).map (·.2))
    eff := rowTaken o }

/-- The format, the A, B and C images, and the rounding mode (R64, R85, R134). -/
abbrev fF (w : Long) : Fmt := f4Of w.ty.toNat
abbrev fA (i : Iss) (w : Long) (F : Fmt) : List Nat := i.fA w F (portRow i)
abbrev rm (i : Iss) (w : Long) : Nat := i.rmode w.sc.toNat

/-- D := f(A, B), correctly rounded where `rnd`. -/
def fl2 (o : Op) (w : Long) (rnd : Bool) (f : Fmt → Nat → Nat → Nat → Nat × Nat) : Rule :=
  flt o (fF w).rw w.d
    (fun i => isF4 w.ty.toNat && (!rnd || rndOk w.sc.toNat) && i.fD (fF w) w.d && i.fAOk w (fF w) && i.fBOk w (fF w))
    (fun i => ((fA i w (fF w)).zip (i.fB w (fF w))).map (fun (a, b) => f (fF w) (rm i w) a b))
/-- D := f(A). -/
def fl1 (o : Op) (w : Long) (f : Fmt → Nat → Nat → Nat × Nat) : Rule :=
  flt o (fF w).rw w.d
    (fun i => isF4 w.ty.toNat && rndOk w.sc.toNat && i.fD (fF w) w.d && i.fAOk w (fF w) && i.fNoB w)
    (fun i => (fA i w (fF w)).map (f (fF w) (rm i w)))

/-- A result of exact arithmetic, rounded once, with the flags of both (R64, R65, R68). -/
def rounded (F : Fmt) (rm : Nat) (r : FVal × Nat) : Nat × Nat :=
  ((r.1.pack F rm false).1, (r.1.pack F rm false).2 ||| r.2)
def addF (F : Fmt) (rm a b : Nat) : Nat × Nat := rounded F rm ((F.decode a).add rm (F.decode b))
def subF (F : Fmt) (rm a b : Nat) : Nat × Nat := rounded F rm ((F.decode a).add rm (F.decode b).negate)
def mulF (F : Fmt) (rm a b : Nat) : Nat × Nat := rounded F rm ((F.decode a).mul (F.decode b))
def fmaF (F : Fmt) (rm a b c : Nat) : Nat × Nat := rounded F rm ((F.decode a).fma rm (F.decode b) (F.decode c))
def divF (F : Fmt) (rm a b : Nat) : Nat × Nat := rounded F rm ((F.decode a).div (F.mb + 1) (F.decode b))
def sqrtF (F : Fmt) (rm a : Nat) : Nat × Nat := rounded F rm ((F.decode a).sqrt (F.mb + 1))

/-- One NaN gives the other operand, two the canonical NaN; −0 is below +0 (R137). -/
def pickF (max : Bool) (F : Fmt) (_ a b : Nat) : Nat × Nat :=
  let x := F.decode a
  let y := F.decode b
  let less : Bool := (x.cmp y == some .lt) || (x.cmp y == some .eq && x.neg && !y.neg)
  (if x.isNan then (if y.isNan then F.nanBits else b) else if y.isNan then a else if less != max then a else b,
   if x.isSig || y.isSig then flNV else 0)

/-- The comparisons of R138 and their flags. -/
def relF (c : Nat) (x y : FVal) : Bool × Nat :=
  let o := x.cmp y
  (match c with
    | 0 => o == some .eq
    | 1 => o != some .eq
    | 2 => o == some .lt
    | 3 => o == some .lt || o == some .eq
    | 4 => o == some .gt
    | 5 => o == some .gt || o == some .eq
    | 6 => !(x.isNan || y.isNan)
    | _ => x.isNan || y.isNan,
   if (if 2 ≤ c ∧ c ≤ 5 then x.isNan || y.isNan else x.isSig || y.isSig) then flNV else 0)

/-- FSET and FCMP: outcomes and flags, lane by lane. -/
def relL (i : Iss) (w : Long) : List (Bool × Nat) :=
  ((fA i w (fF w)).zip (i.fB w (fF w))).map (fun (a, b) =>
    relF (bitsOf w.imm.toNat 12 10) ((fF w).decode a) ((fF w).decode b))
def relRule (o : Op) (w : Long) (dOk : Iss → Bool) (out : Iss → List RegWrite) (ones : Nat) : Rule :=
  { op := o
    ok := fun i => isF4 w.ty.toNat && w.bsel != 2 && dOk i && i.fAOk w (fF w) && i.fBOk w (fF w)
    pre := fun i => (o.asel = 2 → i.G.drain ≠ []) ∧ (i.ctl = true ∨ flagsOf (i.active o) ((relL i w).map (·.2)) &&& i.enables = 0)
    ws := fun i => if i.ctl then
        [.c (w.d.toNat % 64) (BitVec.ofNat 64 (if ((relL i w).headD (false, 0)).1 then ones else 0))]
      else out i
    fl := fun i => if i.ctl then ((relL i w).headD (false, 0)).2 else flagsOf (i.active o) ((relL i w).map (·.2))
    eff := rowTaken o }
/-- Lane L's combined outcome (R112, R138). -/
def relAt (i : Iss) (w : Long) (L : Nat) : Bool := comb w i L (((relL i w).getD L (false, 0)).1)

/-- Rows 0x10 to 0x13 but the conversions. -/
def floats : Instr → Option Rule
  | .fadd32 o => some (fl2 (Op.short 0x10 0) (o.wide 1 7 0) true addF)
  | .fadd64 w => some (fl2 (Op.long 0x10 0 w) w true addF)
  | .fsub32 o => some (fl2 (Op.short 0x10 1) (o.wide 1 7 0) true subF)
  | .fsub64 w => some (fl2 (Op.long 0x10 1 w) w true subF)
  | .fmul32 o => some (fl2 (Op.short 0x10 2) (o.wide 1 7 0) true mulF)
  | .fmul64 w => some (fl2 (Op.long 0x10 2 w) w true mulF)
  | .ffma w => some (flt (Op.long 0x10 3 w) (fF w).rw w.d
      (fun i => isF4 w.ty.toNat && rndOk w.sc.toNat && w.bsel != 2 && i.fD (fF w) w.d && i.fAOk w (fF w) &&
        i.fBOk w (fF w) && i.fCOk w (fF w))
      (fun i => ((fA i w (fF w)).zip ((i.fB w (fF w)).zip (i.fC w (fF w)))).map
        (fun (a, b, c) => fmaF (fF w) (rm i w) a b c)))
  | .fmin32 o => some (fl2 (Op.short 0x10 4) (o.wide 1 7 0) false (pickF false))
  | .fmin64 w => some (fl2 (Op.long 0x10 4 w) w false (pickF false))
  | .fmax32 o => some (fl2 (Op.short 0x10 5) (o.wide 1 7 0) false (pickF true))
  | .fmax64 w => some (fl2 (Op.long 0x10 5 w) w false (pickF true))
  | .fset w => some (relRule (Op.long 0x10 6 w) w (fun i => i.ctl || i.vOk 32 w.d.toNat)
      (fun i => i.vResult 32 w.d.toNat (i.active (Op.long 0x10 6 w))
        (lanewise (fun L => if relAt i w L then 0xFFFFFFFF else 0))) (2 ^ 64 - 1))
  | .fcmp w => some (relRule (Op.long 0x10 7 w) w (fun _ => true)
      (fun i => [.q (w.d.toNat % 8) (i.active (Op.long 0x10 7 w)) (lanesAt (relAt i w))]) 1)
  | .fclass w =>
    let F := (fmtOf w.ty.toNat).getD f32
    some (flt (Op.long 0x11 0 w) 32 w.d (fun i => isF4n w.ty.toNat && i.vOk 32 w.d.toNat && i.fAOk w F)
      (fun i => (fA i w F).map (fun a => (2 ^ fclassBit F a, 0))))
  | .frnd32 o => some (fl1 (Op.short 0x11 1) (o.wide 1 7 0) frnd)
  | .frnd64 w => some (fl1 (Op.long 0x11 1 w) w frnd)
  | .fscale32 o => some (scale (Op.short 0x11 2) (o.wide 1 7 0))
  | .fscale64 w => some (scale (Op.long 0x11 2 w) w)
  | .fexpt32 o => some (expt (Op.short 0x11 3) (o.wide 1 7 0))
  | .fexpt64 w => some (expt (Op.long 0x11 3 w) w)
  | .fsqrt w => some (fl1 (Op.long 0x12 2 w) w sqrtF)
  | .fdiv w => some (fl2 (Op.long 0x12 3 w) w true divF)
  | .frcp w => some (approx (Op.long 0x12 0 w) w 0)
  | .frsq w => some (approx (Op.long 0x12 1 w) w 1)
  | .fexp2 w => some (approx (Op.long 0x12 4 w) w 4)
  | .flog2 w => some (approx (Op.long 0x12 5 w) w 5)
  | .fsin w => some (approx (Op.long 0x12 6 w) w 6)
  | .fcos w => some (approx (Op.long 0x12 7 w) w 7)
  | .ftanh w => some (approx (Op.long 0x13 0 w) w 8)
  | _ => none
where
  scale (o : Op) (w : Long) : Rule :=
    flt o (fF w).rw w.d
      (fun i => isF4 w.ty.toNat && rndOk w.sc.toNat && i.fD (fF w) w.d && i.fAOk w (fF w) && i.bOk w 32)
      (fun i => ((fA i w (fF w)).zip (i.bVals w tS32)).map (fun (a, b) => fscale (fF w) (rm i w) a (sext 32 b)))
  expt (o : Op) (w : Long) : Rule :=
    flt o 32 w.d (fun i => isF4 w.ty.toNat && i.vOk 32 w.d.toNat && i.fAOk w (fF w))
      (fun i => (fA i w (fF w)).map (fexpt (fF w)))
  approx (o : Op) (w : Long) (fn : Nat) : Rule :=
    flt o (fF w).rw w.d (fun i => (1 ≤ w.ty.toNat && w.ty.toNat ≤ 3) && i.fD (fF w) w.d && i.fAOk w (fF w))
      (fun i => (fA i w (fF w)).map (special fn (fF w)))

/-- The source type field of a conversion, its SAT and its direction bit (R142, R143). -/
def sty (w : Long) : Nat := bitsOf w.imm.toNat 12 9
def cvSat (w : Long) : Bool := bitAt w.imm.toNat 8
/-- The format of a code. -/
def fmtC (c : Nat) : Fmt := (fmtOf c).getD f32
/-- The s or n type of a code. -/
def intC (c : Nat) : ITy := ((ityOf c).filter tySN).getD tS32
def isInt (c : Nat) : Bool := ((ityOf c).filter tySN).isSome
/-- The integer A images. -/
def iA (i : Iss) (w : Long) (t : ITy) : List Nat :=
  if i.ctl then [(i.cReg w.a.toNat).toNat % 2 ^ t.w] else i.aVals w t.w
/-- An integer result: sign- or zero-extended into cD, the register image in vD (R56, R115). -/
def toInts (o : Op) (w : Long) (ok : Iss → Bool) (r : Iss → FRes) : Rule :=
  let t := intC w.ty.toNat
  { flt o t.w w.d ok r with
    ws := fun i => if i.ctl then [.c (w.d.toNat % 64) (BitVec.ofNat 64 (cImage t (((r i).headD (0, 0)).1)))]
      else i.vResult t.w w.d.toNat (i.active o) (((r i).map (·.1)).map t.image) }

/-- FCVT, ICVT, FICVT (R142, R143). -/
def converts : Instr → Option Rule
  | .fcvt w =>
    let o := Op.long 0x11 4 w
    let F := fmtC (sty w)
    let G := fmtC w.ty.toNat
    if w.ty = 4 ∨ w.ty = 5 then
      some (flt o 32 w.d (fun i => !i.ctl && sty w == 1 && rndCvtOk w.sc.toNat && i.vOk 32 w.d.toNat &&
          (w.asel == 2 || i.aOk w 64))
        (fun i => (if w.asel = 2 then (portRow i).map (fun x => x.toNat + 2 ^ 32 * x.toNat) else i.aVals w 64).map (fun x =>
          let a := (f32.decode (x % 2 ^ 32)).convert G (rm i w) (cvSat w)
          let b := (f32.decode (x / 2 ^ 32 % 2 ^ 32)).convert G (rm i w) (cvSat w)
          (a.1 + 2 ^ 16 * b.1, a.2 ||| b.2))))
    else
      some (flt o G.rw w.d (fun i => (if i.ctl then isF4 w.ty.toNat && isF4 (sty w)
          else isF4n w.ty.toNat && isF4n (sty w)) && rndCvtOk w.sc.toNat && (!cvSat w || 2 ≤ w.ty.toNat) && i.fD G w.d &&
          i.fAOk w F)
        (fun i => (fA i w F).map (fcvt1 F G (w.ty.toNat == sty w) (rm i w) (cvSat w))))
  | .icvt w =>
    let t := intC w.ty.toNat
    let f := intC (sty w)
    some (toInts (Op.long 0x11 5 w) w
      (fun i => isInt w.ty.toNat && isInt (sty w) && i.iD t w.d && i.iAOk w f)
      (fun i => (iA i w f).map (fun a => (t.fit (cvSat w) (f.val a), 0))))
  | .ficvt w =>
    let o := Op.long 0x11 6 w
    if bitAt w.imm.toNat 7 then
      let f := intC (sty w)
      some (flt o (fF w).rw w.d (fun i => isInt (sty w) && isF4 w.ty.toNat && (!cvSat w || 2 ≤ w.ty.toNat) &&
          rndCvtOk w.sc.toNat && i.fD (fF w) w.d && i.iAOk w f)
        (fun i => (iA i w f).map (fun a =>
          roundPack (fF w) (rm i w) (cvSat w) (f.val a < 0) (f.val a).natAbs 0)))
    else
      let t := intC w.ty.toNat
      let F := f4Of (sty w)
      some (toInts o w (fun i => isInt w.ty.toNat && isF4 (sty w) && !cvSat w && rndCvtOk w.sc.toNat && i.iD t w.d &&
          i.fAOk w F)
        (fun i => (fA i w F).map (fun a => (F.decode a).toITy t (rm i w))))
  | _ => none

/-! Row 0x14. -/

/-- A's words with the flags of their reading: a drain row's value is rounded to the element format and stands in both
elements (R153). -/
def pA (i : Iss) (w : Long) (F : Fmt) : List (Nat × Nat) :=
  if w.asel = 2 then (portRow i).map (fun x =>
    let e := (f32.decode x.toNat).convert F (rm i w) false
    (e.1 + 2 ^ 16 * e.1, e.2))
  else (i.aVals w 32).map (fun x => (x, 0))
/-- Both elements of a word under one operation. -/
def pair (f : Nat → Nat → Nat × Nat) (a : Nat × Nat) (b : Nat) : Nat × Nat :=
  let x := f (a.1 % 2 ^ 16) (b % 2 ^ 16)
  let y := f (a.1 / 2 ^ 16 % 2 ^ 16) (b / 2 ^ 16 % 2 ^ 16)
  (x.1 + 2 ^ 16 * y.1, x.2 ||| y.2 ||| a.2)
/-- HADD2 and HMUL2 (R147). -/
def pk (o : Op) (w : Long) (f : Fmt → Nat → Nat → Nat → Nat × Nat) : Rule :=
  let F := x2Of w.ty.toNat
  flt o 32 w.d (fun i => isX2 w.ty.toNat && rndOk w.sc.toNat && i.vOk 32 w.d.toNat && i.pkAOk w && i.pkBOk w F)
    (fun i => ((pA i w F).zip (i.pkB w F)).map (fun (a, b) => pair (f F (rm i w)) a b))

/-- Packed arithmetic, dot products, block quantisation (R147 to R152). -/
def packeds : Instr → Option Rule
  | .hadd232 o => some (pk (Op.short 0x14 0) (o.wide 4 7 0) addF)
  | .hadd264 w => some (pk (Op.long 0x14 0 w) w addF)
  | .hmul232 o => some (pk (Op.short 0x14 1) (o.wide 4 7 0) mulF)
  | .hmul264 w => some (pk (Op.long 0x14 1 w) w mulF)
  | .hfma2 w =>
    let F := x2Of w.ty.toNat
    let hs := w.sub % 4
    some (flt (Op.long 0x14 2 w) 32 w.d
      (fun i => isX2 w.ty.toNat && rndOk w.sc.toNat && w.bsel != 2 && hs != 3 && i.vOk 32 w.d.toNat && i.pkAOk w &&
        i.pkBOk w F && i.vOk 32 w.c)
      (fun i => ((pA i w F).zip ((i.pkB w F).zip ((i.vVals 32 w.c).zip (i.vVals 32 w.d.toNat)))).map
        (fun (a, b, c, d) =>
          let x := if hs = 2 then (d % 2 ^ 16, 0) else fmaF F (rm i w) (a.1 % 2 ^ 16) (b % 2 ^ 16) (c % 2 ^ 16)
          let y := if hs = 1 then (d / 2 ^ 16 % 2 ^ 16, 0)
            else fmaF F (rm i w) (a.1 / 2 ^ 16 % 2 ^ 16) (b / 2 ^ 16 % 2 ^ 16) (c / 2 ^ 16 % 2 ^ 16)
          (x.1 + 2 ^ 16 * y.1, x.2 ||| y.2 ||| a.2))))
  | .dot2 w => some (flt (Op.long 0x14 4 w) 32 w.d
      (fun i => isX2 w.ty.toNat && rndOk w.sc.toNat && w.bsel != 2 && i.vOk 32 w.d.toNat && i.aOk w 32 && i.bOk w 32 &&
        i.vOk 32 w.c)
      (fun i => ((i.aVals w 32).zip ((i.bVals w tN32).zip (i.vVals 32 w.c))).map
        (fun (a, b, c) => Machine.dot2 (x2Of w.ty.toNat) (rm i w) a b c)))
  | .mxq w =>
    let F := f4Of (sty w)
    let t := (mxElem w.ty.toNat (w.bits 27 26)).getD .int8
    let o := Op.long 0x14 5 w
    some (flt o 32 w.d
      (fun i => (mxElem w.ty.toNat (w.bits 27 26)).isSome && (1 ≤ sty w && sty w ≤ 3) && rndCvtOk w.sc.toNat &&
        w.bsel != 0 && i.vOk 32 w.d.toNat && i.aOk w 32)
      (fun i =>
        let cnt := min 96 (if w.bsel = 2 then w.bits 25 19 else if w.bsel = 1 then i.kVal 32 w.b.toNat else w.litNat)
        let live (l : Nat) : Bool := (i.active o).getLsbD l && l < cnt
        let v (l : Nat) : FVal := F.decode ((i.aVals w 32).getD l 0 % 2 ^ F.width)
        (List.range 96).map (fun l =>
          let block := ((List.range 32).map (· + 32 * (l / 32))).filter live
          let S := mxScale t (block.map v)
          if live l then
            if S.2 then (S.1 * 2 ^ 24, if (v l).isSig || (v l).isInf then flNV else 0)
            else (S.1 * 2 ^ 24 + (t.quant (rm i w) S.1 (v l)).1, (t.quant (rm i w) S.1 (v l)).2)
          else (S.1 * 2 ^ 24, 0))))
  | .mxdq w =>
    let t := (mxElem (sty w) (w.bits 27 26)).getD .int8
    some (flt (Op.long 0x14 6 w) 32 w.d
      (fun i => (1 ≤ w.ty.toNat && w.ty.toNat ≤ 3) && (mxElem (sty w) (w.bits 27 26)).isSome && rndOk w.sc.toNat &&
        i.vOk 32 w.d.toNat && i.aOk w 32)
      (fun i => (i.aVals w 32).map (fun x => (t.scaled (x / 2 ^ 24) x).pack (fF w) (rm i w) false)))
  | .dot4 w =>
    let ta : ITy := ⟨8, w.ty == 0, false⟩
    let tb : ITy := ⟨8, w.sub % 2 == 0, false⟩
    some { op := Op.long 0x14 3 w
           ok := fun i => (w.ty == 0 || w.ty == 4) && w.bsel != 2 && i.vOk 32 w.d.toNat && i.aOk w 32 && i.bOk w 32 &&
             i.vOk 32 w.c
           ws := fun i => i.vResult 32 w.d.toNat (i.active (Op.long 0x14 3 w)) (lanewise (fun L =>
             let byte (t : ITy) (x j : Nat) : Int := t.val (x / 2 ^ (8 * j))
             let a := aL i w 32 L
             let b := bL i w tN32 L
             tS32.fit w.sat (sext 32 (cL i w 32 L) + byte ta a 0 * byte tb b 0 + byte ta a 1 * byte tb b 1 +
               byte ta a 2 * byte tb b 2 + byte ta a 3 * byte tb b 3))) }
  | _ => none

end Sys2Proof.Rules
end

