-- ==== Sys2Proof/Rules/GroupWide.lean ====
section
/-! DEFINITION. The rules of the group-wide instructions, row 0x20 (R76, R77, R154 to R160). -/

namespace Sys2Proof.Rules

open Sys2Proof.Machine Sys2Proof.Safety

/-- Lane L of vA at a width. -/
def vL (i : Iss) (w : Long) (wd L : Nat) : Nat := (i.vVals wd w.a.toNat).getD L 0
/-- The lanes present, lowest first (R154). -/
def presentAt (i : Iss) (o : Op) : List Nat := (List.range 96).filter (fun L => (i.active o).getLsbD L)
def isPresent (i : Iss) (o : Op) (s : Int) : Bool := 0 ≤ s && s < 96 && (i.active o).getLsbD s.toNat

/-- The source lane of SHFL, and whether it is inside the segment and present (R156). -/
def shflLane (mode S L b : Nat) : Int :=
  let base := S * (L / S)
  match mode with
  | 0 => ((base + b % S : Nat) : Int)
  | 1 => (L : Int) - b
  | 2 => (L : Int) + b
  | _ => ((base + ((L - base) ^^^ b) : Nat) : Int)
def shflOk (i : Iss) (o : Op) (w : Long) (L : Nat) : Bool :=
  let S := segOf (w.bits 28 26)
  let s := shflLane (w.bits 31 29) S L (bL i w tN32 L)
  ((S * (L / S) : Nat) : Int) ≤ s && s < ((S * (L / S) + S : Nat) : Int) && isPresent i o s

/-- One node of the reduction tree: an absent operand passes the other unchanged (R76). -/
def node (f : Nat → Nat → Nat × Nat) : Option Nat → Option Nat → Option Nat
  | some a, some b => some (f a b).1
  | some a, none => some a
  | none, b => b
/-- The flags of one node's own combination. -/
def nodeFl (f : Nat → Nat → Nat × Nat) : Option Nat → Option Nat → Nat
  | some a, some b => (f a b).2
  | _, _ => 0
/-- The value of the 2^d slots from `lo`, by d levels of adjacent pairs (R76). -/
def slot (f : Nat → Nat → Nat × Nat) (x : Nat → Option Nat) : Nat → Nat → Option Nat
  | 0, lo => x lo
  | d + 1, lo => node f (slot f x d lo) (slot f x d (lo + 2 ^ d))
def slotFl (f : Nat → Nat → Nat × Nat) (x : Nat → Option Nat) : Nat → Nat → Nat
  | 0, _ => 0
  | d + 1, lo => slotFl f x d lo ||| slotFl f x d (lo + 2 ^ d) ||| nodeFl f (slot f x d lo) (slot f x d (lo + 2 ^ d))
/-- The root over 96 slots: (beat 0, beat 1), beat 2 (R76). -/
def root (f : Nat → Nat → Nat × Nat) (x : Nat → Option Nat) : Option Nat :=
  node f (node f (slot f x 5 0) (slot f x 5 32)) (slot f x 5 64)
def rootFl (f : Nat → Nat → Nat × Nat) (x : Nat → Option Nat) : Nat :=
  slotFl f x 5 0 ||| slotFl f x 5 32 ||| slotFl f x 5 64 ||| nodeFl f (slot f x 5 0) (slot f x 5 32) |||
    nodeFl f (node f (slot f x 5 0) (slot f x 5 32)) (slot f x 5 64)

/-- OP, FC and EXC of REDG and SCANG, and the width. -/
def rOp (w : Long) : Nat := w.bits 31 28
def rFC (w : Long) : Bool := bitAt (w.bits 26 26) 0
def rW (w : Long) : Nat := if rFC w then (fF w).rw else (tyOf w).w
/-- The operations and types that combine (R159). -/
def redOk (w : Long) : Bool :=
  if rFC w then rOp w < 3 && w.ty.toNat < 2 && rndOk w.sc.toNat
  else if rOp w < 3 then tyIs w tyWide && (!w.sat || rOp w == 0)
  else rOp w < 6 && tyIs w (fun t => t.isBits && (t.w = 32 || t.w = 64)) && !w.sat
/-- A node's operation (R159). -/
def redF (i : Iss) (w : Long) (a b : Nat) : Nat × Nat :=
  if rFC w then
    match rOp w with
    | 0 => addF (fF w) (rm i w) a b
    | 1 => pickF false (fF w) 0 a b
    | _ => pickF true (fF w) 0 a b
  else
    (match rOp w with
      | 0 => sum w.sat (tyOf w) a b
      | 1 => smaller (tyOf w) a b
      | 2 => larger (tyOf w) a b
      | 3 => a &&& b
      | 4 => a ||| b
      | _ => a ^^^ b, 0)
/-- The identity (R159). -/
def redId (w : Long) : Nat :=
  let t := tyOf w
  match rFC w, rOp w with
  | true, 0 => 0
  | true, 1 => (fF w).infBits
  | true, _ => (fF w).signed true (fF w).infBits
  | false, 0 => 0
  | false, 1 => if t.signed then 2 ^ (t.w - 1) - 1 else 2 ^ t.w - 1
  | false, 2 => if t.signed then 2 ^ (t.w - 1) else 0
  | false, 3 => 2 ^ t.w - 1
  | false, _ => 0
/-- The leaves: A where a lane is present and below a limit. -/
def leafAt (i : Iss) (o : Op) (w : Long) (lim : Nat) (L : Nat) : Option Nat :=
  if (i.active o).getLsbD L && L < lim then some (vL i w (rW w) L) else none
/-- The lanes of SCANG's tree for lane L. -/
def scanLim (w : Long) (L : Nat) : Nat := if bitAt (w.bits 27 27) 0 then L else L + 1

/-- The lanes present whose A equals a value. -/
def equalTo (i : Iss) (o : Op) (w : Long) (x : Nat) : LaneMask :=
  lanesAt (fun L => (i.active o).getLsbD L && vL i w (tyOf w).w L == x)
/-- The first present lane's A; 0 where none is. -/
def firstA (i : Iss) (o : Op) (w : Long) : Nat := ((presentAt i o).head?.map (vL i w (tyOf w).w)).getD 0

/-- b32 or b64. -/
def b3264 (w : Long) : Bool := tyIs w (fun t => t.isBits && (t.w = 32 || t.w = 64))

/-- Row 0x20 but LID, issued by a converged group: `mustPark` none (R154, R254). -/
def groupWide : Instr → Option Rule
  | .shfl w =>
    let o := Op.long 0x20 0 w
    let t := tyOf w
    some { op := o
           ok := fun i => w.asel == 0 && i.vOk t.w w.a.toNat && (b3264 w && w.bits 31 29 < 4 && w.bits 28 26 < 5 &&
             w.bsel != 2 && i.vOk t.w w.d.toNat && i.bOk w 32)
           ws := fun i => i.vResult t.w w.d.toNat (i.active o) (lanewise (fun L =>
               if shflOk i o w L then
                 vL i w t.w (shflLane (w.bits 31 29) (segOf (w.bits 28 26)) L (bL i w tN32 L)).toNat
               else vL i w t.w L)) ++
             [.q (w.bits 25 23) (i.active o) (lanesAt (shflOk i o w))] }
  | .vote w =>
    let o := Op.long 0x20 1 w
    let P (i : Iss) : LaneMask :=
      lanesAt (fun L => (i.active o).getLsbD L && (qL i (w.a.toNat % 8) L != bitAt (w.bits 29 29) 0))
    let r (i : Iss) : Bool := match w.bits 31 30 with
      | 0 => P i == i.active o
      | 1 => P i != 0
      | _ => P i == 0 || P i == i.active o
    some { op := o
           ok := fun _ => w.bits 31 30 != 3 || w.d.toNat % 64 ≤ 61
           ws := fun i =>
             if w.bits 31 30 = 3 then (List.range 3).map (fun j => .k (w.d.toNat % 64 + j) (maskWord (P i) j))
             else [.q (w.d.toNat % 8) (i.active o) (if r i then i.active o else 0)] }
  | .rdfl w =>
    let o := Op.long 0x20 2 w
    some { op := o
           ok := fun i => w.asel == 0 && i.vOk (tyOf w).w w.a.toNat && (b3264 w && kOk (tyOf w).w w.d.toNat)
           pre := fun i => bitAt (w.bits 31 31) 0 = true → ∀ L ∈ presentAt i o, vL i w (tyOf w).w L = firstA i o w
           ws := fun i => kResult (tyOf w).w w.d.toNat (firstA i o w) }
  | .rdln w =>
    let o := Op.long 0x20 3 w
    some { op := o
           ok := fun i => w.asel == 0 && i.vOk (tyOf w).w w.a.toNat && (b3264 w && kOk (tyOf w).w w.d.toNat &&
             w.bsel != 0 && i.bOk w 32)
           ws := fun i =>
             let n := bL i w tN32 0
             kResult (tyOf w).w w.d.toNat (if n ∈ presentAt i o then vL i w (tyOf w).w n else 0) }
  | .redg w =>
    let o := Op.long 0x20 4 w
    some { op := o
           ok := fun i => w.asel == 0 && redOk w && i.vOk (rW w) w.a.toNat && kOk (rW w) w.d.toNat
           pre := fun i => rootFl (redF i w) (leafAt i o w 96) &&& i.enables = 0
           ws := fun i => kResult (rW w) w.d.toNat ((root (redF i w) (leafAt i o w 96)).getD (redId w))
           fl := fun i => rootFl (redF i w) (leafAt i o w 96) }
  | .scang w =>
    let o := Op.long 0x20 5 w
    let fl (i : Iss) : Nat := (presentAt i o).foldl (fun a L => a ||| rootFl (redF i w) (leafAt i o w (scanLim w L))) 0
    some { op := o
           ok := fun i => w.asel == 0 && redOk w && i.vOk (rW w) w.a.toNat && i.vOk (rW w) w.d.toNat
           pre := fun i => fl i &&& i.enables = 0
           ws := fun i => i.vResult (rW w) w.d.toNat (i.active o) (lanewise (fun L =>
             if (i.active o).getLsbD L then (root (redF i w) (leafAt i o w (scanLim w L))).getD (redId w) else redId w))
           fl := fl }
  | .matchg w =>
    let o := Op.long 0x20 6 w
    let every := bitAt (w.bits 31 31) 0
    some { op := o
           ok := fun i => w.asel == 0 && i.vOk (tyOf w).w w.a.toNat && (b3264 w &&
             (every || w.d.toNat + 2 < i.G.len))
           ws := fun i =>
             if every then [.q (w.d.toNat % 8) (i.active o)
               (if (presentAt i o).all (fun L => vL i w (tyOf w).w L == firstA i o w) then i.active o else 0)]
             else (List.range 3).flatMap (fun j => i.vResult 32 (w.d.toNat + j) (i.active o)
               (lanewise (fun L => (maskWord (equalTo i o w (vL i w (tyOf w).w L)) j).toNat))) }
  | _ => none

end Sys2Proof.Rules
end

