-- ==== Sys2Proof/Rules/All.lean ====
section
/-! DEFINITION. Every instruction form with its issue data and decode checks, whichever table holds its rule; every device
step's rule. -/

namespace Sys2Proof.Rules

open Sys2Proof.Machine Sys2Proof.Safety

/-- The rule of a form whose result is one lane result. -/
def laneForm (x : Instr) : Option LaneRule := arith x <|> logic x <|> moves x

/-- The rule of a form of any results and effects. -/
def ruleForm (x : Instr) : Option Rule :=
  preds x <|> uniform x <|> floats x <|> converts x <|> packeds x <|> groupWide x <|> caps x <|> memory x <|> flow x <|>
    system x <|> engine x

/-- Issue data and decode checks of an instruction form; none for a device step. -/
def form (x : Instr) : Option (Op × (Iss → Bool)) :=
  (laneForm x).map (fun r => (r.op, r.ok)) <|> (ruleForm x).map (fun r => (r.op, r.ok)) <|>
    (moving x).map (fun r => (r.op, r.ok))

/-- The rule of a device step; none for an instruction form. -/
def turn (x : Instr) : Option Event :=
  issueTurns x <|> recordTurns x <|> engineTurns x <|> matrixTurns x <|> collTurns x <|> walkTurns x <|> teamTurns x <|>
    queueTurns x <|> gleanTurns x <|> fnTurns x <|> mgmtTurns x <|> extentTurns x <|> colourTurns x <|> sweepTurns x <|>
    hostTurns x <|> inboundTurns x <|> powerTurns x <|> portTurns x <|> rasTurns x <|> logTurns x <|> checkpointTurns x

/-- Entry ix of the stack is p, and the group runs outside its trap frame with nothing outstanding on any path and a lane
in every entry. -/
def quietAt (G : Group) (ix : Nat) (p : Path) : Prop :=
  G.stack[ix]? = some p ∧ G.tf = false ∧ G.handler = none ∧ G.orphans = [] ∧
    (∀ q ∈ G.stack, q.pend = [] ∧ q.win = [] ∧ q.mask ≠ 0)

end Sys2Proof.Rules
end

