-- ==== Sys2Proof/Certificates/Slice0/Obligations.lean ====
section
/-! DEFINITION. The statements for the provers: decoding, steps, the rules of every instruction form and device step,
traps, storage, capabilities. `Clear s i` (Safety.lean) says that the agent that issues in s, seen as i, has nothing in
its way; the tables of Sys2Proof/Rules hold what the spec gives each constructor of Instr. -/

open Sys2Proof Sys2Proof.Machine Sys2Proof.Safety Sys2Proof.Rules

/-! Decoding and steps. -/

/-- A step executes what the words at the pc of the agent that issues decode to, in the state after their fetch; a turn
of the agenda that lets an agent issue does so for that agent once its cycles have passed, and a turn that is a device
step performs that step. -/
def Obligations.StepRunsDecoded : Prop :=
  (∀ s i ws u x, s.agenda = [] → s.issuing = some i → i.fetch = .ok (ws, u) → decode ws = .ok x → step s = exec x u) ∧
  (∀ (s : State) ag dt rest i ws u x, s.agenda = ⟨dt, .issue ag⟩ :: rest →
    ({ ({ s with agenda := rest } : State).elapse dt with cur := some ag } : State).issuing = some i →
    i.fetch = .ok (ws, u) → decode ws = .ok x → step s = exec x u) ∧
  (∀ (s : State) dt rest x, s.agenda = ⟨dt, .event x⟩ :: rest → x.shape = .event →
    step s = exec x (({ s with agenda := rest } : State).elapse dt))

/-- R78, R242: with none of the code's lines in the instruction cache, the words that a fetch gives are the ones that
memory holds from the pc on, as many as bits 1:0 of the first say; the fetch changes no byte of storage. -/
def Obligations.FetchReadsMemory : Prop :=
  ∀ (i : Iss) ws u, i.fetch = .ok (ws, u) → isHost i.p.pc.toNat = false →
    (∀ n, Tbl.get i.s.mem.ic (icKey i.core i.ctl n) = none) →
    i.p.pc.toNat % 4 = 0 ∧ u.mem.bytes = i.s.mem.bytes ∧ u.mem.tags = i.s.mem.tags ∧
    (∃ w0 rest, ws = w0 :: rest ∧ ws.length = wordCount w0) ∧
    ∀ j w, ws[j]? = some w → w = BitVec.ofNat 32 (leNat (i.s.mem.homeRead (i.p.pc.toNat + 4 * j) 4))

/-- Words written out from R80, R82, R84, R95 and the instructions' pages. -/
def Obligations.DecodedWords : Prop :=
  -- IADD.n32 v5, v6, v7: F 1, B 7, A 6, D 5, MAJ 0x00, LEN 0b00
  decode [0b001_0000111_0000110_0000101_000000_00] = .ok (.iadd32 ⟨5, 6, 7⟩) ∧
  -- FMUL.f32 v1, v2, v3: F 2, MAJ 0x10
  decode [0b010_0000011_0000010_0000001_010000_00] = .ok (.fmul32 ⟨1, 2, 3⟩) ∧
  -- FFMA v1, v2, v3 with a 64-bit word: F 3, MAJ 0x10; IMM 0x1020, TY 1, SC 0, guard q7, LA 5
  decode [0b011_0000011_0000010_0000001_010000_01, 0b1000000100000_00_00_0001_000_0_111_0101] =
    .ok (.ffma ⟨1, 2, 3, 0x1020, 0, 0, 1, 0, 0, 7, 5, none⟩) ∧
  -- LD.b32 v6, [kp2 + v0]: F 0, MAJ 0x28, ASEL 1, TY b32 (10)
  decode [0b000_0000000_0000010_0000110_101000_01, 0b0000000000000_01_00_1010_000_0_111_0000] =
    .ok (.ld ⟨6, 2, 0, 0, 1, 0, 10, 0, 0, 7, 0, none⟩) ∧
  -- BRA with a literal offset: F 0, MAJ 0x38, LEN 0b10, BSEL 3
  decode [0b000_0000000_0000000_0000000_111000_10, 0b0000000000000_00_11_0000_000_0_111_0000, 0xFFFFFFF0] =
    .ok (.bra96 ⟨0, 0, 0, 0, 0, 3, 0, 0, 0, 7, 0, some 0xFFFFFFF0⟩) ∧
  -- TLAUNCH: F 7, MAJ 0x3F, GOP 5 in bits 31:29 of word 1
  decode [0b111_0000000_0000100_0001000_111111_01, 0b1010000000000_00_00_0000_000_0_111_0000] =
    .ok (.tlaunch ⟨8, 4, 0, 0b1010000000000, 0, 0, 0, 0, 0, 7, 0, none⟩) ∧
  -- HINT 7: the bits above LEN 0b11 are the hint
  decode [0b000000000000000000000000000111_11] = .ok (.hint 7) ∧
  -- the word 0 is MAJ 0x00 F 0, unassigned (R94)
  decode [0] = .error .unassigned

/-- Decoding an encoded well-formed instruction gives it back, with every field at every value (R78 to R84, R95, R96). -/
def Obligations.EncodeDecode : Prop :=
  ∀ x ws more, x.wf = true → encode x = some ws → decode (ws ++ more) = .ok x

/-- R94 steps 3, 5 and 6: words that are no instruction trap with ILLEGAL and change nothing else. -/
def Obligations.UndecodableWords : Prop :=
  ∀ s i ws u e j, s.agenda = [] → s.issuing = some i → i.fetch = .ok (ws, u) → decode ws = .error e → Clear u j →
    step s = .next (u.takeTrap j.ag (Trap.of cILLEGAL 0 0 (j.aim (badOp e ws)).lanes))

/-- R96: the codes of slot 0x3F F7, for the control stream only; 6 and 7 raise ILLEGAL. -/
def Obligations.GopCodes : Prop :=
  (∀ w0 w1 : Word, w0.extractLsb' 0 8 = 0xFD → w0.extractLsb' 29 3 = 7 →
    w1.extractLsb' 15 2 ≠ 3 → w1.extractLsb' 17 2 ≠ 3 →
    decode [w0, w1] = match (w1.extractLsb' 29 3).toNat with
      | 0 => .ok (.gstop (longOf w0 w1 none))
      | 1 => .ok (.grd (longOf w0 w1 none))
      | 2 => .ok (.gwr (longOf w0 w1 none))
      | 3 => .ok (.gres (longOf w0 w1 none))
      | 4 => .ok (.gstat (longOf w0 w1 none))
      | 5 => .ok (.tlaunch (longOf w0 w1 none))
      | _ => .error .reservedGop) ∧
  (∀ w : Long, (Op.long 0x3F 7 w).inControl = true ∧ (Op.long 0x3F 7 w).inGroup = false) ∧
  ∀ s i ws u j, s.agenda = [] → s.issuing = some i → i.fetch = .ok (ws, u) → decode ws = .error .reservedGop →
    Clear u j → step s = .next (u.takeTrap j.ag (Trap.of cILLEGAL 0 0 j.p.mask))

/-- R95: no constructor of Instr is left out of the tables of rules: each is an instruction form or a device step. -/
def Obligations.EveryInstructionHasRule : Prop := ∀ x, (form x).isSome = true ∨ (turn x).isSome = true

/-! Reset and the canonical form of storage. -/

/-- What the spec states of the machine right after power-up (R269, R354, R392, R402, R404, R406, R419, R433, R434,
R447). -/
def Obligations.ResetState : Prop :=
  let s := State.reset
  s.bring.stage = 1 ∧ s.bring.fail = 0 ∧ s.bring.go = false ∧ s.ready = false ∧
  (∀ q, s.queue q = { qseq := 0, qdone := 0, qcnt := 0, full := false, badaddr := false }) ∧
  ((s.fn 0).en = true ∧ (s.fn 0).tlim = 32 ∧ (s.fn 0).rlim = 2048 ∧ (∀ q, q < 128 → (s.fn 0).queues.getLsbD q = true)) ∧
  (∀ f, f ≠ 0 → (s.fn f).en = false ∧ (s.fn f).queues = 0 ∧ (s.fn f).rate = 0 ∧ (s.fn f).csax = 0x3FF) ∧
  (∀ f, (s.fn f).mstatus = 0) ∧ s.sec.pool = 0 ∧
  ((s.colour 0).valid = true ∧ (s.colour 0).prot = false ∧ (s.colour 0).func = 0) ∧
  (∀ c, c ≠ 0 → (s.colour c).valid = false) ∧ (∀ i, (s.ext i).state = 0) ∧ s.sec.passDone = 0 ∧ s.sec.passRun = 0 ∧
  (∀ k, Store.read s.ras.ue k = 0 ∧ Store.read s.ras.ce k = 0) ∧
  (∀ g, s.group g = none) ∧ (∀ t, s.team t = none ∧ s.ctx t = none)

/-- Storage is in its canonical form right after power-up. -/
def Obligations.StorageCanonicalAtReset : Prop := memoryWf State.reset.mem

/-- Every step keeps storage in its canonical form: bytes, tags, release records and tile words with rising keys and no
zero entry, every L1 line of 128 bytes. -/
def Obligations.StepKeepsStorage : Prop := ∀ s t, memoryWf s.mem → steps s t → memoryWf t.mem

/-! The instruction forms: from every clear state, under the decode checks and conditions that the spec names, each
completes as its rule says, and leaves all else as it was. -/

/-- Rows 0x00 and 0x01 and their uniform-B forms (R105 to R108): the lanes active hold the rule's images; nothing else
changes. -/
def Obligations.LaneArithmetic : Prop :=
  ∀ x r s i, arith x = some r → Clear s i → i.ctl = false → i.admits r.op r.ok → r.op.lookahead = 0 →
    laneDone s i (exec x s) r.op.bytes (i.active r.op) r.wd r.d (r.val i) 0
/-- The lane logic, shifts and bit counts (R105, R109 to R111). -/
def Obligations.LaneLogic : Prop :=
  ∀ x r s i, logic x = some r → Clear s i → i.ctl = false → i.admits r.op r.ok → r.op.lookahead = 0 →
    laneDone s i (exec x s) r.op.bytes (i.active r.op) r.wd r.d (r.val i) 0
/-- SEL, MOV, MOVL, LID (R113, R114, R161). -/
def Obligations.LaneMoves : Prop :=
  ∀ x r s i, moves x = some r → Clear s i → i.ctl = false → i.admits r.op r.ok → r.op.lookahead = 0 →
    laneDone s i (exec x s) r.op.bytes (i.active r.op) r.wd r.d (r.val i) 0
/-- IADC, ICMP, ISET, PLOP, P2K, K2P, PMOV (R106, R112, R116). -/
def Obligations.PredicateForms : Prop := follows preds
/-- The uniform instructions, in both streams (R115). -/
def Obligations.UniformForms : Prop := follows uniform
/-- Float arithmetic, comparison, classes, special functions (R64 to R70, R134 to R145). -/
def Obligations.FloatForms : Prop := follows floats
/-- FCVT, ICVT, FICVT (R142, R143). -/
def Obligations.ConversionForms : Prop := follows converts
/-- Packed arithmetic, dot products, block quantisation (R71 to R73, R146 to R152). -/
def Obligations.PackedForms : Prop := follows packeds
/-- Row 0x20 (R76, R77, R154 to R161). -/
def Obligations.GroupWideForms : Prop := follows groupWide
/-- The capability instructions (R39 to R45, R182 to R189). -/
def Obligations.CapabilityForms : Prop := follows caps
/-- Loads, stores and atomics whose accesses pass every check and meet no refusal (R162 to R181). -/
def Obligations.MemoryForms : Prop := follows memory
/-- Branches, calls, windows, TAKE, YIELD, NOP, HINT (R79, R119 to R132, R243). -/
def Obligations.ControlFlowForms : Prop := follows flow
/-- Fences, walks, barriers, claims, system reads and writes, the group window, launches (R190 to R232). -/
def Obligations.SystemForms : Prop := follows system
/-- The appends of engine commands and the waits on them (R195 to R216). -/
def Obligations.EngineForms : Prop := follows engine
/-- BRD, JOIN, EXIT, RTT, and TRAP of an active lane (R121 to R126, R224, R225, R334). -/
def Obligations.EntryChangingForms : Prop := ∀ x m s i, moving x = some m → Clear s i → m.does i (exec x s)

/-- R94, R69: a form whose decode checks fail traps with ILLEGAL before any effect, with the lanes active for it in the
fault mask. -/
def Obligations.RefusedFormsTrap : Prop :=
  ∀ x o l s i, form x = some (o, l) → Clear s i → ¬i.admits o l →
    exec x s = .next (s.takeTrap i.ag (Trap.of cILLEGAL 0 0 (i.aim o).lanes))

/-- R91: with a lookahead n > 0 the registers stay as they are and the results wait, as one entry, through a shadow of n
instructions; all else the form does happens at once. -/
def Obligations.LookaheadDelays : Prop :=
  ∀ x r s i, (ruleForm x = some r ∨ ∃ q, laneForm x = some q ∧ r = q.rule) → Clear s i → r.delays i (exec x s)

/-- R91, R92: results whose shadow has ended are written before an instruction of their path, which then executes as
from the state that holds them. -/
def Obligations.DueResultsFirst : Prop :=
  ∀ x o l s i u, form x = some (o, l) → s.issuing = some i → i.p.late = [] → i.G.stopReq = false → i.G.stepDue = false →
    i.settled o = some u → (∃ j, u.issuing = some j ∧ j.ag = i.ag ∧ j.p.mask = i.p.mask ∧ j.p.mask ≠ 0) → exec x s = exec x u

/-! The device steps: whenever one comes about, it answers a next state of which its rule holds. -/

/-- Chain restarts, results, atomics at their home, completions at the host, late faults (R91, R93, R174, R175, R181,
R226). -/
def Obligations.ResultSteps : Prop := comes issueTurns
/-- Records of the completion ring, retirement, starvation, hints, the end of a sleep (R222, R223, R243, R249, R251). -/
def Obligations.RecordSteps : Prop := comes recordTurns
/-- Acceptance, chunks of a copy, line operations, GCM records (R196 to R206, R299 to R311). -/
def Obligations.CopySteps : Prop := comes engineTurns
/-- Tile fetches, MMA blocks, row operations, drain rows (R74, R312 to R320). -/
def Obligations.MatrixSteps : Prop := comes matrixTurns
/-- Messages of collectives, abort notices, the switch, acknowledgements (R322 to R328). -/
def Obligations.CollectiveSteps : Prop := comes collTurns
/-- Walkers, forwards, drains (R291 to R293, R383 to R386). -/
def Obligations.WalkSteps : Prop := comes walkTurns
/-- Scan, start and end of a team, level 2, completion, pre-emption, save and restore (R245 to R249, R337, R357, R382,
R395 to R399). -/
def Obligations.TeamSteps : Prop := comes teamTurns
/-- QSUB, QCTL, examination, admission, dealing (R354 to R366, R379). -/
def Obligations.QueueSteps : Prop := comes queueTurns
/-- Gleaning and the remainder's holder (R367, R394). -/
def Obligations.GleanSteps : Prop := comes gleanTurns
/-- The tick and FCFG.EN (R392, R393, R402). -/
def Obligations.FunctionSteps : Prop := comes fnTurns
/-- Writes of BAR0 (R9, R354, R404, R415, R419, R434, R451 to R458). -/
def Obligations.RegisterWrites : Prop := comes mgmtTurns
/-- EXT_ADD, EXT_REVOKE, EXT_FREE, the revocation point (R404, R405, R408, R409, R418). -/
def Obligations.ExtentCommands : Prop := comes extentTurns
/-- COL_SET, IMG_BIND, KEY_RELEASE, KEY_ZERO (R405, R407, R410 to R414). -/
def Obligations.ColourCommands : Prop := comes colourTurns
/-- PREEMPT, SWEEP, unlisted commands, ends of commands and sweeps (R404, R405, R419 to R422, R460). -/
def Obligations.SweepCommands : Prop := comes sweepTurns
/-- Function-level reset, its receipt, TDISP, SPDM, IDE (R423, R424, R442, R443, R457). -/
def Obligations.InterfaceSteps : Prop := comes hostTurns
/-- Requests from the host and from peers (R47, R50, R407, R409). -/
def Obligations.InboundRequests : Prop := comes inboundTurns
/-- Power-up to READY (R432 to R436, R442, R444). -/
def Obligations.BringUpSteps : Prop := comes powerTurns
/-- Fewick ports (R437 to R441). -/
def Obligations.PortSteps : Prop := comes portTurns
/-- Soft errors, parity, patrol, core retirement (R339, R445 to R451). -/
def Obligations.ErrorSteps : Prop := comes rasTurns
/-- Snapshots, watch windows, log segments (R449, R453 to R456). -/
def Obligations.LogSteps : Prop := comes logTurns
/-- The checkpoint engine (R458); the layout of an image is an opaque function (log 28). -/
def Obligations.CheckpointSteps : Prop := comes checkpointTurns

/-- Every step that can also be turned away, refused or failed completes by its own effect under conditions on the state and
its operands alone: acceptance, chunks, line operations, records, tile fetches and rows, results of the switch, queue and
management commands, registers, resets, inbound requests, bring-up, ports, snapshots, checkpoints. -/
def Obligations.StepsComplete : Prop := comes completions

/-! Traps. -/

/-- R30, R329, R331: entry at level 0. Row v15 of the trap frame holds the image; k48 to k51 the fault mask and the cause
word; the handler runs at TRAPV in the launch code capability with the path's mask; the entries stay, every other row,
register and byte is as before. -/
def Obligations.TrapLevel0 : Prop :=
  ∀ (s : State) g ix (G : Group) (p : Path) (tr : Trap), s.group g = some G → quietAt G ix p → G.trapv ≠ 0 → tr.toFirmware = false → tr.late = false →
    tr.flags = 0 →
    ∃ H h, (s.takeTrap (.path g ix) tr).group g = some H ∧ H.tf = true ∧ H.handler = some h ∧
      h.ix = ix ∧ h.code = p.code ∧ h.path.pc = BitVec.ofNat 64 G.trapv ∧ h.path.mask = p.mask ∧ h.path.code = G.code ∧
      H.row (trapRow + 15) = [G.kBank 48, G.kBank 49, G.kBank 50, G.kBank 51, maskWord p.mask 0, maskWord p.mask 1,
        maskWord p.mask 2, (tr.resume.getD p.pc).extractLsb' 0 32, (tr.resume.getD p.pc).extractLsb' 32 32,
        BitVec.ofNat 32 (G.held * 2 ^ 16 + G.lo)] ++ List.replicate 86 0 ∧
      (H.kBank 48 = maskWord tr.lanes 0 ∧ H.kBank 49 = maskWord tr.lanes 1 ∧ H.kBank 50 = maskWord tr.lanes 2) ∧
      H.kBank 51 = BitVec.ofNat 32 (tr.detail % 2 ^ 13 * 2 ^ 19 + (if (parentIx G.stack ix).isSome then 2 ^ 16 else 0) +
        tr.sub % 16 * 2 ^ 8 + tr.cause % 256) ∧
      H.stack = (G.stack.map (fun q => { q with held := [] })).set ix { p with wait := none, held := [] } ∧ H.base = G.base ∧ H.held = G.held ∧
      (∀ r, r ≠ trapRow + 15 → H.row r = G.row r) ∧ (∀ n, n < 48 → H.kBank n = G.kBank n) ∧ H.q = G.q ∧
      (∀ h, h ≠ g → (s.takeTrap (.path g ix) tr).group h = s.group h) ∧ (s.takeTrap (.path g ix) tr).mem = s.mem

/-- R331, R335, R337: without a handler the group stops at level 1 with its cause word, and a notice record waits for
its control thread, or the trap passes to level 2 where there is none; a trap of a control thread passes to level 2. -/
def Obligations.TrapLevels1And2 : Prop :=
  (∀ (s : State) g ix (G : Group) (p : Path) (T : Team) (tr : Trap), s.group g = some G → quietAt G ix p → G.trapv = 0 → tr.toFirmware = false →
    tr.flags = 0 → s.team G.team = some T →
    let t := s.takeTrap (.path g ix) tr
    let cw := causeWord tr false (parentIx G.stack ix).isSome
    (∃ H, t.group g = some H ∧ H.run = .trapped ∧ H.cause = cw ∧ H.resume = .path g ix ∧ H.row = G.row ∧
      (H.stack[ix]?.map (·.pc)) = some (tr.resume.getD p.pc)) ∧ t.mem = s.mem ∧
    ((∃ C, s.ctx G.team = some C ∧ C.exited = false ∧ C.trapped = none) →
      ∃ T', t.team G.team = some T' ∧ T'.halt = T.halt ∧
        ∃ r, T'.ringQ = T.ringQ ++ [r] ∧ r.chain = none ∧ r.bits = noticeRec G.grp tr.cause tr.sub tr.lanes) ∧
    ((∀ C, s.ctx G.team = some C → C.exited = true ∨ C.trapped ≠ none) → ∃ T', t.team G.team = some T' ∧ T'.halt = true)) ∧
  ∀ (s : State) n (C : Ctx) (T : Team) (tr : Trap), s.ctx n = some C → s.team n = some T → tr.toFirmware = false → C.path.pend = [] →
    let t := s.takeTrap (.ctl n) tr
    (∃ C', t.ctx n = some C' ∧ C'.trapped = some (tr.cause, tr.sub, (causeWord tr false false).toNat) ∧ C'.c = C.c) ∧
    (∃ T', t.team n = some T' ∧ T'.halt = true ∧ T'.ringQ = T.ringQ) ∧ t.groups = s.groups ∧ t.mem = s.mem

/-- R51: a load or store of which an active lane fails a check, none meeting a reserved form, performs no access and
traps with CAPABILITY: every failing lane in the mask, the lowest one's subcause. -/
def Obligations.FailedChecksTrap : Prop :=
  ∀ (w : Long) s i, Clear s i →
    let oL := Op.long 0x28 0 w
    let oS := Op.long 0x28 1 w
    let n := (tyOf w).w / 8
    let xs (o : Op) := accesses (i.issued o) w (i.active o) w.off10 (pvBit w)
    let bad (o : Op) (u : LsUse) := (xs o).filterMap (fun x => ((i.issued o).lsErr u n x).map (fun e => (x.l, e)))
    (∀ k rest, i.admits oL (ruleLd oL w).ok → i.mustPark oL = none →
      bad oL useLd = k :: rest → (∀ e ∈ k :: rest, ∃ c, e.2 = .cap c) →
      ∃ c, k.2 = .cap c ∧ exec (.ld w) s =
        .next (s.takeTrap i.ag (Trap.of cCAPABILITY c 0 (maskOfLanes ((k :: rest).map (·.1)))))) ∧
    (∀ k rest, i.admits oS (ruleSt oS w).ok → i.mustPark oS = none →
      bad oS useSt = k :: rest → (∀ e ∈ k :: rest, ∃ c, e.2 = .cap c) →
      ∃ c, k.2 = .cap c ∧ exec (.st w) s =
        .next (s.takeTrap i.ag (Trap.of cCAPABILITY c 0 (maskOfLanes ((k :: rest).map (·.1))))))

/-! Storage. -/

/-- A store of a core's LS path, and an engine's write, are read back; a store changes no other byte as that core reads
it; its granules lose their tags, and a granule stored whole with a tag shows it (R52, R163, R276). -/
def Obligations.WritesReadBack : Prop :=
  ∀ (m : Mem) core colour a bs, memoryWf m → colour < 4096 → (a < hbmTop → a + bs.length ≤ hbmTop) →
    (m.lsWrite core colour a bs).lsRead core colour a bs.length = bs ∧
    (∀ b, b < a ∨ a + bs.length ≤ b → (m.lsWrite core colour a bs).lsByte core colour b = m.lsByte core colour b) ∧
    (∀ b, a ≤ b → b < a + bs.length → (m.lsWrite core colour a bs).lsTag core colour (b / 16) = false) ∧
    (a % 16 = 0 → bs.length = 16 → m.lsPoison core colour (a / 16) = false →
      (m.lsWriteTagged core colour a bs true).lsTag core colour (a / 16) = true ∧
      (m.lsWriteTagged core colour a bs true).lsRead core colour a 16 = bs) ∧
    (m.engWrite core a bs).homeRead a bs.length = bs ∧
    (m.engWrite core a bs).lsRead core colour a bs.length = bs

/-- R163, R174: LD from the host window sends one non-posted read for each lane in ascending order and completes with its
result outstanding under the request's number, no register changed; an ST sends one posted write for each lane. -/
def Obligations.HostWindowAccess : Prop :=
  ∀ (w : Long) s i, Clear s i → s.ras.watch = [] →
    let n := (tyOf w).w / 8
    let far (o : Op) (u : LsUse) (k : RKind) (wr : Bool) (xs : List Acc) : Prop := xs ≠ [] ∧ ∀ x ∈ xs,
      (i.issued o).lsErr u n x = none ∧ (i.issued o).refusal (i.issued o).s n wr (!wr) x = none ∧ isHost x.addr = true ∧
      admitting i.T.regions x.addr (x.addr + n) k ≠ []
    let oL := Op.long 0x28 0 w
    let oS := Op.long 0x28 1 w
    let xL := accesses (i.issued oL) w (i.active oL) w.off10 (pvBit w)
    let xS := accesses (i.issued oS) w (i.active oS) w.off10 (pvBit w)
    (i.admits oL (ruleLd oL w).ok → i.mustPark oL = none → far oL useLd .read false xL → w.ord = 0 →
      ∃ t j q, exec (.ld w) s = .next t ∧ t.view i.ag = some j ∧ j.p.pc = pcOn i oL.bytes ∧ j.p.pend = [q] ∧
        q.ready = false ∧ q.req = some s.io.reqNo ∧ t.io.reqNo = s.io.reqNo + 1 ∧ after i j [] 0 ∧
        t.io.out = s.io.out ++ xL.map (fun x => .hostRead s.io.reqNo (x.addr - hostBase) n) ∧
        (∃ r, Tbl.get t.io.reqs s.io.reqNo = some r ∧ r.lanes = xL.map (·.l) ∧ r.size = n ∧ r.ag = i.ag) ∧ t.mem = s.mem) ∧
    (i.admits oS (ruleSt oS w).ok → i.mustPark oS = none → far oS useSt .write true xS → w.ord = 0 →
      ∃ t j, exec (.st w) s = .next t ∧ t.view i.ag = some j ∧ j.p.pc = pcOn i oS.bytes ∧ j.p.pend = [] ∧ after i j [] 0 ∧
        t.io.out = s.io.out ++ xS.map (fun x => .hostWrite (x.addr - hostBase)
          (leBytes n (((i.issued oS).vVals (tyOf w).w w.d.toNat).getD x.l 0))) ∧ t.mem = s.mem)

/-! Capabilities. -/

/-- No derivation widens: a tagged result of cursor arithmetic keeps bounds, form, permissions and colour; of narrowing,
lies in the source's bounds; of a permission mask, has the permissions of both; sealing to form 1, 2 or 4 and unsealing
keep bounds, permissions and colour, within the bounds of the authority (R40 to R45). Unsealing a form 1 or 2 keeps the
bounds where the cursor lies in the region that R39 gives their canonical encoding. -/
def Obligations.DerivationsNeverWiden : Prop :=
  (∀ (c d : CapV) n, c.setCursor n = .ok d → d.tag = true →
    c.tag = true ∧ d.base = c.base ∧ d.top = c.top ∧ (d.cursor : Int) = n ∧ d.form = c.form ∧ d.perms = c.perms ∧
      d.colour = c.colour) ∧
  (∀ (c d : CapV) len ex, c.narrow len ex = .ok d → d.tag = true →
    c.tag = true ∧ c.base ≤ d.base ∧ d.top ≤ c.top ∧ d.cursor = c.cursor ∧ d.perms = c.perms ∧ d.colour = c.colour ∧
      (ex = true → d.base = c.cursor ∧ d.top = c.cursor + len)) ∧
  (∀ (c d : CapV) m, c.andPerms m = .ok d → d.perms = c.perms &&& m % 4096 ∧ d.base = c.base ∧ d.top = c.top ∧ d.tag = c.tag) ∧
  (∀ (c k d : CapV) f, c.seal k f = .ok d → f = 1 ∨ f = 2 ∨ f = 4 → c.tag = true ∧ d.tag = true ∧ d.form = f ∧
    d.base = c.base ∧ d.top = c.top ∧ d.cursor = c.cursor ∧ d.perms = c.perms ∧ d.colour = c.colour ∧ k.base ≤ c.base ∧
    c.top ≤ k.top ∧ k.has pSE = true) ∧
  (∀ (c k d : CapV), c.unseal k = .ok d → c.tag = true ∧ d.tag = true ∧ d.form = (if c.form = 4 then 3 else 0) ∧
    d.cursor = c.cursor ∧ d.perms = c.perms ∧ d.colour = c.colour ∧ k.base ≤ c.base ∧ c.top ≤ k.top ∧ k.has pUS = true ∧
    (c.form = 4 → d.base = c.base ∧ d.top = c.top) ∧
    ∀ e, c.form ≠ 4 → canonicalE 19 c.base c.top = some e → c.top + 2 ^ e ≤ c.cursor + 2 ^ (e + 18) →
      c.cursor < c.base + 2 ^ (e + 18) → d.base = c.base ∧ d.top = c.top)

/-! Barriers and rules of one sentence or table. -/

/-- R217: arrivals and bytes complete phases while both suffice; each takes ARR arrivals and BYT bytes and advances CPH;
what is left completes none. -/
def Obligations.BarrierPhases : Prop :=
  ∀ (s : State) core h n by', (s.bar core h).owner ≠ none → 1 ≤ (s.bar core h).arrN →
    let b := s.bar core h
    let c := (s.arrive core h n by').bar core h
    ∃ p, c.cph = b.cph + BitVec.ofNat 32 p ∧ c.arr + p * b.arrN = b.arr + n ∧ c.byt + p * b.bytN = b.byt + by' ∧
      (c.arr < b.arrN ∨ c.byt < b.bytN) ∧ c.owner = b.owner ∧ c.arrN = b.arrN ∧ c.bytN = b.bytN

/-- R28. -/
def Obligations.ZeroRegister : Prop :=
  (∀ i : Iss, i.kReg 63 = 0) ∧
  ∀ age st ws, putWrites age st ws = putWrites age st (ws.filter (fun w => match w with
    | .k n _ => n != 63
    | _ => true))

/-- R20. -/
def Obligations.RowsAtLaunch : Prop :=
  ∀ t key core slot grp T k h rtab r now,
    let G := newGroup t key core slot grp T k h rtab r now
    (∀ n, G.row n = zeroRow) ∧ ∀ q, G.quadTags q = 0

/-- R419. -/
def Obligations.SweepRegister : Prop :=
  (∀ s : State, s.ready = true → s.readReg 0 0x1008 = s.sec.passRun ∧ s.readReg 0 0x100C = s.sec.passDone) ∧
  (∀ s w, exec (.registerWrite 0 0x1008 w) s = .next s ∧ exec (.registerWrite 0 0x100C w) s = .next s) ∧
  (State.reset.sec.passRun = 0 ∧ State.reset.sec.passDone = 0) ∧
  (∀ s t, exec .sweepPassComplete s = .next t → t.sec.passDone = s.sec.passRun ∧ t.sec.passRun = 0)
end

