-- ==== Sys2Proof/Laws/Store.lean ====
section
/-! SUPPORT. Laws of tables, stores and memory: reading after a write, and the canonical form. -/

namespace Sys2Proof.Machine

theorem Tbl.get_set {α : Type} (t : Tbl α) (x y : Nat) (a : α) :
    Tbl.get (Tbl.set t x a) y = if x = y then some a else Tbl.get t y := by
  induction t with
  | nil => simp [Tbl.set, Tbl.get]
  | cons e r ih =>
    obtain ⟨k, b⟩ := e
    simp only [Tbl.set]
    split
    · simp [Tbl.get]
    · split
      · subst_vars; simp only [Tbl.get]; split <;> simp_all
      · simp only [Tbl.get, ih]; split <;> split <;> simp_all

@[simp] theorem Tbl.get_set_same {α : Type} (t : Tbl α) (x : Nat) (a : α) : Tbl.get (Tbl.set t x a) x = some a := by
  simp [Tbl.get_set]

theorem Tbl.get_set_other {α : Type} (t : Tbl α) {x y : Nat} (a : α) (h : x ≠ y) :
    Tbl.get (Tbl.set t x a) y = Tbl.get t y := by
  simp [Tbl.get_set, h]

theorem Tbl.set_set {α : Type} (t : Tbl α) (x : Nat) (a b : α) : Tbl.set (Tbl.set t x a) x b = Tbl.set t x b := by
  induction t with
  | nil => simp [Tbl.set]
  | cons e r ih =>
    obtain ⟨k, c⟩ := e
    simp only [Tbl.set]
    split
    · simp [Tbl.set]
    · split
      · simp [Tbl.set]
      · rename_i h1 h2; simp [Tbl.set, h1, h2, ih]

theorem Tbl.get_keep {α : Type} (t : Tbl α) (p : Nat → Bool) (y : Nat) :
    Tbl.get (Tbl.keep t p) y = if p y then Tbl.get t y else none := by
  induction t with
  | nil => simp [Tbl.keep, Tbl.get]
  | cons e r ih =>
    obtain ⟨k, b⟩ := e
    have ih' : Tbl.get (List.filter (fun e => p e.1) r) y = if p y then Tbl.get r y else none := ih
    by_cases hk : k = y
    · subst hk; cases hp : p k <;> simp [Tbl.keep, Tbl.get, ih', hp]
    · cases hp : p k <;> simp [Tbl.keep, Tbl.get, ih', hp, hk]

theorem Tbl.erase_eq {α : Type} (t : Tbl α) (x : Nat) : Tbl.erase t x = Tbl.keep t (fun k => k != x) := rfl

theorem Tbl.get_erase {α : Type} (t : Tbl α) (x y : Nat) :
    Tbl.get (Tbl.erase t x) y = if x = y then none else Tbl.get t y := by
  rw [Tbl.erase_eq, Tbl.get_keep]
  by_cases h : x = y
  · simp [h]
  · simp [h, Ne.symm h]

/-- A written word is read back; every other word is as before. -/
theorem Store.read_write {w : Nat} (s : Store w) (i j : Nat) (x : BitVec w) :
    Store.read (Store.write s i x) j = if i = j then x else Store.read s j := by
  unfold Store.read Store.write
  by_cases hx : x = 0
  · by_cases h : i = j <;> simp [hx, h, Tbl.get_erase]
  · rw [if_neg hx]
    by_cases h : i = j <;> simp [h, Tbl.get_set]

@[simp] theorem Store.read_write_same {w : Nat} (s : Store w) (i : Nat) (x : BitVec w) :
    Store.read (Store.write s i x) i = x := by simp [Store.read_write]

theorem Store.read_write_other {w : Nat} (s : Store w) {i j : Nat} (x : BitVec w) (h : i ≠ j) :
    Store.read (Store.write s i x) j = Store.read s j := by simp [Store.read_write, h]

theorem Store.read_clear {w : Nat} (s : Store w) (lo hi j : Nat) :
    Store.read (Store.clear s lo hi) j = if lo ≤ j ∧ j < hi then 0 else Store.read s j := by
  unfold Store.read Store.clear
  rw [Tbl.get_keep]
  by_cases h1 : j < lo <;> by_cases h2 : hi ≤ j <;> simp [h1, h2]

theorem Memory.read_write (m : Memory) (a c : Nat) (b : Byte) :
    (m.write a b).read c = if a = c then b else m.read c := Store.read_write (w := 8) m a c b

/-- A byte outside the bytes written reads as before. -/
theorem Memory.read_writeN_outside (m : Memory) (a c : Nat) (bs : List Byte) (h : c < a ∨ a + bs.length ≤ c) :
    (m.writeN a bs).read c = m.read c := by
  induction bs generalizing m a with
  | nil => rfl
  | cons b bs ih =>
    simp only [List.length_cons] at h
    rw [Memory.writeN, ih _ _ (by omega), Memory.read_write, if_neg (by omega)]

/-- A byte inside the bytes written reads as the byte written there. -/
theorem Memory.read_writeN_inside (m : Memory) (a i : Nat) (bs : List Byte) (h : i < bs.length) :
    (m.writeN a bs).read (a + i) = bs[i] := by
  induction bs generalizing m a i with
  | nil => simp at h
  | cons b bs ih =>
    cases i with
    | zero =>
      rw [Memory.writeN, Memory.read_writeN_outside _ _ _ _ (by omega), Memory.read_write]
      simp
    | succ i =>
      have := ih (m.write a b) (a + 1) i (by simpa using h)
      rw [Memory.writeN, show a + (i + 1) = a + 1 + i by omega, this]
      simp

/-! The canonical form. -/

theorem Tbl.above_mono {α : Type} (t : Tbl α) {lo lo' : Nat} (h : lo' ≤ lo) (w : Tbl.above lo t = true) :
    Tbl.above lo' t = true := by
  cases t with
  | nil => rfl
  | cons e r => obtain ⟨k, a⟩ := e; simp [Tbl.above] at *; exact ⟨by omega, w.2⟩

theorem Tbl.above_set {α : Type} (t : Tbl α) (x : Nat) (a : α) (lo : Nat) (w : Tbl.above lo t = true) (h : lo ≤ x) :
    Tbl.above lo (Tbl.set t x a) = true := by
  induction t generalizing lo with
  | nil => simp [Tbl.set, Tbl.above, h]
  | cons e r ih =>
    obtain ⟨k, b⟩ := e
    simp only [Tbl.above, Bool.and_eq_true, decide_eq_true_eq] at w
    simp only [Tbl.set]
    split
    · simp [Tbl.above, h, w.2]; omega
    · split
      · subst_vars; simp [Tbl.above, h, w.2]
      · simp [Tbl.above, w.1]; exact ih _ w.2 (by omega)

theorem Tbl.wf_set {α : Type} (t : Tbl α) (x : Nat) (a : α) (w : Tbl.wf t = true) : Tbl.wf (Tbl.set t x a) = true :=
  Tbl.above_set t x a 0 w (Nat.zero_le _)

theorem Tbl.above_keep {α : Type} (t : Tbl α) (p : Nat → Bool) (lo : Nat) (w : Tbl.above lo t = true) :
    Tbl.above lo (Tbl.keep t p) = true := by
  induction t generalizing lo with
  | nil => rfl
  | cons e r ih =>
    obtain ⟨k, b⟩ := e
    simp only [Tbl.above, Bool.and_eq_true, decide_eq_true_eq] at w
    have ih' := ih (k + 1) w.2
    cases hp : p k
    · rw [show Tbl.keep ((k, b) :: r) p = Tbl.keep r p by simp [Tbl.keep, hp]]
      exact Tbl.above_mono _ (by omega) ih'
    · rw [show Tbl.keep ((k, b) :: r) p = (k, b) :: Tbl.keep r p by simp [Tbl.keep, hp]]
      simp [Tbl.above, w.1, ih']

theorem Tbl.wf_keep {α : Type} (t : Tbl α) (p : Nat → Bool) (w : Tbl.wf t = true) : Tbl.wf (Tbl.keep t p) = true :=
  Tbl.above_keep t p 0 w

theorem Tbl.mem_set {α : Type} (t : Tbl α) (x : Nat) (a : α) (e : Nat × α) (h : e ∈ Tbl.set t x a) :
    e = (x, a) ∨ e ∈ t := by
  induction t with
  | nil => simp [Tbl.set] at h; simp [h]
  | cons f r ih =>
    obtain ⟨k, b⟩ := f
    simp only [Tbl.set] at h
    split at h
    · simp only [List.mem_cons] at h ⊢; exact h
    · split at h
      · simp only [List.mem_cons] at h ⊢; tauto
      · simp only [List.mem_cons] at h
        rcases h with h | h
        · exact .inr (by simp [h])
        · rcases ih h with h | h
          · exact .inl h
          · exact .inr (by simp [h])

theorem Store.wf_keep {w : Nat} (s : Store w) (p : Nat → Bool) (h : Store.wf s = true) : Store.wf (Tbl.keep s p) = true := by
  simp only [Store.wf, Bool.and_eq_true, List.all_eq_true] at *
  exact ⟨Tbl.wf_keep s p h.1, fun e he => h.2 e (List.mem_of_mem_filter he)⟩

theorem Store.wf_write {w : Nat} (s : Store w) (i : Nat) (x : BitVec w) (h : Store.wf s = true) :
    Store.wf (Store.write s i x) = true := by
  unfold Store.write
  by_cases hx : x = 0
  · rw [if_pos hx, Tbl.erase_eq]; exact Store.wf_keep s _ h
  · rw [if_neg hx]
    simp only [Store.wf, Bool.and_eq_true, List.all_eq_true] at *
    refine ⟨Tbl.wf_set s i x h.1, fun e he => ?_⟩
    rcases Tbl.mem_set s i x e he with rfl | he
    · simpa using hx
    · exact h.2 e he

theorem Store.wf_clear {w : Nat} (s : Store w) (lo hi : Nat) (h : Store.wf s = true) :
    Store.wf (Store.clear s lo hi) = true := Store.wf_keep s _ h

theorem Memory.wf_write (m : Memory) (a : Nat) (b : Byte) (h : m.wf = true) : (m.write a b).wf = true :=
  Store.wf_write (w := 8) m a b h

theorem Memory.wf_writeN (m : Memory) (a : Nat) (bs : List Byte) (h : m.wf = true) : (m.writeN a bs).wf = true := by
  induction bs generalizing m a with
  | nil => exact h
  | cons b bs ih => exact ih _ _ (Memory.wf_write m a b h)

end Sys2Proof.Machine
end

