-- ==== Sys2Proof/Laws/Chain.lean ====
section
/-! SUPPORT. What the operations on command chains leave: the team, other teams, the chain's own state, its commands. -/

namespace Sys2Proof.Machine

open Sys2Proof.Rules

theorem State.team_set (s : State) (n m : Nat) (T : Team) : (s.setTeam n T).team m = if n = m then some T else s.team m :=
  Tbl.get_set _ _ _ _

/-- Team n, storage and the transfers that wait for tokens may differ, nothing else. -/
def teamOnly (n : Nat) (s t : State) : Prop := only [.teams, .mem, .sec] s t ∧ otherTeams s t n

theorem teamOnly.refl (n : Nat) (s : State) : teamOnly n s s := ⟨fun p _ => by cases p <;> rfl, fun _ _ => rfl⟩
theorem teamOnly.trans {n : Nat} {a b c : State} (h : teamOnly n a b) (h' : teamOnly n b c) : teamOnly n a c :=
  ⟨fun p hp => by have := h.1 p hp; have := h'.1 p hp; cases p <;> simp only [Part.same] at * <;> simp_all,
    fun m hm => (h'.2 m hm).trans (h.2 m hm)⟩
theorem teamOnly_setTeam (n : Nat) (s : State) (T : Team) : teamOnly n s (s.setTeam n T) :=
  ⟨fun p hp => by cases p <;> first | rfl | simp at hp, fun m hm => by rw [State.team_set, if_neg (Ne.symm hm)]⟩
theorem teamOnly_mem (n : Nat) (s : State) (m : Mem) : teamOnly n s { s with mem := m } :=
  ⟨fun p hp => by cases p <;> first | rfl | simp at hp, fun _ _ => rfl⟩
theorem teamOnly_putCmd (n ch : Nat) (s : State) (c : Cmd) : teamOnly n s (s.putCmd n ch c) := by
  unfold State.putCmd
  split
  · exact teamOnly.refl _ _
  · exact (teamOnly_setTeam n s _).trans (teamOnly_mem _ _ _)
theorem teamOnly_noteCmd (n ch : Nat) (s : State) (c : Cmd) : teamOnly n s (s.noteCmd n ch c) := by
  unfold State.noteCmd
  split
  · exact teamOnly.refl _ _
  · exact teamOnly_setTeam n s _
theorem State.leave_teams (s : State) (n ch : Nat) (q : Word) : (s.leave n ch q).teams = s.teams := by
  unfold State.leave
  split
  · rfl
  · simp only; split <;> rfl
theorem teamOnly_leave (n ch : Nat) (s : State) (q : Word) : teamOnly n s (s.leave n ch q) := by
  refine ⟨?_, fun m _ => by unfold State.team; rw [State.leave_teams]⟩
  unfold State.leave
  split
  · intro p hp; cases p <;> first | rfl | simp at hp
  · simp only
    split
    · intro p hp; cases p <;> first | rfl | simp at hp
    · intro p hp; cases p <;> rfl
theorem teamOnly_settleChain (n ch k : Nat) (s : State) : teamOnly n s (State.settleChain n ch k s) := by
  induction k generalizing s with
  | zero => exact teamOnly.refl _ _
  | succ k ih =>
    rw [State.settleChain]
    split
    · exact teamOnly.refl _ _
    · simp only
      split
      · exact teamOnly_setTeam _ _ _
      · split
        · split
          · exact (teamOnly_setTeam n _ _).trans (teamOnly_noteCmd _ _ _ _)
          · exact (((teamOnly_setTeam n _ _).trans (teamOnly_noteCmd _ _ _ _)).trans (teamOnly_setTeam _ _ _)).trans (ih _)
        · exact ((teamOnly_setTeam n _ _).trans (teamOnly_putCmd _ _ _ _)).trans (ih _)
theorem teamOnly_endCmd (n ch : Nat) (s : State) (c : Cmd) (st : Nat) : teamOnly n s (s.endCmd n ch c st) :=
  ((teamOnly_leave _ _ _ _).trans (teamOnly_noteCmd _ _ _ _)).trans (teamOnly_settleChain _ _ _ _)
theorem teamOnly_faultCmd (n ch : Nat) (s : State) (c : Cmd) (a b d e : Nat) : teamOnly n s (s.faultCmd n ch c a b d e) := by
  unfold State.faultCmd
  simp only
  split
  · exact (teamOnly_leave _ _ _ _).trans (teamOnly_putCmd _ _ _ _)
  · exact ((teamOnly_leave _ _ _ _).trans (teamOnly_putCmd _ _ _ _)).trans (teamOnly_setTeam _ _ _)
theorem teamOnly_abandon (n ch : Nat) (s : State) (c : Cmd) : teamOnly n s (s.abandon n ch c) := by
  unfold State.abandon
  simp only
  split
  · exact ((teamOnly_leave _ _ _ _).trans (teamOnly_putCmd _ _ _ _)).trans (teamOnly_setTeam _ _ _)
  · exact (teamOnly_leave _ _ _ _).trans (teamOnly_putCmd _ _ _ _)
theorem teamOnly_foldl {α : Type} (n : Nat) (f : State → α → State) (h : ∀ s x, teamOnly n s (f s x)) (l : List α) (s : State) :
    teamOnly n s (l.foldl f s) := by
  induction l generalizing s with
  | nil => exact teamOnly.refl _ _
  | cons a l ih => exact (h s a).trans (ih _)

/-! One chain. -/

theorem Team.chain_setChain (T : Team) (ch : Nat) (c : Chain) :
    (T.setChain ch c).chain ch = if ch < T.chains.length then c else Chain.new := by
  unfold Team.setChain Team.chain
  simp only [List.getElem?_set_self']
  by_cases h : ch < T.chains.length
  · simp [h]
  · simp [h, List.getElem?_eq_none (Nat.le_of_not_lt h)]
theorem Team.chain_none (T : Team) (ch : Nat) (h : ¬ ch < T.chains.length) : T.chain ch = Chain.new := by
  unfold Team.chain; simp [List.getElem?_eq_none (Nat.le_of_not_lt h)]
theorem Team.chain_lt {T : Team} {ch : Nat} {q : Word} {c : Cmd} (h : (T.chain ch).cmd q = some c) : ch < T.chains.length := by
  by_contra x
  rw [Team.chain_none T ch x] at h
  simp [Chain.new, Chain.cmd] at h

/-- The chain as it stands but for its commands and CSEQ; ring counters and regions too. -/
def chainKept (n ch : Nat) (s t : State) : Prop :=
  ∀ T, s.team n = some T → ∃ T', t.team n = some T' ∧ (T'.chain ch).halted = (T.chain ch).halted ∧
    (T'.chain ch).tseq = (T.chain ch).tseq ∧ T'.ridx = T.ridx ∧ T'.regions = T.regions ∧ T'.chains.length = T.chains.length

theorem chainKept.refl (n ch : Nat) (s : State) : chainKept n ch s s := fun T h => ⟨T, h, rfl, rfl, rfl, rfl, rfl⟩
theorem chainKept.trans {n ch : Nat} {a b c : State} (h : chainKept n ch a b) (h' : chainKept n ch b c) : chainKept n ch a c := by
  intro T hT
  obtain ⟨T1, h1, a1, a2, a3, a4, a5⟩ := h T hT
  obtain ⟨T2, h2, b1, b2, b3, b4, b5⟩ := h' T1 h1
  exact ⟨T2, h2, b1.trans a1, b2.trans a2, b3.trans a3, b4.trans a4, b5.trans a5⟩
theorem Team.setChain_kept (T : Team) (ch : Nat) (c : Chain) (h1 : c.halted = (T.chain ch).halted)
    (h2 : c.tseq = (T.chain ch).tseq) :
    ((T.setChain ch c).chain ch).halted = (T.chain ch).halted ∧ ((T.setChain ch c).chain ch).tseq = (T.chain ch).tseq := by
  rw [Team.chain_setChain]; split
  · exact ⟨h1, h2⟩
  · rename_i h; rw [Team.chain_none _ _ h]; exact ⟨rfl, rfl⟩
theorem chainKept_setTeam {n ch : Nat} {s : State} {T T' : Team} (hT : s.team n = some T)
    (h : (T'.chain ch).halted = (T.chain ch).halted ∧ (T'.chain ch).tseq = (T.chain ch).tseq) (h3 : T'.ridx = T.ridx)
    (h4 : T'.regions = T.regions) (h5 : T'.chains.length = T.chains.length) : chainKept n ch s (s.setTeam n T') := by
  intro T0 h0; rw [hT] at h0; cases h0
  exact ⟨T', by simp [State.team_set], h.1, h.2, h3, h4, h5⟩
theorem chainKept_mem (n ch : Nat) (s : State) (m : Mem) : chainKept n ch s { s with mem := m } :=
  fun T h => ⟨T, h, rfl, rfl, rfl, rfl, rfl⟩
theorem chainKept_noteCmd (n ch : Nat) (s : State) (c : Cmd) : chainKept n ch s (s.noteCmd n ch c) := by
  unfold State.noteCmd
  split
  · exact chainKept.refl _ _ _
  · rename_i T hT
    exact chainKept_setTeam hT (Team.setChain_kept _ _ _ rfl rfl) rfl rfl (by simp [Team.setChain])
theorem chainKept_leave (n ch : Nat) (s : State) (q : Word) : chainKept n ch s (s.leave n ch q) :=
  fun T h => ⟨T, by unfold State.team at *; rw [State.leave_teams]; exact h, rfl, rfl, rfl, rfl, rfl⟩
theorem chainKept_putCmd (n ch : Nat) (s : State) (c : Cmd) : chainKept n ch s (s.putCmd n ch c) := by
  unfold State.putCmd
  split
  · exact chainKept.refl _ _ _
  · rename_i T hT
    have a : chainKept n ch s (s.setTeam n (T.setChain ch ((T.chain ch).setCmd c))) :=
      chainKept_setTeam hT (Team.setChain_kept _ _ _ rfl rfl) rfl rfl (by simp [Team.setChain])
    exact a.trans (chainKept_mem _ _ _ _)
theorem Chain.advance_kept (k : Nat) (c : Chain) :
    (c.advance k).halted = c.halted ∧ (c.advance k).tseq = c.tseq ∧ (c.advance k).cmds = c.cmds := by
  induction k generalizing c with
  | zero => exact ⟨rfl, rfl, rfl⟩
  | succ k ih =>
    rw [Chain.advance]; split
    · split
      · exact ih _
      · exact ⟨rfl, rfl, rfl⟩
    · exact ⟨rfl, rfl, rfl⟩
theorem chainKept_settleChain (n ch k : Nat) (s : State) : chainKept n ch s (State.settleChain n ch k s) := by
  induction k generalizing s with
  | zero => exact chainKept.refl _ _ _
  | succ k ih =>
    rw [State.settleChain]
    split
    · exact chainKept.refl _ _ _
    · rename_i T hT
      have h0 : chainKept n ch s (s.setTeam n (T.setChain ch ((T.chain ch).advance 64))) :=
        chainKept_setTeam hT (Team.setChain_kept _ _ _ (Chain.advance_kept _ _).1 (Chain.advance_kept _ _).2.1) rfl rfl
          (by simp [Team.setChain])
      simp only
      split
      · exact h0
      · split
        · split
          · exact h0.trans (chainKept_noteCmd _ _ _ _)
          · rename_i T2 hT2
            refine chainKept.trans ?_ (ih _)
            refine (h0.trans (chainKept_noteCmd _ _ _ _)).trans (chainKept_setTeam hT2 ?_ ?_ ?_ ?_) <;>
              first | exact ⟨rfl, rfl⟩ | rfl
        · exact (h0.trans (chainKept_putCmd _ _ _ _)).trans (ih _)
theorem chainKept_abandon (n ch : Nat) (s : State) (c : Cmd) : chainKept n ch s (s.abandon n ch c) := by
  unfold State.abandon
  simp only
  split
  · rename_i T _ hT
    exact ((chainKept_leave _ _ _ _).trans (chainKept_putCmd _ _ _ _)).trans (chainKept_setTeam hT ⟨rfl, rfl⟩ rfl rfl rfl)
  · exact (chainKept_leave _ _ _ _).trans (chainKept_putCmd _ _ _ _)
theorem chainKept_foldl {α : Type} (n ch : Nat) (f : State → α → State) (h : ∀ s x, chainKept n ch s (f s x)) (l : List α)
    (s : State) : chainKept n ch s (l.foldl f s) := by
  induction l generalizing s with
  | nil => exact chainKept.refl _ _ _
  | cons a l ih => exact (h s a).trans (ih _)

/-! One command. -/

theorem Chain.cmd_setCmd (c : Chain) (x : Cmd) (q : Word) :
    (c.setCmd x).cmd q = if x.seq = q then (c.cmd q).map (fun _ => x) else c.cmd q := by
  unfold Chain.setCmd Chain.cmd
  simp only
  induction c.cmds with
  | nil => simp
  | cons a l ih =>
    simp only [List.map_cons, List.find?_cons]
    by_cases h : a.seq = x.seq
    · by_cases h' : x.seq = q
      · simp [h, h']
      · rw [if_neg h'] at ih ⊢
        simp only [h, beq_self_eq_true, if_true]
        rw [show (x.seq == q) = false by simpa using h']
        exact ih
    · simp only [show (a.seq == x.seq) = false by simpa using h, Bool.false_eq_true, if_false]
      by_cases h' : x.seq = q
      · rw [if_pos h'] at ih ⊢
        rw [show (a.seq == q) = false by rw [← h']; simpa using h]
        exact ih
      · rw [if_neg h'] at ih ⊢
        cases hq : a.seq == q with
        | true => rfl
        | false => exact ih

theorem State.cmd_some {s : State} {n ch : Nat} {q : Word} {c : Cmd} (h : s.cmd n ch q = some c) :
    ∃ T, s.team n = some T ∧ (T.chain ch).cmd q = some c := by
  unfold State.cmd at h
  cases hT : s.team n with
  | none => rw [hT] at h; simp at h
  | some T => rw [hT] at h; exact ⟨T, rfl, h⟩
theorem State.cmd_of {s : State} {n ch : Nat} {q : Word} {c : Cmd} {T : Team} (hT : s.team n = some T)
    (h : (T.chain ch).cmd q = some c) : s.cmd n ch q = some c := by
  unfold State.cmd; rw [hT]; exact h

theorem State.cmd_noteCmd {s : State} {n ch : Nat} {q : Word} {c x : Cmd} (h : s.cmd n ch q = some c) :
    (s.noteCmd n ch x).cmd n ch q = some (if x.seq = q then x else c) := by
  obtain ⟨T, hT, hc⟩ := State.cmd_some h
  unfold State.noteCmd
  simp only [hT]
  refine State.cmd_of (by rw [State.team_set, if_pos rfl]) ?_
  rw [Team.chain_setChain, if_pos (Team.chain_lt hc), Chain.cmd_setCmd, hc]
  split <;> rfl
theorem State.cmd_mem (s : State) (m : Mem) (n ch : Nat) (q : Word) : ({ s with mem := m } : State).cmd n ch q = s.cmd n ch q := rfl
theorem State.putCmd_mem (s : State) (n ch : Nat) (x : Cmd) : ∃ m, s.putCmd n ch x = { s.noteCmd n ch x with mem := m } := by
  unfold State.putCmd State.noteCmd
  cases h : s.team n with
  | none => exact ⟨s.mem, rfl⟩
  | some T => exact ⟨_, rfl⟩
theorem State.cmd_putCmd {s : State} {n ch : Nat} {q : Word} {c x : Cmd} (h : s.cmd n ch q = some c) :
    (s.putCmd n ch x).cmd n ch q = some (if x.seq = q then x else c) := by
  obtain ⟨m, e⟩ := State.putCmd_mem s n ch x
  rw [e, State.cmd_mem]
  exact State.cmd_noteCmd h

/-- A command is as before but that it may have completed, or queued its record. -/
def Cmd.settled (c c' : Cmd) : Prop := ∃ st r, c' = { c with status := st, rung := r } ∧
  (st = c.status ∨ (c.complete = false ∧ c.fin ≠ 0 ∧ st = c.fin))

theorem Cmd.settled.refl (c : Cmd) : c.settled c := ⟨c.status, c.rung, rfl, .inl rfl⟩


/-- Every command of a sequence number is the same one. -/
def onlyCmd (s : State) (n ch : Nat) (q : Word) (c : Cmd) : Prop :=
  s.cmd n ch q = some c ∧ ∀ T, s.team n = some T → ∀ y ∈ (T.chain ch).cmds, y.seq = q → y = c

theorem onlyCmd_setTeam {s : State} {n ch : Nat} {q : Word} {c : Cmd} {T T' : Team} (h : onlyCmd s n ch q c)
    (hT : s.team n = some T) (hc : (T'.chain ch).cmds = (T.chain ch).cmds) : onlyCmd (s.setTeam n T') n ch q c := by
  obtain ⟨h1, h2⟩ := h
  refine ⟨State.cmd_of (by rw [State.team_set, if_pos rfl]) ?_, ?_⟩
  · obtain ⟨T0, h0, hq⟩ := State.cmd_some h1
    rw [hT] at h0; cases h0
    unfold Chain.cmd; rw [hc]; exact hq
  · intro T0 h0 y hy
    rw [State.team_set, if_pos rfl] at h0; cases h0
    rw [hc] at hy; exact h2 T hT y hy
theorem onlyCmd_mem {s : State} {n ch : Nat} {q : Word} {c : Cmd} (h : onlyCmd s n ch q c) (m : Mem) :
    onlyCmd { s with mem := m } n ch q c := h
theorem onlyCmd_noteCmd {s : State} {n ch : Nat} {q : Word} {c x : Cmd} (h : s.cmd n ch q = some c) (hx : x.seq = q) :
    onlyCmd (s.noteCmd n ch x) n ch q x := by
  refine ⟨by rw [State.cmd_noteCmd h, if_pos hx], ?_⟩
  intro T' hT' y hy hq
  obtain ⟨T, hT, hc⟩ := State.cmd_some h
  unfold State.noteCmd at hT'
  simp only [hT] at hT'
  rw [State.team_set, if_pos rfl] at hT'; cases hT'
  rw [Team.chain_setChain, if_pos (Team.chain_lt hc)] at hy
  unfold Chain.setCmd at hy
  simp only [List.mem_map] at hy
  obtain ⟨z, -, rfl⟩ := hy
  by_cases hz : z.seq = x.seq
  · simp [hz]
  · simp only [show (z.seq == x.seq) = false by simpa using hz, Bool.false_eq_true, if_false] at hq ⊢
    exact absurd (hq.trans hx.symm) hz
theorem onlyCmd_noteOther {s : State} {n ch : Nat} {q : Word} {c x : Cmd} (h : onlyCmd s n ch q c) (hx : x.seq ≠ q) :
    onlyCmd (s.noteCmd n ch x) n ch q c := by
  refine ⟨by rw [State.cmd_noteCmd h.1, if_neg hx], ?_⟩
  intro T' hT' y hy hq
  obtain ⟨T, hT, hc⟩ := State.cmd_some h.1
  unfold State.noteCmd at hT'
  simp only [hT] at hT'
  rw [State.team_set, if_pos rfl] at hT'; cases hT'
  rw [Team.chain_setChain, if_pos (Team.chain_lt hc)] at hy
  unfold Chain.setCmd at hy
  simp only [List.mem_map] at hy
  obtain ⟨z, hz, rfl⟩ := hy
  by_cases e : z.seq = x.seq
  · simp only [e, beq_self_eq_true, if_true] at hq
    exact absurd hq hx
  · simp only [show (z.seq == x.seq) = false by simpa using e, Bool.false_eq_true, if_false] at hq ⊢
    exact h.2 T hT z hz hq
theorem onlyCmd_putCmd {s : State} {n ch : Nat} {q : Word} {c x : Cmd} (h : s.cmd n ch q = some c) (hx : x.seq = q) :
    onlyCmd (s.putCmd n ch x) n ch q x := by
  obtain ⟨m, e⟩ := State.putCmd_mem s n ch x
  rw [e]; exact onlyCmd_mem (onlyCmd_noteCmd h hx) m
theorem onlyCmd_putOther {s : State} {n ch : Nat} {q : Word} {c x : Cmd} (h : onlyCmd s n ch q c) (hx : x.seq ≠ q) :
    onlyCmd (s.putCmd n ch x) n ch q c := by
  obtain ⟨m, e⟩ := State.putCmd_mem s n ch x
  rw [e]; exact onlyCmd_mem (onlyCmd_noteOther h hx) m

theorem Cmd.settled.trans {a b c : Cmd} (h : a.settled b) (h' : b.settled c) : a.settled c := by
  obtain ⟨s1, r1, rfl, h1⟩ := h
  obtain ⟨s2, r2, rfl, h2⟩ := h'
  refine ⟨s2, r2, rfl, ?_⟩
  rcases h2 with h2 | ⟨x, y, z⟩
  · rcases h1 with h1 | ⟨x, y, z⟩
    · exact .inl (h2.trans h1)
    · exact .inr ⟨x, y, h2.trans z⟩
  · rcases h1 with h1 | ⟨x', y', z'⟩
    · refine .inr ⟨?_, y, z⟩
      rw [← x]; simp only [Cmd.complete]; rw [h1]
    · exact .inr ⟨x', y, z⟩

/-- A command through the settling of its chain: nothing of it changes but its status and that its record is queued. -/
theorem State.cmd_settleChain {n ch : Nat} {q : Word} (k : Nat) {s : State} {c : Cmd} (h : onlyCmd s n ch q c) :
    ∃ c', onlyCmd (State.settleChain n ch k s) n ch q c' ∧ c.settled c' := by
  induction k generalizing s c with
  | zero => exact ⟨c, h, Cmd.settled.refl c⟩
  | succ k ih =>
    obtain ⟨T, hT, hc⟩ := State.cmd_some h.1
    rw [State.settleChain]
    simp only [hT]
    have hl := Team.chain_lt hc
    have h0 : onlyCmd (s.setTeam n (T.setChain ch ((T.chain ch).advance 64))) n ch q c :=
      onlyCmd_setTeam h hT (by rw [Team.chain_setChain, if_pos hl]; exact (Chain.advance_kept _ _).2.2)
    generalize s.setTeam n (T.setChain ch ((T.chain ch).advance 64)) = s0 at h0 ⊢
    split
    · exact ⟨c, h0, Cmd.settled.refl c⟩
    · rename_i x hx
      have hp := List.find?_some hx
      have hm : x ∈ (T.chain ch).cmds := by
        have := List.mem_of_find?_eq_some hx; rw [(Chain.advance_kept _ _).2.2] at this; exact this
      simp only [Bool.and_eq_true, bne_iff_ne, ne_eq, Bool.not_eq_true', Bool.or_eq_true, beq_iff_eq] at hp
      obtain ⟨⟨⟨hfin, hcomp⟩, hrung⟩, -⟩ := hp
      have hq : c.seq = q := by
        have := List.find?_some (show (T.chain ch).cmds.find? (·.seq == q) = some c from hc)
        simpa using this
      split
      · have key : ∃ c', onlyCmd (s0.noteCmd n ch { x with rung := true }) n ch q c' ∧ c.settled c' := by
          by_cases e : x.seq = q
          · have : x = c := h.2 T hT x hm e
            subst this
            exact ⟨_, onlyCmd_noteCmd h0.1 e, x.status, true, rfl, .inl rfl⟩
          · exact ⟨c, onlyCmd_noteOther h0 e, Cmd.settled.refl c⟩
        obtain ⟨c', k1, k2⟩ := key
        split
        · exact ⟨c', k1, k2⟩
        · rename_i T2 hT2
          obtain ⟨c'', k3, k4⟩ := ih (onlyCmd_setTeam (T' := { T2 with ringQ := T2.ringQ ++
            [{ bits := ({ x with rung := true } : Cmd).ringRec ch, chain := some ch, seq := x.seq }] }) k1 hT2 rfl)
          exact ⟨c'', k3, k2.trans k4⟩
      · have key : ∃ c', onlyCmd (s0.putCmd n ch { x with status := x.fin }) n ch q c' ∧ c.settled c' := by
          by_cases e : x.seq = q
          · have : x = c := h.2 T hT x hm e
            subst this
            exact ⟨_, onlyCmd_putCmd h0.1 e, x.fin, x.rung, rfl, .inr ⟨hcomp, hfin, rfl⟩⟩
          · exact ⟨c, onlyCmd_putOther h0 e, Cmd.settled.refl c⟩
        obtain ⟨c', k1, k2⟩ := key
        obtain ⟨c'', k3, k4⟩ := ih k1
        exact ⟨c'', k3, k2.trans k4⟩

theorem State.cmd_leave (s : State) (n ch m : Nat) (p q : Word) : (s.leave n ch p).cmd n m q = s.cmd n m q := by
  unfold State.cmd State.team; rw [State.leave_teams]

/-- A command that ends its work (R197, R223). -/
theorem State.cmd_endCmd {s : State} {n ch : Nat} {c x : Cmd} {st : Nat} (h : s.cmd n ch x.seq = some c) :
    ∃ c', (s.endCmd n ch x st).cmd n ch x.seq = some c' ∧ ({ x with fin := st } : Cmd).settled c' := by
  obtain ⟨c', k1, k2⟩ := State.cmd_settleChain 66
    (onlyCmd_noteCmd (s := s.leave n ch x.seq) (x := { x with fin := st }) (by rw [State.cmd_leave]; exact h) rfl)
  exact ⟨c', k1.1, k2⟩

/-- A command that fails (R199): FAULT, its chain halted. -/
theorem State.cmd_faultCmd {s : State} {n ch : Nat} {c x : Cmd} {a b d e : Nat} (h : s.cmd n ch x.seq = some c) :
    faulted (s.faultCmd n ch x a b d e) n ch x.seq ⟨a, b, e⟩ := by
  unfold State.faultCmd
  simp only
  generalize hx : ({ x with status := 4, cause := a, sub := b, detail := d, faddr := e, rung := true } : Cmd) = y
  have hy : y.seq = x.seq := by rw [← hx]
  have k := onlyCmd_putCmd (s := s.leave n ch x.seq) (x := y) (by rw [State.cmd_leave]; exact h) hy
  obtain ⟨T, hT, hc⟩ := State.cmd_some k.1
  simp only [hT]
  refine ⟨⟨y, State.cmd_of (by rw [State.team_set, if_pos rfl]) ?_, ?_⟩, _, by rw [State.team_set, if_pos rfl], ?_⟩
  · show ((T.setChain ch _).chain ch).cmd _ = _
    rw [Team.chain_setChain, if_pos (Team.chain_lt hc)]; exact hc
  · rw [← hx]; exact ⟨rfl, rfl, rfl, rfl⟩
  · show ((T.setChain ch _).chain ch).halted = _
    rw [Team.chain_setChain, if_pos (Team.chain_lt hc)]

end Sys2Proof.Machine
end

