-- ==== Sys2Proof/Laws/State.lean ====
section
/-! SUPPORT. The named updates of the state, field by field, and the records read back after them. -/

namespace Sys2Proof.Machine

@[simp] theorem State.setGroup_agenda (s : State) (g : Nat) (G : Group) : (s.setGroup g G).agenda = s.agenda := rfl
@[simp] theorem State.setGroup_cur (s : State) (g : Nat) (G : Group) : (s.setGroup g G).cur = s.cur := rfl
@[simp] theorem State.setGroup_fresh (s : State) (g : Nat) (G : Group) : (s.setGroup g G).fresh = s.fresh := rfl
@[simp] theorem State.setGroup_waitNo (s : State) (g : Nat) (G : Group) : (s.setGroup g G).waitNo = s.waitNo := rfl
@[simp] theorem State.setGroup_clock (s : State) (g : Nat) (G : Group) : (s.setGroup g G).clock = s.clock := rfl
@[simp] theorem State.setGroup_groups (s : State) (g : Nat) (G : Group) : (s.setGroup g G).groups = Tbl.set s.groups g G := rfl
@[simp] theorem State.setGroup_ctxs (s : State) (g : Nat) (G : Group) : (s.setGroup g G).ctxs = s.ctxs := rfl
@[simp] theorem State.setGroup_teams (s : State) (g : Nat) (G : Group) : (s.setGroup g G).teams = s.teams := rfl
@[simp] theorem State.setGroup_cores (s : State) (g : Nat) (G : Group) : (s.setGroup g G).cores = s.cores := rfl
@[simp] theorem State.setGroup_bars (s : State) (g : Nat) (G : Group) : (s.setGroup g G).bars = s.bars := rfl
@[simp] theorem State.setGroup_mem (s : State) (g : Nat) (G : Group) : (s.setGroup g G).mem = s.mem := rfl
@[simp] theorem State.setGroup_sched (s : State) (g : Nat) (G : Group) : (s.setGroup g G).sched = s.sched := rfl
@[simp] theorem State.setGroup_sec (s : State) (g : Nat) (G : Group) : (s.setGroup g G).sec = s.sec := rfl
@[simp] theorem State.setGroup_bring (s : State) (g : Nat) (G : Group) : (s.setGroup g G).bring = s.bring := rfl
@[simp] theorem State.setGroup_ras (s : State) (g : Nat) (G : Group) : (s.setGroup g G).ras = s.ras := rfl
@[simp] theorem State.setGroup_io (s : State) (g : Nat) (G : Group) : (s.setGroup g G).io = s.io := rfl

@[simp] theorem State.setCtx_agenda (s : State) (t : Nat) (C : Ctx) : (s.setCtx t C).agenda = s.agenda := rfl
@[simp] theorem State.setCtx_cur (s : State) (t : Nat) (C : Ctx) : (s.setCtx t C).cur = s.cur := rfl
@[simp] theorem State.setCtx_fresh (s : State) (t : Nat) (C : Ctx) : (s.setCtx t C).fresh = s.fresh := rfl
@[simp] theorem State.setCtx_waitNo (s : State) (t : Nat) (C : Ctx) : (s.setCtx t C).waitNo = s.waitNo := rfl
@[simp] theorem State.setCtx_clock (s : State) (t : Nat) (C : Ctx) : (s.setCtx t C).clock = s.clock := rfl
@[simp] theorem State.setCtx_groups (s : State) (t : Nat) (C : Ctx) : (s.setCtx t C).groups = s.groups := rfl
@[simp] theorem State.setCtx_ctxs (s : State) (t : Nat) (C : Ctx) : (s.setCtx t C).ctxs = Tbl.set s.ctxs t C := rfl
@[simp] theorem State.setCtx_teams (s : State) (t : Nat) (C : Ctx) : (s.setCtx t C).teams = s.teams := rfl
@[simp] theorem State.setCtx_cores (s : State) (t : Nat) (C : Ctx) : (s.setCtx t C).cores = s.cores := rfl
@[simp] theorem State.setCtx_bars (s : State) (t : Nat) (C : Ctx) : (s.setCtx t C).bars = s.bars := rfl
@[simp] theorem State.setCtx_mem (s : State) (t : Nat) (C : Ctx) : (s.setCtx t C).mem = s.mem := rfl
@[simp] theorem State.setCtx_sched (s : State) (t : Nat) (C : Ctx) : (s.setCtx t C).sched = s.sched := rfl
@[simp] theorem State.setCtx_sec (s : State) (t : Nat) (C : Ctx) : (s.setCtx t C).sec = s.sec := rfl
@[simp] theorem State.setCtx_bring (s : State) (t : Nat) (C : Ctx) : (s.setCtx t C).bring = s.bring := rfl
@[simp] theorem State.setCtx_ras (s : State) (t : Nat) (C : Ctx) : (s.setCtx t C).ras = s.ras := rfl
@[simp] theorem State.setCtx_io (s : State) (t : Nat) (C : Ctx) : (s.setCtx t C).io = s.io := rfl

@[simp] theorem State.setTeam_agenda (s : State) (t : Nat) (T : Team) : (s.setTeam t T).agenda = s.agenda := rfl
@[simp] theorem State.setTeam_cur (s : State) (t : Nat) (T : Team) : (s.setTeam t T).cur = s.cur := rfl
@[simp] theorem State.setTeam_fresh (s : State) (t : Nat) (T : Team) : (s.setTeam t T).fresh = s.fresh := rfl
@[simp] theorem State.setTeam_waitNo (s : State) (t : Nat) (T : Team) : (s.setTeam t T).waitNo = s.waitNo := rfl
@[simp] theorem State.setTeam_clock (s : State) (t : Nat) (T : Team) : (s.setTeam t T).clock = s.clock := rfl
@[simp] theorem State.setTeam_groups (s : State) (t : Nat) (T : Team) : (s.setTeam t T).groups = s.groups := rfl
@[simp] theorem State.setTeam_ctxs (s : State) (t : Nat) (T : Team) : (s.setTeam t T).ctxs = s.ctxs := rfl
@[simp] theorem State.setTeam_teams (s : State) (t : Nat) (T : Team) : (s.setTeam t T).teams = Tbl.set s.teams t T := rfl
@[simp] theorem State.setTeam_cores (s : State) (t : Nat) (T : Team) : (s.setTeam t T).cores = s.cores := rfl
@[simp] theorem State.setTeam_bars (s : State) (t : Nat) (T : Team) : (s.setTeam t T).bars = s.bars := rfl
@[simp] theorem State.setTeam_mem (s : State) (t : Nat) (T : Team) : (s.setTeam t T).mem = s.mem := rfl
@[simp] theorem State.setTeam_sched (s : State) (t : Nat) (T : Team) : (s.setTeam t T).sched = s.sched := rfl
@[simp] theorem State.setTeam_sec (s : State) (t : Nat) (T : Team) : (s.setTeam t T).sec = s.sec := rfl
@[simp] theorem State.setTeam_bring (s : State) (t : Nat) (T : Team) : (s.setTeam t T).bring = s.bring := rfl
@[simp] theorem State.setTeam_ras (s : State) (t : Nat) (T : Team) : (s.setTeam t T).ras = s.ras := rfl
@[simp] theorem State.setTeam_io (s : State) (t : Nat) (T : Team) : (s.setTeam t T).io = s.io := rfl

@[simp] theorem State.setCore_agenda (s : State) (c : Nat) (x : Core) : (s.setCore c x).agenda = s.agenda := rfl
@[simp] theorem State.setCore_cur (s : State) (c : Nat) (x : Core) : (s.setCore c x).cur = s.cur := rfl
@[simp] theorem State.setCore_fresh (s : State) (c : Nat) (x : Core) : (s.setCore c x).fresh = s.fresh := rfl
@[simp] theorem State.setCore_waitNo (s : State) (c : Nat) (x : Core) : (s.setCore c x).waitNo = s.waitNo := rfl
@[simp] theorem State.setCore_clock (s : State) (c : Nat) (x : Core) : (s.setCore c x).clock = s.clock := rfl
@[simp] theorem State.setCore_groups (s : State) (c : Nat) (x : Core) : (s.setCore c x).groups = s.groups := rfl
@[simp] theorem State.setCore_ctxs (s : State) (c : Nat) (x : Core) : (s.setCore c x).ctxs = s.ctxs := rfl
@[simp] theorem State.setCore_teams (s : State) (c : Nat) (x : Core) : (s.setCore c x).teams = s.teams := rfl
@[simp] theorem State.setCore_cores (s : State) (c : Nat) (x : Core) : (s.setCore c x).cores = Tbl.set s.cores c x := rfl
@[simp] theorem State.setCore_bars (s : State) (c : Nat) (x : Core) : (s.setCore c x).bars = s.bars := rfl
@[simp] theorem State.setCore_mem (s : State) (c : Nat) (x : Core) : (s.setCore c x).mem = s.mem := rfl
@[simp] theorem State.setCore_sched (s : State) (c : Nat) (x : Core) : (s.setCore c x).sched = s.sched := rfl
@[simp] theorem State.setCore_sec (s : State) (c : Nat) (x : Core) : (s.setCore c x).sec = s.sec := rfl
@[simp] theorem State.setCore_bring (s : State) (c : Nat) (x : Core) : (s.setCore c x).bring = s.bring := rfl
@[simp] theorem State.setCore_ras (s : State) (c : Nat) (x : Core) : (s.setCore c x).ras = s.ras := rfl
@[simp] theorem State.setCore_io (s : State) (c : Nat) (x : Core) : (s.setCore c x).io = s.io := rfl

@[simp] theorem State.setBar_agenda (s : State) (c h : Nat) (b : Barrier) : (s.setBar c h b).agenda = s.agenda := rfl
@[simp] theorem State.setBar_cur (s : State) (c h : Nat) (b : Barrier) : (s.setBar c h b).cur = s.cur := rfl
@[simp] theorem State.setBar_fresh (s : State) (c h : Nat) (b : Barrier) : (s.setBar c h b).fresh = s.fresh := rfl
@[simp] theorem State.setBar_waitNo (s : State) (c h : Nat) (b : Barrier) : (s.setBar c h b).waitNo = s.waitNo := rfl
@[simp] theorem State.setBar_clock (s : State) (c h : Nat) (b : Barrier) : (s.setBar c h b).clock = s.clock := rfl
@[simp] theorem State.setBar_groups (s : State) (c h : Nat) (b : Barrier) : (s.setBar c h b).groups = s.groups := rfl
@[simp] theorem State.setBar_ctxs (s : State) (c h : Nat) (b : Barrier) : (s.setBar c h b).ctxs = s.ctxs := rfl
@[simp] theorem State.setBar_teams (s : State) (c h : Nat) (b : Barrier) : (s.setBar c h b).teams = s.teams := rfl
@[simp] theorem State.setBar_cores (s : State) (c h : Nat) (b : Barrier) : (s.setBar c h b).cores = s.cores := rfl
@[simp] theorem State.setBar_bars (s : State) (c h : Nat) (b : Barrier) : (s.setBar c h b).bars = Tbl.set s.bars (c * 512 + h) b := rfl
@[simp] theorem State.setBar_mem (s : State) (c h : Nat) (b : Barrier) : (s.setBar c h b).mem = s.mem := rfl
@[simp] theorem State.setBar_sched (s : State) (c h : Nat) (b : Barrier) : (s.setBar c h b).sched = s.sched := rfl
@[simp] theorem State.setBar_sec (s : State) (c h : Nat) (b : Barrier) : (s.setBar c h b).sec = s.sec := rfl
@[simp] theorem State.setBar_bring (s : State) (c h : Nat) (b : Barrier) : (s.setBar c h b).bring = s.bring := rfl
@[simp] theorem State.setBar_ras (s : State) (c h : Nat) (b : Barrier) : (s.setBar c h b).ras = s.ras := rfl
@[simp] theorem State.setBar_io (s : State) (c h : Nat) (b : Barrier) : (s.setBar c h b).io = s.io := rfl

@[simp] theorem State.setFn_agenda (s : State) (f : Nat) (x : Fn) : (s.setFn f x).agenda = s.agenda := rfl
@[simp] theorem State.setFn_cur (s : State) (f : Nat) (x : Fn) : (s.setFn f x).cur = s.cur := rfl
@[simp] theorem State.setFn_fresh (s : State) (f : Nat) (x : Fn) : (s.setFn f x).fresh = s.fresh := rfl
@[simp] theorem State.setFn_waitNo (s : State) (f : Nat) (x : Fn) : (s.setFn f x).waitNo = s.waitNo := rfl
@[simp] theorem State.setFn_clock (s : State) (f : Nat) (x : Fn) : (s.setFn f x).clock = s.clock := rfl
@[simp] theorem State.setFn_groups (s : State) (f : Nat) (x : Fn) : (s.setFn f x).groups = s.groups := rfl
@[simp] theorem State.setFn_ctxs (s : State) (f : Nat) (x : Fn) : (s.setFn f x).ctxs = s.ctxs := rfl
@[simp] theorem State.setFn_teams (s : State) (f : Nat) (x : Fn) : (s.setFn f x).teams = s.teams := rfl
@[simp] theorem State.setFn_cores (s : State) (f : Nat) (x : Fn) : (s.setFn f x).cores = s.cores := rfl
@[simp] theorem State.setFn_bars (s : State) (f : Nat) (x : Fn) : (s.setFn f x).bars = s.bars := rfl
@[simp] theorem State.setFn_mem (s : State) (f : Nat) (x : Fn) : (s.setFn f x).mem = s.mem := rfl
@[simp] theorem State.setFn_sched (s : State) (f : Nat) (x : Fn) : (s.setFn f x).sched = s.sched := rfl
@[simp] theorem State.setFn_sec (s : State) (f : Nat) (x : Fn) : (s.setFn f x).sec = { s.sec with fns := Tbl.set s.sec.fns f x } := rfl
@[simp] theorem State.setFn_bring (s : State) (f : Nat) (x : Fn) : (s.setFn f x).bring = s.bring := rfl
@[simp] theorem State.setFn_ras (s : State) (f : Nat) (x : Fn) : (s.setFn f x).ras = s.ras := rfl
@[simp] theorem State.setFn_io (s : State) (f : Nat) (x : Fn) : (s.setFn f x).io = s.io := rfl

@[simp] theorem State.setQueue_agenda (s : State) (q : Nat) (x : Queue) : (s.setQueue q x).agenda = s.agenda := rfl
@[simp] theorem State.setQueue_cur (s : State) (q : Nat) (x : Queue) : (s.setQueue q x).cur = s.cur := rfl
@[simp] theorem State.setQueue_fresh (s : State) (q : Nat) (x : Queue) : (s.setQueue q x).fresh = s.fresh := rfl
@[simp] theorem State.setQueue_waitNo (s : State) (q : Nat) (x : Queue) : (s.setQueue q x).waitNo = s.waitNo := rfl
@[simp] theorem State.setQueue_clock (s : State) (q : Nat) (x : Queue) : (s.setQueue q x).clock = s.clock := rfl
@[simp] theorem State.setQueue_groups (s : State) (q : Nat) (x : Queue) : (s.setQueue q x).groups = s.groups := rfl
@[simp] theorem State.setQueue_ctxs (s : State) (q : Nat) (x : Queue) : (s.setQueue q x).ctxs = s.ctxs := rfl
@[simp] theorem State.setQueue_teams (s : State) (q : Nat) (x : Queue) : (s.setQueue q x).teams = s.teams := rfl
@[simp] theorem State.setQueue_cores (s : State) (q : Nat) (x : Queue) : (s.setQueue q x).cores = s.cores := rfl
@[simp] theorem State.setQueue_bars (s : State) (q : Nat) (x : Queue) : (s.setQueue q x).bars = s.bars := rfl
@[simp] theorem State.setQueue_mem (s : State) (q : Nat) (x : Queue) : (s.setQueue q x).mem = s.mem := rfl
@[simp] theorem State.setQueue_sched (s : State) (q : Nat) (x : Queue) : (s.setQueue q x).sched = { s.sched with queues := Tbl.set s.sched.queues q x } := rfl
@[simp] theorem State.setQueue_sec (s : State) (q : Nat) (x : Queue) : (s.setQueue q x).sec = s.sec := rfl
@[simp] theorem State.setQueue_bring (s : State) (q : Nat) (x : Queue) : (s.setQueue q x).bring = s.bring := rfl
@[simp] theorem State.setQueue_ras (s : State) (q : Nat) (x : Queue) : (s.setQueue q x).ras = s.ras := rfl
@[simp] theorem State.setQueue_io (s : State) (q : Nat) (x : Queue) : (s.setQueue q x).io = s.io := rfl

@[simp] theorem State.setTask_agenda (s : State) (k : Nat) (x : Task) : (s.setTask k x).agenda = s.agenda := rfl
@[simp] theorem State.setTask_cur (s : State) (k : Nat) (x : Task) : (s.setTask k x).cur = s.cur := rfl
@[simp] theorem State.setTask_fresh (s : State) (k : Nat) (x : Task) : (s.setTask k x).fresh = s.fresh := rfl
@[simp] theorem State.setTask_waitNo (s : State) (k : Nat) (x : Task) : (s.setTask k x).waitNo = s.waitNo := rfl
@[simp] theorem State.setTask_clock (s : State) (k : Nat) (x : Task) : (s.setTask k x).clock = s.clock := rfl
@[simp] theorem State.setTask_groups (s : State) (k : Nat) (x : Task) : (s.setTask k x).groups = s.groups := rfl
@[simp] theorem State.setTask_ctxs (s : State) (k : Nat) (x : Task) : (s.setTask k x).ctxs = s.ctxs := rfl
@[simp] theorem State.setTask_teams (s : State) (k : Nat) (x : Task) : (s.setTask k x).teams = s.teams := rfl
@[simp] theorem State.setTask_cores (s : State) (k : Nat) (x : Task) : (s.setTask k x).cores = s.cores := rfl
@[simp] theorem State.setTask_bars (s : State) (k : Nat) (x : Task) : (s.setTask k x).bars = s.bars := rfl
@[simp] theorem State.setTask_mem (s : State) (k : Nat) (x : Task) : (s.setTask k x).mem = s.mem := rfl
@[simp] theorem State.setTask_sched (s : State) (k : Nat) (x : Task) : (s.setTask k x).sched = { s.sched with tasks := Tbl.set s.sched.tasks k x } := rfl
@[simp] theorem State.setTask_sec (s : State) (k : Nat) (x : Task) : (s.setTask k x).sec = s.sec := rfl
@[simp] theorem State.setTask_bring (s : State) (k : Nat) (x : Task) : (s.setTask k x).bring = s.bring := rfl
@[simp] theorem State.setTask_ras (s : State) (k : Nat) (x : Task) : (s.setTask k x).ras = s.ras := rfl
@[simp] theorem State.setTask_io (s : State) (k : Nat) (x : Task) : (s.setTask k x).io = s.io := rfl

@[simp] theorem State.send_agenda (s : State) (o : Out) : (s.send o).agenda = s.agenda := rfl
@[simp] theorem State.send_cur (s : State) (o : Out) : (s.send o).cur = s.cur := rfl
@[simp] theorem State.send_fresh (s : State) (o : Out) : (s.send o).fresh = s.fresh := rfl
@[simp] theorem State.send_waitNo (s : State) (o : Out) : (s.send o).waitNo = s.waitNo := rfl
@[simp] theorem State.send_clock (s : State) (o : Out) : (s.send o).clock = s.clock := rfl
@[simp] theorem State.send_groups (s : State) (o : Out) : (s.send o).groups = s.groups := rfl
@[simp] theorem State.send_ctxs (s : State) (o : Out) : (s.send o).ctxs = s.ctxs := rfl
@[simp] theorem State.send_teams (s : State) (o : Out) : (s.send o).teams = s.teams := rfl
@[simp] theorem State.send_cores (s : State) (o : Out) : (s.send o).cores = s.cores := rfl
@[simp] theorem State.send_bars (s : State) (o : Out) : (s.send o).bars = s.bars := rfl
@[simp] theorem State.send_mem (s : State) (o : Out) : (s.send o).mem = s.mem := rfl
@[simp] theorem State.send_sched (s : State) (o : Out) : (s.send o).sched = s.sched := rfl
@[simp] theorem State.send_sec (s : State) (o : Out) : (s.send o).sec = s.sec := rfl
@[simp] theorem State.send_bring (s : State) (o : Out) : (s.send o).bring = s.bring := rfl
@[simp] theorem State.send_ras (s : State) (o : Out) : (s.send o).ras = s.ras := rfl
@[simp] theorem State.send_io (s : State) (o : Out) : (s.send o).io = { s.io with out := s.io.out ++ [o] } := rfl

@[simp] theorem State.group_setGroup (s : State) (g : Nat) (G : Group) : (s.setGroup g G).group g = some G := by
  simp [State.group, State.setGroup]
theorem State.group_setGroup_other (s : State) {g y : Nat} (G : Group) (h : g ≠ y) : (s.setGroup g G).group y = s.group y := by
  simp [State.group, State.setGroup, Tbl.get_set, h]
@[simp] theorem State.ctx_setCtx (s : State) (t : Nat) (C : Ctx) : (s.setCtx t C).ctx t = some C := by
  simp [State.ctx, State.setCtx]
theorem State.ctx_setCtx_other (s : State) {t y : Nat} (C : Ctx) (h : t ≠ y) : (s.setCtx t C).ctx y = s.ctx y := by
  simp [State.ctx, State.setCtx, Tbl.get_set, h]
@[simp] theorem State.team_setTeam (s : State) (t : Nat) (T : Team) : (s.setTeam t T).team t = some T := by
  simp [State.team, State.setTeam]
theorem State.team_setTeam_other (s : State) {t y : Nat} (T : Team) (h : t ≠ y) : (s.setTeam t T).team y = s.team y := by
  simp [State.team, State.setTeam, Tbl.get_set, h]
@[simp] theorem State.task_setTask (s : State) (k : Nat) (x : Task) : (s.setTask k x).task k = some x := by
  simp [State.task, State.setTask]
theorem State.task_setTask_other (s : State) {k y : Nat} (x : Task) (h : k ≠ y) : (s.setTask k x).task y = s.task y := by
  simp [State.task, State.setTask, Tbl.get_set, h]
@[simp] theorem State.core_setCore (s : State) (c : Nat) (x : Core) : (s.setCore c x).core c = x := by
  simp [State.core, State.setCore]
@[simp] theorem State.fn_setFn (s : State) (f : Nat) (x : Fn) : (s.setFn f x).fn f = x := by
  simp [State.fn, State.setFn]
@[simp] theorem State.queue_setQueue (s : State) (q : Nat) (x : Queue) : (s.setQueue q x).queue q = x := by
  simp [State.queue, State.setQueue]
@[simp] theorem State.bar_setBar (s : State) (c h : Nat) (b : Barrier) : (s.setBar c h b).bar c h = b := by
  simp [State.bar, State.setBar]
@[simp] theorem State.ctx_setGroup (s : State) (g : Nat) (G : Group) (y : Nat) : (s.setGroup g G).ctx y = s.ctx y := rfl
@[simp] theorem State.team_setGroup (s : State) (g : Nat) (G : Group) (y : Nat) : (s.setGroup g G).team y = s.team y := rfl
@[simp] theorem State.core_setGroup (s : State) (g : Nat) (G : Group) (y : Nat) : (s.setGroup g G).core y = s.core y := rfl
@[simp] theorem State.fn_setGroup (s : State) (g : Nat) (G : Group) (y : Nat) : (s.setGroup g G).fn y = s.fn y := rfl
@[simp] theorem State.colour_setGroup (s : State) (g : Nat) (G : Group) (y : Nat) : (s.setGroup g G).colour y = s.colour y := rfl
@[simp] theorem State.queue_setGroup (s : State) (g : Nat) (G : Group) (y : Nat) : (s.setGroup g G).queue y = s.queue y := rfl
@[simp] theorem State.task_setGroup (s : State) (g : Nat) (G : Group) (y : Nat) : (s.setGroup g G).task y = s.task y := rfl
@[simp] theorem State.group_setCtx (s : State) (t : Nat) (C : Ctx) (y : Nat) : (s.setCtx t C).group y = s.group y := rfl
@[simp] theorem State.team_setCtx (s : State) (t : Nat) (C : Ctx) (y : Nat) : (s.setCtx t C).team y = s.team y := rfl
@[simp] theorem State.core_setCtx (s : State) (t : Nat) (C : Ctx) (y : Nat) : (s.setCtx t C).core y = s.core y := rfl
@[simp] theorem State.fn_setCtx (s : State) (t : Nat) (C : Ctx) (y : Nat) : (s.setCtx t C).fn y = s.fn y := rfl
@[simp] theorem State.colour_setCtx (s : State) (t : Nat) (C : Ctx) (y : Nat) : (s.setCtx t C).colour y = s.colour y := rfl
@[simp] theorem State.queue_setCtx (s : State) (t : Nat) (C : Ctx) (y : Nat) : (s.setCtx t C).queue y = s.queue y := rfl
@[simp] theorem State.task_setCtx (s : State) (t : Nat) (C : Ctx) (y : Nat) : (s.setCtx t C).task y = s.task y := rfl
@[simp] theorem State.group_setTeam (s : State) (t : Nat) (T : Team) (y : Nat) : (s.setTeam t T).group y = s.group y := rfl
@[simp] theorem State.ctx_setTeam (s : State) (t : Nat) (T : Team) (y : Nat) : (s.setTeam t T).ctx y = s.ctx y := rfl
@[simp] theorem State.core_setTeam (s : State) (t : Nat) (T : Team) (y : Nat) : (s.setTeam t T).core y = s.core y := rfl
@[simp] theorem State.fn_setTeam (s : State) (t : Nat) (T : Team) (y : Nat) : (s.setTeam t T).fn y = s.fn y := rfl
@[simp] theorem State.colour_setTeam (s : State) (t : Nat) (T : Team) (y : Nat) : (s.setTeam t T).colour y = s.colour y := rfl
@[simp] theorem State.queue_setTeam (s : State) (t : Nat) (T : Team) (y : Nat) : (s.setTeam t T).queue y = s.queue y := rfl
@[simp] theorem State.task_setTeam (s : State) (t : Nat) (T : Team) (y : Nat) : (s.setTeam t T).task y = s.task y := rfl
@[simp] theorem State.group_setCore (s : State) (c : Nat) (x : Core) (y : Nat) : (s.setCore c x).group y = s.group y := rfl
@[simp] theorem State.ctx_setCore (s : State) (c : Nat) (x : Core) (y : Nat) : (s.setCore c x).ctx y = s.ctx y := rfl
@[simp] theorem State.team_setCore (s : State) (c : Nat) (x : Core) (y : Nat) : (s.setCore c x).team y = s.team y := rfl
@[simp] theorem State.fn_setCore (s : State) (c : Nat) (x : Core) (y : Nat) : (s.setCore c x).fn y = s.fn y := rfl
@[simp] theorem State.colour_setCore (s : State) (c : Nat) (x : Core) (y : Nat) : (s.setCore c x).colour y = s.colour y := rfl
@[simp] theorem State.queue_setCore (s : State) (c : Nat) (x : Core) (y : Nat) : (s.setCore c x).queue y = s.queue y := rfl
@[simp] theorem State.task_setCore (s : State) (c : Nat) (x : Core) (y : Nat) : (s.setCore c x).task y = s.task y := rfl
@[simp] theorem State.group_setBar (s : State) (c h : Nat) (b : Barrier) (y : Nat) : (s.setBar c h b).group y = s.group y := rfl
@[simp] theorem State.ctx_setBar (s : State) (c h : Nat) (b : Barrier) (y : Nat) : (s.setBar c h b).ctx y = s.ctx y := rfl
@[simp] theorem State.team_setBar (s : State) (c h : Nat) (b : Barrier) (y : Nat) : (s.setBar c h b).team y = s.team y := rfl
@[simp] theorem State.core_setBar (s : State) (c h : Nat) (b : Barrier) (y : Nat) : (s.setBar c h b).core y = s.core y := rfl
@[simp] theorem State.fn_setBar (s : State) (c h : Nat) (b : Barrier) (y : Nat) : (s.setBar c h b).fn y = s.fn y := rfl
@[simp] theorem State.colour_setBar (s : State) (c h : Nat) (b : Barrier) (y : Nat) : (s.setBar c h b).colour y = s.colour y := rfl
@[simp] theorem State.queue_setBar (s : State) (c h : Nat) (b : Barrier) (y : Nat) : (s.setBar c h b).queue y = s.queue y := rfl
@[simp] theorem State.task_setBar (s : State) (c h : Nat) (b : Barrier) (y : Nat) : (s.setBar c h b).task y = s.task y := rfl
@[simp] theorem State.group_setFn (s : State) (f : Nat) (x : Fn) (y : Nat) : (s.setFn f x).group y = s.group y := rfl
@[simp] theorem State.ctx_setFn (s : State) (f : Nat) (x : Fn) (y : Nat) : (s.setFn f x).ctx y = s.ctx y := rfl
@[simp] theorem State.team_setFn (s : State) (f : Nat) (x : Fn) (y : Nat) : (s.setFn f x).team y = s.team y := rfl
@[simp] theorem State.core_setFn (s : State) (f : Nat) (x : Fn) (y : Nat) : (s.setFn f x).core y = s.core y := rfl
@[simp] theorem State.colour_setFn (s : State) (f : Nat) (x : Fn) (y : Nat) : (s.setFn f x).colour y = s.colour y := rfl
@[simp] theorem State.queue_setFn (s : State) (f : Nat) (x : Fn) (y : Nat) : (s.setFn f x).queue y = s.queue y := rfl
@[simp] theorem State.task_setFn (s : State) (f : Nat) (x : Fn) (y : Nat) : (s.setFn f x).task y = s.task y := rfl
@[simp] theorem State.group_setQueue (s : State) (q : Nat) (x : Queue) (y : Nat) : (s.setQueue q x).group y = s.group y := rfl
@[simp] theorem State.ctx_setQueue (s : State) (q : Nat) (x : Queue) (y : Nat) : (s.setQueue q x).ctx y = s.ctx y := rfl
@[simp] theorem State.team_setQueue (s : State) (q : Nat) (x : Queue) (y : Nat) : (s.setQueue q x).team y = s.team y := rfl
@[simp] theorem State.core_setQueue (s : State) (q : Nat) (x : Queue) (y : Nat) : (s.setQueue q x).core y = s.core y := rfl
@[simp] theorem State.fn_setQueue (s : State) (q : Nat) (x : Queue) (y : Nat) : (s.setQueue q x).fn y = s.fn y := rfl
@[simp] theorem State.colour_setQueue (s : State) (q : Nat) (x : Queue) (y : Nat) : (s.setQueue q x).colour y = s.colour y := rfl
@[simp] theorem State.task_setQueue (s : State) (q : Nat) (x : Queue) (y : Nat) : (s.setQueue q x).task y = s.task y := rfl
@[simp] theorem State.group_setTask (s : State) (k : Nat) (x : Task) (y : Nat) : (s.setTask k x).group y = s.group y := rfl
@[simp] theorem State.ctx_setTask (s : State) (k : Nat) (x : Task) (y : Nat) : (s.setTask k x).ctx y = s.ctx y := rfl
@[simp] theorem State.team_setTask (s : State) (k : Nat) (x : Task) (y : Nat) : (s.setTask k x).team y = s.team y := rfl
@[simp] theorem State.core_setTask (s : State) (k : Nat) (x : Task) (y : Nat) : (s.setTask k x).core y = s.core y := rfl
@[simp] theorem State.fn_setTask (s : State) (k : Nat) (x : Task) (y : Nat) : (s.setTask k x).fn y = s.fn y := rfl
@[simp] theorem State.colour_setTask (s : State) (k : Nat) (x : Task) (y : Nat) : (s.setTask k x).colour y = s.colour y := rfl
@[simp] theorem State.queue_setTask (s : State) (k : Nat) (x : Task) (y : Nat) : (s.setTask k x).queue y = s.queue y := rfl
@[simp] theorem State.group_send (s : State) (o : Out) (y : Nat) : (s.send o).group y = s.group y := rfl
@[simp] theorem State.ctx_send (s : State) (o : Out) (y : Nat) : (s.send o).ctx y = s.ctx y := rfl
@[simp] theorem State.team_send (s : State) (o : Out) (y : Nat) : (s.send o).team y = s.team y := rfl
@[simp] theorem State.core_send (s : State) (o : Out) (y : Nat) : (s.send o).core y = s.core y := rfl
@[simp] theorem State.fn_send (s : State) (o : Out) (y : Nat) : (s.send o).fn y = s.fn y := rfl
@[simp] theorem State.colour_send (s : State) (o : Out) (y : Nat) : (s.send o).colour y = s.colour y := rfl
@[simp] theorem State.queue_send (s : State) (o : Out) (y : Nat) : (s.send o).queue y = s.queue y := rfl
@[simp] theorem State.task_send (s : State) (o : Out) (y : Nat) : (s.send o).task y = s.task y := rfl

end Sys2Proof.Machine
end

