-- ==== Sys2Proof/Laws/Issue.lean ====
section
/-! SUPPORT. The issue of one instruction: an agent with nothing in its way reaches its body, and what a body of plain
results leaves. -/

namespace Sys2Proof.Machine

open Sys2Proof.Safety

/-- The view of a group's path. -/
def State.gview (s : State) (ag : Agent) (g : Nat) (G : Group) (p : Path) (T : Team) : Iss :=
  { s := s, ag := ag, ctl := false, id := g, G := G, C := Ctx.blank, p := p, core := coreOfGroup g, team := G.team,
    T := T, w0 := p.wait, lanes := p.mask }

/-- The view of a control thread. -/
def State.cview (s : State) (t : Nat) (C : Ctx) (T : Team) : Iss :=
  { s := s, ag := .ctl t, ctl := true, id := t, G := Group.blank, C := C, p := C.path, core := coreOfTeam t, team := t,
    T := T, w0 := C.path.wait, lanes := C.path.mask }

theorem State.view_path {s : State} {g ix : Nat} {i : Iss} (h : s.view (.path g ix) = some i) :
    ∃ G T p, s.group g = some G ∧ G.stack[ix]? = some p ∧ s.team G.team = some T ∧ i = s.gview (.path g ix) g G p T := by
  unfold State.view State.path at h
  cases hG : s.group g with
  | none => simp [hG] at h
  | some G =>
    cases hp : G.stack[ix]? with
    | none => simp [hG, hp] at h
    | some p =>
      cases hT : s.team G.team with
      | none => simp [hG, hp, hT] at h
      | some T =>
        simp only [hG, hp, hT, Option.some.injEq] at h
        exact ⟨G, T, p, rfl, hp, hT, h.symm⟩

theorem State.view_handler {s : State} {g : Nat} {i : Iss} (h : s.view (.handler g) = some i) :
    ∃ G T x, s.group g = some G ∧ G.handler = some x ∧ s.team G.team = some T ∧
      i = s.gview (.handler g) g G x.path T := by
  unfold State.view State.path at h
  cases hG : s.group g with
  | none => simp [hG] at h
  | some G =>
    cases hp : G.handler with
    | none => simp [hG, hp] at h
    | some x =>
      cases hT : s.team G.team with
      | none => simp [hG, hp, hT] at h
      | some T =>
        simp only [hG, hp, hT, Option.map_some, Option.some.injEq] at h
        exact ⟨G, T, x, rfl, hp, hT, h.symm⟩

theorem State.view_ctl {s : State} {t : Nat} {i : Iss} (h : s.view (.ctl t) = some i) :
    ∃ C T, s.ctx t = some C ∧ s.team t = some T ∧ i = s.cview t C T := by
  unfold State.view State.path at h
  cases hC : s.ctx t with
  | none => simp [hC] at h
  | some C =>
    cases hT : s.team t with
    | none => simp [hC, hT] at h
    | some T =>
      simp only [hC, hT, Option.map_some, Option.some.injEq] at h
      exact ⟨C, T, rfl, rfl, h.symm⟩

/-! A path put back changes nothing else of its group. -/

@[simp] theorem Group.setPathAt_team (G : Group) (ag : Agent) (p : Path) : (G.setPathAt ag p).team = G.team := by
  cases ag <;> rfl
@[simp] theorem Group.setPathAt_k53 (G : Group) (ag : Agent) (p : Path) : (G.setPathAt ag p).k53 = G.k53 := by
  cases ag <;> rfl
@[simp] theorem Group.setPathAt_k54 (G : Group) (ag : Agent) (p : Path) : (G.setPathAt ag p).k54 = G.k54 := by
  cases ag <;> rfl
@[simp] theorem Group.setPathAt_held (G : Group) (ag : Agent) (p : Path) : (G.setPathAt ag p).held = G.held := by
  cases ag <;> rfl
@[simp] theorem Group.setPathAt_lo (G : Group) (ag : Agent) (p : Path) : (G.setPathAt ag p).lo = G.lo := by
  cases ag <;> rfl
@[simp] theorem Group.setPathAt_base (G : Group) (ag : Agent) (p : Path) : (G.setPathAt ag p).base = G.base := by
  cases ag <;> rfl
@[simp] theorem Group.setPathAt_fsz (G : Group) (ag : Agent) (p : Path) : (G.setPathAt ag p).fsz = G.fsz := by
  cases ag <;> rfl
@[simp] theorem Group.setPathAt_tf (G : Group) (ag : Agent) (p : Path) : (G.setPathAt ag p).tf = G.tf := by
  cases ag <;> rfl
@[simp] theorem Group.setPathAt_v (G : Group) (ag : Agent) (p : Path) : (G.setPathAt ag p).v = G.v := by
  cases ag <;> rfl
@[simp] theorem Group.setPathAt_vtag (G : Group) (ag : Agent) (p : Path) : (G.setPathAt ag p).vtag = G.vtag := by
  cases ag <;> rfl
@[simp] theorem Group.setPathAt_k (G : Group) (ag : Agent) (p : Path) : (G.setPathAt ag p).k = G.k := by
  cases ag <;> rfl
@[simp] theorem Group.setPathAt_ktag (G : Group) (ag : Agent) (p : Path) : (G.setPathAt ag p).ktag = G.ktag := by
  cases ag <;> rfl
@[simp] theorem Group.setPathAt_q (G : Group) (ag : Agent) (p : Path) : (G.setPathAt ag p).q = G.q := by
  cases ag <;> rfl
@[simp] theorem Group.setPathAt_launched (G : Group) (ag : Agent) (p : Path) : (G.setPathAt ag p).launched = G.launched := by
  cases ag <;> rfl
@[simp] theorem Group.setPathAt_gone (G : Group) (ag : Agent) (p : Path) : (G.setPathAt ag p).gone = G.gone := by
  cases ag <;> rfl
@[simp] theorem Group.setPathAt_k55 (G : Group) (ag : Agent) (p : Path) : (G.setPathAt ag p).k55 = G.k55 := by
  cases ag <;> rfl
@[simp] theorem Group.setPathAt_cplNo (G : Group) (ag : Agent) (p : Path) : (G.setPathAt ag p).cplNo = G.cplNo := by
  cases ag <;> rfl
@[simp] theorem Group.setPathAt_ops (G : Group) (ag : Agent) (p : Path) : (G.setPathAt ag p).ops = G.ops := by
  cases ag <;> rfl
@[simp] theorem Group.setPathAt_fails (G : Group) (ag : Agent) (p : Path) : (G.setPathAt ag p).fails = G.fails := by
  cases ag <;> rfl
@[simp] theorem Group.setPathAt_drain (G : Group) (ag : Agent) (p : Path) : (G.setPathAt ag p).drain = G.drain := by
  cases ag <;> rfl
@[simp] theorem Group.setPathAt_run (G : Group) (ag : Agent) (p : Path) : (G.setPathAt ag p).run = G.run := by
  cases ag <;> rfl
@[simp] theorem Group.setPathAt_stopReq (G : Group) (ag : Agent) (p : Path) : (G.setPathAt ag p).stopReq = G.stopReq := by
  cases ag <;> rfl
@[simp] theorem Group.setPathAt_cause (G : Group) (ag : Agent) (p : Path) : (G.setPathAt ag p).cause = G.cause := by
  cases ag <;> rfl
@[simp] theorem Group.setPathAt_resume (G : Group) (ag : Agent) (p : Path) : (G.setPathAt ag p).resume = G.resume := by
  cases ag <;> rfl
@[simp] theorem Group.setPathAt_step (G : Group) (ag : Agent) (p : Path) : (G.setPathAt ag p).step = G.step := by
  cases ag <;> rfl
@[simp] theorem Group.setPathAt_poison (G : Group) (ag : Agent) (p : Path) : (G.setPathAt ag p).poison = G.poison := by
  cases ag <;> rfl
@[simp] theorem Group.setPathAt_starve (G : Group) (ag : Agent) (p : Path) : (G.setPathAt ag p).starve = G.starve := by
  cases ag <;> rfl
@[simp] theorem Group.setPathAt_raised (G : Group) (ag : Agent) (p : Path) : (G.setPathAt ag p).raised = G.raised := by
  cases ag <;> rfl
@[simp] theorem Group.setPathAt_readySince (G : Group) (ag : Agent) (p : Path) : (G.setPathAt ag p).readySince = G.readySince := by
  cases ag <;> rfl
@[simp] theorem Group.setPathAt_issued (G : Group) (ag : Agent) (p : Path) : (G.setPathAt ag p).issued = G.issued := by
  cases ag <;> rfl
@[simp] theorem Group.setPathAt_perf (G : Group) (ag : Agent) (p : Path) : (G.setPathAt ag p).perf = G.perf := by
  cases ag <;> rfl
@[simp] theorem Group.setPathAt_code (G : Group) (ag : Agent) (p : Path) : (G.setPathAt ag p).code = G.code := by
  cases ag <;> rfl
@[simp] theorem Group.setPathAt_trapv (G : Group) (ag : Agent) (p : Path) : (G.setPathAt ag p).trapv = G.trapv := by
  cases ag <;> rfl
@[simp] theorem Group.setPathAt_priv (G : Group) (ag : Agent) (p : Path) : (G.setPathAt ag p).priv = G.priv := by
  cases ag <;> rfl
@[simp] theorem Group.setPathAt_psize (G : Group) (ag : Agent) (p : Path) : (G.setPathAt ag p).psize = G.psize := by
  cases ag <;> rfl
@[simp] theorem Group.setPathAt_boost (G : Group) (ag : Agent) (p : Path) : (G.setPathAt ag p).boost = G.boost := by
  cases ag <;> rfl

/-! The accounts leave the registers of the group alone. -/

@[simp] theorem Iss.issuedGroup_team (i : Iss) (o : Op) : (i.issuedGroup o).team = i.G.team := by
  simp [Iss.issuedGroup]
@[simp] theorem Iss.issuedGroup_k53 (i : Iss) (o : Op) : (i.issuedGroup o).k53 = i.G.k53 := by
  simp [Iss.issuedGroup]
@[simp] theorem Iss.issuedGroup_k54 (i : Iss) (o : Op) : (i.issuedGroup o).k54 = i.G.k54 := by
  simp [Iss.issuedGroup]
@[simp] theorem Iss.issuedGroup_held (i : Iss) (o : Op) : (i.issuedGroup o).held = i.G.held := by
  simp [Iss.issuedGroup]
@[simp] theorem Iss.issuedGroup_lo (i : Iss) (o : Op) : (i.issuedGroup o).lo = i.G.lo := by
  simp [Iss.issuedGroup]
@[simp] theorem Iss.issuedGroup_base (i : Iss) (o : Op) : (i.issuedGroup o).base = i.G.base := by
  simp [Iss.issuedGroup]
@[simp] theorem Iss.issuedGroup_fsz (i : Iss) (o : Op) : (i.issuedGroup o).fsz = i.G.fsz := by
  simp [Iss.issuedGroup]
@[simp] theorem Iss.issuedGroup_tf (i : Iss) (o : Op) : (i.issuedGroup o).tf = i.G.tf := by
  simp [Iss.issuedGroup]
@[simp] theorem Iss.issuedGroup_v (i : Iss) (o : Op) : (i.issuedGroup o).v = i.G.v := by
  simp [Iss.issuedGroup]
@[simp] theorem Iss.issuedGroup_vtag (i : Iss) (o : Op) : (i.issuedGroup o).vtag = i.G.vtag := by
  simp [Iss.issuedGroup]
@[simp] theorem Iss.issuedGroup_k (i : Iss) (o : Op) : (i.issuedGroup o).k = i.G.k := by
  simp [Iss.issuedGroup]
@[simp] theorem Iss.issuedGroup_ktag (i : Iss) (o : Op) : (i.issuedGroup o).ktag = i.G.ktag := by
  simp [Iss.issuedGroup]
@[simp] theorem Iss.issuedGroup_q (i : Iss) (o : Op) : (i.issuedGroup o).q = i.G.q := by
  simp [Iss.issuedGroup]
@[simp] theorem Iss.issuedGroup_launched (i : Iss) (o : Op) : (i.issuedGroup o).launched = i.G.launched := by
  simp [Iss.issuedGroup]
@[simp] theorem Iss.issuedGroup_gone (i : Iss) (o : Op) : (i.issuedGroup o).gone = i.G.gone := by
  simp [Iss.issuedGroup]
@[simp] theorem Iss.issuedGroup_k55 (i : Iss) (o : Op) : (i.issuedGroup o).k55 = i.G.k55 := by
  simp [Iss.issuedGroup]
@[simp] theorem Iss.issuedGroup_cplNo (i : Iss) (o : Op) : (i.issuedGroup o).cplNo = i.G.cplNo := by
  simp [Iss.issuedGroup]
@[simp] theorem Iss.issuedGroup_ops (i : Iss) (o : Op) : (i.issuedGroup o).ops = i.G.ops := by
  simp [Iss.issuedGroup]
@[simp] theorem Iss.issuedGroup_fails (i : Iss) (o : Op) : (i.issuedGroup o).fails = i.G.fails := by
  simp [Iss.issuedGroup]
@[simp] theorem Iss.issuedGroup_drain (i : Iss) (o : Op) : (i.issuedGroup o).drain = i.G.drain := by
  simp [Iss.issuedGroup]
@[simp] theorem Iss.issuedGroup_run (i : Iss) (o : Op) : (i.issuedGroup o).run = i.G.run := by
  simp [Iss.issuedGroup]
@[simp] theorem Iss.issuedGroup_stopReq (i : Iss) (o : Op) : (i.issuedGroup o).stopReq = i.G.stopReq := by
  simp [Iss.issuedGroup]
@[simp] theorem Iss.issuedGroup_cause (i : Iss) (o : Op) : (i.issuedGroup o).cause = i.G.cause := by
  simp [Iss.issuedGroup]
@[simp] theorem Iss.issuedGroup_resume (i : Iss) (o : Op) : (i.issuedGroup o).resume = i.G.resume := by
  simp [Iss.issuedGroup]
@[simp] theorem Iss.issuedGroup_step (i : Iss) (o : Op) : (i.issuedGroup o).step = i.G.step := by
  simp [Iss.issuedGroup]
@[simp] theorem Iss.issuedGroup_poison (i : Iss) (o : Op) : (i.issuedGroup o).poison = i.G.poison := by
  simp [Iss.issuedGroup]
@[simp] theorem Iss.issuedGroup_code (i : Iss) (o : Op) : (i.issuedGroup o).code = i.G.code := by
  simp [Iss.issuedGroup]
@[simp] theorem Iss.issuedGroup_trapv (i : Iss) (o : Op) : (i.issuedGroup o).trapv = i.G.trapv := by
  simp [Iss.issuedGroup]
@[simp] theorem Iss.issuedGroup_priv (i : Iss) (o : Op) : (i.issuedGroup o).priv = i.G.priv := by
  simp [Iss.issuedGroup]
@[simp] theorem Iss.issuedGroup_psize (i : Iss) (o : Op) : (i.issuedGroup o).psize = i.G.psize := by
  simp [Iss.issuedGroup]
@[simp] theorem Iss.issuedGroup_boost (i : Iss) (o : Op) : (i.issuedGroup o).boost = i.G.boost := by
  simp [Iss.issuedGroup]
@[simp] theorem Iss.issuedGroup_row (i : Iss) (o : Op) (r : Nat) : (i.issuedGroup o).row r = i.G.row r := by
  simp [Group.row]
@[simp] theorem Iss.issuedGroup_rowNo (i : Iss) (o : Op) (n : Nat) : (i.issuedGroup o).rowNo n = i.G.rowNo n := by
  simp [Group.rowNo]
@[simp] theorem Iss.issuedGroup_len (i : Iss) (o : Op) : (i.issuedGroup o).len = i.G.len := by
  simp [Group.len]
@[simp] theorem Iss.issuedGroup_pred (i : Iss) (o : Op) (n : Nat) : (i.issuedGroup o).pred n = i.G.pred n := by
  simp [Group.pred]
@[simp] theorem Iss.issuedGroup_kBank (i : Iss) (o : Op) (n : Nat) : (i.issuedGroup o).kBank n = i.G.kBank n := by
  simp [Group.kBank, Group.frameWord]
@[simp] theorem Iss.issuedGroup_quadTags (i : Iss) (o : Op) (n : Nat) :
    (i.issuedGroup o).quadTags n = i.G.quadTags n := by
  simp [Group.quadTags]

@[simp] theorem Group.drainWin_nil (G : Group) : G.drainWin [] = G := rfl

theorem Iss.settled_clear {i : Iss} (h : i.p.pend = []) (o : Op) : i.settled o = some i.s := by
  simp [Iss.settled, h]

theorem Iss.tick_group {i : Iss} (hc : i.ctl = false) (hpend : i.p.pend = []) (hwin : i.p.win = [])
    (hk : i.p.kind ≠ .park) (o : Op) : i.tick o = i.s.setGroup i.id (i.issuedGroup o) := by
  simp [Iss.tick, hc, hpend, ageWin, hwin, Iss.issuedGroup, Iss.issuedPath, hk]

theorem State.cur_view {s : State} {i : Iss} (h : s.issuing = some i) : ∃ ag, s.cur = some ag ∧ s.view ag = some i := by
  unfold State.issuing at h
  cases hcur : s.cur with
  | none => simp [hcur] at h
  | some ag =>
    simp only [hcur] at h
    split at h
    · exact ⟨ag, rfl, h⟩
    · simp at h

/-- The view after the accounts of a group's instruction. -/
theorem Iss.view_issued {s : State} {ag : Agent} {i : Iss} (hv : s.view ag = some i) (hc : i.ctl = false) (o : Op) :
    (i.s.setGroup i.id (i.issuedGroup o)).view i.ag =
      some { i.issuedG o with w0 := none, lanes := i.p.mask } := by
  cases ag with
  | path g ix =>
    obtain ⟨G, T, p, hG, hp, hT, rfl⟩ := State.view_path hv
    have hlt : ix < G.stack.length := by
      rw [List.getElem?_eq_some_iff] at hp; exact hp.1
    simp [State.view, State.path, State.gview, Iss.issuedG, Iss.issuedGroup, Iss.issuedPath, Group.setPathAt, hlt, hT]
  | handler g =>
    obtain ⟨G, T, x, hG, hp, hT, rfl⟩ := State.view_handler hv
    simp [State.view, State.path, State.gview, Iss.issuedG, Iss.issuedGroup, Iss.issuedPath, Group.setPathAt, hp, hT]
  | ctl t =>
    obtain ⟨C, T, hC, hT, rfl⟩ := State.view_ctl hv
    simp [State.cview] at hc

/-- What a view says of itself. -/
theorem State.view_self {s : State} {ag : Agent} {i : Iss} (hv : s.view ag = some i) :
    i.s = s ∧ i.ag = ag ∧ i.w0 = i.p.wait ∧ i.lanes = i.p.mask := by
  cases ag with
  | path g ix => obtain ⟨G, T, p, -, -, -, rfl⟩ := State.view_path hv; exact ⟨rfl, rfl, rfl, rfl⟩
  | handler g => obtain ⟨G, T, x, -, -, -, rfl⟩ := State.view_handler hv; exact ⟨rfl, rfl, rfl, rfl⟩
  | ctl t => obtain ⟨C, T, -, -, rfl⟩ := State.view_ctl hv; exact ⟨rfl, rfl, rfl, rfl⟩

/-- A group's instruction with nothing in its way reaches its body. -/
theorem Iss.begin_group {s : State} {i : Iss} (h : Clear s i) (hc : i.ctl = false) {o : Op} {legal : Iss → Bool}
    (ha : i.admits o legal) (hp : i.mustPark o = none) : i.begin o legal = .ok (i.issuedG o) := by
  obtain ⟨hi, hl, hpend, hwin, hm, hk, hst, hsi, hpo⟩ := h
  obtain ⟨h1, h2, h3, h4⟩ := ha
  obtain ⟨ag, hcur, hv⟩ := State.cur_view hi
  obtain ⟨es, ea, ew, el⟩ := State.view_self hv
  have hv' : i.s.view i.ag = some i := by rw [es, ea]; exact hv
  have hn := Iss.view_issued hv hc o
  rw [if_neg (by simp [hc])] at h1
  unfold Iss.begin
  simp only [hst, hl, hsi.2, Iss.settled_clear hpend, hv', hm, h1, h2, h3, h4, hp, Iss.tick_group hc hpend hwin hk, hn]
  simp [hc, Iss.aim, Iss.issuedG, Iss.active, Iss.issuedPath, ew]

/-! Results. -/

/-- A write to a group's banks leaves its run state, stack and the rest alone. -/
theorem Group.write_frame (G : Group) (w : RegWrite) :
    (G.write w).step = G.step ∧ (G.write w).run = G.run ∧ (G.write w).stack = G.stack ∧ (G.write w).handler = G.handler ∧
    (G.write w).team = G.team ∧ (G.write w).tf = G.tf ∧ (G.write w).base = G.base ∧ (G.write w).held = G.held ∧
    (G.write w).fsz = G.fsz ∧ (G.write w).lo = G.lo ∧ (G.write w).k53 = G.k53 ∧ (G.write w).k54 = G.k54 ∧
    (G.write w).k55 = G.k55 ∧ (G.write w).launched = G.launched ∧ (G.write w).gone = G.gone ∧
    (G.write w).stopReq = G.stopReq := by
  cases w <;> simp [Group.write, Group.writeRow, Group.setK] <;> split <;> simp

theorem putWrite_frame (age : Nat) (st : Group × Path) (w : RegWrite) :
    (putWrite age st w).1.step = st.1.step ∧ (putWrite age st w).1.run = st.1.run ∧
    (putWrite age st w).1.stack = st.1.stack ∧ (putWrite age st w).1.handler = st.1.handler ∧
    (putWrite age st w).1.team = st.1.team ∧ (putWrite age st w).1.tf = st.1.tf ∧
    (putWrite age st w).1.base = st.1.base ∧ (putWrite age st w).1.held = st.1.held := by
  obtain ⟨G, p⟩ := st
  have h := Group.write_frame G
  cases w <;> simp only [putWrite] <;> (repeat' split) <;> simp [h]

theorem putWrites_frame (age : Nat) (st : Group × Path) (ws : List RegWrite) :
    (putWrites age st ws).1.step = st.1.step ∧ (putWrites age st ws).1.run = st.1.run ∧
    (putWrites age st ws).1.stack = st.1.stack ∧ (putWrites age st ws).1.handler = st.1.handler ∧
    (putWrites age st ws).1.team = st.1.team ∧ (putWrites age st ws).1.tf = st.1.tf ∧
    (putWrites age st ws).1.base = st.1.base ∧ (putWrites age st ws).1.held = st.1.held := by
  induction ws generalizing st with
  | nil => exact ⟨rfl, rfl, rfl, rfl, rfl, rfl, rfl, rfl⟩
  | cons w ws ih =>
    have h1 := putWrite_frame age st w
    have h2 := ih (putWrite age st w)
    rw [show putWrites age st (w :: ws) = putWrites age (putWrite age st w) ws from rfl]
    exact ⟨h2.1.trans h1.1, h2.2.1.trans h1.2.1, h2.2.2.1.trans h1.2.2.1, h2.2.2.2.1.trans h1.2.2.2.1,
      h2.2.2.2.2.1.trans h1.2.2.2.2.1, h2.2.2.2.2.2.1.trans h1.2.2.2.2.2.1,
      h2.2.2.2.2.2.2.1.trans h1.2.2.2.2.2.2.1, h2.2.2.2.2.2.2.2.trans h1.2.2.2.2.2.2.2⟩

/-- The parts of a path that results other than a write of k60 to k62 leave alone. -/
theorem putWrites_path (age : Nat) (st : Group × Path) (ws : List RegWrite)
    (h : ∀ w ∈ ws, w.keepsMask = true) :
    ∃ win hs, (putWrites age st ws).2 = { st.2 with win := win, held := hs } := by
  induction ws generalizing st with
  | nil => exact ⟨st.2.win, st.2.held, rfl⟩
  | cons w ws ih =>
    obtain ⟨win, hs, hw⟩ := ih (putWrite age st w) (fun x hx => h x (by simp [hx]))
    rw [show putWrites age st (w :: ws) = putWrites age (putWrite age st w) ws from rfl, hw]
    obtain ⟨G, p⟩ := st
    have hk := h w (by simp)
    cases w with
    | k n x =>
      simp only [RegWrite.keepsMask, Bool.or_eq_true, decide_eq_true_eq] at hk
      simp only [putWrite]
      rw [if_neg (by omega)]
      split <;> exact ⟨win, hs, rfl⟩
    | ktag q t => simp only [putWrite]; split <;> exact ⟨win, hs, rfl⟩
    | _ => exact ⟨win, hs, rfl⟩

theorem Group.raise_frame (G : Group) (p : Path) (age fl : Nat) :
    (G.raise p age fl).1.step = G.step ∧ (G.raise p age fl).1.stack = G.stack ∧ (G.raise p age fl).1.handler = G.handler ∧
    (G.raise p age fl).1.team = G.team ∧ (∃ win ps, (G.raise p age fl).2 = { p with win := win, pend := ps }) := by
  unfold Group.raise
  split <;> exact ⟨rfl, rfl, rfl, rfl, ⟨_, _, rfl⟩⟩

theorem State.path_of_view {s : State} {ag : Agent} {i : Iss} (hv : s.view ag = some i) : s.path ag = some i.p := by
  cases ag with
  | path g ix => obtain ⟨G, T, p, hG, hp, -, rfl⟩ := State.view_path hv; simp [State.path, hG, hp, State.gview]
  | handler g => obtain ⟨G, T, x, hG, hp, -, rfl⟩ := State.view_handler hv; simp [State.path, hG, hp, State.gview]
  | ctl t => obtain ⟨C, T, hC, -, rfl⟩ := State.view_ctl hv; simp [State.path, hC, State.cview]

theorem Group.raise_path (G : Group) (p : Path) (age fl : Nat) :
    (G.raise p age fl).2.pc = p.pc ∧ (G.raise p age fl).2.mask = p.mask ∧ (G.raise p age fl).2.wait = p.wait ∧
    (G.raise p age fl).2.kind = p.kind ∧ (G.raise p age fl).2.late = p.late ∧ (G.raise p age fl).2.code = p.code ∧
    (p.pend = [] → (G.raise p age fl).2.pend = []) := by
  unfold Group.raise
  split <;> exact ⟨rfl, rfl, rfl, rfl, rfl, rfl, fun h => by simp [h]⟩

theorem State.setGroup_setGroup (s : State) (g : Nat) (G G' : Group) :
    (s.setGroup g G).setGroup g G' = s.setGroup g G' := by
  simp [State.setGroup, Tbl.set_set]

/-- A path that keeps its mask is put back. -/
theorem Iss.putBack_live (i : Iss) (s : State) (G : Group) (p : Path) (hm : p.mask = i.p.mask)
    (hs : G.step = false) : i.putBack s G p = s.setGroup i.id (G.setPathAt i.ag p) := by
  unfold Iss.putBack
  simp [hm, State.stepStop, hs]

end Sys2Proof.Machine
end

