-- ==== Sys2Proof/Laws/Regs.lean ====
section
/-! SUPPORT. Registers read after the accounts of an issue, and after results have landed. -/

namespace Sys2Proof.Machine

open Sys2Proof.Safety

@[simp] theorem Iss.issuedG_G (i : Iss) (o : Op) : (i.issuedG o).G = i.issuedGroup o := rfl
@[simp] theorem Iss.issuedG_ctl (i : Iss) (o : Op) : (i.issuedG o).ctl = i.ctl := rfl
@[simp] theorem Iss.issuedG_id (i : Iss) (o : Op) : (i.issuedG o).id = i.id := rfl
@[simp] theorem Iss.issuedG_ag (i : Iss) (o : Op) : (i.issuedG o).ag = i.ag := rfl
@[simp] theorem Iss.issuedG_T (i : Iss) (o : Op) : (i.issuedG o).T = i.T := rfl
@[simp] theorem Iss.issuedG_core (i : Iss) (o : Op) : (i.issuedG o).core = i.core := rfl
@[simp] theorem Iss.issuedG_team (i : Iss) (o : Op) : (i.issuedG o).team = i.team := rfl
@[simp] theorem Iss.issuedG_C (i : Iss) (o : Op) : (i.issuedG o).C = i.C := rfl
@[simp] theorem Iss.issuedG_mask (i : Iss) (o : Op) : (i.issuedG o).p.mask = i.p.mask := rfl
@[simp] theorem Iss.issuedG_pc (i : Iss) (o : Op) : (i.issuedG o).p.pc = i.p.pc := rfl
@[simp] theorem Iss.issuedG_win (i : Iss) (o : Op) : (i.issuedG o).p.win = [] := rfl
@[simp] theorem Iss.issuedG_active (i : Iss) (o o' : Op) : (i.issuedG o).active o' = i.active o' := by
  simp [Iss.active]
@[simp] theorem Iss.issuedG_vRow (i : Iss) (o : Op) (n : Nat) : (i.issuedG o).vRow n = i.vRow n := by
  simp [Iss.vRow]
@[simp] theorem Iss.issuedG_vVals2 (i : Iss) (o : Op) (n : Nat) : (i.issuedG o).vVals2 n = i.vVals2 n := by
  simp [Iss.vVals2]
@[simp] theorem Iss.issuedG_vVals (i : Iss) (o : Op) (wd n : Nat) : (i.issuedG o).vVals wd n = i.vVals wd n := by
  simp [Iss.vVals]

/-- A k register is read from the bank where the window is empty (R33). -/
theorem Group.kOf_nil (G : Group) (p : Path) (n : Nat) (hw : p.win = []) :
    G.kOf p n = if 60 ≤ n ∧ n < 63 then maskWord p.mask (n - 60) else G.kBank n := by
  simp [Group.kOf, hw]

theorem Iss.issuedG_kReg (i : Iss) (o : Op) (hw : i.p.win = []) (n : Nat) : (i.issuedG o).kReg n = i.kReg n := by
  simp [Iss.kReg, Group.kOf_nil _ _ _ hw, Group.kOf_nil _ _ _ (Iss.issuedG_win i o)]

theorem Iss.issuedG_kVal (i : Iss) (o : Op) (hw : i.p.win = []) (wd n : Nat) :
    (i.issuedG o).kVal wd n = i.kVal wd n := by
  simp [Iss.kVal, Iss.issuedG_kReg i o hw]

theorem Iss.issuedG_aVals (i : Iss) (o : Op) (hw : i.p.win = []) (w : Long) (wd : Nat) :
    (i.issuedG o).aVals w wd = i.aVals w wd := by
  simp [Iss.aVals, Iss.issuedG_kVal i o hw]

theorem Iss.issuedG_bVals (i : Iss) (o : Op) (hw : i.p.win = []) (w : Long) (t : ITy) :
    (i.issuedG o).bVals w t = i.bVals w t := by
  simp [Iss.bVals, Iss.issuedG_kVal i o hw]

theorem Iss.issuedG_ecc (i : Iss) (o : Op) (hp : i.G.poison = []) (m : LaneMask) (rs : List SrcReg) :
    (i.issuedG o).ecc m rs = .ok () := by
  simp [Iss.ecc, hp]

/-! A path put back, or moved to another pc, leaves the registers alone. -/

@[simp] theorem Group.row_setPathAt (G : Group) (ag : Agent) (p : Path) (r : Nat) :
    (G.setPathAt ag p).row r = G.row r := by simp [Group.row]
@[simp] theorem Group.rowNo_setPathAt (G : Group) (ag : Agent) (p : Path) (n : Nat) :
    (G.setPathAt ag p).rowNo n = G.rowNo n := by simp [Group.rowNo]
@[simp] theorem Group.len_setPathAt (G : Group) (ag : Agent) (p : Path) : (G.setPathAt ag p).len = G.len := by
  simp [Group.len]
@[simp] theorem Group.quadTags_setPathAt (G : Group) (ag : Agent) (p : Path) (q : Nat) :
    (G.setPathAt ag p).quadTags q = G.quadTags q := by simp [Group.quadTags]
@[simp] theorem Group.pred_setPathAt (G : Group) (ag : Agent) (p : Path) (n : Nat) :
    (G.setPathAt ag p).pred n = G.pred n := by simp [Group.pred]
@[simp] theorem Group.kBank_setPathAt (G : Group) (ag : Agent) (p : Path) (n : Nat) :
    (G.setPathAt ag p).kBank n = G.kBank n := by simp [Group.kBank, Group.frameWord]
@[simp] theorem Group.kOf_setPathAt (G : Group) (ag : Agent) (p x : Path) (n : Nat) :
    (G.setPathAt ag p).kOf x n = G.kOf x n := by simp [Group.kOf]
@[simp] theorem Group.kpTag_setPathAt (G : Group) (ag : Agent) (p x : Path) (q : Nat) :
    (G.setPathAt ag p).kpTag x q = G.kpTag x q := by simp [Group.kpTag]
@[simp] theorem Group.kOf_goto (G : Group) (p : Path) (o : Op) (t : Option Word64) (pc : Word64) (n : Nat) :
    G.kOf (p.goto o t pc) n = G.kOf p n := rfl
@[simp] theorem Group.kpTag_goto (G : Group) (p : Path) (o : Op) (t : Option Word64) (pc : Word64) (q : Nat) :
    G.kpTag (p.goto o t pc) q = G.kpTag p q := rfl

/-! Rows. -/

theorem fullRow_length (x : Row) : (fullRow x).length = 96 := by
  simp [fullRow, laneCount]; omega

theorem fullRow_getD (x : Row) (L : Nat) (h : L < 96) : (fullRow x).getD L 0#32 = x.getD L 0#32 := by
  simp only [fullRow, laneCount, List.getD_eq_getElem?_getD, List.getElem?_append, List.length_take,
    List.getElem?_take, List.getElem?_replicate]
  by_cases hx : L < x.length
  · rw [if_pos (by omega), if_pos h]
  · rw [if_neg (by omega), List.getElem?_eq_none (by omega)]
    split <;> simp

@[simp] theorem Group.row_length (G : Group) (r : Nat) : (G.row r).length = 96 := fullRow_length _

theorem Group.row_writeRow_other (G : Group) (r r' : Nat) (m : LaneMask) (x : Row) (h : r ≠ r') :
    (G.writeRow r m x).row r' = G.row r' := by
  simp [Group.row, Group.writeRow, Tbl.get_set, h]

theorem Group.row_writeRow_same (G : Group) (r : Nat) (m : LaneMask) (x : Row) (L : Nat) (hL : L < 96) :
    ((G.writeRow r m x).row r).getD L 0#32 = if m.getLsbD L then x.getD L 0#32 else (G.row r).getD L 0#32 := by
  have h1 : L < (fullRow x).length := by rw [fullRow_length]; exact hL
  have h2 : L < (G.row r).length := by rw [Group.row_length]; exact hL
  rw [show (G.writeRow r m x).row r = fullRow (((laneBits m).zip ((fullRow x).zip (G.row r))).map
    (fun (b, n, o) => if b then n else o)) by simp [Group.row, Group.writeRow]]
  rw [fullRow_getD _ _ hL, ← fullRow_getD x L hL]
  simp [List.getD_eq_getElem?_getD, laneBits, laneCount, hL, List.zip, List.getElem?_zipWith,
    List.getElem?_eq_getElem h1]

theorem find_filter_ne (w : List WinEntry) (m n : Nat) (h : m ≠ n) :
    (w.filter (·.reg != m)).find? (·.reg == n) = w.find? (·.reg == n) := by
  induction w with
  | nil => rfl
  | cons e r ih =>
    by_cases h1 : e.reg = m
    · have h2 : ¬ e.reg = n := fun x => h (h1.symm.trans x)
      simp [h1, ih, h]
    · by_cases h2 : e.reg = n
      · have : ¬ n = m := fun x => h x.symm
        simp [h2, this]
      · simp [h1, h2, ih]

/-- The window after a k write, read at another key. -/
theorem winPut_k_other (w : List WinEntry) (age m n : Nat) (x : Word) (h : m ≠ n)
    (h2 : n ≠ winTag (m / 4) ∨ 48 ≤ m) :
    (winPut w age (.k m x)).find? (·.reg == n) = w.find? (·.reg == n) := by
  unfold winPut
  by_cases ht : kTaken m = true
  · simp only [ht, if_true]
    by_cases h48 : m < 48
    · have h3 : winTag (m / 4) ≠ n := by rcases h2 with h2 | h2 <;> omega
      simp only [h48, if_true, List.find?_append, find_filter_ne _ _ _ h3, find_filter_ne _ _ _ h]
      cases w.find? (·.reg == n) <;> simp [h, h3]
    · simp only [h48, if_false, List.find?_append, find_filter_ne _ _ _ h]
      cases w.find? (·.reg == n) <;> simp [h]
  · simp [ht]

/-- The window after a k write that is taken, read at the register. -/
theorem winPut_k_same (w : List WinEntry) (age n : Nat) (x : Word) (ht : kTaken n = true) :
    (winPut w age (.k n x)).find? (·.reg == n) = some ⟨n, x, age⟩ := by
  have hnone : (w.filter (·.reg != n)).find? (·.reg == n) = none := by
    simp [List.find?_eq_none]
  unfold winPut
  simp only [ht, if_true]
  by_cases h48 : n < 48
  · have h3 : winTag (n / 4) ≠ n := by unfold winTag; omega
    simp only [h48, if_true, List.find?_append, find_filter_ne _ _ _ h3, hnone]
    simp [h3]
  · simp only [h48, if_false, List.find?_append, hnone]
    simp

theorem winPut_ktag_other (w : List WinEntry) (age q n : Nat) (t : Bool) (h : winTag q ≠ n) :
    (winPut w age (.ktag q t)).find? (·.reg == n) = w.find? (·.reg == n) := by
  unfold winPut
  simp only [List.find?_append, find_filter_ne _ _ _ h]
  cases w.find? (·.reg == n) <;> simp [h]


/-! One result, as the banks and the window show it. -/

theorem putWrite_k {n : Nat} {x : Word} (hm : (RegWrite.k n x).keepsMask = true) (G : Group) (p : Path) :
    putWrite 0 (G, p) (.k n x) = (G, { p with win := winPut p.win 0 (.k n (fixFlagWrite n (G.kOf p n) x)) }) := by
  simp only [RegWrite.keepsMask, Bool.or_eq_true, decide_eq_true_eq] at hm
  simp only [putWrite]
  rw [if_neg (by omega), if_neg (by omega)]

theorem putWrite_ktag (q : Nat) (t : Bool) (G : Group) (p : Path) :
    putWrite 0 (G, p) (.ktag q t) = (G, { p with win := winPut p.win 0 (.ktag q t) }) := by
  simp only [putWrite]
  rw [if_neg (by omega)]

theorem putWrite_row (st : Group × Path) (w : RegWrite) (r L : Nat) (hL : L < 96) :
    ((putWrite 0 st w).1.row r).getD L 0#32 = w.onRow r L ((st.1.row r).getD L 0#32) := by
  obtain ⟨G, p⟩ := st
  cases w with
  | v r' m x =>
    by_cases h : r' = r
    · subst h
      simp [putWrite, Group.write, RegWrite.onRow, Group.row_writeRow_same _ _ _ _ _ hL, -List.getD_eq_getElem?_getD]
    · simp [putWrite, Group.write, RegWrite.onRow, h, Group.row_writeRow_other _ _ _ _ _ h]
  | q n m x => simp only [putWrite, Group.write, RegWrite.onRow]; split <;> rfl
  | k n x => simp only [putWrite, RegWrite.onRow]; (repeat' split) <;> first | rfl | omega
  | ktag q t => simp only [putWrite, RegWrite.onRow]; (repeat' split) <;> first | rfl | omega
  | vtag _ _ _ => rfl
  | c _ _ => rfl
  | ctag _ _ => rfl

theorem putWrite_tag (st : Group × Path) (w : RegWrite) (q L : Nat) (hL : L < 96) :
    ((putWrite 0 st w).1.quadTags q).getLsbD L = w.onTag q L ((st.1.quadTags q).getLsbD L) := by
  obtain ⟨G, p⟩ := st
  cases w with
  | v r m x =>
    by_cases h : r / 4 = q
    · subst h
      cases hb : m.getLsbD L <;>
        simp [putWrite, Group.write, Group.writeRow, Group.quadTags, RegWrite.onTag, hb, hL, -BitVec.getLsbD_eq_getElem]
    · simp [putWrite, Group.write, Group.writeRow, Group.quadTags, RegWrite.onTag, h, Tbl.get_set]
  | vtag q' m t =>
    by_cases h : q' = q
    · subst h
      cases hb : m.getLsbD L <;>
        simp [putWrite, Group.write, Group.quadTags, RegWrite.onTag, hb, hL, -BitVec.getLsbD_eq_getElem]
    · simp [putWrite, Group.write, Group.quadTags, RegWrite.onTag, h, Tbl.get_set]
  | q n m x => simp only [putWrite, Group.write, RegWrite.onTag]; split <;> rfl
  | k n x => simp only [putWrite, RegWrite.onTag]; (repeat' split) <;> first | rfl | omega
  | ktag q t => simp only [putWrite, RegWrite.onTag]; (repeat' split) <;> first | rfl | omega
  | c _ _ => rfl
  | ctag _ _ => rfl

theorem putWrite_pred (st : Group × Path) (w : RegWrite) (n L : Nat) (hL : L < 96) :
    ((putWrite 0 st w).1.pred n).getLsbD L = w.onPred n L ((st.1.pred n).getLsbD L) := by
  obtain ⟨G, p⟩ := st
  cases w with
  | q n' m x =>
    by_cases h7 : n' < 7
    · by_cases h : n' = n
      · subst h
        have : n' ≠ 7 := by omega
        cases hb : m.getLsbD L <;>
          simp [putWrite, Group.write, Group.pred, RegWrite.onPred, h7, hb, hL, this, -BitVec.getLsbD_eq_getElem]
      · simp [putWrite, Group.write, Group.pred, RegWrite.onPred, h7, h, Store.read_write]
    · have : ¬ (n' = n ∧ n < 7 ∧ m.getLsbD L = true) := by omega
      simp [putWrite, Group.write, RegWrite.onPred, h7, this]
  | v _ _ _ => rfl
  | vtag _ _ _ => rfl
  | k n x => simp only [putWrite, RegWrite.onPred]; (repeat' split) <;> first | rfl | omega
  | ktag q t => simp only [putWrite, RegWrite.onPred]; (repeat' split) <;> first | rfl | omega
  | c _ _ => rfl
  | ctag _ _ => rfl

/-- The bank's k registers wait for the window (R32). -/
theorem putWrite_kBank (st : Group × Path) (w : RegWrite) (n : Nat) : (putWrite 0 st w).1.kBank n = st.1.kBank n := by
  obtain ⟨G, p⟩ := st
  cases w <;> simp only [putWrite] <;> (repeat' split) <;>
    first | rfl | omega | (simp only [Group.write]; (repeat' split) <;> rfl)

theorem putWrite_kOf (st : Group × Path) (w : RegWrite) (hm : w.keepsMask = true) (n : Nat) (hn : n < 64) :
    (putWrite 0 st w).1.kOf (putWrite 0 st w).2 n = w.onK n (st.1.kOf st.2 n) := by
  have hb := putWrite_kBank st w n
  obtain ⟨G, p⟩ := st
  cases w with
  | k n' x =>
    rw [putWrite_k hm]
    simp only [RegWrite.onK]
    by_cases h60 : 60 ≤ n ∧ n < 63
    · have : ¬ kTaken n = true := by simp [kTaken]; omega
      simp only [Group.kOf, h60, and_self, if_true]
      rw [if_neg (fun e => this e.2)]
    · by_cases h : n' = n
      · subst h
        by_cases ht : kTaken n' = true
        · rw [Group.kOf, if_neg h60]; simp [winPut_k_same _ _ _ _ ht, ht]
        · simp [Group.kOf, winPut, ht]
      · simp only [Group.kOf, h60, if_false, winPut_k_other p.win 0 n' n _ h (.inl (by unfold winTag; omega)), h,
          false_and]
  | ktag q t =>
    unfold Group.kOf
    rw [hb, putWrite_ktag]
    simp only [RegWrite.onK, winPut_ktag_other p.win 0 q n t (by unfold winTag; omega)]
  | v _ _ _ => rfl
  | vtag _ _ _ => rfl
  | q _ _ _ => unfold Group.kOf; rw [hb]; rfl
  | c _ _ => rfl
  | ctag _ _ => rfl

theorem winPut_ktag_same (w : List WinEntry) (age q : Nat) (t : Bool) :
    (winPut w age (.ktag q t)).find? (·.reg == winTag q) = some ⟨winTag q, if t then 1 else 0, age⟩ := by
  have hnone : (w.filter (·.reg != winTag q)).find? (·.reg == winTag q) = none := by simp [List.find?_eq_none]
  unfold winPut
  simp only [List.find?_append, hnone]
  simp

theorem winPut_k_tag (w : List WinEntry) (age n : Nat) (x : Word) (h : n < 48) :
    (winPut w age (.k n x)).find? (·.reg == winTag (n / 4)) = some ⟨winTag (n / 4), 0, age⟩ := by
  have hnone : ((w.filter (·.reg != n)).filter (·.reg != winTag (n / 4))).find? (·.reg == winTag (n / 4)) = none := by
    simp +contextual [List.find?_eq_none]
  have ht : kTaken n = true := by simp [kTaken]; omega
  unfold winPut
  simp only [ht, h, if_true, List.find?_append, hnone]
  simp

theorem putWrite_kpTag (st : Group × Path) (w : RegWrite) (hm : w.keepsMask = true) (q : Nat) (hq : q < 12) :
    (putWrite 0 st w).1.kpTag (putWrite 0 st w).2 q = w.onKtag q (st.1.kpTag st.2 q) := by
  obtain ⟨G, p⟩ := st
  unfold Group.kpTag
  cases w with
  | k n x =>
    rw [putWrite_k hm]
    simp only [RegWrite.onKtag]
    by_cases h : n < 48 ∧ n / 4 = q
    · obtain ⟨h1, rfl⟩ := h
      simp [winPut_k_tag _ _ _ _ h1, h1]
    · simp only [h, if_false]
      by_cases h2 : n = winTag q
      · have ht : kTaken n = false := by
          have : n = 64 + q := h2
          simp [kTaken]; omega
        simp [winPut, ht]
      · rw [winPut_k_other p.win 0 n (winTag q) _ h2 (by unfold winTag; omega)]
  | ktag q' t =>
    rw [putWrite_ktag]
    simp only [RegWrite.onKtag]
    by_cases h : q' = q
    · subst h
      simp only [winPut_ktag_same, if_true]
      cases t <;> rfl
    · simp only [winPut_ktag_other p.win 0 q' (winTag q) t (by unfold winTag; omega), h, if_false]
  | q n m x => by_cases h : n < 7 <;> simp [putWrite, Group.write, RegWrite.onKtag, h]
  | v _ _ _ => rfl
  | vtag _ _ _ => rfl
  | c _ _ => rfl
  | ctag _ _ => rfl

/-! Lists of results. -/

theorem putWrites_cons (st : Group × Path) (w : RegWrite) (ws : List RegWrite) :
    putWrites 0 st (w :: ws) = putWrites 0 (putWrite 0 st w) ws := rfl

theorem putWrites_row (st : Group × Path) (ws : List RegWrite) (r L : Nat) (hL : L < 96) :
    ((putWrites 0 st ws).1.row r).getD L 0#32 = ws.foldl (RegWrite.onRow r L) ((st.1.row r).getD L 0#32) := by
  induction ws generalizing st with
  | nil => rfl
  | cons w ws ih => rw [putWrites_cons, ih, putWrite_row _ _ _ _ hL]; rfl

theorem putWrites_tag (st : Group × Path) (ws : List RegWrite) (q L : Nat) (hL : L < 96) :
    ((putWrites 0 st ws).1.quadTags q).getLsbD L = ws.foldl (RegWrite.onTag q L) ((st.1.quadTags q).getLsbD L) := by
  induction ws generalizing st with
  | nil => rfl
  | cons w ws ih => rw [putWrites_cons, ih, putWrite_tag _ _ _ _ hL]; rfl

theorem putWrites_pred (st : Group × Path) (ws : List RegWrite) (n L : Nat) (hL : L < 96) :
    ((putWrites 0 st ws).1.pred n).getLsbD L = ws.foldl (RegWrite.onPred n L) ((st.1.pred n).getLsbD L) := by
  induction ws generalizing st with
  | nil => rfl
  | cons w ws ih => rw [putWrites_cons, ih, putWrite_pred _ _ _ _ hL]; rfl

theorem putWrites_kBank (st : Group × Path) (ws : List RegWrite) (n : Nat) :
    (putWrites 0 st ws).1.kBank n = st.1.kBank n := by
  induction ws generalizing st with
  | nil => rfl
  | cons w ws ih => rw [putWrites_cons, ih, putWrite_kBank]

theorem putWrites_kOf (st : Group × Path) (ws : List RegWrite) (hm : ∀ w ∈ ws, w.keepsMask = true) (n : Nat)
    (hn : n < 64) : (putWrites 0 st ws).1.kOf (putWrites 0 st ws).2 n =
      ws.foldl (RegWrite.onK n) (st.1.kOf st.2 n) := by
  induction ws generalizing st with
  | nil => rfl
  | cons w ws ih =>
    rw [putWrites_cons, ih _ (fun x hx => hm x (by simp [hx])), putWrite_kOf _ _ (hm w (by simp)) _ hn]
    rfl

theorem putWrites_kpTag (st : Group × Path) (ws : List RegWrite) (hm : ∀ w ∈ ws, w.keepsMask = true) (q : Nat)
    (hq : q < 12) : (putWrites 0 st ws).1.kpTag (putWrites 0 st ws).2 q =
      ws.foldl (RegWrite.onKtag q) (st.1.kpTag st.2 q) := by
  induction ws generalizing st with
  | nil => rfl
  | cons w ws ih =>
    rw [putWrites_cons, ih _ (fun x hx => hm x (by simp [hx])), putWrite_kpTag _ _ (hm w (by simp)) _ hq]
    rfl

/-! Flags. -/

theorem Group.raise_row (G : Group) (p : Path) (age fl r : Nat) : (G.raise p age fl).1.row r = G.row r := by
  unfold Group.raise; split <;> rfl
theorem Group.raise_tags (G : Group) (p : Path) (age fl q : Nat) : (G.raise p age fl).1.quadTags q = G.quadTags q := by
  unfold Group.raise; split <;> rfl
theorem Group.raise_pred (G : Group) (p : Path) (age fl n : Nat) : (G.raise p age fl).1.pred n = G.pred n := by
  unfold Group.raise; split <;> rfl
theorem Group.raise_window (G : Group) (p : Path) (age fl : Nat) :
    (G.raise p age fl).1.base = G.base ∧ (G.raise p age fl).1.tf = G.tf ∧ (G.raise p age fl).1.held = G.held ∧
    (G.raise p age fl).1.fsz = G.fsz ∧ (G.raise p age fl).1.lo = G.lo := by
  unfold Group.raise; split <;> exact ⟨rfl, rfl, rfl, rfl, rfl⟩

/-- The window with flags gathered, read at another register. -/
theorem find_raised (w : List WinEntry) (b : Word) (n : Nat) (hn : n ≠ 56) :
    (w.map (fun e => if e.reg == 56 then { e with val := e.val ||| b } else e)).find? (·.reg == n) =
      w.find? (·.reg == n) := by
  induction w with
  | nil => rfl
  | cons e r ih =>
    rw [List.map_cons, List.find?_cons, List.find?_cons, ih]
    by_cases h1 : e.reg = 56
    · have h3 : (56 == n) = false := by simpa using fun x : 56 = n => hn x.symm
      simp [h1, h3]
    · by_cases h2 : e.reg = n <;> simp [h1, h2, hn]

theorem find_raised56 (w : List WinEntry) (b : Word) :
    (w.map (fun e => if e.reg == 56 then { e with val := e.val ||| b } else e)).find? (·.reg == 56) =
      (w.find? (·.reg == 56)).map (fun e => { e with val := e.val ||| b }) := by
  induction w with
  | nil => rfl
  | cons e r ih =>
    rw [List.map_cons, List.find?_cons, List.find?_cons, ih]
    by_cases h1 : e.reg = 56
    · simp [h1]
    · have h2 : (e.reg == 56) = false := by simpa using h1
      simp [h1, h2]

theorem Group.raise_kOf (G : Group) (p : Path) (age fl n : Nat) (hn : n ≠ 56) :
    (G.raise p age fl).1.kOf (G.raise p age fl).2 n = G.kOf p n := by
  unfold Group.raise
  split
  · rfl
  · simp only [Group.kOf, find_raised _ _ _ hn, Group.kBank, Group.frameWord, Group.len, Store.read_write,
      if_neg (Ne.symm hn)]

theorem Group.raise_kpTag (G : Group) (p : Path) (age fl q : Nat) :
    (G.raise p age fl).1.kpTag (G.raise p age fl).2 q = G.kpTag p q := by
  unfold Group.raise
  split
  · rfl
  · simp only [Group.kpTag, find_raised _ _ (winTag q) (by unfold winTag; omega)]

theorem mask31 (a b : Word) (h : b &&& 31#32 = b) : (a ||| b) &&& 31#32 = a &&& 31#32 ||| b := by
  rw [BitVec.and_comm, BitVec.and_or_distrib_left, BitVec.and_comm 31#32 b, h, BitVec.and_comm]

theorem ofNat_mod32_and (n : Nat) : BitVec.ofNat 32 (n % 32) &&& 31#32 = BitVec.ofNat 32 (n % 32) := by
  apply BitVec.eq_of_toNat_eq
  rw [BitVec.toNat_and, BitVec.toNat_ofNat, BitVec.toNat_ofNat, show 31 % 2 ^ 32 = 2 ^ 5 - 1 by decide,
    Nat.and_two_pow_sub_one_eq_mod]
  omega

theorem Group.raise_k56 (G : Group) (p : Path) (age fl : Nat) :
    (G.raise p age fl).1.kOf (G.raise p age fl).2 56 = G.kOf p 56 ||| BitVec.ofNat 32 (fl % 32) := by
  unfold Group.raise
  split
  · rename_i h; simp [h]
  · have h56 : ¬ (60 ≤ 56 ∧ 56 < 63) := by omega
    simp only [Group.kOf, h56, if_false, find_raised56]
    cases p.win.find? (·.reg == 56) with
    | none => simp [Group.kBank]
    | some e => simp

/-! An instruction of a group that has gone through. -/

/-- The bank and the window of a group whose instruction has been accounted, and of the issuing path, show the registers
as before. -/
theorem Iss.issued_kOf (i : Iss) (o : Op) (hw : i.p.win = []) (n : Nat) :
    (i.issuedGroup o).kOf (i.issuedPath o (i.G.issued + 1)) n = i.G.kOf i.p n := by
  rw [Group.kOf_nil _ _ _ (by rfl), Group.kOf_nil _ _ _ hw]; simp [Iss.issuedPath]

theorem putWrite_window (st : Group × Path) (w : RegWrite) :
    (putWrite 0 st w).1.base = st.1.base ∧ (putWrite 0 st w).1.tf = st.1.tf ∧ (putWrite 0 st w).1.held = st.1.held ∧
    (putWrite 0 st w).1.fsz = st.1.fsz ∧ (putWrite 0 st w).1.lo = st.1.lo := by
  obtain ⟨G, p⟩ := st
  have h := Group.write_frame G
  cases w <;> simp only [putWrite] <;> (repeat' split) <;> simp [h]

theorem putWrites_window (st : Group × Path) (ws : List RegWrite) :
    (putWrites 0 st ws).1.base = st.1.base ∧ (putWrites 0 st ws).1.tf = st.1.tf ∧
    (putWrites 0 st ws).1.held = st.1.held ∧ (putWrites 0 st ws).1.fsz = st.1.fsz ∧
    (putWrites 0 st ws).1.lo = st.1.lo := by
  induction ws generalizing st with
  | nil => exact ⟨rfl, rfl, rfl, rfl, rfl⟩
  | cons w ws ih =>
    have h1 := putWrite_window st w
    have h2 := ih (putWrite 0 st w)
    rw [putWrites_cons]
    exact ⟨h2.1.trans h1.1, h2.2.1.trans h1.2.1, h2.2.2.1.trans h1.2.2.1, h2.2.2.2.1.trans h1.2.2.2.1,
      h2.2.2.2.2.trans h1.2.2.2.2⟩

/-- The agent of a group's view. -/
theorem State.view_agent {s : State} {ag : Agent} {i : Iss} (hv : s.view ag = some i) (hc : i.ctl = false) :
    (∃ ix, i.ag = .path i.id ix ∧ i.G.stack[ix]? = some i.p) ∨
    (∃ h, i.ag = .handler i.id ∧ i.G.handler = some h ∧ h.path = i.p) := by
  cases ag with
  | path g ix => obtain ⟨G, T, p, -, hp, -, rfl⟩ := State.view_path hv; exact .inl ⟨ix, rfl, hp⟩
  | handler g => obtain ⟨G, T, x, -, hx, -, rfl⟩ := State.view_handler hv; exact .inr ⟨x, rfl, hx, rfl⟩
  | ctl t => obtain ⟨C, T, -, -, rfl⟩ := State.view_ctl hv; simp [State.cview] at hc

end Sys2Proof.Machine
end

