-- ==== Sys2Proof/Laws/Control.lean ====
section
/-! SUPPORT. An instruction of the control stream: its issue, and what its results leave. -/

namespace Sys2Proof.Machine

open Sys2Proof.Safety

/-- The view of a control thread. -/
theorem State.view_thread {s : State} {ag : Agent} {i : Iss} (hv : s.view ag = some i) (hc : i.ctl = true) :
    i.ag = .ctl i.id ∧ s.ctx i.id = some i.C ∧ i.p = i.C.path ∧ i.G = Group.blank ∧ s.team i.id = some i.T := by
  cases ag with
  | path g ix => obtain ⟨G, T, p, -, -, -, rfl⟩ := State.view_path hv; simp [State.gview] at hc
  | handler g => obtain ⟨G, T, x, -, -, -, rfl⟩ := State.view_handler hv; simp [State.gview] at hc
  | ctl t => obtain ⟨C, T, h1, h2, rfl⟩ := State.view_ctl hv; exact ⟨rfl, h1, rfl, rfl, h2⟩

theorem Iss.tick_ctl {i : Iss} (hc : i.ctl = true) (hp : i.p = i.C.path) (hpend : i.p.pend = []) (o : Op) :
    i.tick o = i.s.setCtx i.id (i.issuedCtx o) := by
  rw [hp] at hpend
  simp [Iss.tick, hc, hpend, Iss.issuedCtx, hp]

/-- A control-stream instruction with nothing in its way reaches its body. -/
theorem Iss.begin_ctl {s : State} {i : Iss} (h : Clear s i) (hc : i.ctl = true) {o : Op} {legal : Iss → Bool}
    (ha : i.admits o legal) : i.begin o legal = .ok (i.issuedC o) := by
  obtain ⟨hi, hl, hpend, hwin, hm, hk, hst, hsi, hpo⟩ := h
  obtain ⟨h1, h2, h3, h4⟩ := ha
  obtain ⟨ag, hcur, hv⟩ := State.cur_view hi
  obtain ⟨es, ea, ew, el⟩ := State.view_self hv
  obtain ⟨e1, e2, e3, e4, e5⟩ := State.view_thread hv hc
  have hv' : i.s.view i.ag = some i := by rw [es, ea]; exact hv
  rw [if_pos hc] at h1
  have hpk : i.mustPark o = none := by simp [Iss.mustPark, e1]
  have hn : (i.s.setCtx i.id (i.issuedCtx o)).view i.ag = some { i.issuedC o with w0 := none } := by
    have hT : i.s.team i.id = some i.T := by rw [es]; exact e5
    cases ag with
    | path g ix => obtain ⟨G, T, p, -, -, -, rfl⟩ := State.view_path hv; simp [State.gview] at hc
    | handler g => obtain ⟨G, T, x, -, -, -, rfl⟩ := State.view_handler hv; simp [State.gview] at hc
    | ctl t =>
      obtain ⟨C, T, -, hT, rfl⟩ := State.view_ctl hv
      have hT' : (s.setCtx t ((s.cview t C T).issuedCtx o)).team t = some T := hT
      simp only [State.cview] at hT'
      simp [State.view, State.path, State.cview, Iss.issuedC, hT']
      exact ⟨rfl, rfl⟩
  unfold Iss.begin
  simp only [hl, Iss.settled_clear hpend, hv', hm, h1, h2, h3, h4, hpk, Iss.tick_ctl hc e3 hpend, hn]
  simp [hc, Iss.aim, Iss.issuedC, Iss.issuedCtx, ew]

/-! Results. -/

theorem Ctx.write_reg (C : Ctx) (w : RegWrite) (n : Nat) : (C.write w).reg n = w.onC n (C.reg n) := by
  cases w with
  | c n' x =>
    by_cases h63 : n' = 63
    · by_cases h : 63 = n
      · simp [Ctx.write, RegWrite.onC, h63, h]
      · simp [Ctx.write, RegWrite.onC, h63, h]
    · by_cases h : n' = n
      · subst h; simp [Ctx.write, Ctx.reg, RegWrite.onC, h63]
      · simp [Ctx.write, Ctx.reg, RegWrite.onC, h63, h, Store.read_write]
  | ctag q t => simp only [Ctx.write, RegWrite.onC]; split <;> rfl
  | _ => rfl

theorem tagBit (q p : Nat) (hq : q < 32) : (BitVec.ofNat 32 (2 ^ q)).getLsbD p = decide (p = q) := by
  rw [BitVec.getLsbD_ofNat, Nat.testBit_two_pow]
  by_cases h : q = p
  · subst h; simp [hq]
  · have : ¬ p = q := fun e => h e.symm
    simp [h, this]

theorem Ctx.write_tag (C : Ctx) (w : RegWrite) (q : Nat) (hq : q < 32) (hw : ∀ n x, w = .c n x → n < 64)
    (hw' : ∀ n t, w = .ctag n t → n < 32) : (C.write w).tag q = w.onCtag q (C.tag q) := by
  cases w with
  | c n x =>
    have hn := hw n x rfl
    by_cases h63 : n = 63
    · simp [Ctx.write, RegWrite.onCtag, h63]
    · simp only [Ctx.write, Ctx.tag, RegWrite.onCtag, h63, if_false, BitVec.getLsbD_and, BitVec.getLsbD_not,
        tagBit (n / 2) q (by omega)]
      by_cases h : n / 2 = q
      · subst h; simp [h63]
      · have : ¬ q = n / 2 := fun e => h e.symm
        simp [h, this, hq]
  | ctag q' t =>
    have hn := hw' q' t rfl
    simp only [Ctx.write, RegWrite.onCtag]
    by_cases ht : t = true ∧ q' < 31
    · simp only [ht, and_self, if_true, Ctx.tag, BitVec.getLsbD_or, tagBit q' q hn]
      by_cases h : q' = q
      · subst h; simp [ht]
      · have : ¬ q = q' := fun e => h e.symm
        simp [h, this]
    · simp only [ht, if_false, Ctx.tag, BitVec.getLsbD_and, BitVec.getLsbD_not, tagBit q' q hn]
      by_cases h : q' = q
      · subst h
        simp only [decide_true, Bool.not_true, Bool.and_false, if_true]
        cases t <;> simp_all
      · have : ¬ q = q' := fun e => h e.symm
        simp [h, this, hq]
  | _ => rfl

theorem Ctx.writes_reg (C : Ctx) (ws : List RegWrite) (n : Nat) :
    (ws.foldl Ctx.write C).reg n = ws.foldl (RegWrite.onC n) (C.reg n) := by
  induction ws generalizing C with
  | nil => rfl
  | cons w ws ih => rw [List.foldl_cons, ih, Ctx.write_reg]; rfl

theorem Ctx.writes_tag (C : Ctx) (ws : List RegWrite) (q : Nat) (hq : q < 32) (hi : ∀ w ∈ ws, w.inC = true) :
    (ws.foldl Ctx.write C).tag q = ws.foldl (RegWrite.onCtag q) (C.tag q) := by
  induction ws generalizing C with
  | nil => rfl
  | cons w ws ih =>
    have h0 := hi w (by simp)
    rw [List.foldl_cons, ih _ (fun x hx => hi x (by simp [hx])), Ctx.write_tag _ _ _ hq]
    · rfl
    · rintro n x rfl; simpa [RegWrite.inC] using h0
    · rintro n t rfl; simpa [RegWrite.inC] using h0

theorem Ctx.write_frame (C : Ctx) (w : RegWrite) :
    (C.write w).path = C.path ∧ (C.write w).exited = C.exited ∧ (C.write w).trapped = C.trapped ∧
    (C.write w).appended = C.appended ∧ (C.write w).cfw = C.cfw ∧ (C.write w).perf = C.perf := by
  unfold Ctx.write
  (repeat' split) <;> exact ⟨rfl, rfl, rfl, rfl, rfl, rfl⟩

theorem Ctx.writes_frame (C : Ctx) (ws : List RegWrite) :
    (ws.foldl Ctx.write C).path = C.path ∧ (ws.foldl Ctx.write C).exited = C.exited ∧
    (ws.foldl Ctx.write C).trapped = C.trapped ∧ (ws.foldl Ctx.write C).appended = C.appended ∧
    (ws.foldl Ctx.write C).cfw = C.cfw ∧ (ws.foldl Ctx.write C).perf = C.perf := by
  induction ws generalizing C with
  | nil => exact ⟨rfl, rfl, rfl, rfl, rfl, rfl⟩
  | cons w ws ih =>
    have h1 := Ctx.write_frame C w
    have h2 := ih (C.write w)
    rw [List.foldl_cons]
    exact ⟨h2.1.trans h1.1, h2.2.1.trans h1.2.1, h2.2.2.1.trans h1.2.2.1, h2.2.2.2.1.trans h1.2.2.2.1,
      h2.2.2.2.2.1.trans h1.2.2.2.2.1, h2.2.2.2.2.2.trans h1.2.2.2.2.2⟩

end Sys2Proof.Machine
end

