-- ==== Sys2Proof/Laws/Effect.lean ====
section
/-! SUPPORT. What one instruction does whose body answers register results, flags, a pc and effects elsewhere, in either
stream. -/

namespace Sys2Proof.Machine

open Sys2Proof.Safety

/-- `e` shows the agent of `i` in `t`: its group and path, or its context, with nothing outstanding. -/
structure Iss.owns (i e : Iss) (t : State) : Prop where
  ag : e.ag = i.ag
  ctl : e.ctl = i.ctl
  id : e.id = i.id
  group : i.ctl = false → t.group i.id = some e.G ∧ t.path i.ag = some e.p ∧ e.G.step = false
  ctx : i.ctl = true → t.ctx i.id = some e.C ∧ e.p = e.C.path
  team : ∃ T, t.team (if i.ctl then i.id else e.G.team) = some T
  pend : e.p.pend = []
  win : e.p.win = []
  wait : e.p.wait = none
  mask : e.p.mask = i.p.mask

theorem State.view_of_path {t : State} {ag : Agent} {g : Nat} {G : Group} {p : Path} {T : Team}
    (ha : (∃ ix, ag = .path g ix) ∨ ag = .handler g) (hg : t.group g = some G) (hp : t.path ag = some p)
    (hT : t.team G.team = some T) : t.view ag = some (t.gview ag g G p T) := by
  rcases ha with ⟨ix, rfl⟩ | rfl <;> simp [State.view, hp, hg, hT, State.gview]

/-- What results and flags leave in a group and its issuing path. -/
theorem groupAfter_raise {e j : Iss} {ws : List RegWrite} {fl : Nat} {o : Op} {pc : Option Word64} {n : Word64} (hw : e.p.win = [])
    (hm : ∀ w ∈ ws, w.keepsMask = true) (hag : (∃ ix, e.ag = .path e.id ix) ∨ e.ag = .handler e.id)
    (hG : j.G = (((putWrites 0 (e.G, e.p) ws).1.raise (putWrites 0 (e.G, e.p) ws).2 1 fl).1).setPathAt e.ag
      ((((putWrites 0 (e.G, e.p) ws).1.raise (putWrites 0 (e.G, e.p) ws).2 1 fl).2).goto o pc n))
    (hp : j.p = (((putWrites 0 (e.G, e.p) ws).1.raise (putWrites 0 (e.G, e.p) ws).2 1 fl).2).goto o pc n) :
    groupAfter e j ws fl := by
  have f := putWrites_frame 0 (e.G, e.p) ws
  have fw := putWrites_window (e.G, e.p) ws
  have g := Group.raise_frame (putWrites 0 (e.G, e.p) ws).1 (putWrites 0 (e.G, e.p) ws).2 1 fl
  have gw := Group.raise_window (putWrites 0 (e.G, e.p) ws).1 (putWrites 0 (e.G, e.p) ws).2 1 fl
  have hst : ((putWrites 0 (e.G, e.p) ws).1.raise (putWrites 0 (e.G, e.p) ws).2 1 fl).1.stack = e.G.stack := by
    rw [g.2.1, f.2.2.1]
  have hh : ((putWrites 0 (e.G, e.p) ws).1.raise (putWrites 0 (e.G, e.p) ws).2 1 fl).1.handler = e.G.handler := by
    rw [g.2.2.1, f.2.2.2.1]
  refine ⟨fun r L hL => ?_, fun q L hL => ?_, fun n L hL => ?_, fun n hn h56 => ?_, ?_, fun q hq => ?_, ?_, fun ix hix => ?_,
    fun hx => ?_, ?_⟩
  · simp only [hG, Group.row_setPathAt, Group.raise_row]; exact putWrites_row _ _ _ _ hL
  · simp only [hG, Group.quadTags_setPathAt, Group.raise_tags]; exact putWrites_tag _ _ _ _ hL
  · simp only [hG, Group.pred_setPathAt, Group.raise_pred]; exact putWrites_pred _ _ _ _ hL
  · simp only [Iss.kReg, Nat.mod_eq_of_lt hn, hG, hp, Group.kOf_setPathAt, Group.kOf_goto, Group.raise_kOf _ _ _ _ _ h56]
    rw [putWrites_kOf _ _ hm _ hn]
  · simp only [Iss.kReg, hG, hp, Group.kOf_setPathAt, Group.kOf_goto, Nat.reduceMod, Group.raise_k56]
    rw [putWrites_kOf _ _ hm _ (by omega)]
  · simp only [hG, hp, Group.kpTag_setPathAt, Group.kpTag_goto, Group.raise_kpTag]
    rw [putWrites_kpTag _ _ hm _ hq]
  · simp [hG, gw, fw]
  · rw [hG]
    rcases hag with ⟨ix', ha⟩ | ha <;> rw [ha]
    · have hne : ix' ≠ ix := fun x => hix (by rw [ha, x])
      simp only [Group.setPathAt, hst]; simp [hne]
    · simp only [Group.setPathAt, hst]
  · rw [hG]
    rcases hag with ⟨ix', ha⟩ | ha
    · rw [ha]; simp only [Group.setPathAt, hh]
    · exact absurd ha hx
  · obtain ⟨win, hs, hwin⟩ := putWrites_path 0 (e.G, e.p) ws hm
    obtain ⟨win', ps, hwin'⟩ := g.2.2.2.2
    rw [hp]
    unfold Path.goto
    rw [hwin', hwin]
    exact ⟨rfl, rfl, rfl, rfl, rfl, rfl⟩

/-- ONE INSTRUCTION whose body answers results and effects, in either stream. -/
theorem runInstr_effect {s : State} {i e : Iss} (h : Clear s i) {o : Op} {legal : Iss → Bool} {body : Body}
    (ha : i.admits o legal) (hp : i.mustPark o = none) (hla : o.lookahead = 0) {d : Done}
    (hb : body (i.issued o) = .ok d) (hmv : d.moved = false) (hr : d.req = none) (he : i.owns e d.s)
    (hm : ∀ w ∈ d.ws, i.takes w = true) :
    lands e (runInstr o legal body s) (d.pc.getD (pcOn i o.bytes)) d.ws d.flags d.s := by
  have hi := h.issuing
  obtain ⟨ag, hcur, hv⟩ := State.cur_view hi
  obtain ⟨es, ea, ew, el⟩ := State.view_self hv
  obtain ⟨T, hT⟩ := he.team
  by_cases hc : i.ctl = true
  · obtain ⟨e1, e2, e3, e4, e5⟩ := State.view_thread hv hc
    obtain ⟨hC, hpC⟩ := he.ctx hc
    have hin : ∀ w ∈ d.ws, w.inC = true := fun w hw => by simpa [Iss.takes, hc] using hm w hw
    have hb' : body (i.issuedC o) = .ok d := by simpa [Iss.issued, hc] using hb
    have hf := Ctx.writes_frame e.C d.ws
    have hp0 : e.C.path.pend = [] := by rw [← hpC]; exact he.pend
    rw [if_pos hc] at hT
    have e6 : runInstr o legal body s = .next (d.s.setCtx i.id
        { (d.ws.foldl Ctx.write e.C) with
          cfw := (d.ws.foldl Ctx.write e.C).cfw ||| BitVec.ofNat 32 (d.flags % 32)
          path := e.C.path.goto o d.pc (pcOn i o.bytes) }) := by
      have hl : landCtx 0 none d.ws d.flags e.C = (d.ws.foldl Ctx.write e.C).raise d.flags := by
        have : ({ e.C with path := { e.C.path with pend := [] } } : Ctx) = e.C := by
          generalize e.C = C at hp0
          obtain ⟨a, b, c, p, _, _, _, _, _⟩ := C
          obtain ⟨_, _, _, _, _, _, _, pe, _⟩ := p
          simp only at hp0; subst hp0; rfl
        simp [landCtx, hp0, this]
      have e7 : (i.issuedC o).finish o d = d.s.setCtx i.id
          { (d.ws.foldl Ctx.write e.C) with
            cfw := (d.ws.foldl Ctx.write e.C).cfw ||| BitVec.ofNat 32 (d.flags % 32)
            path := e.C.path.goto o d.pc (pcOn i o.bytes) } := by
        simp only [Iss.finish, hmv, Iss.issuedC, hc, hla, hr]
        simp only [Bool.false_eq_true, if_false, if_true, hC, hl, Ctx.raise, hf.1]
        rfl
      unfold runInstr
      simp only [hi, Iss.begin_ctl h hc ha, hb', Iss.close, e7]
    rw [e6]
    generalize hC' : ({ (d.ws.foldl Ctx.write e.C) with
      cfw := (d.ws.foldl Ctx.write e.C).cfw ||| BitVec.ofNat 32 (d.flags % 32)
      path := e.C.path.goto o d.pc (pcOn i o.bytes) } : Ctx) = C'
    refine ⟨d.s.setCtx i.id C', (d.s.setCtx i.id C').cview i.id C' T, rfl, ?_, ?_, ?_, ⟨?_, ?_⟩, ?_⟩
    · rw [he.ag, e1]; unfold State.view State.path
      simp only [State.ctx_setCtx, Option.map_some, State.team_setCtx, hT]
      rfl
    · subst hC'; rfl
    · subst hC'; simp only [State.cview, Path.goto, ← hpC]; exact he.wait
    · intro x; simp [he.ctl, hc] at x
    · subst hC'
      refine fun _ => ⟨fun n hn => ?_, fun q hq => ?_, ?_, ?_, ?_⟩
      · simp only [Iss.cReg, Nat.mod_eq_of_lt hn, State.cview]
        exact Ctx.writes_reg e.C d.ws n
      · exact Ctx.writes_tag e.C d.ws q hq hin
      · simp [State.cview, hf]
      · simp [State.cview, hf]
      · simp [State.cview, Path.goto, hpC]
    · refine ⟨fun _ _ => rfl, fun n hn => ?_, rfl, rfl, rfl, rfl, rfl, rfl, rfl, rfl, rfl, rfl, rfl, rfl, rfl, rfl⟩
      rw [State.ctx_setCtx_other]
      rcases hn with hn | hn
      · simp [he.ctl, hc] at hn
      · rw [he.id] at hn; exact fun x => hn x.symm
  · have hc' : i.ctl = false := by simpa using hc
    have hag := State.view_agent hv hc'
    obtain ⟨hg, hpath, hstep⟩ := he.group hc'
    have hk : ∀ w ∈ d.ws, w.keepsMask = true := fun w hw => by simpa [Iss.takes, hc'] using hm w hw
    have hb' : body (i.issuedG o) = .ok d := by simpa [Iss.issued, hc'] using hb
    rw [if_neg hc] at hT
    have f := putWrites_frame 0 (e.G, e.p) d.ws
    have g := Group.raise_frame (putWrites 0 (e.G, e.p) d.ws).1 (putWrites 0 (e.G, e.p) d.ws).2 1 d.flags
    obtain ⟨win, hs, hwin⟩ := putWrites_path 0 (e.G, e.p) d.ws hk
    have hrp := Group.raise_path (putWrites 0 (e.G, e.p) d.ws).1 (putWrites 0 (e.G, e.p) d.ws).2 1 d.flags
    have hpend : e.p.pend = [] := he.pend
    have e1 : landGroup 0 none d.ws d.flags (e.G, e.p) =
        (putWrites 0 (e.G, e.p) d.ws).1.raise (putWrites 0 (e.G, e.p) d.ws).2 1 d.flags := by
      have : ({ e.p with pend := [] } : Path) = e.p := by
        generalize e.p = p at hpend
        obtain ⟨_, _, _, _, _, _, _, pe, _⟩ := p
        simp only at hpend; subst hpend; rfl
      simp [landGroup, hpend, this]
    generalize hR : (putWrites 0 (e.G, e.p) d.ws).1.raise (putWrites 0 (e.G, e.p) d.ws).2 1 d.flags = R at *
    have hmask : R.2.mask = i.p.mask := by rw [hrp.2.1, hwin]; exact he.mask
    have e2 : runInstr o legal body s =
        .next (d.s.setGroup i.id (R.1.setPathAt i.ag (R.2.goto o d.pc (pcOn i o.bytes)))) := by
      unfold runInstr
      simp only [hi, Iss.begin_group h hc' ha hp, hb', Iss.close]
      have e3 : (i.issuedG o).finish o d = (i.issuedG o).putBack d.s
          R.1 (R.2.goto o d.pc (pcOn i o.bytes)) := by
        simp only [Iss.finish, hmv, Iss.issuedG, hc', hg, hpath, hla, hr, e1, hR]
        rfl
      rw [e3, Iss.putBack_live _ _ _ _ (by simpa [Path.goto, Iss.issuedG, Iss.issuedPath] using hmask) (by rw [g.1, f.1]; exact hstep)]
      rfl
    rw [e2]
    have hteam : R.1.team = e.G.team := by rw [g.2.2.2.1, f.2.2.2.2.1]
    have hput : (d.s.setGroup i.id (R.1.setPathAt i.ag (R.2.goto o d.pc (pcOn i o.bytes)))).path i.ag =
        some (R.2.goto o d.pc (pcOn i o.bytes)) := by
      rcases hag with ⟨ix, ex, -⟩ | ⟨x, ex, -, -⟩
      · have hl : ix < R.1.stack.length := by
          rw [g.2.1, f.2.2.1]
          rw [ex] at hpath
          simp only [State.path, hg] at hpath
          exact (List.getElem?_eq_some_iff.mp hpath).1
        simp [State.path, ex, Group.setPathAt, hl]
      · have hh : R.1.handler = e.G.handler := by rw [g.2.2.1, f.2.2.2.1]
        rw [ex] at hpath
        simp only [State.path, hg] at hpath
        rw [Option.map_eq_some_iff] at hpath
        obtain ⟨y, hy, -⟩ := hpath
        simp [State.path, ex, Group.setPathAt, hh, hy]
    refine ⟨_, (d.s.setGroup i.id (R.1.setPathAt i.ag (R.2.goto o d.pc (pcOn i o.bytes)))).gview i.ag i.id
        (R.1.setPathAt i.ag (R.2.goto o d.pc (pcOn i o.bytes))) (R.2.goto o d.pc (pcOn i o.bytes)) T, rfl, ?_, ?_,
      ?_, ⟨fun _ => ?_, fun x => ?_⟩, ?_⟩
    · rw [he.ag]
      refine State.view_of_path ?_ (State.group_setGroup _ _ _) hput ?_
      · rcases hag with ⟨ix, ex, -⟩ | ⟨x, ex, -, -⟩
        · exact .inl ⟨ix, ex⟩
        · exact .inr ex
      · rw [State.team_setGroup, Group.setPathAt_team, hteam]; exact hT
    · rfl
    · simp only [State.gview, Path.goto]; rw [hrp.2.2.1, hwin]; exact he.wait
    · refine groupAfter_raise (o := o) (pc := d.pc) (n := pcOn i o.bytes) he.win hk ?_ ?_ ?_
      · rw [he.ag, he.id]
        rcases hag with ⟨ix, ex, -⟩ | ⟨x, ex, -, -⟩
        · exact .inl ⟨ix, ex⟩
        · exact .inr ex
      · rw [hR, he.ag]; rfl
      · rw [hR]; rfl
    · simp [he.ctl, hc'] at x
    · refine ⟨fun n hn => ?_, fun _ _ => rfl, rfl, rfl, rfl, rfl, rfl, rfl, rfl, rfl, rfl, rfl, rfl, rfl, rfl, rfl⟩
      rw [State.group_setGroup_other]
      rcases hn with hn | hn
      · simp [he.ctl, hc'] at hn
      · rw [he.id] at hn; exact fun x => hn x.symm

/-! A body that leaves the agent's own group or context as the accounts of the issue left it. -/

theorem Iss.issued_view {s : State} {i : Iss} (h : s.issuing = some i) (o : Op) :
    ∃ x, (i.issued o).s.view i.ag = some x ∧ (i.ctl = false → x.G = (i.issued o).G ∧ x.p = (i.issued o).p) := by
  obtain ⟨ag, hcur, hv⟩ := State.cur_view h
  by_cases hc : i.ctl = true
  · obtain ⟨e1, e2, e3, e4, e5⟩ := State.view_thread hv hc
    obtain ⟨es, -, -, -⟩ := State.view_self hv
    refine ⟨(i.issued o).s.cview i.id (i.issuedCtx o) i.T, ?_, fun x => by simp [hc] at x⟩
    rw [e1]
    simp [State.view, State.path, Iss.issued, hc, Iss.issuedC, es, e5, State.cview]
  · have hc' : i.ctl = false := by simpa using hc
    refine ⟨_, by simpa [Iss.issued, hc', Iss.issuedG] using Iss.view_issued hv hc' o, fun _ => ?_⟩
    simp [Iss.issued, hc', Iss.issuedG]

/-- The view after the accounts shows the agent in every state that keeps its group or context and its team. -/
theorem Iss.owns_issued {s : State} {i : Iss} (h : Clear s i) (o : Op) {t : State}
    (hg : i.ctl = false → t.group i.id = (i.issued o).s.group i.id)
    (hx : i.ctl = true → t.ctx i.id = (i.issued o).s.ctx i.id)
    (hT : ∃ T, t.team i.team = some T) : i.owns (i.issued o) t := by
  obtain ⟨ag, hcur, hv⟩ := State.cur_view h.issuing
  by_cases hc : i.ctl = true
  · obtain ⟨e1, e2, e3, e4, e5⟩ := State.view_thread hv hc
    have ht : i.team = i.id := by
      cases ag with
      | path g ix => obtain ⟨G, T, p, -, -, -, rfl⟩ := State.view_path hv; simp [State.gview] at hc
      | handler g => obtain ⟨G, T, x, -, -, -, rfl⟩ := State.view_handler hv; simp [State.gview] at hc
      | ctl t => obtain ⟨C, T, -, -, rfl⟩ := State.view_ctl hv; rfl
    have hx' := hx hc
    simp only [Iss.issued, hc, if_true, Iss.issuedC, State.ctx_setCtx] at hx'
    refine ⟨?_, ?_, ?_, fun y => by simp [hc] at y, fun _ => ?_, by simpa [hc, ht] using hT, ?_, ?_, ?_, ?_⟩ <;>
      simp [Iss.issued, hc, Iss.issuedC, Iss.issuedCtx, hx']
    exact h.win
  · have hc' : i.ctl = false := by simpa using hc
    have ht : i.team = i.G.team := by
      cases ag with
      | path g ix => obtain ⟨G, T, p, -, -, -, rfl⟩ := State.view_path hv; rfl
      | handler g => obtain ⟨G, T, x, -, -, -, rfl⟩ := State.view_handler hv; rfl
      | ctl t => obtain ⟨C, T, -, -, rfl⟩ := State.view_ctl hv; simp [State.cview] at hc
    have hg' := hg hc'
    simp only [Iss.issued, hc', Bool.false_eq_true, if_false, Iss.issuedG, State.group_setGroup] at hg'
    have hpath : t.path i.ag = some (i.issuedPath o (i.G.issued + 1)) := by
      rcases State.view_agent hv hc' with ⟨ix, e, hx⟩ | ⟨x, e, hx, -⟩
      · have hlt : ix < i.G.stack.length := (List.getElem?_eq_some_iff.mp hx).1
        simp [State.path, e, hg', Iss.issuedGroup, Group.setPathAt, hlt]
      · simp [State.path, e, hg', Iss.issuedGroup, Group.setPathAt, hx]
    refine ⟨?_, ?_, ?_, fun _ => ⟨?_, ?_, ?_⟩, fun y => by simp [hc'] at y, by simpa [Iss.issued, hc', ht, Iss.issuedG] using hT,
      ?_, ?_, ?_, ?_⟩ <;> simp [Iss.issued, hc', Iss.issuedG, hg', hpath, h.single]
    all_goals simp [Iss.issuedPath]

end Sys2Proof.Machine
end

