-- ==== Sys2Proof/Laws/Lane.lean ====
section
/-! SUPPORT. What an instruction of plain results does, once for every such instruction, and the shapes of the integer
instructions of lanes. -/

namespace Sys2Proof.Machine

open Sys2Proof.Safety

theorem Iss.mustPark_none {i : Iss} {o : Op} (hg : o.groupWide = false) (hw : o.window = false) :
    i.mustPark o = none := by
  unfold Iss.mustPark
  split <;> simp [hg, hw]

/-- The accounts of an issue change nothing outside the issuing agent. -/
theorem elsewhere_issued {s : State} {i : Iss} (h : s.issuing = some i) (o : Op) {t : State}
    (he : elsewhere (i.issued o).s i t) : elsewhere s i t := by
  obtain ⟨ag, hcur, hv⟩ := State.cur_view h
  have hs := (State.view_self hv).1
  by_cases hc : i.ctl = true
  · have e : (i.issued o).s = s.setCtx i.id (i.issuedCtx o) := by simp [Iss.issued, hc, Iss.issuedC, hs]
    rw [e] at he
    refine ⟨he.groups, fun c hx => ?_, he.storage, he.clock, he.rest⟩
    rw [he.ctxs c hx, State.ctx_setCtx_other]
    rcases hx with hx | hx
    · simp [hc] at hx
    · exact fun e => hx e.symm
  · have e : (i.issued o).s = s.setGroup i.id (i.issuedGroup o) := by simp [Iss.issued, hc, Iss.issuedG, hs]
    rw [e] at he
    refine ⟨fun g hx => ?_, he.ctxs, he.storage, he.clock, he.rest⟩
    rw [he.groups g hx, State.group_setGroup_other]
    rcases hx with hx | hx
    · exact absurd hx hc
    · exact fun e => hx e.symm

/-! What the body reads is what stood there before the accounts. -/

theorem Iss.issued_group (i : Iss) (o : Op) (hc : i.ctl = false) : i.issued o = i.issuedG o := by simp [Iss.issued, hc]

@[simp] theorem Iss.issued_ctl (i : Iss) (o : Op) : (i.issued o).ctl = i.ctl := by
  unfold Iss.issued; split <;> rfl
@[simp] theorem Iss.issued_T (i : Iss) (o : Op) : (i.issued o).T = i.T := by unfold Iss.issued; split <;> rfl
@[simp] theorem Iss.issued_core (i : Iss) (o : Op) : (i.issued o).core = i.core := by unfold Iss.issued; split <;> rfl
@[simp] theorem Iss.issued_team (i : Iss) (o : Op) : (i.issued o).team = i.team := by unfold Iss.issued; split <;> rfl
@[simp] theorem Iss.issued_id (i : Iss) (o : Op) : (i.issued o).id = i.id := by unfold Iss.issued; split <;> rfl
@[simp] theorem Iss.issued_mask (i : Iss) (o : Op) : (i.issued o).p.mask = i.p.mask := by
  unfold Iss.issued; split
  · simp only [Iss.issuedC, Iss.issuedCtx]
  · rfl

@[simp] theorem Iss.issued_vRow (i : Iss) (o : Op) (n : Nat) : (i.issued o).vRow n = i.vRow n := by
  unfold Iss.issued; split
  · rfl
  · simp
@[simp] theorem Iss.issued_active (i : Iss) (o o' : Op) : (i.issued o).active o' = i.active o' := by
  unfold Iss.issued; split
  · simp [Iss.issuedC, Iss.issuedCtx, Iss.active]
  · simp
@[simp] theorem Iss.issued_cReg (i : Iss) (o : Op) (n : Nat) : (i.issued o).cReg n = i.cReg n := by
  unfold Iss.issued; split <;> rfl
@[simp] theorem Iss.issued_ctag (i : Iss) (o : Op) (n : Nat) : (i.issued o).C.tag n = i.C.tag n := by
  unfold Iss.issued; split <;> rfl
theorem Iss.issued_kReg (i : Iss) (o : Op) (hw : i.p.win = []) (n : Nat) : (i.issued o).kReg n = i.kReg n := by
  unfold Iss.issued; split
  · simp only [Iss.kReg, Iss.issuedC, Iss.issuedCtx, Group.kOf, hw]
  · exact Iss.issuedG_kReg i o hw n
theorem Iss.issued_kVal (i : Iss) (o : Op) (hw : i.p.win = []) (wd n : Nat) : (i.issued o).kVal wd n = i.kVal wd n := by
  simp [Iss.kVal, Iss.issued_kReg i o hw]
@[simp] theorem Iss.issued_pred (i : Iss) (o : Op) (n : Nat) : (i.issued o).G.pred n = i.G.pred n := by
  unfold Iss.issued; split
  · rfl
  · simp
@[simp] theorem Iss.issued_rowNo (i : Iss) (o : Op) (n : Nat) : (i.issued o).G.rowNo n = i.G.rowNo n := by
  unfold Iss.issued; split
  · rfl
  · simp
@[simp] theorem Iss.issued_quadTags (i : Iss) (o : Op) (n : Nat) : (i.issued o).G.quadTags n = i.G.quadTags n := by
  unfold Iss.issued; split
  · rfl
  · simp
@[simp] theorem Iss.issued_row (i : Iss) (o : Op) (n : Nat) : (i.issued o).G.row n = i.G.row n := by
  unfold Iss.issued; split
  · rfl
  · simp
theorem Iss.issued_kpTag (i : Iss) (o : Op) (hw : i.p.win = []) (q : Nat) :
    (i.issued o).G.kpTag (i.issued o).p q = i.G.kpTag i.p q := by
  unfold Iss.issued; split
  · simp only [Iss.issuedC, Iss.issuedCtx, Group.kpTag, hw]
  · simp [Group.kpTag, hw]
@[simp] theorem Iss.issued_vVals2 (i : Iss) (o : Op) (n : Nat) : (i.issued o).vVals2 n = i.vVals2 n := by
  simp [Iss.vVals2]
@[simp] theorem Iss.issued_vVals (i : Iss) (o : Op) (wd n : Nat) : (i.issued o).vVals wd n = i.vVals wd n := by
  simp [Iss.vVals]
@[simp] theorem Iss.issued_vResult (i : Iss) (o : Op) (wd n : Nat) (m : LaneMask) (xs : List Nat) :
    (i.issued o).vResult wd n m xs = i.vResult wd n m xs := by simp [Iss.vResult]
theorem Iss.issued_aVals (i : Iss) (o : Op) (hw : i.p.win = []) (w : Long) (wd : Nat) :
    (i.issued o).aVals w wd = i.aVals w wd := by simp [Iss.aVals, Iss.issued_kVal i o hw]
theorem Iss.issued_bVals (i : Iss) (o : Op) (hw : i.p.win = []) (w : Long) (t : ITy) :
    (i.issued o).bVals w t = i.bVals w t := by simp [Iss.bVals, Iss.issued_kVal i o hw]
theorem Iss.issued_ecc (i : Iss) (o : Op) (hp : i.G.poison = []) (m : LaneMask) (rs : List SrcReg) :
    (i.issued o).ecc m rs = .ok () := by
  have : (i.issued o).G.poison = [] := by
    unfold Iss.issued; split
    · exact hp
    · show (i.issuedGroup o).poison = []
      unfold Iss.issuedGroup Group.setPathAt
      split <;> exact hp
  simp [Iss.ecc, this]

@[simp] theorem Iss.issued_ag (i : Iss) (o : Op) : (i.issued o).ag = i.ag := by unfold Iss.issued; split <;> rfl

/-- Registers after the accounts are registers before them. -/
theorem after_issued {i j : Iss} {o : Op} {ws : List RegWrite} {fl : Nat} (hw : i.p.win = [])
    (hA : i.ctl = false → (∃ ix, i.ag = .path i.id ix) ∨ i.ag = .handler i.id) (h : after (i.issued o) j ws fl) : after i j ws fl := by
  have hp : (i.issued o).p.mask = i.p.mask ∧ (i.issued o).p.kind = i.p.kind ∧ (i.issued o).p.rpc = i.p.rpc ∧
      (i.issued o).p.code = i.p.code ∧ (i.issued o).p.spin = i.p.spin ∧ (i.issued o).p.crit = i.p.crit := by
    unfold Iss.issued; split <;> exact ⟨rfl, rfl, rfl, rfl, rfl, rfl⟩
  refine ⟨fun hc => ?_, fun hc => ?_⟩
  · have hG : (i.issued o).G = i.issuedGroup o := by simp [Iss.issued, hc, Iss.issuedG]
    obtain ⟨a1, a2, a3, a4, a5, a6, a7, a8, a9, a10⟩ := h.1 (by simpa using hc)
    refine ⟨?_, ?_, ?_, ?_, ?_, ?_, ?_, fun ix hx => ?_, fun hx => ?_, ?_⟩
    · simpa using a1
    · simpa using a2
    · simpa using a3
    · simpa [Iss.issued_kReg i o hw] using a4
    · simpa [Iss.issued_kReg i o hw] using a5
    · simpa [Iss.issued_kpTag i o hw] using a6
    · simpa [hG] using a7
    · have := a8 ix (by simpa using hx)
      rw [this, hG]
      rcases hA hc with ⟨ix', ha⟩ | ha
      · have hne : ix' ≠ ix := fun x => hx (by rw [ha, x])
        simp [Iss.issuedGroup, Group.setPathAt, ha, hne]
      · simp only [Iss.issuedGroup, Group.setPathAt, ha]
    · have := a9 (by simpa using hx)
      rw [this, hG]
      rcases hA hc with ⟨ix', ha⟩ | ha
      · simp only [Iss.issuedGroup, Group.setPathAt, ha]
      · exact absurd ha hx
    · rw [hp.1, hp.2.1, hp.2.2.1, hp.2.2.2.1, hp.2.2.2.2.1, hp.2.2.2.2.2] at a10; exact a10
  · have hCC : (i.issued o).C = i.issuedCtx o := by simp [Iss.issued, hc, Iss.issuedC]
    obtain ⟨a1, a2, a3, a4, a5⟩ := h.2 (by simpa using hc)
    refine ⟨by simpa using a1, by simpa using a2, ?_, ?_, ?_⟩
    · rw [a3, hCC]; rfl
    · rw [hCC] at a4; exact a4
    · rw [hp.1, hp.2.1, hp.2.2.1, hp.2.2.2.1, hp.2.2.2.2.1, hp.2.2.2.2.2] at a5; exact a5

/-- ONE INSTRUCTION whose body answers results and flags, in either stream. -/
theorem runInstr_done {s : State} {i : Iss} (h : Clear s i) {o : Op} {legal : Iss → Bool} {body : Body}
    (ha : i.admits o legal) (hp : i.mustPark o = none) (hla : o.lookahead = 0) {ws : List RegWrite} {fl : Nat}
    (hb : body (i.issued o) = .ok { (i.issued o).results ws with flags := fl }) (hm : ∀ w ∈ ws, i.takes w = true) :
    lands i (runInstr o legal body s) (pcOn i o.bytes) ws fl s := by
  obtain ⟨ag, hcur, hv⟩ := State.cur_view h.issuing
  have hs := (State.view_self hv).1
  have hT : ∃ T, (i.issued o).s.team i.team = some T := by
    by_cases hc : i.ctl = true
    · obtain ⟨-, -, -, -, h5⟩ := State.view_thread hv hc
      refine ⟨i.T, ?_⟩
      cases ag with
      | path g ix => obtain ⟨G, T, p, -, -, -, rfl⟩ := State.view_path hv; simp [State.gview] at hc
      | handler g => obtain ⟨G, T, x, -, -, -, rfl⟩ := State.view_handler hv; simp [State.gview] at hc
      | ctl t => obtain ⟨C, T, -, hT, rfl⟩ := State.view_ctl hv; simpa [Iss.issued, State.cview, Iss.issuedC] using hT
    · have hc' : i.ctl = false := by simpa using hc
      cases ag with
      | path g ix =>
        obtain ⟨G, T, p, -, -, hT, rfl⟩ := State.view_path hv
        exact ⟨T, by simpa [Iss.issued, State.gview, Iss.issuedG] using hT⟩
      | handler g =>
        obtain ⟨G, T, x, -, -, hT, rfl⟩ := State.view_handler hv
        exact ⟨T, by simpa [Iss.issued, State.gview, Iss.issuedG] using hT⟩
      | ctl t => obtain ⟨C, T, -, -, rfl⟩ := State.view_ctl hv; simp [State.cview] at hc
  obtain ⟨t, j, g1, g2, g3, g4, g5, g6⟩ := runInstr_effect h ha hp hla hb rfl rfl
    (Iss.owns_issued h o (fun _ => rfl) (fun _ => rfl) hT) hm
  refine ⟨t, j, g1, by simpa using g2, by simpa [Iss.results] using g3, g4, after_issued h.win (fun hc => (State.view_agent hv hc).imp (fun ⟨ix, x⟩ => ⟨ix, x.1⟩)
    (fun ⟨_, x⟩ => x.1)) g5, ?_⟩
  exact elsewhere_issued h.issuing o ⟨fun g hg => g6.groups g (by simpa using hg), fun c hc => g6.ctxs c (by simpa using hc),
    g6.storage, g6.clock, g6.rest⟩

/-! The operand lists hold one value for each of the 96 lanes. -/

@[simp] theorem Iss.vRow_length (i : Iss) (n : Nat) : (i.vRow n).length = 96 := by simp [Iss.vRow]
@[simp] theorem Iss.vVals2_length (i : Iss) (n : Nat) : (i.vVals2 n).length = 96 := by simp [Iss.vVals2]
@[simp] theorem Iss.vVals_length (i : Iss) (wd n : Nat) : (i.vVals wd n).length = 96 := by
  unfold Iss.vVals; split <;> (try split) <;> simp
@[simp] theorem splat_length {α : Type} (x : α) : (splat x).length = 96 := by simp [splat, laneCount]
@[simp] theorem Iss.aVals_length (i : Iss) (w : Long) (wd : Nat) : (i.aVals w wd).length = 96 := by
  unfold Iss.aVals; split <;> simp
@[simp] theorem Iss.bVals_length (i : Iss) (w : Long) (t : ITy) : (i.bVals w t).length = 96 := by
  unfold Iss.bVals; (repeat' split) <;> simp
@[simp] theorem laneBits_length (m : LaneMask) : (laneBits m).length = 96 := by simp [laneBits, laneCount]

theorem getD_eq_getElem {α : Type} {l : List α} {n : Nat} (d : α) (h : n < l.length) : l.getD n d = l[n] := by
  simp [List.getD_eq_getElem?_getD, h]

theorem map_getD {α β : Type} (f : α → β) (xs : List α) (L : Nat) (a : α) (b : β) (h : L < xs.length) :
    (xs.map f).getD L b = f (xs.getD L a) := by
  simp [List.getD_eq_getElem?_getD, h]

theorem zip_getD {α β : Type} (xs : List α) (ys : List β) (L : Nat) (a : α) (b : β) (h : L < xs.length)
    (h' : L < ys.length) : (xs.zip ys).getD L (a, b) = (xs.getD L a, ys.getD L b) := by
  simp [List.getD_eq_getElem?_getD, List.zip, List.getElem?_zipWith, h, h']

theorem map2_getD (f : Nat → Nat → Nat) (xs ys : List Nat) (L : Nat) (h : L < xs.length) (h' : L < ys.length) :
    (map2 f xs ys).getD L 0 = f (xs.getD L 0) (ys.getD L 0) := by
  rw [map2, map_getD _ _ _ (0, 0) _ (by simp [h, h']), zip_getD _ _ _ _ _ h h']

theorem map3_getD (f : Nat → Nat → Nat → Nat) (xs ys zs : List Nat) (L : Nat) (h : L < xs.length) (h' : L < ys.length)
    (h'' : L < zs.length) : (map3 f xs ys zs).getD L 0 = f (xs.getD L 0) (ys.getD L 0) (zs.getD L 0) := by
  rw [map3, map_getD _ _ _ (0, 0, 0) _ (by simp [h, h', h'']), zip_getD _ _ _ _ _ h (by simp [h', h'']),
    zip_getD _ _ _ _ _ h' h'']

@[simp] theorem map2_length (f : Nat → Nat → Nat) (xs ys : List Nat) : (map2 f xs ys).length = min xs.length ys.length := by
  simp [map2]
@[simp] theorem map3_length (f : Nat → Nat → Nat → Nat) (xs ys zs : List Nat) :
    (map3 f xs ys zs).length = min xs.length (min ys.length zs.length) := by
  simp [map3]

theorem laneBits_getD (m : LaneMask) (L : Nat) (h : L < 96) : (laneBits m).getD L false = m.getLsbD L := by
  simp [laneBits, laneCount, List.getD_eq_getElem?_getD, h]

/-! The shapes. -/

theorem list_lanewise {l : List Nat} {f : Nat → Nat} (h : l.length = 96) (e : ∀ L, L < 96 → l.getD L 0 = f L) :
    l = lanewise f := by
  refine List.ext_getElem (by simp [lanewise, h]) (fun L h1 h2 => ?_)
  have hL : L < 96 := by omega
  have := e L hL
  simpa [lanewise, List.getD_eq_getElem?_getD, h1] using this

theorem vResult_takes {i : Iss} (hc : i.ctl = false) (wd n : Nat) (m : LaneMask) (xs : List Nat) :
    ∀ w ∈ i.vResult wd n m xs, i.takes w = true := by
  intro w hw
  unfold Iss.vResult at hw
  simp only [Iss.takes, hc, Bool.false_eq_true, if_false]
  split at hw
  · simp only [List.mem_cons, List.not_mem_nil, or_false] at hw
    rcases hw with rfl | rfl <;> rfl
  · split at hw
    · simp only [List.mem_map] at hw
      obtain ⟨j, -, rfl⟩ := hw; rfl
    · simp only [List.mem_cons, List.not_mem_nil, or_false] at hw
      subst hw; rfl

/-- An integer instruction of lanes whose result is one lane result. -/
theorem laneOp_done {s : State} {i : Iss} (h : Clear s i) (hc : i.ctl = false) {o : Op} {legal : Iss → Bool}
    {regs : List SrcReg} {res : Iss → List RegWrite} (ha : i.admits o legal) (hp : i.mustPark o = none)
    (hla : o.lookahead = 0) {wd d : Nat} {m : LaneMask} {f : Nat → Nat} {xs : List Nat}
    (hr : res (i.issued o) = i.vResult wd d m xs) (hl : xs.length = 96) (hf : ∀ L, L < 96 → xs.getD L 0 = f L) :
    laneDone s i (laneOp o legal regs res s) o.bytes m wd d f 0 := by
  have hx := list_lanewise hl hf
  subst hx
  refine runInstr_done h ha hp hla ?_ (vResult_takes hc wd d m _)
  simp [Iss.issued_ecc i o h.poison, hr, Iss.results, Bind.bind, Except.bind]

/-- An integer instruction of lanes of any results. -/
theorem laneOp_lands {s : State} {i : Iss} (h : Clear s i) {o : Op} {legal : Iss → Bool}
    {regs : List SrcReg} {res : Iss → List RegWrite} (ha : i.admits o legal) (hp : i.mustPark o = none)
    (hla : o.lookahead = 0) {ws : List RegWrite} (hr : res (i.issued o) = ws) (hm : ∀ w ∈ ws, i.takes w = true) :
    lands i (laneOp o legal regs res s) (pcOn i o.bytes) ws 0 s := by
  refine runInstr_done h ha hp hla ?_ hm
  simp [Iss.issued_ecc i o h.poison, hr, Iss.results, Bind.bind, Except.bind]

/-- D := f(A, B). -/
theorem lane2_done {s : State} {i : Iss} (h : Clear s i) (hc : i.ctl = false) {o : Op} {w : Long} {ty : ITy → Bool}
    {satOk : Bool} {f : ITy → Nat → Nat → Nat}
    (ha : i.admits o (fun i => tyIs w ty && (satOk || !w.sat) && i.vOk (tyOf w).w w.d.toNat && i.aOk w (tyOf w).w &&
      i.bOk w (tyOf w).w)) (hp : i.mustPark o = none) (hla : o.lookahead = 0) :
    laneDone s i (lane2 o w ty satOk f s) o.bytes (i.active o) (tyOf w).w w.d.toNat
      (fun L => (tyOf w).image (f (tyOf w) ((i.aVals w (tyOf w).w).getD L 0) ((i.bVals w (tyOf w)).getD L 0))) 0 := by
  refine laneOp_done h hc ha hp hla (xs := (map2 (f (tyOf w)) (i.aVals w (tyOf w).w)
    (i.bVals w (tyOf w))).map (tyOf w).image) ?_ (by simp) (fun L hL => ?_)
  · simp [Iss.laneOut, Iss.issued_aVals i o h.win, Iss.issued_bVals i o h.win]
  · rw [map_getD _ _ _ 0 _ (by simpa using hL), map2_getD _ _ _ _ (by simpa using hL) (by simpa using hL)]

/-- D := f(A). -/
theorem lane1_done {s : State} {i : Iss} (h : Clear s i) (hc : i.ctl = false) {o : Op} {w : Long} {ty : ITy → Bool}
    {f : ITy → Nat → Nat}
    (ha : i.admits o (fun i => tyIs w ty && !w.sat && i.vOk (tyOf w).w w.d.toNat && i.aOk w (tyOf w).w))
    (hp : i.mustPark o = none) (hla : o.lookahead = 0) :
    laneDone s i (lane1 o w ty f s) o.bytes (i.active o) (tyOf w).w w.d.toNat
      (fun L => (tyOf w).image (f (tyOf w) ((i.aVals w (tyOf w).w).getD L 0))) 0 := by
  refine laneOp_done h hc ha hp hla (xs := ((i.aVals w (tyOf w).w).map (f (tyOf w))).map (tyOf w).image) ?_ (by simp)
    (fun L hL => ?_)
  · simp [Iss.laneOut, Iss.issued_aVals i o h.win]
  · rw [map_getD _ _ _ 0 _ (by simpa using hL), map_getD _ _ _ 0 _ (by simpa using hL)]

/-- D := f(A), D one n32 register. -/
theorem laneCount1_done {s : State} {i : Iss} (h : Clear s i) (hc : i.ctl = false) {o : Op} {w : Long}
    {f : Nat → Nat → Nat}
    (ha : i.admits o (fun i => tyIs w tyAll && !w.sat && i.vOk 32 w.d.toNat && i.aOk w (tyOf w).w))
    (hp : i.mustPark o = none) (hla : o.lookahead = 0) :
    laneDone s i (laneCount1 o w f s) o.bytes (i.active o) 32 w.d.toNat
      (fun L => f (tyOf w).w ((i.aVals w (tyOf w).w).getD L 0)) 0 := by
  refine laneOp_done h hc ha hp hla (xs := (i.aVals w (tyOf w).w).map (f (tyOf w).w)) ?_ (by simp) (fun L hL => ?_)
  · simp [Iss.issued_aVals i o h.win]
  · rw [map_getD _ _ _ 0 _ (by simpa using hL)]

/-- D := f(A, s). -/
theorem laneShift_done {s : State} {i : Iss} (h : Clear s i) (hc : i.ctl = false) {o : Op} {w : Long} {ty : ITy → Bool}
    {f : ITy → Nat → Nat → Nat}
    (ha : i.admits o (fun i => tyIs w ty && !w.sat && i.vOk (tyOf w).w w.d.toNat && i.aOk w (tyOf w).w && i.bOk w 32))
    (hp : i.mustPark o = none) (hla : o.lookahead = 0) :
    laneDone s i (laneShift o w ty f s) o.bytes (i.active o) (tyOf w).w w.d.toNat
      (fun L => (tyOf w).image (f (tyOf w) ((i.aVals w (tyOf w).w).getD L 0) ((i.bVals w tN32).getD L 0))) 0 := by
  refine laneOp_done h hc ha hp hla (xs := (map2 (f (tyOf w)) (i.aVals w (tyOf w).w)
    (i.bVals w tN32)).map (tyOf w).image) ?_ (by simp) (fun L hL => ?_)
  · simp [Iss.laneOut, Iss.issued_aVals i o h.win, Iss.issued_bVals i o h.win]
  · rw [map_getD _ _ _ 0 _ (by simpa using hL), map2_getD _ _ _ _ (by simpa using hL) (by simpa using hL)]

/-- D := f(A, B, C). -/
theorem lane3_done {s : State} {i : Iss} (h : Clear s i) (hc : i.ctl = false) {o : Op} {w : Long} {ty : ITy → Bool}
    {satOk subOk : Bool} {tb : ITy → ITy} {f : ITy → Nat → Nat → Nat → Nat}
    (ha : i.admits o (fun i => tyIs w ty && (satOk || !w.sat) && subOk && w.bsel != 2 && i.vOk (tyOf w).w w.d.toNat &&
      i.aOk w (tyOf w).w && i.bOk w (tb (tyOf w)).w && i.vOk (tyOf w).w w.c)) (hp : i.mustPark o = none)
    (hla : o.lookahead = 0) :
    laneDone s i (lane3 o w ty satOk tb subOk f s) o.bytes (i.active o) (tyOf w).w w.d.toNat
      (fun L => (tyOf w).image (f (tyOf w) ((i.aVals w (tyOf w).w).getD L 0) ((i.bVals w (tb (tyOf w))).getD L 0)
        ((i.vVals (tyOf w).w w.c).getD L 0))) 0 := by
  refine laneOp_done h hc ha hp hla (xs := (map3 (f (tyOf w)) (i.aVals w (tyOf w).w)
    (i.bVals w (tb (tyOf w))) (i.vVals (tyOf w).w w.c)).map (tyOf w).image) ?_ (by simp) (fun L hL => ?_)
  · simp [Iss.laneOut, Iss.issued_aVals i o h.win, Iss.issued_bVals i o h.win]
  · rw [map_getD _ _ _ 0 _ (by simpa using hL), map3_getD _ _ _ _ _ (by simpa using hL) (by simpa using hL)
      (by simpa using hL)]

end Sys2Proof.Machine
end

