-- ==== Sys2Proof/Laws/Rules.lean ====
section
/-! SUPPORT. The shapes of the lane instructions against the forms of the rules: one lemma for each shape. -/

namespace Sys2Proof.Machine

open Sys2Proof.Safety Sys2Proof.Rules

/-- Rows 0x00 to 0x0F and LID never park. -/
theorem Iss.noPark {i : Iss} {o : Op} {l : Iss → Bool} (ha : i.admits o l) (h : o.maj < 0x10 ∨ (o.maj = 0x20 ∧ o.f = 7)) :
    i.mustPark o = none := by
  have h3 := ha.2.2.1
  have : o.asel ≠ 2 := by
    intro e
    rw [e] at h3
    simp [Op.dqRow, Op.among] at h3
    omega
  apply Iss.mustPark_none
  · simp [Op.groupWide, Op.among, this]; omega
  · simp [Op.window, Op.among]; omega

theorem laneDone_congr {s : State} {i : Iss} {out : Out1} {n : Nat} {m : LaneMask} {wd d : Nat} {f g : Nat → Nat}
    {fl : Nat} (h : laneDone s i out n m wd d f fl) (e : ∀ L, L < 96 → f L = g L) : laneDone s i out n m wd d g fl := by
  have : lanewise f = lanewise g := List.map_congr_left (fun L hL => e L (by simpa using hL))
  unfold laneDone at h ⊢
  rwa [← this]

variable {s : State} {i : Iss} {out : Out1} {o : Op} {w : Long} {ty : ITy → Bool} {satOk : Bool}

theorem two_done {f g : ITy → Nat → Nat → Nat} (h : Clear s i) (hc : i.ctl = false)
    (ha : i.admits o (two o w ty satOk g).ok) (hla : o.lookahead = 0) (hm : o.maj < 0x10 ∨ (o.maj = 0x20 ∧ o.f = 7))
    (hx : out = lane2 o w ty satOk f s) (e : ∀ a b, f (tyOf w) a b = g (tyOf w) a b) :
    laneDone s i out o.bytes (i.active o) (two o w ty satOk g).wd (two o w ty satOk g).d ((two o w ty satOk g).val i) 0 := by
  subst hx
  refine laneDone_congr (lane2_done h hc ha (Iss.noPark ha hm) hla) (fun L _ => ?_)
  rw [e]; rfl

theorem one_done {f g : ITy → Nat → Nat} (h : Clear s i) (hc : i.ctl = false) (ha : i.admits o (one o w ty g).ok)
    (hla : o.lookahead = 0) (hm : o.maj < 0x10 ∨ (o.maj = 0x20 ∧ o.f = 7)) (hx : out = lane1 o w ty f s)
    (e : ∀ a, f (tyOf w) a = g (tyOf w) a) :
    laneDone s i out o.bytes (i.active o) (one o w ty g).wd (one o w ty g).d ((one o w ty g).val i) 0 := by
  subst hx
  refine laneDone_congr (lane1_done h hc ha (Iss.noPark ha hm) hla) (fun L _ => ?_)
  rw [e]; rfl

theorem count_done {f : Nat → Nat → Nat} (h : Clear s i) (hc : i.ctl = false) (ha : i.admits o (count o w f).ok)
    (hla : o.lookahead = 0) (hm : o.maj < 0x10 ∨ (o.maj = 0x20 ∧ o.f = 7)) (hx : out = laneCount1 o w f s) :
    laneDone s i out o.bytes (i.active o) (count o w f).wd (count o w f).d ((count o w f).val i) 0 := by
  subst hx
  exact laneCount1_done h hc ha (Iss.noPark ha hm) hla

theorem shift_done {f g : ITy → Nat → Nat → Nat} (h : Clear s i) (hc : i.ctl = false)
    (ha : i.admits o (shift o w ty g).ok) (hla : o.lookahead = 0) (hm : o.maj < 0x10 ∨ (o.maj = 0x20 ∧ o.f = 7))
    (hx : out = laneShift o w ty f s) (e : ∀ a b, f (tyOf w) a b = g (tyOf w) a b) :
    laneDone s i out o.bytes (i.active o) (shift o w ty g).wd (shift o w ty g).d ((shift o w ty g).val i) 0 := by
  subst hx
  refine laneDone_congr (laneShift_done h hc ha (Iss.noPark ha hm) hla) (fun L _ => ?_)
  rw [e]; rfl

theorem three_done {tb : ITy → ITy} {subOk : Bool} {f g : ITy → Nat → Nat → Nat → Nat} (h : Clear s i)
    (hc : i.ctl = false) (ha : i.admits o (three o w ty satOk tb subOk g).ok) (hla : o.lookahead = 0)
    (hm : o.maj < 0x10 ∨ (o.maj = 0x20 ∧ o.f = 7)) (hx : out = lane3 o w ty satOk tb subOk f s)
    (e : ∀ a b c, f (tyOf w) a b c = g (tyOf w) a b c) :
    laneDone s i out o.bytes (i.active o) (three o w ty satOk tb subOk g).wd (three o w ty satOk tb subOk g).d
      ((three o w ty satOk tb subOk g).val i) 0 := by
  subst hx
  refine laneDone_congr (lane3_done h hc ha (Iss.noPark ha hm) hla) (fun L _ => ?_)
  rw [e]; rfl

theorem lanesAt_eq (l : List Bool) (f : Nat → Bool) (h : l.length = 96) (e : ∀ L, L < 96 → l.getD L false = f L) :
    maskOf l = lanesAt f := by
  unfold lanesAt
  congr 1
  refine List.ext_getElem (by simp [h]) (fun n h1 h2 => ?_)
  have := e n (by omega)
  simpa [List.getD_eq_getElem?_getD, h1] using this

/-! Forms of any results and effects. -/

/-- A form whose body answers what its rule says. -/
theorem rule_does {r : Rule} {body : Body} (h : Clear s i) (hx : out = runInstr r.op r.ok body s) (d : Done)
    (hb : r.pre (i.issued r.op) → body (i.issued r.op) = .ok d) (hws : d.ws = r.ws (i.issued r.op))
    (hfl : d.flags = r.fl (i.issued r.op)) (hpc : d.pc = r.pc (i.issued r.op)) (hmv : d.moved = false)
    (hr : d.req = none) (own : r.pre (i.issued r.op) → i.owns (r.eff (i.issued r.op)) d.s)
    (he : ∀ t, elsewhere d.s (r.eff (i.issued r.op)) t → elsewhere (r.eff (i.issued r.op)).s (r.eff (i.issued r.op)) t) :
    r.does i out := by
  intro ha hp hla hpre hm
  subst hx
  rw [← hws, ← hfl, ← hpc]
  rw [← hws] at hm
  obtain ⟨t, k, g1, g2, g3, g4, g5, g6⟩ := runInstr_effect h ha hp hla (hb hpre) hmv hr (own hpre) hm
  exact ⟨t, k, g1, g2, g3, g4, g5, he t g6⟩

/-- The team of an issuing agent is there. -/
theorem Iss.issued_teamOf (h : Clear s i) (o : Op) : (i.issued o).s.team i.team = some i.T := by
  obtain ⟨ag, hcur, hv⟩ := State.cur_view h.issuing
  cases ag with
  | path g ix =>
    obtain ⟨G, T, p, -, -, hT, rfl⟩ := State.view_path hv
    simpa [Iss.issued, State.gview, Iss.issuedG] using hT
  | handler g =>
    obtain ⟨G, T, p, -, -, hT, rfl⟩ := State.view_handler hv
    simpa [Iss.issued, State.gview, Iss.issuedG] using hT
  | ctl t => obtain ⟨C, T, -, hT, rfl⟩ := State.view_ctl hv; simpa [Iss.issued, State.cview, Iss.issuedC] using hT

/-- A form of results alone. -/
theorem rule_results {r : Rule} {body : Body} (h : Clear s i) (hx : out = runInstr r.op r.ok body s)
    (he : r.eff (i.issued r.op) = i.issued r.op)
    (hb : r.pre (i.issued r.op) → body (i.issued r.op) = .ok { (i.issued r.op).results (r.ws (i.issued r.op)) with
      flags := r.fl (i.issued r.op), pc := r.pc (i.issued r.op) }) : r.does i out := by
  refine rule_does h hx _ hb rfl rfl rfl rfl rfl (fun _ => ?_) ?_
  · rw [he]; exact Iss.owns_issued h _ (fun _ => rfl) (fun _ => rfl) ⟨_, Iss.issued_teamOf h _⟩
  · rw [he]; exact fun _ x => x

end Sys2Proof.Machine
end

