-- ==== Sys2Proof/Laws/Masks.lean ====
section
/-! SUPPORT. Lane masks, lane lists and values placed by lane: what each answers at one lane. -/

namespace Sys2Proof.Machine

open Sys2Proof.Safety Sys2Proof.Rules

theorem mask_ext (m n : LaneMask) (h : ∀ L, L < 96 → m.getLsbD L = n.getLsbD L) : m = n :=
  BitVec.eq_of_getLsbD_eq (fun i hi => h i hi)

theorem orLanes_getLsbD (l : List Nat) (L : Nat) (hL : L < 96) (m : LaneMask) :
    (l.foldl (fun m l => m ||| laneMask1 l) m).getLsbD L = (m.getLsbD L || l.contains L) := by
  induction l generalizing m with
  | nil => simp
  | cons x l ih =>
    rw [List.foldl_cons, ih]
    simp only [laneMask1, BitVec.getLsbD_or, BitVec.getLsbD_ofNat, Nat.testBit_two_pow]
    simp [hL, Bool.or_assoc, eq_comm]

theorem maskOfLanes_getLsbD (l : List Nat) (L : Nat) (hL : L < 96) : (maskOfLanes l).getLsbD L = l.contains L := by
  simp [maskOfLanes, orLanes_getLsbD _ _ hL]

theorem maskOf_getLsbD (l : List Bool) (L : Nat) (hL : L < 96) : (maskOf l).getLsbD L = l.getD L false := by
  simp only [maskOf, BitVec.getLsbD_ofNat, hL, decide_true, Bool.true_and]
  clear hL
  induction l generalizing L with
  | nil => simp
  | cons x l ih =>
    rw [List.foldr_cons]
    cases L with
    | zero => cases x <;> simp [Nat.testBit_zero]
    | succ L =>
      have e : (2 * List.foldr (fun b n => 2 * n + if b = true then 1 else 0) 0 l + if x = true then 1 else 0) / 2 =
          List.foldr (fun b n => 2 * n + if b = true then 1 else 0) 0 l := by split <;> omega
      rw [Nat.testBit_succ, e, ih]
      simp

theorem lanesAt_getLsbD (f : Nat → Bool) (L : Nat) (hL : L < 96) : (lanesAt f).getLsbD L = f L := by
  rw [lanesAt, maskOf_getLsbD _ _ hL]; simp [List.getD_eq_getElem?_getD, hL]

theorem mem_lanesOf {m : LaneMask} {L : Nat} : L ∈ lanesOf m ↔ L < 96 ∧ m.getLsbD L = true := by
  simp [lanesOf, laneCount]

theorem maskOfLanes_lanesOf (m : LaneMask) : maskOfLanes (lanesOf m) = m := by
  refine mask_ext _ _ (fun L hL => ?_)
  rw [maskOfLanes_getLsbD _ _ hL]
  rw [Bool.eq_iff_iff, List.contains_iff_mem, mem_lanesOf]
  simp [hL]

/-- The lanes of a mask that satisfy a test. -/
theorem maskOfLanes_filter (m : LaneMask) (f : Nat → Bool) :
    maskOfLanes ((lanesOf m).filter f) = lanesAt (fun L => m.getLsbD L && f L) := by
  refine mask_ext _ _ (fun L hL => ?_)
  rw [maskOfLanes_getLsbD _ _ hL, lanesAt_getLsbD _ _ hL, Bool.eq_iff_iff]
  simp [mem_lanesOf, hL]

theorem lanesOf_one : lanesOf 1 = [0] := by decide

theorem find_lane (l : List Nat) (f : Nat → Nat) (L : Nat) :
    ((l.map (fun x => (x, f x))).find? (·.1 == L)).map (·.2) = if L ∈ l then some (f L) else none := by
  induction l with
  | nil => simp
  | cons x l ih =>
    by_cases hx : x = L
    · subst hx; simp
    · have hb : (x == L) = false := by simpa using hx
      have hx' : ¬ L = x := fun e => hx e.symm
      simp only [List.map_cons, List.find?_cons, hb, ih, List.mem_cons, hx', false_or]

/-- One value a lane of a mask, zero elsewhere. -/
theorem byLane_lanesOf (m : LaneMask) (f : Nat → Nat) :
    byLane ((lanesOf m).map (fun L => (L, f L))) = lanewise (fun L => if m.getLsbD L then f L else 0) := by
  refine List.map_congr_left (fun L hL => ?_)
  have hL' : L < 96 := by simpa [laneCount] using hL
  rw [find_lane]
  rw [if_congr (mem_lanesOf.trans (and_iff_right hL')) rfl rfl]
  split <;> rfl

theorem lanewise_congr {f g : Nat → Nat} (h : ∀ L, L < 96 → f L = g L) : lanewise f = lanewise g :=
  List.map_congr_left (fun L hL => h L (by simpa using hL))

theorem filterMap_some {α β : Type} (f : α → Option β) (g : α → β) (l : List α) (h : ∀ x ∈ l, f x = some (g x)) :
    l.filterMap f = l.map g := by
  induction l with
  | nil => rfl
  | cons x l ih => simp [h x (by simp), ih (fun y hy => h y (by simp [hy]))]

theorem filterMap_none {α β : Type} (f : α → Option β) (l : List α) (h : ∀ x ∈ l, f x = none) : l.filterMap f = [] := by
  simp [List.filterMap_eq_nil_iff]; exact h

end Sys2Proof.Machine
end

