-- ==== Sys2Proof/Laws/Keep.lean ====
section
/-! SUPPORT. Effects that keep every group, context and team, effects on the issuing agent's own group, context or path,
and the accesses that pass every check. -/

namespace Sys2Proof.Machine

open Sys2Proof.Safety Sys2Proof.Rules

variable {s : State} {i j : Iss} {out : Out1} {o : Op} {w : Long}

/-- The same groups, contexts and teams. -/
structure keeps (a b : State) : Prop where
  g : ∀ n, b.group n = a.group n
  c : ∀ n, b.ctx n = a.ctx n
  t : ∀ n, b.team n = a.team n
theorem keeps.refl (a : State) : keeps a a := ⟨fun _ => rfl, fun _ => rfl, fun _ => rfl⟩
theorem keeps.trans {a b c : State} (h : keeps a b) (h' : keeps b c) : keeps a c :=
  ⟨fun n => (h'.g n).trans (h.g n), fun n => (h'.c n).trans (h.c n), fun n => (h'.t n).trans (h.t n)⟩
theorem keeps_of (a b : State) (h1 : b.groups = a.groups) (h2 : b.ctxs = a.ctxs) (h3 : b.teams = a.teams) : keeps a b :=
  ⟨fun n => by simp [State.group, h1], fun n => by simp [State.ctx, h2], fun n => by simp [State.team, h3]⟩
theorem keeps_foldl {α : Type} (f : State → α → State) (h : ∀ s x, keeps s (f s x)) (l : List α) (s : State) : keeps s (l.foldl f s) := by
  induction l generalizing s with
  | nil => exact keeps.refl s
  | cons x l ih => exact (h s x).trans (ih _)
theorem keeps_mem (s : State) (m : Mem) : keeps s { s with mem := m } := keeps_of _ _ rfl rfl rfl
theorem keeps_core (s : State) (n c) : keeps s (s.setCore n c) := keeps_of _ _ rfl rfl rfl
theorem keeps_send (s : State) (x) : keeps s (s.send x) := keeps_of _ _ rfl rfl rfl
theorem keeps_task (s : State) (n k) : keeps s (s.setTask n k) := keeps_of _ _ rfl rfl rfl
theorem keeps_ras (s : State) (r) : keeps s { s with ras := r } := keeps_of _ _ rfl rfl rfl
theorem keeps_watchAt (s : State) (a b c d e f) : keeps s (s.watchAt a b c d e f) := by
  unfold State.watchAt
  split
  · exact keeps.refl s
  · refine keeps_foldl _ (fun s e => ?_) _ _
    dsimp only
    split <;> (try split) <;> (try split) <;> (try split) <;> first | exact keeps.refl s | exact keeps_ras s _
theorem keeps_watchLs (s : State) (a b c d) : keeps s (s.watchLs a b c d) := by
  unfold State.watchLs
  split
  · exact keeps.refl s
  · exact keeps_foldl _ (fun s l => keeps_watchAt _ _ _ _ _ _ _) _ _
theorem keeps_giveUp (core : Nat) (l : List Nat) (n : Nat) (s : State) : keeps s (State.giveUp core l n s) := by
  induction n generalizing s with
  | zero => exact keeps.refl s
  | succ n ih =>
    unfold State.giveUp
    dsimp only
    split
    · exact keeps.refl s
    · refine keeps.trans ?_ (ih _)
      exact keeps_of s _ rfl rfl rfl
theorem keeps_room (s : State) (a b c) : keeps s (s.room a b c) := by
  unfold State.room
  dsimp only
  split
  · exact keeps.refl s
  · exact keeps_giveUp _ _ _ _
theorem keeps_fill (s : State) (a b c) : keeps s (s.fill a b c) := by
  unfold State.fill
  dsimp only
  split
  · exact (keeps_room _ _ _ _).trans (keeps_mem _ _)
  · exact ((keeps_room _ _ _ _).trans (keeps_core _ _ _)).trans (keeps_mem _ _)
theorem keeps_before (s : State) (a b c d e) : keeps s (s.beforeLoad a b c d e) := by
  unfold State.beforeLoad
  dsimp only
  split
  · exact keeps_mem _ _
  · exact keeps_fill _ _ _ _
theorem keeps_after (s : State) (a b c d) : keeps s (s.afterLoad a b c d) := by
  unfold State.afterLoad
  split
  · exact keeps_mem _ _
  · exact keeps.refl s
theorem keeps_atHome (j : Iss) (acq n wr xs) : keeps j.s (j.atHome acq n wr xs) := by
  unfold Iss.atHome
  split
  · exact keeps_before _ _ _ _ _ _
  · exact keeps.refl _
theorem keeps_fills (j : Iss) (s : State) (acq xs n) : keeps s (j.fills s acq xs n) := by
  unfold Iss.fills
  split
  · exact keeps.refl s
  · have := keeps_before s j.core j.colour false xs n
    dsimp only
    split
    · exact this.trans (keeps_mem _ _)
    · split
      · exact this.trans (keeps_mem _ _)
      · exact this
theorem keeps_storing (j : Iss) (s : State) (xs n f) (h : ∀ s, keeps s (f s)) : keeps s (j.storing s xs n f) := by
  unfold Iss.storing
  have := (keeps_room s j.core j.colour (hbmLines xs n)).trans (h _)
  dsimp only
  split
  · exact this.trans (keeps_mem _ _)
  · exact this
theorem keeps_mark (s : State) (a b) : keeps s (s.markWritten a b) := by
  unfold State.markWritten
  split
  · exact keeps_task _ _ _
  · exact keeps.refl s
theorem keeps_bytes (s : State) (a b c d) : keeps s (s.storeBytes a b c d) := by
  unfold State.storeBytes
  split
  · exact keeps_send _ _
  · exact keeps_mem _ _
theorem keeps_cap (s : State) (a b c d) : keeps s (s.storeCap a b c d) := by
  unfold State.storeCap
  split
  · exact keeps_send _ _
  · exact keeps_mem _ _
theorem keeps_releasing (s : State) (a b c d e f) (h : ∀ s, keeps s (f s)) : keeps s (s.releasing a b c d e f) := by
  unfold State.releasing
  split
  · dsimp only
    split
    · exact (keeps_mem _ _).trans ((h _).trans (keeps_mem _ _))
    · exact (keeps_mem _ _).trans (h _)
  · exact h s
theorem keeps_loaded (j : Iss) (w xs n) : keeps j.s (loaded j w xs n).s :=
  ((keeps_atHome _ _ _ _ _).trans (keeps_fills _ _ _ _ _)).trans ((keeps_after _ _ _ _ _).trans (keeps_watchLs _ _ _ _ _))
theorem keeps_stored (j : Iss) (w xs n put) (h : ∀ s x, keeps s (put s x)) : keeps j.s (stored j w xs n put).s :=
  (keeps_mark _ _ _).trans ((keeps_storing _ _ _ _ _ (fun s =>
    keeps_releasing _ _ _ _ _ _ _ (fun s => keeps_foldl _ h _ _))).trans (keeps_watchLs _ _ _ _ _))

/-- A form whose effect keeps every group, context and team. -/
theorem keep_rule {r : Rule} {body : Body} (h : Clear s i) (hx : out = runInstr r.op r.ok body s)
    (hv : r.eff (i.issued r.op) = { (i.issued r.op) with s := (r.eff (i.issued r.op)).s })
    (hk : keeps (i.issued r.op).s (r.eff (i.issued r.op)).s)
    (hb : r.pre (i.issued r.op) → body (i.issued r.op) = .ok { s := (r.eff (i.issued r.op)).s, ws := r.ws (i.issued r.op), flags := r.fl (i.issued r.op), pc := r.pc (i.issued r.op), req := none, moved := false }) : r.does i out := by
  refine rule_does h hx _ hb rfl rfl rfl rfl rfl (fun _ => ?_) (fun _ x => x)
  have := Iss.owns_issued h r.op (t := (r.eff (i.issued r.op)).s) (fun _ => hk.g _) (fun _ => hk.c _) ⟨i.T, by rw [hk.t]; exact Iss.issued_teamOf h _⟩
  rw [hv]
  exact ⟨this.ag, this.ctl, this.id, this.group, this.ctx, this.team, this.pend, this.win, this.wait, this.mask⟩

theorem setCode_path {t : State} {ag : Agent} {p : Path} (hp : t.path ag = some p) (c : CapV) : t.setCode ag c = t.setPath ag { p with code := c } := by
  simp [State.setCode, hp]
theorem withPath_owns (h : Clear s i) {e : Iss} {t : State} (he : i.owns e t) (es : e.s = t) (p' : Path) (x1 : p'.pend = []) (x2 : p'.win = []) (x3 : p'.wait = none) (x4 : p'.mask = i.p.mask) :
    i.owns (withPath e p') (withPath e p').s ∧ t.setPath i.ag p' = (withPath e p').s := by
  subst es
  obtain ⟨ag, hcur, hv⟩ := State.cur_view h.issuing
  by_cases hc : i.ctl = true
  · obtain ⟨hx, hy⟩ := he.ctx hc
    obtain ⟨e1, e2, e3, e4, e5⟩ := State.view_thread hv hc
    have hec : e.ctl = true := by rw [he.ctl]; exact hc
    have hei := he.id
    obtain ⟨T, hT⟩ := he.team
    simp only [hc, if_true] at hT
    refine ⟨⟨?_, ?_, ?_, fun x => (by simp [hc] at x), fun _ => ?_, ?_, ?_, ?_, ?_, ?_⟩, ?_⟩ <;> simp [withPath, hec, he.ag, he.ctl, he.id, hc, x1, x2, x3, x4, hT]
    rw [e1]; simp [State.setPath, hx]
  · have hc' : i.ctl = false := by simpa using hc
    have hec : e.ctl = false := by rw [he.ctl]; exact hc'
    obtain ⟨hg, hp, hs⟩ := he.group hc'
    obtain ⟨T, hT⟩ := he.team
    simp only [hc', Bool.false_eq_true, if_false] at hT
    have hag := State.view_agent hv hc'
    refine ⟨⟨?_, ?_, ?_, fun _ => ⟨?_, ?_, ?_⟩, fun x => (by simp [hc'] at x), ?_, ?_, ?_, ?_, ?_⟩, ?_⟩ <;> simp [withPath, hec, he.ag, he.ctl, he.id, hc', x1, x2, x3, x4, hT, hs]
    · rcases hag with ⟨ix, ex, -⟩ | ⟨y, ex, -, -⟩
      · have hl : ix < e.G.stack.length := by
          rw [ex] at hp; simp only [State.path, hg] at hp; exact (List.getElem?_eq_some_iff.mp hp).1
        simp [State.path, ex, Group.setPathAt, hl]
      · rw [ex] at hp; simp only [State.path, hg] at hp
        rw [Option.map_eq_some_iff] at hp; obtain ⟨z, hz, -⟩ := hp
        simp [State.path, ex, Group.setPathAt, hz]
    · rcases hag with ⟨ix, ex, -⟩ | ⟨y, ex, -, -⟩ <;> simp [State.setPath, ex, hg]
theorem withG_owns (h : Clear s i) {e : Iss} {t : State} (he : i.owns e t) (es : e.s = t) (hc : i.ctl = false) (G' : Group) (x1 : G'.stack = e.G.stack) (x2 : G'.handler = e.G.handler) (x3 : G'.team = e.G.team) (x4 : G'.step = e.G.step) :
    i.owns (withG e G') (withG e G').s := by
  subst es
  obtain ⟨ag, hcur, hv⟩ := State.cur_view h.issuing
  obtain ⟨hg, hp, hs⟩ := he.group hc
  obtain ⟨T, hT⟩ := he.team
  simp only [hc, Bool.false_eq_true, if_false] at hT
  have hag := State.view_agent hv hc
  refine ⟨he.ag, he.ctl, he.id, fun _ => ⟨by simp [withG, he.id], ?_, by simp [withG, x4, hs]⟩, fun x => (by simp [hc] at x), ⟨T, by simp [withG, hc, x3, hT]⟩, he.pend, he.win, he.wait, he.mask⟩
  rcases hag with ⟨ix, ex, -⟩ | ⟨y, ex, -, -⟩
  · rw [ex] at hp ⊢; simp only [State.path, hg] at hp; simp [State.path, withG, he.id, x1, hp]
  · rw [ex] at hp ⊢; simp only [State.path, hg] at hp; simp [State.path, withG, he.id, x2, hp]
theorem owns0 (h : Clear s i) (o : Op) : i.owns (i.issued o) (i.issued o).s := Iss.owns_issued h o (fun _ => rfl) (fun _ => rfl) ⟨_, Iss.issued_teamOf h _⟩
theorem withCode_owns (h : Clear s i) {e : Iss} (he : i.owns e e.s) (c : CapV) : i.owns (withCode e c) (withCode e c).s ∧ e.s.setCode i.ag c = (withCode e c).s := by
  have hp : e.s.path i.ag = some e.p := by
    by_cases hc : i.ctl = true
    · obtain ⟨ag, hcur, hv⟩ := State.cur_view h.issuing
      obtain ⟨e1, -⟩ := State.view_thread hv hc
      obtain ⟨hx, hy⟩ := he.ctx hc
      rw [e1]; simp [State.path, hx, hy]
    · exact (he.group (by simpa using hc)).2.1
  rw [setCode_path hp]
  exact withPath_owns h he rfl _ he.pend he.win he.wait he.mask
theorem own_rule {r : Rule} {body : Body} (h : Clear s i) (hx : out = runInstr r.op r.ok body s) (ho : i.owns (r.eff (i.issued r.op)) (r.eff (i.issued r.op)).s)
    (hb : r.pre (i.issued r.op) → body (i.issued r.op) = .ok { s := (r.eff (i.issued r.op)).s, ws := r.ws (i.issued r.op), flags := r.fl (i.issued r.op), pc := r.pc (i.issued r.op), req := none, moved := false }) : r.does i out :=
  rule_does h hx _ hb rfl rfl rfl rfl rfl (fun _ => ho) (fun _ x => x)
theorem Iss.accs_eq (j : Iss) (w : Long) (m : LaneMask) (imm : Int) (pv : Bool) : j.accs w m imm pv = accesses j w m imm pv := rfl

section
variable {at_ : State} {u : LsUse} {n : Nat} {k : RKind} {write reads whole : Bool} {xs : List Acc}
theorem passes_check (h : passes j at_ u n k write reads xs) : j.lsCheck u n whole xs = .ok () := by
  unfold Iss.lsCheck
  rw [filterMap_none _ _ (fun x hx => by simp [(h x hx).1])]
  rfl
theorem passes_region (h : passes j at_ u n k write reads xs) : j.lsRegion k n whole xs = .ok (if k == .read then [] else marked j k n xs) := by
  unfold Iss.lsRegion
  have e : List.filter (fun x => (admitting j.T.regions x.addr (x.addr + n) k).isEmpty) (List.filter (fun x => regionChecked x.addr && !(k == .read && j.inParam x.addr n)) xs) = [] := by
    rw [List.filter_filter, List.filter_eq_nil_iff]
    intro x hx
    rcases (h x hx).2.2.2 with h1 | ⟨rfl, h1⟩ | h1
    · simp [h1]
    · simp [h1]
    · simp [h1]
  simp only [e]
  by_cases hk : k = .read
  · simp [hk]
  · have : (k == .read) = false := by simpa using hk
    simp [this, marked]
theorem passes_perform (h : passes j at_ u n k write reads xs) : j.perform at_ n write reads whole xs = (xs, at_) := by
  unfold Iss.perform
  rw [filterMap_none _ _ (fun x hx => by simp [(h x hx).2.1])]
theorem passes_near (h : passes j at_ u n k write reads xs) : xs.filter (fun x => !isHost x.addr) = xs := by
  rw [List.filter_eq_self]; intro x hx; simp [(h x hx).2.2.1]
theorem passes_far (h : passes j at_ u n k write reads xs) : xs.filter (fun x => isHost x.addr) = [] := by
  rw [List.filter_eq_nil_iff]; intro x hx; simp [(h x hx).2.2.1]
theorem passes_far' (h : passes j at_ u n k write reads xs) (can : Bool) : j.hostAtomOk can xs = .ok () := by
  unfold Iss.hostAtomOk
  have : xs.filter (fun x => (hostBase : Int) ≤ x.a && x.a < (peerBase : Int)) = [] := by
    rw [List.filter_eq_nil_iff]; intro x hx
    have h3 := (h x hx).2.2.1
    intro h4
    simp only [Bool.and_eq_true, decide_eq_true_eq] at h4
    have e : isHost x.addr = true := by
      unfold isHost whereIs Acc.addr
      have h5 : hostBase ≤ x.a.toNat := by omega
      have h6 : x.a.toNat < peerBase := by omega
      simp only [hostBase, peerBase] at h5 h6
      rw [if_neg (by simp [hbmTop]; omega), if_neg (by simp [chipBase]; omega), if_neg (by simp [coreBase]; omega),
        if_neg (by simp [sysBase]; omega), if_pos (by simp [hostBase, peerBase]; omega)]
      rfl
    rw [e] at h3; cases h3
  simp [this]
end
theorem hostOpen_nil (j : Iss) (s : State) (n sg dst kind cq ex acq out) : j.hostOpen s [] n sg dst kind cq ex acq out = (none, s) := rfl
theorem accesses_lanes (m : LaneMask) (imm pv) : (accesses j w m imm pv).map (·.l) = lanesOf m := by
  simp [accesses, accAt, Function.comp_def]


end Sys2Proof.Machine
end

