-- ==== Sys2Proof/Laws/Memory.lean ====
section
/-! SUPPORT. Every operation on storage keeps its canonical form. -/

namespace Sys2Proof.Machine

open Sys2Proof.Safety

variable {m : Mem}

theorem memoryWf_fold {α : Type} (f : Mem → α → Mem) (hf : ∀ m x, memoryWf m → memoryWf (f m x)) (l : List α) (h : memoryWf m) :
    memoryWf (l.foldl f m) := by
  induction l generalizing m with
  | nil => exact h
  | cons x l ih => exact ih (hf m x h)

theorem Store.wf_fold {w : Nat} {α : Type} (f : Store w → α → Store w) (hf : ∀ s x, Store.wf s = true → Store.wf (f s x) = true)
    (l : List α) {s : Store w} (h : Store.wf s = true) : Store.wf (l.foldl f s) = true := by
  induction l generalizing s with
  | nil => exact h
  | cons x l ih => exact ih (hf s x h)

/-! At the home. -/

theorem memoryWf_homeWrite (a : Nat) (bs : List Byte) (h : memoryWf m) : memoryWf (m.homeWrite a bs) :=
  ⟨Memory.wf_writeN _ _ _ h.bytes, Store.wf_clear _ _ _ h.tags, h.rel, h.tile, h.lines⟩

theorem memoryWf_tag (g : Nat) (x : BitVec 1) (h : memoryWf m) : memoryWf { m with tags := Store.write m.tags g x } :=
  ⟨h.bytes, Store.wf_write _ _ _ h.tags, h.rel, h.tile, h.lines⟩

theorem memoryWf_homeWriteTagged (a : Nat) (bs : List Byte) (t : Bool) (h : memoryWf m) : memoryWf (m.homeWriteTagged a bs t) := by
  unfold Mem.homeWriteTagged
  have := memoryWf_homeWrite a bs h
  cases t
  · exact this
  · exact memoryWf_tag _ _ this

theorem memoryWf_zeroRange (lo hi : Nat) (h : memoryWf m) : memoryWf (m.zeroRange lo hi) :=
  ⟨Store.wf_keep (w := 8) _ (fun k => k < lo || hi ≤ k) h.bytes, Store.wf_clear _ _ _ h.tags, h.rel, h.tile, h.lines⟩

theorem memoryWf_putEntry (a : Nat) (b : Blk) (h : memoryWf m) : memoryWf (m.putEntry a b) :=
  memoryWf_fold _ (fun _ _ w => memoryWf_homeWriteTagged _ _ _ w) _ h

theorem memoryWf_addPoison (a n : Nat) (h : memoryWf m) : memoryWf (m.addPoison a n) := by
  unfold Mem.addPoison
  split
  · exact h
  · exact ⟨h.bytes, h.tags, h.rel, h.tile, h.lines⟩

/-! L1 lines. -/

theorem memoryWf_l1 (l : Tbl Line) (h : memoryWf m) (hl : ∀ e ∈ l, e.2.data.length = 128) : memoryWf { m with l1 := l } :=
  ⟨h.bytes, h.tags, h.rel, h.tile, hl⟩

theorem fillLine_length (line : Nat) : (m.fillLine line).data.length = 128 := by simp [Mem.fillLine]

theorem Tbl.get_mem {α : Type} {t : Tbl α} {k : Nat} {a : α} (h : Tbl.get t k = some a) : (k, a) ∈ t := by
  induction t with
  | nil => simp [Tbl.get] at h
  | cons e r ih =>
    obtain ⟨k', b⟩ := e
    simp only [Tbl.get] at h
    split at h
    · simp_all
    · exact List.mem_cons_of_mem _ (ih h)

theorem line_length (core line colour : Nat) (h : memoryWf m) : (m.line core line colour).data.length = 128 := by
  unfold Mem.line
  cases e : Tbl.get m.l1 (l1Key core line colour) with
  | none => exact fillLine_length _
  | some l => exact h.lines _ (Tbl.get_mem e)

theorem memoryWf_setLine (core line colour : Nat) (l : Line) (h : memoryWf m) (hl : l.data.length = 128) :
    memoryWf (m.setLine core line colour l) :=
  memoryWf_l1 _ h (fun e he => by
    rcases Tbl.mem_set _ _ _ e he with rfl | he
    · exact hl
    · exact h.lines e he)

theorem memoryWf_touch (core colour line : Nat) (h : memoryWf m) : memoryWf (m.touch core colour line) := by
  unfold Mem.touch
  split
  · exact h
  · exact memoryWf_setLine _ _ _ _ h (fillLine_length _)

theorem memoryWf_backLine (line : Nat) (l : Line) (h : memoryWf m) : memoryWf (m.backLine line l) := by
  unfold Mem.backLine
  split
  · exact h
  · have := memoryWf_fold (fun (m : Mem) o => if l.dirty.getLsbD o then m.homeWrite (128 * line + o) [(l.data[o]?).getD 0] else m)
      (fun m o w => by split; exacts [memoryWf_homeWrite _ _ w, w]) (List.range 128) h
    refine ⟨this.bytes, Store.wf_fold _ (fun s j w => ?_) _ this.tags, this.rel, this.tile, this.lines⟩
    split
    · exact Store.wf_write _ _ _ w
    · exact w

theorem memoryWf_outrank (core line : Nat) (d : BitVec 128) (h : memoryWf m) : memoryWf (m.outrank core line d) :=
  memoryWf_l1 _ h (fun e he => by
    obtain ⟨x, hx, rfl⟩ := List.mem_map.1 he
    have := h.lines x hx
    split <;> exact this)

theorem memoryWf_outrankRange (core a n : Nat) (h : memoryWf m) : memoryWf (m.outrankRange core a n) := by
  unfold Mem.outrankRange
  split
  · exact h
  · exact memoryWf_fold _ (fun _ _ w => memoryWf_outrank _ _ _ w) _ h

theorem memoryWf_backWhere (p : Nat → Bool) (keep : Bool) (h : memoryWf m) : memoryWf (m.backWhere p keep) := by
  unfold Mem.backWhere
  have := memoryWf_fold (fun (m : Mem) (e : Nat × Line) =>
      (m.backLine (l1Line e.1) e.2).outrank (l1Core e.1) (l1Line e.1) e.2.dirty)
    (fun _ _ w => memoryWf_outrank _ _ _ (memoryWf_backLine _ _ w))
    (m.l1.filter (fun e => p e.1)) h
  refine memoryWf_l1 _ this (fun e he => ?_)
  cases keep
  · exact this.lines e (List.mem_of_mem_filter he)
  · obtain ⟨x, hx, rfl⟩ := List.mem_map.1 he
    have := this.lines x hx
    split <;> exact this

theorem memoryWf_drain (core colour : Nat) (h : memoryWf m) : memoryWf (m.drain core colour) := memoryWf_backWhere _ _ h
theorem memoryWf_release (core line : Nat) (h : memoryWf m) : memoryWf (m.release core line) := memoryWf_backWhere _ _ h
theorem refresh_length (line : Nat) (l : Line) (h : l.data.length = 128) : (m.refresh line l).data.length = 128 := by
  simp only [Mem.refresh, List.length_map, List.length_zipIdx, List.length_zip, h, fillLine_length]
  decide
theorem memoryWf_dropClean (core colour : Nat) (h : memoryWf m) : memoryWf (m.dropClean core colour) :=
  memoryWf_l1 _ h (fun e he => by
    obtain ⟨x, hx, rfl⟩ := List.mem_map.1 he
    have := h.lines x (List.mem_of_mem_filter hx)
    split
    · exact refresh_length _ _ this
    · exact this)
theorem memoryWf_dropCode (p : Nat → Bool) (h : memoryWf m) : memoryWf (m.dropCode p) := ⟨h.bytes, h.tags, h.rel, h.tile, h.lines⟩

/-! LS stores and engine writes. -/

theorem memoryWf_lsPut (core colour a : Nat) (b : Byte) (h : memoryWf m) : memoryWf (m.lsPut core colour a b) := by
  unfold Mem.lsPut
  split
  · exact memoryWf_setLine _ _ _ _ h (by simp [Line.put, line_length _ _ _ h])
  · exact memoryWf_homeWrite _ _ h

theorem memoryWf_lsWrite (core colour a : Nat) (bs : List Byte) (h : memoryWf m) : memoryWf (m.lsWrite core colour a bs) := by
  unfold Mem.lsWrite
  split
  · have := memoryWf_fold (fun (m : Mem) (x : Byte × Nat) => m.lsPut core colour (a + x.2) x.1)
      (fun _ _ w => memoryWf_lsPut _ _ _ _ w) bs.zipIdx h
    dsimp only
    split
    · exact memoryWf_setLine _ _ _ _ this (line_length _ _ _ this)
    · exact this
  · exact memoryWf_homeWrite _ _ h

theorem memoryWf_lsWriteTagged (core colour a : Nat) (bs : List Byte) (t : Bool) (h : memoryWf m) :
    memoryWf (m.lsWriteTagged core colour a bs t) := by
  unfold Mem.lsWriteTagged
  have := memoryWf_lsWrite core colour a bs h
  dsimp only
  split
  · exact this
  · split
    · exact memoryWf_setLine _ _ _ _ this (line_length _ _ _ this)
    · exact memoryWf_tag _ _ this

theorem memoryWf_engWrite (core a : Nat) (bs : List Byte) (h : memoryWf m) : memoryWf (m.engWrite core a bs) := by
  unfold Mem.engWrite
  refine memoryWf_homeWrite _ _ (memoryWf_outrankRange _ _ _ ?_)
  split
  · exact memoryWf_backWhere _ _ h
  · exact h

/-! Release records, acquires, atomics. -/

theorem memoryWf_rel (k : Nat) (x : BitVec 256) (h : memoryWf m) : memoryWf { m with rel := Store.write m.rel k x } :=
  ⟨h.bytes, h.tags, Store.wf_write _ _ _ h.rel, h.tile, h.lines⟩

theorem memoryWf_record (core colour line : Nat) (h : memoryWf m) : memoryWf (m.record core colour line) := by
  unfold Mem.record
  dsimp only
  split
  · exact h
  · exact memoryWf_rel _ _ h

theorem memoryWf_releaseAccess (core colour sc : Nat) (as : List Nat) (h : memoryWf m) :
    memoryWf (m.releaseAccess core colour sc as) := by
  unfold Mem.releaseAccess
  split
  · exact h
  · have : memoryWf (if scopeLazy sc then
        ((as.filter (· < hbmTop)).map lineOf).eraseDups.foldl (fun m l => m.record core colour l) m else m) := by
      split
      · exact memoryWf_fold (fun (m : Mem) l => m.record core colour l) (fun _ _ w => memoryWf_record _ _ _ w) _ h
      · exact h
    generalize (if scopeLazy sc then
        ((as.filter (· < hbmTop)).map lineOf).eraseDups.foldl (fun m l => m.record core colour l) m else m) = x at this ⊢
    show memoryWf (if x.eager core colour sc as then x.drain core colour else x)
    split
    · exact memoryWf_drain _ _ this
    · exact this

theorem memoryWf_releaseFence (core colour sc : Nat) (h : memoryWf m) : memoryWf (m.releaseFence core colour sc) := by
  unfold Mem.releaseFence; split; exacts [memoryWf_drain _ _ h, h]

theorem memoryWf_retireRel (line colour : Nat) (h : memoryWf m) : memoryWf (m.retireRel line colour) :=
  memoryWf_rel _ _ (memoryWf_fold _ (fun _ _ w => memoryWf_drain _ _ w) _ h)

theorem memoryWf_acquireLine (core colour line : Nat) (h : memoryWf m) : memoryWf (m.acquireLine core colour line) :=
  memoryWf_rel _ _ (memoryWf_fold _ (fun _ _ w => memoryWf_drain _ _ w) _ (memoryWf_backWhere _ _ h))

theorem memoryWf_acquireFence (core colour sc : Nat) (h : memoryWf m) : memoryWf (m.acquireFence core colour sc) := by
  unfold Mem.acquireFence; split; exacts [memoryWf_dropClean _ _ h, h]

theorem memoryWf_atomAt (core a n : Nat) (f : Nat → Nat) (h : memoryWf m) : memoryWf (m.atomAt core a n f).2 := by
  unfold Mem.atomAt
  refine memoryWf_homeWrite _ _ ?_
  split
  · exact memoryWf_release _ _ h
  · exact h

theorem memoryWf_casAt (core a n e x : Nat) (h : memoryWf m) : memoryWf (m.casAt core a n e x).2.2 := by
  have : ∀ m' : Mem, memoryWf m' →
      memoryWf (if leNat (m'.homeRead a n) = e then (leNat (m'.homeRead a n), true, m'.homeWrite a (leBytes n x))
        else (leNat (m'.homeRead a n), false, m')).2.2 := fun m' w => by
    split
    · exact memoryWf_homeWrite _ _ w
    · exact w
  unfold Mem.casAt
  refine this _ ?_
  split
  · exact memoryWf_release _ _ h
  · exact h

/-! The tile store. -/

theorem Store.wf_putWords (t : Store 32) (a : Nat) (xs : List Nat) (h : Store.wf t = true) : Store.wf (putWords t a xs) = true := by
  induction xs generalizing t a with
  | nil => exact h
  | cons x xs ih => exact ih _ _ (Store.wf_write _ _ _ h)

theorem memoryWf_putWords (a : Nat) (xs : List Nat) (h : memoryWf m) : memoryWf { m with tile := putWords m.tile a xs } :=
  ⟨h.bytes, h.tags, h.rel, Store.wf_putWords _ _ _ h.tile, h.lines⟩

theorem memoryWf_clearTile (lo hi : Nat) (h : memoryWf m) : memoryWf { m with tile := Store.clear m.tile lo hi } :=
  ⟨h.bytes, h.tags, h.rel, Store.wf_clear _ _ _ h.tile, h.lines⟩

/-- The canonical form of memory right after reset. -/
theorem Memory.wf_reset : State.reset.mem.bytes.wf = true := rfl

end Sys2Proof.Machine
end

