-- ==== Sys2Proof/Laws/PerInstr.lean ====
section
/-! SUPPORT. One lemma per constructor of Instr: the words that its encoding has are the bytes by which its path moves on
(R78); a device step has no words. -/

namespace Sys2Proof.Laws.Words

open Sys2Proof

/-- Four bytes for each word of the encoding; none for a device step. -/
def Statement (i : Instr) : Prop := (encode i).map (fun ws => 4 * ws.length) = if i.shape = .event then none else some i.bytes

theorem all (i : Instr) : Statement i := by
  unfold Statement encode Instr.bytes
  cases i.shape with
  | long w => cases h : w.lit <;> simp [h]
  | _ => simp

theorem iadd32 (o : Short) : Statement (.iadd32 o) := all _
theorem iadd64 (w : Long) : Statement (.iadd64 w) := all _
theorem isub32 (o : Short) : Statement (.isub32 o) := all _
theorem isub64 (w : Long) : Statement (.isub64 w) := all _
theorem iadc32 (o : Short) : Statement (.iadc32 o) := all _
theorem iadc64 (w : Long) : Statement (.iadc64 w) := all _
theorem imul32 (o : Short) : Statement (.imul32 o) := all _
theorem imul64 (w : Long) : Statement (.imul64 w) := all _
theorem imulh32 (o : Short) : Statement (.imulh32 o) := all _
theorem imulh64 (w : Long) : Statement (.imulh64 w) := all _
theorem imad (w : Long) : Statement (.imad w) := all _
theorem imadw (w : Long) : Statement (.imadw w) := all _
theorem idiv (w : Long) : Statement (.idiv w) := all _
theorem irem (w : Long) : Statement (.irem w) := all _
theorem imin32 (o : Short) : Statement (.imin32 o) := all _
theorem imin64 (w : Long) : Statement (.imin64 w) := all _
theorem imax32 (o : Short) : Statement (.imax32 o) := all _
theorem imax64 (w : Long) : Statement (.imax64 w) := all _
theorem iabs32 (o : Short) : Statement (.iabs32 o) := all _
theorem iabs64 (w : Long) : Statement (.iabs64 w) := all _
theorem ineg32 (o : Short) : Statement (.ineg32 o) := all _
theorem ineg64 (w : Long) : Statement (.ineg64 w) := all _
theorem sel (w : Long) : Statement (.sel w) := all _
theorem iset (w : Long) : Statement (.iset w) := all _
theorem icmp (w : Long) : Statement (.icmp w) := all _
theorem and32 (o : Short) : Statement (.and32 o) := all _
theorem and64 (w : Long) : Statement (.and64 w) := all _
theorem or32 (o : Short) : Statement (.or32 o) := all _
theorem or64 (w : Long) : Statement (.or64 w) := all _
theorem xor32 (o : Short) : Statement (.xor32 o) := all _
theorem xor64 (w : Long) : Statement (.xor64 w) := all _
theorem andn32 (o : Short) : Statement (.andn32 o) := all _
theorem andn64 (w : Long) : Statement (.andn64 w) := all _
theorem not32 (o : Short) : Statement (.not32 o) := all _
theorem not64 (w : Long) : Statement (.not64 w) := all _
theorem mov32 (o : Short) : Statement (.mov32 o) := all _
theorem mov64 (w : Long) : Statement (.mov64 w) := all _
theorem movl (w : Long) : Statement (.movl w) := all _
theorem shl32 (o : Short) : Statement (.shl32 o) := all _
theorem shl64 (w : Long) : Statement (.shl64 w) := all _
theorem shr32 (o : Short) : Statement (.shr32 o) := all _
theorem shr64 (w : Long) : Statement (.shr64 w) := all _
theorem sar32 (o : Short) : Statement (.sar32 o) := all _
theorem sar64 (w : Long) : Statement (.sar64 w) := all _
theorem rot32 (o : Short) : Statement (.rot32 o) := all _
theorem rot64 (w : Long) : Statement (.rot64 w) := all _
theorem shf (w : Long) : Statement (.shf w) := all _
theorem bfx (w : Long) : Statement (.bfx w) := all _
theorem bfi (w : Long) : Statement (.bfi w) := all _
theorem perm (w : Long) : Statement (.perm w) := all _
theorem popc32 (o : Short) : Statement (.popc32 o) := all _
theorem popc64 (w : Long) : Statement (.popc64 w) := all _
theorem clz32 (o : Short) : Statement (.clz32 o) := all _
theorem clz64 (w : Long) : Statement (.clz64 w) := all _
theorem ctz32 (o : Short) : Statement (.ctz32 o) := all _
theorem ctz64 (w : Long) : Statement (.ctz64 w) := all _
theorem brev32 (o : Short) : Statement (.brev32 o) := all _
theorem brev64 (w : Long) : Statement (.brev64 w) := all _
theorem iaddUb (o : Short) : Statement (.iaddUb o) := all _
theorem isubUb (o : Short) : Statement (.isubUb o) := all _
theorem imulUb (o : Short) : Statement (.imulUb o) := all _
theorem andUb (o : Short) : Statement (.andUb o) := all _
theorem orUb (o : Short) : Statement (.orUb o) := all _
theorem xorUb (o : Short) : Statement (.xorUb o) := all _
theorem shlUb (o : Short) : Statement (.shlUb o) := all _
theorem shrUb (o : Short) : Statement (.shrUb o) := all _
theorem uadd32 (o : Short) : Statement (.uadd32 o) := all _
theorem uadd64 (w : Long) : Statement (.uadd64 w) := all _
theorem usub32 (o : Short) : Statement (.usub32 o) := all _
theorem usub64 (w : Long) : Statement (.usub64 w) := all _
theorem umul32 (o : Short) : Statement (.umul32 o) := all _
theorem umul64 (w : Long) : Statement (.umul64 w) := all _
theorem umad (w : Long) : Statement (.umad w) := all _
theorem uand32 (o : Short) : Statement (.uand32 o) := all _
theorem uand64 (w : Long) : Statement (.uand64 w) := all _
theorem uor32 (o : Short) : Statement (.uor32 o) := all _
theorem uor64 (w : Long) : Statement (.uor64 w) := all _
theorem uxor32 (o : Short) : Statement (.uxor32 o) := all _
theorem uxor64 (w : Long) : Statement (.uxor64 w) := all _
theorem umov32 (o : Short) : Statement (.umov32 o) := all _
theorem umov64 (w : Long) : Statement (.umov64 w) := all _
theorem ushl32 (o : Short) : Statement (.ushl32 o) := all _
theorem ushl64 (w : Long) : Statement (.ushl64 w) := all _
theorem ushr32 (o : Short) : Statement (.ushr32 o) := all _
theorem ushr64 (w : Long) : Statement (.ushr64 w) := all _
theorem usar32 (o : Short) : Statement (.usar32 o) := all _
theorem usar64 (w : Long) : Statement (.usar64 w) := all _
theorem umin32 (o : Short) : Statement (.umin32 o) := all _
theorem umin64 (w : Long) : Statement (.umin64 w) := all _
theorem umax32 (o : Short) : Statement (.umax32 o) := all _
theorem umax64 (w : Long) : Statement (.umax64 w) := all _
theorem ucmp (w : Long) : Statement (.ucmp w) := all _
theorem usel (w : Long) : Statement (.usel w) := all _
theorem ubfx (w : Long) : Statement (.ubfx w) := all _
theorem upopc32 (o : Short) : Statement (.upopc32 o) := all _
theorem upopc64 (w : Long) : Statement (.upopc64 w) := all _
theorem uclz32 (o : Short) : Statement (.uclz32 o) := all _
theorem uclz64 (w : Long) : Statement (.uclz64 w) := all _
theorem plop (w : Long) : Statement (.plop w) := all _
theorem p2k32 (o : Short) : Statement (.p2k32 o) := all _
theorem p2k64 (w : Long) : Statement (.p2k64 w) := all _
theorem k2p32 (o : Short) : Statement (.k2p32 o) := all _
theorem k2p64 (w : Long) : Statement (.k2p64 w) := all _
theorem pmov32 (o : Short) : Statement (.pmov32 o) := all _
theorem pmov64 (w : Long) : Statement (.pmov64 w) := all _
theorem fadd32 (o : Short) : Statement (.fadd32 o) := all _
theorem fadd64 (w : Long) : Statement (.fadd64 w) := all _
theorem fsub32 (o : Short) : Statement (.fsub32 o) := all _
theorem fsub64 (w : Long) : Statement (.fsub64 w) := all _
theorem fmul32 (o : Short) : Statement (.fmul32 o) := all _
theorem fmul64 (w : Long) : Statement (.fmul64 w) := all _
theorem ffma (w : Long) : Statement (.ffma w) := all _
theorem fmin32 (o : Short) : Statement (.fmin32 o) := all _
theorem fmin64 (w : Long) : Statement (.fmin64 w) := all _
theorem fmax32 (o : Short) : Statement (.fmax32 o) := all _
theorem fmax64 (w : Long) : Statement (.fmax64 w) := all _
theorem fset (w : Long) : Statement (.fset w) := all _
theorem fcmp (w : Long) : Statement (.fcmp w) := all _
theorem fclass (w : Long) : Statement (.fclass w) := all _
theorem frnd32 (o : Short) : Statement (.frnd32 o) := all _
theorem frnd64 (w : Long) : Statement (.frnd64 w) := all _
theorem fscale32 (o : Short) : Statement (.fscale32 o) := all _
theorem fscale64 (w : Long) : Statement (.fscale64 w) := all _
theorem fexpt32 (o : Short) : Statement (.fexpt32 o) := all _
theorem fexpt64 (w : Long) : Statement (.fexpt64 w) := all _
theorem fcvt (w : Long) : Statement (.fcvt w) := all _
theorem icvt (w : Long) : Statement (.icvt w) := all _
theorem ficvt (w : Long) : Statement (.ficvt w) := all _
theorem frcp (w : Long) : Statement (.frcp w) := all _
theorem frsq (w : Long) : Statement (.frsq w) := all _
theorem fsqrt (w : Long) : Statement (.fsqrt w) := all _
theorem fdiv (w : Long) : Statement (.fdiv w) := all _
theorem fexp2 (w : Long) : Statement (.fexp2 w) := all _
theorem flog2 (w : Long) : Statement (.flog2 w) := all _
theorem fsin (w : Long) : Statement (.fsin w) := all _
theorem fcos (w : Long) : Statement (.fcos w) := all _
theorem ftanh (w : Long) : Statement (.ftanh w) := all _
theorem hadd232 (o : Short) : Statement (.hadd232 o) := all _
theorem hadd264 (w : Long) : Statement (.hadd264 w) := all _
theorem hmul232 (o : Short) : Statement (.hmul232 o) := all _
theorem hmul264 (w : Long) : Statement (.hmul264 w) := all _
theorem hfma2 (w : Long) : Statement (.hfma2 w) := all _
theorem dot4 (w : Long) : Statement (.dot4 w) := all _
theorem dot2 (w : Long) : Statement (.dot2 w) := all _
theorem mxq (w : Long) : Statement (.mxq w) := all _
theorem mxdq (w : Long) : Statement (.mxdq w) := all _
theorem shfl (w : Long) : Statement (.shfl w) := all _
theorem vote (w : Long) : Statement (.vote w) := all _
theorem rdfl (w : Long) : Statement (.rdfl w) := all _
theorem rdln (w : Long) : Statement (.rdln w) := all _
theorem redg (w : Long) : Statement (.redg w) := all _
theorem scang (w : Long) : Statement (.scang w) := all _
theorem matchg (w : Long) : Statement (.matchg w) := all _
theorem lid32 (o : Short) : Statement (.lid32 o) := all _
theorem lid64 (w : Long) : Statement (.lid64 w) := all _
theorem ld (w : Long) : Statement (.ld w) := all _
theorem st (w : Long) : Statement (.st w) := all _
theorem ldu (w : Long) : Statement (.ldu w) := all _
theorem stu (w : Long) : Statement (.stu w) := all _
theorem ldc (w : Long) : Statement (.ldc w) := all _
theorem stc (w : Long) : Statement (.stc w) := all _
theorem pref (w : Long) : Statement (.pref w) := all _
theorem atom (w : Long) : Statement (.atom w) := all _
theorem cas (w : Long) : Statement (.cas w) := all _
theorem atomf (w : Long) : Statement (.atomf w) := all _
theorem red (w : Long) : Statement (.red w) := all _
theorem cadd32 (o : Short) : Statement (.cadd32 o) := all _
theorem cadd64 (w : Long) : Statement (.cadd64 w) := all _
theorem cset32 (o : Short) : Statement (.cset32 o) := all _
theorem cset64 (w : Long) : Statement (.cset64 w) := all _
theorem cbnd (w : Long) : Statement (.cbnd w) := all _
theorem cperm32 (o : Short) : Statement (.cperm32 o) := all _
theorem cperm64 (w : Long) : Statement (.cperm64 w) := all _
theorem cget (w : Long) : Statement (.cget w) := all _
theorem cseal (w : Long) : Statement (.cseal w) := all _
theorem cunseal (w : Long) : Statement (.cunseal w) := all _
theorem ctest (w : Long) : Statement (.ctest w) := all _
theorem cclr32 (o : Short) : Statement (.cclr32 o) := all _
theorem cclr64 (w : Long) : Statement (.cclr64 w) := all _
theorem fence (w : Long) : Statement (.fence w) := all _
theorem fencex (w : Long) : Statement (.fencex w) := all _
theorem cflush (w : Long) : Statement (.cflush w) := all _
theorem cinv (w : Long) : Statement (.cinv w) := all _
theorem icinv (w : Long) : Statement (.icinv w) := all _
theorem bra32 (o : Short) : Statement (.bra32 o) := all _
theorem bra96 (w : Long) : Statement (.bra96 w) := all _
theorem brc32 (o : Short) : Statement (.brc32 o) := all _
theorem brc96 (w : Long) : Statement (.brc96 w) := all _
theorem brx (w : Long) : Statement (.brx w) := all _
theorem brd (w : Long) : Statement (.brd w) := all _
theorem join64 (w : Long) : Statement (.join64 w) := all _
theorem call32 (o : Short) : Statement (.call32 o) := all _
theorem call96 (w : Long) : Statement (.call96 w) := all _
theorem calli (w : Long) : Statement (.calli w) := all _
theorem ret64 (w : Long) : Statement (.ret64 w) := all _
theorem winb32 (o : Short) : Statement (.winb32 o) := all _
theorem winb64 (w : Long) : Statement (.winb64 w) := all _
theorem exit64 (w : Long) : Statement (.exit64 w) := all _
theorem take (w : Long) : Statement (.take w) := all _
theorem yield64 (w : Long) : Statement (.yield64 w) := all _
theorem nop64 (w : Long) : Statement (.nop64 w) := all _
theorem hint (n : BitVec 30) : Statement (.hint n) := all _
theorem cpl (w : Long) : Statement (.cpl w) := all _
theorem sheaf (w : Long) : Statement (.sheaf w) := all _
theorem wsheaf (w : Long) : Statement (.wsheaf w) := all _
theorem tcopy (w : Long) : Statement (.tcopy w) := all _
theorem wchk (w : Long) : Statement (.wchk w) := all _
theorem apnd (w : Long) : Statement (.apnd w) := all _
theorem wseq (w : Long) : Statement (.wseq w) := all _
theorem dpost (w : Long) : Statement (.dpost w) := all _
theorem mma (w : Long) : Statement (.mma w) := all _
theorem mzero (w : Long) : Statement (.mzero w) := all _
theorem mload (w : Long) : Statement (.mload w) := all _
theorem mstore (w : Long) : Statement (.mstore w) := all _
theorem mdrain (w : Long) : Statement (.mdrain w) := all _
theorem coll (w : Long) : Statement (.coll w) := all _
theorem rcopy (w : Long) : Statement (.rcopy w) := all _
theorem crec (w : Long) : Statement (.crec w) := all _
theorem binit (w : Long) : Statement (.binit w) := all _
theorem barv (w : Long) : Statement (.barv w) := all _
theorem bwait (w : Long) : Statement (.bwait w) := all _
theorem bsync (w : Long) : Statement (.bsync w) := all _
theorem claim (w : Long) : Statement (.claim w) := all _
theorem release (w : Long) : Statement (.release w) := all _
theorem tclaim (w : Long) : Statement (.tclaim w) := all _
theorem trelease (w : Long) : Statement (.trelease w) := all _
theorem trap (w : Long) : Statement (.trap w) := all _
theorem rtt (w : Long) : Statement (.rtt w) := all _
theorem sysrd (w : Long) : Statement (.sysrd w) := all _
theorem syswr (w : Long) : Statement (.syswr w) := all _
theorem clock32 (o : Short) : Statement (.clock32 o) := all _
theorem clock64 (w : Long) : Statement (.clock64 w) := all _
theorem pmrd (w : Long) : Statement (.pmrd w) := all _
theorem sleep (w : Long) : Statement (.sleep w) := all _
theorem gstop (w : Long) : Statement (.gstop w) := all _
theorem grd (w : Long) : Statement (.grd w) := all _
theorem gwr (w : Long) : Statement (.gwr w) := all _
theorem gres (w : Long) : Statement (.gres w) := all _
theorem gstat (w : Long) : Statement (.gstat w) := all _
theorem tlaunch (w : Long) : Statement (.tlaunch w) := all _
theorem chctlAbandonFaulted (t ch : Nat) : Statement (.chctlAbandonFaulted t ch) := all _
theorem chctlAbandonAll (t ch : Nat) : Statement (.chctlAbandonAll t ch) := all _
theorem loadResult (ag : Agent) (n : Nat) : Statement (.loadResult ag n) := all _
theorem atomicAtHome (core : Nat) (rq : AtomRq) : Statement (.atomicAtHome core rq) := all _
theorem hostWindowCompletion (id status : Nat) (data : List (List Byte)) : Statement (.hostWindowCompletion id status data) := all _
theorem lateFault (ag : Agent) : Statement (.lateFault ag) := all _
theorem noticeRecord (t : Nat) : Statement (.noticeRecord t) := all _
theorem level2Fault (t : Nat) : Statement (.level2Fault t) := all _
theorem groupRetirement (g : Nat) : Statement (.groupRetirement g) := all _
theorem starvationRaise (g : Nat) : Statement (.starvationRaise g) := all _
theorem hintCyclesExpiry (ag : Agent) : Statement (.hintCyclesExpiry ag) := all _
theorem sleepEnd (ag : Agent) : Statement (.sleepEnd ag) := all _
theorem chainEntryAcceptance (t ch : Nat) : Statement (.chainEntryAcceptance t ch) := all _
theorem copyChunk (t ch n c : Nat) : Statement (.copyChunk t ch n c) := all _
theorem lineOperation (g n : Nat) : Statement (.lineOperation g n) := all _
theorem gcmRecord (t n j : Nat) : Statement (.gcmRecord t n j) := all _
theorem tileFetch (t n : Nat) : Statement (.tileFetch t n) := all _
theorem mmaKblock (t n : Nat) : Statement (.mmaKblock t n) := all _
theorem tileStoreRowOperation (t n : Nat) : Statement (.tileStoreRowOperation t n) := all _
theorem drainRowStaging (t n : Nat) : Statement (.drainRowStaging t n) := all _
theorem collMessage (t n : Nat) (m : PeerMsg) : Statement (.collMessage t n m) := all _
theorem abortNotice (t n cause sub : Nat) : Statement (.abortNotice t n cause sub) := all _
theorem switchReductionResult (t n u : Nat) (data : List Byte) : Statement (.switchReductionResult t n u data) := all _
theorem switchStateLost (t n : Nat) (us : List Nat) : Statement (.switchStateLost t n us) := all _
theorem peerAcknowledgement (t n c : Nat) : Statement (.peerAcknowledgement t n c) := all _
theorem engineCompletionRecord (t ch n : Nat) : Statement (.engineCompletionRecord t ch n) := all _
theorem cacheWalk (w : Nat) : Statement (.cacheWalk w) := all _
theorem walkResume (w : Nat) : Statement (.walkResume w) := all _
theorem walkEnd (w : Nat) : Statement (.walkEnd w) := all _
theorem drainRequest (core colour : Nat) : Statement (.drainRequest core colour) := all _
theorem releaseRecordRetirement (line colour : Nat) : Statement (.releaseRecordRetirement line colour) := all _
theorem teamStart (core : Nat) : Statement (.teamStart core) := all _
theorem l1RegionScan (core : Nat) : Statement (.l1RegionScan core) := all _
theorem teamEnd (t : Nat) : Statement (.teamEnd t) := all _
theorem forward (w : Nat) : Statement (.forward w) := all _
theorem taskCompletion (k : Nat) : Statement (.taskCompletion k) := all _
theorem preemptionRequest (ts : List Nat) : Statement (.preemptionRequest ts) := all _
theorem teamSave (t : Nat) : Statement (.teamSave t) := all _
theorem teamRestore (n core tslot : Nat) : Statement (.teamRestore n core tslot) := all _
theorem qsub (f q addr : Nat) (data : Option (List Byte)) : Statement (.qsub f q addr data) := all _
theorem qctlRelease (f q n : Nat) : Statement (.qctlRelease f q n) := all _
theorem qctlCancel (f q n : Nat) : Statement (.qctlCancel f q n) := all _
theorem recordExamination (q : Nat) : Statement (.recordExamination q) := all _
theorem admission (k : Nat) : Statement (.admission k) := all _
theorem teamDeal (k : Nat) : Statement (.teamDeal k) := all _
theorem glean (core : Nat) : Statement (.glean core) := all _
theorem gleanAnswer (core : Nat) : Statement (.gleanAnswer core) := all _
theorem gleanAnswerArrival (core : Nat) : Statement (.gleanAnswerArrival core) := all _
theorem quantumEnd : Statement (.quantumEnd) := all _
theorem holderChange : Statement (.holderChange) := all _
theorem tokenTick : Statement (.tokenTick) := all _
theorem fcfgEnable (f : Nat) (w : Word) : Statement (.fcfgEnable f w) := all _
theorem fcfgDisable (f : Nat) (w : Word) : Statement (.fcfgDisable f w) := all _
theorem registerWrite (f off : Nat) (w : Word) : Statement (.registerWrite f off w) := all _
theorem extAdd (f i : Nat) (img : BitVec 128) : Statement (.extAdd f i img) := all _
theorem extRevoke (f i : Nat) : Statement (.extRevoke f i) := all _
theorem revocationPoint (i : Nat) : Statement (.revocationPoint i) := all _
theorem extFree (f i : Nat) : Statement (.extFree f i) := all _
theorem colSet (f colour fn prot kslot : Nat) : Statement (.colSet f colour fn prot kslot) := all _
theorem imgBind (f colour i : Nat) : Statement (.imgBind f colour i) := all _
theorem keyRelease (f colour addr : Nat) (blob : Option (List Byte)) : Statement (.keyRelease f colour addr blob) := all _
theorem keyZero (f colour : Nat) : Statement (.keyZero f colour) := all _
theorem preempt (f fn : Nat) : Statement (.preempt f fn) := all _
theorem sweep (f : Nat) : Statement (.sweep f) := all _
theorem mcmdUnlistedOp (f op : Nat) : Statement (.mcmdUnlistedOp f op) := all _
theorem managementCommandEnd (f : Nat) : Statement (.managementCommandEnd f) := all _
theorem sweepPassComplete : Statement (.sweepPassComplete) := all _
theorem functionLevelReset (f : Nat) : Statement (.functionLevelReset f) := all _
theorem stopInterface (f : Nat) : Statement (.stopInterface f) := all _
theorem scrubReceipt (f : Nat) : Statement (.scrubReceipt f) := all _
theorem spdmRequest (rq : SpdmRq) : Statement (.spdmRequest rq) := all _
theorem ideIntegrityFailure (f : Nat) : Statement (.ideIntegrityFailure f) := all _
theorem flitReplay : Statement (.flitReplay) := all _
theorem hostInboundRequest (f : Nat) (rq : InRq) : Statement (.hostInboundRequest f rq) := all _
theorem peerInboundRequest (dev : Nat) (cap : BitVec 128) (tag : Bool) (rq : InRq) : Statement (.peerInboundRequest dev cap tag rq) := all _
theorem powerUp : Statement (.powerUp) := all _
theorem conventionalReset : Statement (.conventionalReset) := all _
theorem pcieTraining (flit : Bool) : Statement (.pcieTraining flit) := all _
theorem go : Statement (.go) := all _
theorem firmwareVerify (img : Option (List Byte)) : Statement (.firmwareVerify img) := all _
theorem configApply (blob : Option (List Byte)) : Statement (.configApply blob) := all _
theorem hbmTraining (ok : Bool) : Statement (.hbmTraining ok) := all _
theorem fabricBringUp (ok : Bool) : Statement (.fabricBringUp ok) := all _
theorem fewickStageEnd : Statement (.fewickStageEnd) := all _
theorem stageTimeLimit : Statement (.stageTimeLimit) := all _
theorem partnerSignal (p : Nat) : Statement (.partnerSignal p) := all _
theorem detectTimeout (p : Nat) : Statement (.detectTimeout p) := all _
theorem detectRetry (p : Nat) : Statement (.detectRetry p) := all _
theorem negotiate (p : Nat) (offer : LinkOffer) : Statement (.negotiate p offer) := all _
theorem attest (p : Nat) (proof : LinkProof) : Statement (.attest p proof) := all _
theorem flitReceived (p : Nat) (fl : FlitIn) : Statement (.flitReceived p fl) := all _
theorem flitResend (p : Nat) : Statement (.flitResend p) := all _
theorem retryLimit (p : Nat) : Statement (.retryLimit p) := all _
theorem portRetrain (p : Nat) : Statement (.portRetrain p) := all _
theorem portDisable (p : Nat) : Statement (.portDisable p) := all _
theorem pacing (on : Bool) : Statement (.pacing on) := all _
theorem softError (loc : ErrAt) (multi : Bool) : Statement (.softError loc multi) := all _
theorem parityError (core : Nat) : Statement (.parityError core) := all _
theorem coreRetirement (core : Nat) : Statement (.coreRetirement core) := all _
theorem patrolScrub (addr : Nat) : Statement (.patrolScrub addr) := all _
theorem snapshotRequest : Statement (.snapshotRequest) := all _
theorem snapshotWrite : Statement (.snapshotWrite) := all _
theorem watchWindowEnd : Statement (.watchWindowEnd) := all _
theorem segmentClose (r : Nat) : Statement (.segmentClose r) := all _
theorem checkpoint : Statement (.checkpoint) := all _
theorem checkpointRestore (img : Option (List Byte)) : Statement (.checkpointRestore img) := all _
theorem checkpointImageWrite : Statement (.checkpointImageWrite) := all _
theorem powerOff : Statement (.powerOff) := all _
theorem lockInterface (f : Nat) : Statement (.lockInterface f) := all _
theorem startInterface (f : Nat) : Statement (.startInterface f) := all _
theorem join32 : Statement (.join32) := all _
theorem ret32 : Statement (.ret32) := all _
theorem exit32 : Statement (.exit32) := all _
theorem yield32 : Statement (.yield32) := all _
theorem nop32 : Statement (.nop32) := all _

end Sys2Proof.Laws.Words
end

