-- ==== Sys2Proof/Tests/Slice0.lean ====
section
/-! SUPPORT. Tests: ill-formed terms refused, words written out from the spec's encodings, and, for every statement with
hypotheses, a state and operands that meet them. A witness checks the hypotheses alone; the results a test
expects are the spec's own examples. -/

set_option maxRecDepth 20000

namespace Sys2Proof.Tests

open Sys2Proof Sys2Proof.Machine Sys2Proof.Safety Sys2Proof.Rules

/-! What a witness of an instruction form has to show. -/

/-- The agent that issues, where nothing stands in its way. -/
def ready (s : State) : Option Iss :=
  s.issuing.filter (fun i => i.p.late.isEmpty && i.p.pend.isEmpty && i.p.win.isEmpty && i.p.mask != 0 &&
    i.p.kind != .park && !i.G.stopReq && (!i.G.step && !i.G.stepDue) && i.G.poison.isEmpty)

theorem clear_of {s : State} {i : Iss} (h : ready s = some i) : Clear s i := by
  unfold ready at h
  rw [Option.filter_eq_some_iff] at h
  obtain ⟨h1, h2⟩ := h
  simp only [Bool.and_eq_true, List.isEmpty_iff, bne_iff_ne, Bool.not_eq_true'] at h2
  obtain ⟨⟨⟨⟨⟨⟨⟨a, b⟩, c⟩, d⟩, e⟩, f⟩, g⟩, k⟩ := h2
  exact ⟨h1, a, b, c, d, e, f, g, k⟩

/-- The decode checks of a form, as a test. -/
def passesDecode (i : Iss) (o : Op) (ok : Iss → Bool) : Bool :=
  (if i.ctl then o.inControl else o.inGroup) && (i.ctl || !o.once || o.unguarded) &&
    (o.asel != 2 || (!i.ctl && o.dqRow)) && ok i

theorem admits_of {i : Iss} {o : Op} {ok : Iss → Bool} (h : passesDecode i o ok = true) : i.admits o ok := by
  simp only [passesDecode, Bool.and_eq_true] at h
  exact ⟨h.1.1.1, h.1.1.2, h.1.2, h.2⟩

/-- What holds of the agent that issues in a concrete state. -/
theorem at_ready {s : State} {i : Iss} {P : Iss → Prop} [DecidablePred P] (hi : ready s = some i)
    (h : (ready s).all (fun i => decide (P i)) = true) : P i := by
  rw [hi] at h
  simpa using h

/-- Each of a list. -/
def Each {α : Type} (P : α → Prop) : List α → Prop
  | [] => True
  | x :: xs => P x ∧ Each P xs

theorem each_of {α : Type} {P : α → Prop} {f : α → Bool} (h : ∀ x, f x = true → P x) :
    ∀ xs : List α, xs.all f = true → Each P xs
  | [], _ => trivial
  | x :: xs, hx => by
    simp only [List.all_cons, Bool.and_eq_true] at hx
    exact ⟨h x hx.1, each_of h xs hx.2⟩

/-- From state s the hypotheses of the lane form's statement all hold. -/
def LaneMeets (R : Instr → Option LaneRule) (s : State) (x : Instr) : Prop :=
  ∃ r i, R x = some r ∧ Clear s i ∧ i.ctl = false ∧ i.admits r.op r.ok ∧ r.op.lookahead = 0
def laneChecks (R : Instr → Option LaneRule) (s : State) (x : Instr) : Bool :=
  match R x, ready s with
  | some r, some i => !i.ctl && passesDecode i r.op r.ok && r.op.lookahead == 0
  | _, _ => false
theorem laneMeets_of {R : Instr → Option LaneRule} {s : State} {x : Instr} (h : laneChecks R s x = true) :
    LaneMeets R s x := by
  unfold laneChecks at h
  split at h
  · rename_i r i hr hi
    simp only [Bool.and_eq_true, Bool.not_eq_true', beq_iff_eq] at h
    exact ⟨r, i, hr, clear_of hi, h.1.1, admits_of h.1.2, h.2⟩
  · simp at h

/-- From state s the hypotheses of the form's statement all hold. -/
def Meets (R : Instr → Option Rule) (s : State) (x : Instr) : Prop :=
  ∃ r i, R x = some r ∧ Clear s i ∧ i.admits r.op r.ok ∧ i.mustPark r.op = none ∧ r.op.lookahead = 0 ∧
    r.pre (i.issued r.op) ∧ ∀ w ∈ r.ws (i.issued r.op), i.takes w = true
def checks (R : Instr → Option Rule) (s : State) (x : Instr) : Bool :=
  match R x, ready s with
  | some r, some i => passesDecode i r.op r.ok && (i.mustPark r.op).isNone && r.op.lookahead == 0 &&
      (r.ws (i.issued r.op)).all i.takes
  | _, _ => false
theorem meets_of {R : Instr → Option Rule} {s : State} {x : Instr} {r : Rule} (hr : R x = some r)
    (h : checks R s x = true) (hp : ∀ i, ready s = some i → r.pre (i.issued r.op)) : Meets R s x := by
  unfold checks at h
  rw [hr] at h
  split at h
  · rename_i r' i hr' hi
    cases hr'
    simp only [Bool.and_eq_true, Option.isNone_iff_eq_none, beq_iff_eq, List.all_eq_true] at h
    exact ⟨r, i, hr, clear_of hi, admits_of h.1.1.1, h.1.1.2, h.1.2, hp i hi, h.2⟩
  · simp at h

/-- An answer that is no refusal. -/
theorem ok_of {ε α : Type} {e : Except ε α} (h : e.toOption.isSome = true) : ∃ c, e = .ok c := by
  cases e with
  | ok c => exact ⟨c, rfl⟩
  | error _ => simp [Except.toOption] at h

/-! States. -/

/-- A group of core 0 at pc 0 with every lane, every register zero; a control thread of core 0. -/
def group0 : State := State.reset.placed false []
def thread0 : State := State.reset.placed true []
/-- Changes of group 0, of its converged path, of context 0, of the team and of core 0. -/
def inG (s : State) (f : Group → Group) : State :=
  match s.group 0 with
  | some G => s.setGroup 0 (f G)
  | none => s
def inP (s : State) (f : Path → Path) : State := inG s (fun G => { G with stack := G.stack.map f })
def inC (s : State) (f : Ctx → Ctx) : State :=
  match s.ctx 0 with
  | some C => s.setCtx 0 (f C)
  | none => s
def inT (s : State) (f : Team → Team) : State :=
  match s.team 0 with
  | some T => s.setTeam 0 (f T)
  | none => s
/-- A capability in a uniform quad, and in a pair of c registers. -/
def putK (c : CapV) (n : Nat) (G : Group) : Group :=
  { ((((G.setK n (c.bits.extractLsb' 0 32)).setK (n + 1) (c.bits.extractLsb' 32 32)).setK (n + 2)
      (c.bits.extractLsb' 64 32)).setK (n + 3) (c.bits.extractLsb' 96 32)) with
    ktag := G.ktag ||| BitVec.ofNat 12 (2 ^ (n / 4)) }
def putC (c : CapV) (n : Nat) (C : Ctx) : Ctx :=
  { C with
    c := Store.write (Store.write C.c n (c.bits.extractLsb' 0 64)) (n + 1) (c.bits.extractLsb' 64 64)
    ctag := C.ctag ||| BitVec.ofNat 32 (2 ^ (n / 2)) }
/-- Read and write access to the 64 KiB at 0, its cursor at 0x1000; all permissions. -/
def dataCap : CapV := CapV.mint 0 0xFFF 1 0 0x10000 0x1000
/-- A region record over those bytes that admits reads, writes and atomics. -/
def region0 : Region := { base := 0, top := 0x10000, mode := 3, aop := 0, nofwd := false, colour := 1 }
/-- Group 0 with lane 0 alone, `dataCap` in k4 to k7, a code capability in k8 to k11, a sealed entry in k16 to k19. -/
def group1 : State :=
  inT (inG (inP group0 (fun p => { p with mask := 1 }))
    (fun G => putK (CapV.codePage.withForm 4) 16 (putK CapV.codePage 8 (putK dataCap 4 G))))
    (fun T => { T with regions := [region0] })
/-- Context 0 with `dataCap` in c4 and c5. -/
def thread1 : State := inT (inC thread0 (putC dataCap 4)) (fun T => { T with regions := [region0] })

/-! Operands. -/

def R : Short := ⟨8, 4, 12⟩
/-- D 8, A 4, B 12, guard q7. -/
def L (ty : BitVec 4) (imm : BitVec 13) (asel bsel : BitVec 2) (sc : BitVec 3 := 0) (lit : Option Word := none) : Long :=
  ⟨8, 4, 12, imm, asel, bsel, ty, sc, 0, 7, 0, lit⟩

/-! Lane forms. -/

def arithForms : List Instr :=
  let n := L 2 0 0 0
  [.iadd32 R, .iadd64 n, .iaddUb R, .isub32 R, .isub64 n, .isubUb R, .imul32 R, .imul64 n, .imulUb R, .imulh32 R,
   .imulh64 n, .imad n, .imadw n, .idiv n, .irem n, .imin32 R, .imin64 n, .imax32 R, .imax64 n, .iabs32 R, .iabs64 n,
   .ineg32 R, .ineg64 n]
def logicForms : List Instr :=
  let n := L 10 0 0 0
  [.and32 R, .and64 n, .andUb R, .or32 R, .or64 n, .orUb R, .xor32 R, .xor64 n, .xorUb R, .andn32 R, .andn64 n, .not32 R,
   .not64 n, .shl32 R, .shl64 n, .shlUb R, .shr32 R, .shr64 n, .shrUb R, .sar32 R, .sar64 n, .rot32 R, .rot64 n, .shf n,
   .bfx (L 2 0 0 0), .bfi n, .perm n, .popc32 R, .popc64 n, .clz32 R, .clz64 n, .ctz32 R, .ctz64 n, .brev32 R, .brev64 n]
def moveForms : List Instr :=
  [.mov32 R, .mov64 (L 2 0 0 0), .movl (L 10 0 0 3 0 (some 5)), .sel (L 2 0 0 0), .lid32 R, .lid64 (L 2 0 0 0)]

theorem test_lane_arithmetic_runs : Each (LaneMeets arith group0) arithForms :=
  each_of (fun _ => laneMeets_of) _ (by decide)
theorem test_lane_logic_runs : Each (LaneMeets logic group0) logicForms := each_of (fun _ => laneMeets_of) _ (by decide)
theorem test_lane_moves_run : Each (LaneMeets moves group0) moveForms := each_of (fun _ => laneMeets_of) _ (by decide)

/-! Predicates, comparisons, the uniform instructions in both streams. -/

def predForms : List Instr :=
  [.icmp (L 2 0 0 0), .iset (L 2 0 0 0), .iadc32 R, .iadc64 (L 2 0 0 0), .plop (L 0 0 0 0), .p2k32 R, .p2k64 (L 0 0 0 0),
   .k2p32 R, .k2p64 (L 0 0 0 1), .pmov32 R, .pmov64 (L 0 0 0 0)]
theorem test_predicate_forms_run : Each (Meets preds group0) predForms := by
  repeat first | exact trivial | refine ⟨meets_of rfl (by decide) (fun _ _ => trivial), ?_⟩

def uniformForms (asel bsel : BitVec 2) : List Instr :=
  let n := L 2 0 asel bsel
  let b := L 10 0 asel bsel
  [.uadd32 R, .uadd64 n, .usub32 R, .usub64 n, .umul32 R, .umul64 n, .umad n, .uand32 R, .uand64 b, .uor32 R, .uor64 b,
   .uxor32 R, .uxor64 b, .umov32 R, .umov64 n, .ushl32 R, .ushl64 b, .ushr32 R, .ushr64 b, .usar32 R, .usar64 b,
   .umin32 R, .umin64 n, .umax32 R, .umax64 n, .ucmp n, .usel b, .ubfx n, .upopc32 R, .upopc64 b, .uclz32 R, .uclz64 b]
theorem test_uniform_forms_run : Each (Meets uniform group0) (uniformForms 1 1) := by
  repeat first | exact trivial | refine ⟨meets_of rfl (by decide) (fun _ _ => trivial), ?_⟩
theorem test_uniform_forms_run_in_threads : Each (Meets uniform thread0) (uniformForms 0 0) := by
  repeat first | exact trivial | refine ⟨meets_of rfl (by decide) (fun _ _ => trivial), ?_⟩

/-! Floats, conversions, packed forms: no flag is enabled. -/

/-- Where k57 is zero no flag is enabled. -/
theorem flags_free {i : Iss} (x : Nat) (h : i.enables = 0) : x &&& i.enables = 0 := by simp [h]
theorem float_pre {i : Iss} {o : Op} (x : Nat) (h : o.asel ≠ 2 ∨ i.G.drain ≠ []) (h' : i.enables = 0) :
    (o.asel = 2 → i.G.drain ≠ []) ∧ (i.ctl = true ∨ x &&& i.enables = 0) :=
  ⟨fun e => h.resolve_left (fun k => k e), .inr (flags_free x h')⟩

def floatForms : List Instr :=
  let f := L 1 0 0 0
  [.fadd32 R, .fadd64 f, .fsub32 R, .fsub64 f, .fmul32 R, .fmul64 f, .ffma f, .fmin32 R, .fmin64 f, .fmax32 R, .fmax64 f,
   .fset f, .fcmp f, .fclass f, .frnd32 R, .frnd64 f, .fscale32 R, .fscale64 f, .fexpt32 R, .fexpt64 f, .fsqrt f, .fdiv f,
   .frcp f, .frsq f, .fexp2 f, .flog2 f, .fsin f, .fcos f, .ftanh f]
theorem test_float_forms_run : Each (Meets floats group0) floatForms := by
  repeat first
    | exact trivial
    | refine ⟨meets_of rfl (by decide) (fun i hi => float_pre _ (.inl (by decide)) (by apply at_ready hi; decide)), ?_⟩
/-- A row staged at the drain port. -/
def staged : State := inG group0 (fun G => { G with drain := [⟨1, zeroRow⟩] })
theorem test_float_form_takes_a_drain_row : Meets floats staged (.fadd64 (L 1 0 2 0)) :=
  meets_of rfl (by decide) (fun i hi => float_pre _ (.inr (by apply at_ready hi; decide)) (by apply at_ready hi; decide))

theorem test_conversions_run :
    Each (Meets converts group0) [.fcvt (L 2 0x200 0 0), .ficvt (L 1 0x480 0 0), .ficvt (L 2 0x200 0 0)] := by
  repeat first
    | exact trivial
    | refine ⟨meets_of rfl (by decide) (fun i hi => float_pre _ (.inl (by decide)) (by apply at_ready hi; decide)), ?_⟩
theorem test_icvt_runs : Meets converts group0 (.icvt (L 2 0x600 0 0)) :=
  meets_of rfl (by decide) (fun i hi => float_pre _ (.inl (by decide)) (by apply at_ready hi; decide))

theorem test_packed_forms_run : Each (Meets packeds group0)
    [.hadd232 R, .hadd264 (L 4 0 0 0), .hmul232 R, .hmul264 (L 4 0 0 0), .hfma2 (L 4 0 0 0), .dot2 (L 4 0 0 0),
     .mxq (L 12 0x220 0 2), .mxdq (L 1 0x1800 0 0)] := by
  repeat first
    | exact trivial
    | refine ⟨meets_of rfl (by decide) (fun i hi => float_pre _ (.inl (by decide)) (by apply at_ready hi; decide)), ?_⟩
theorem test_dot4_runs : Meets packeds group0 (.dot4 (L 0 0 0 0)) := meets_of rfl (by decide) (fun _ _ => trivial)

/-! Row 0x20, from a converged group. -/

theorem test_group_wide_forms_run : Each (Meets groupWide group0)
    [.shfl (L 10 0 0 0), .vote (L 0 0 0 0), .rdln (L 10 0 0 1), .matchg (L 10 0 0 0)] := by
  repeat first | exact trivial | refine ⟨meets_of rfl (by decide) (fun _ _ => trivial), ?_⟩
theorem test_rdfl_runs : Meets groupWide group0 (.rdfl (L 10 0 0 0)) :=
  meets_of rfl (by decide) (fun _ _ h => absurd h (by decide))
theorem test_redg_runs : Meets groupWide group0 (.redg (L 2 0 0 0)) :=
  meets_of rfl (by decide) (fun i hi => flags_free _ (by apply at_ready hi; decide))
theorem test_scang_runs : Meets groupWide group0 (.scang (L 2 0 0 0)) :=
  meets_of rfl (by decide) (fun i hi => flags_free _ (by apply at_ready hi; decide))

/-! Capabilities, by a uniform quad and by a pair of c registers. -/

/-- The one derivation of a form that executes once. -/
theorem derive_pre {i : Iss} {o : Op} {w : Long} {ok : Iss → Bool} {f : Iss → Nat → CapV → Except CapErr CapV}
    (h : i.capOnceForm w = true) (h0 : (f i 0 (i.capAt w 0)).toOption.isSome = true) : (derive o w ok f).pre i := by
  intro L _ hL
  unfold capPart at hL
  rw [if_pos h] at hL
  subst hL
  exact ok_of h0

theorem test_capability_forms_run : Each (Meets caps group1)
    [.cadd64 (L 2 4 1 2), .cset64 (L 6 4 1 2), .cbnd (L 6 16 1 2), .cperm64 (L 6 0xFF 1 2),
     .cclr64 (L 0 0 1 1), .cseal ⟨20, 8, 4, 0, 1, 1, 0, 4, 0, 7, 0, none⟩,
     .cunseal ⟨20, 16, 4, 0, 1, 1, 0, 0, 0, 7, 0, none⟩] := by
  repeat first
    | exact trivial
    | refine ⟨meets_of rfl (by decide) (fun i hi => by
        try dsimp only [cadd, cset, cperm, cclr, byInt]
        refine derive_pre ?_ ?_ <;> (apply at_ready hi; decide)), ?_⟩
theorem test_capability_short_forms_run : Each (Meets caps thread1) [.cadd32 R, .cset32 R, .cperm32 R, .cclr32 R] := by
  repeat first
    | exact trivial
    | refine ⟨meets_of rfl (by decide) (fun i hi => by
        try dsimp only [cadd, cset, cperm, cclr, byInt]
        refine derive_pre ?_ ?_ <;> (apply at_ready hi; decide)), ?_⟩
theorem test_capability_reads_run : Each (Meets caps group1) [.cget (L 0 0 1 1), .ctest (L 0 1 1 1)] := by
  repeat first | exact trivial | refine ⟨meets_of rfl (by decide) (fun _ _ => trivial), ?_⟩


/-! Loads, stores, atomics: lane 0, `dataCap`, a region record. -/

/-- One access passes. -/
def passes1 (i : Iss) (at_ : State) (u : LsUse) (n : Nat) (k : RKind) (write reads : Bool) (x : Acc) : Bool :=
  (i.lsErr u n x).isNone && (i.refusal at_ n write reads x).isNone && !isHost x.addr &&
    (!regionChecked x.addr || (decide (k = .read) && i.inParam x.addr n) ||
      !(admitting i.T.regions x.addr (x.addr + n) k).isEmpty)
theorem passes_of {i : Iss} {at_ : State} {u : LsUse} {n : Nat} {k : RKind} {write reads : Bool} {xs : List Acc}
    (h : xs.all (passes1 i at_ u n k write reads) = true) : passes i at_ u n k write reads xs := by
  intro x hx
  have := List.all_eq_true.1 h x hx
  simp only [passes1, Bool.and_eq_true, Bool.or_eq_true, Option.isNone_iff_eq_none, Bool.not_eq_true',
    decide_eq_true_eq, List.isEmpty_eq_false_iff] at this
  obtain ⟨⟨⟨a, b⟩, c⟩, d⟩ := this
  exact ⟨a, b, c, by tauto⟩

theorem test_memory_forms_run : Each (Meets memory group1)
    [.ld (L 10 0 1 2), .st (L 10 0 1 2), .ldu (L 10 0 1 2), .stu (L 10 0 1 2), .ldc (L 12 0 1 2), .stc (L 12 0 1 2),
     .atom (L 6 0 1 2), .cas (L 10 0 1 2), .atomf (L 10 0 1 2), .red (L 6 0 1 2)] := by
  repeat first
    | exact trivial
    | refine ⟨meets_of rfl (by decide) (fun i hi => passes_of (by apply at_ready hi; decide)), ?_⟩
theorem test_pref_runs : Meets memory group1 (.pref (L 0 0 1 2)) := meets_of rfl (by decide) (fun _ _ => trivial)
theorem test_memory_forms_run_in_threads : Each (Meets memory thread1)
    [.ldu (L 10 0 0 2), .stu (L 10 0 0 2), .atom (L 6 0 0 2), .cas (L 10 0 0 2), .red (L 6 0 0 2)] := by
  repeat first
    | exact trivial
    | refine ⟨meets_of rfl (by decide) (fun i hi => passes_of (by apply at_ready hi; decide)), ?_⟩

/-! Control flow: a span of 512 rows, the window at row 72, a link in k44 to k47, a decision for the team. -/

def group2 : State :=
  let s := inG group1 (fun G => putK CapV.codePage 44 { G with held := 512, base := 72, fsz := 72 })
  s.setCore 0 { s.core 0 with dq := [⟨0, 2, 0, 7⟩] }

theorem test_control_flow_runs : Each (Meets flow group2)
    [.bra32 R, .bra96 (L 0 0 0 3 0 (some 4)), .brc32 R, .brc96 (L 0 0 0 3 0 (some 4)), .brx (L 0 1 1 0), .yield32,
     .yield64 (L 0 0 0 0), .nop32, .nop64 (L 0 0 0 0), .hint 7] := by
  repeat first | exact trivial | refine ⟨meets_of rfl (by decide) (fun _ _ => trivial), ?_⟩
theorem test_call_runs : Each (Meets flow group2) [.call32 R, .call96 (L 0 0 0 3 0 (some 4))] := by
  repeat first
    | exact trivial
    | refine ⟨meets_of rfl (by decide) (fun i hi => .inr (by unfold fits; apply at_ready hi; decide)), ?_⟩
theorem test_calli_runs : Meets flow group2 (.calli ⟨1, 16, 0, 0, 1, 0, 0, 0, 0, 7, 0, none⟩) :=
  meets_of rfl (by decide) (fun i hi => ⟨by unfold codeOk; apply at_ready hi; decide,
    .inr (by unfold fits; apply at_ready hi; decide)⟩)
theorem test_ret_runs : Each (Meets flow group2) [.ret32, .ret64 (L 0 0 0 0)] := by
  repeat first
    | exact trivial
    | refine ⟨meets_of rfl (by decide) (fun i hi => ⟨by unfold codeOk; apply at_ready hi; decide,
        .inr ⟨by apply at_ready hi; decide, by apply at_ready hi; decide, by unfold fits; apply at_ready hi; decide⟩⟩), ?_⟩
theorem test_winb_runs : Each (Meets flow group2) [.winb32 ⟨1, 0, 0⟩, .winb64 (L 0 8 0 2)] := by
  repeat first
    | exact trivial
    | refine ⟨meets_of rfl (by decide) (fun i hi => by change _ ∧ _ ∧ _ ∧ _ ∧ fits _ _ _; unfold fits; apply at_ready hi; decide), ?_⟩
theorem test_take_runs : Meets flow group2 (.take (L 0 0 0 0)) :=
  meets_of rfl (by decide) (fun i hi => by apply at_ready hi; decide)
theorem test_calls_run_in_threads : Each (Meets flow thread0) [.bra32 R, .call32 R, .yield32, .nop32] := by
  repeat first
    | exact trivial
    | refine ⟨meets_of rfl (by decide) (fun _ _ => trivial), ?_⟩
    | refine ⟨meets_of rfl (by decide) (fun i hi => .inl (by apply at_ready hi; decide)), ?_⟩


/-! Fences, walks, barriers, pools, system registers, the group window. -/

/-- A barrier of the team at phase 5 that one arrival completes. -/
def bar5 : Barrier := { owner := some 0, arrN := 1, bytN := 0, arr := 0, byt := 0, cph := 5 }
def group3 : State := ((inT (inG group1 (fun G => { G with held := 256 })) (fun T => { T with tileMax := 4 })).setBar 0 0 bar5)
/-- A tile of units 0 and 1, whose handle is 64, in k12. -/
def group4 : State := inG (inT group3 (fun T => { T with tiles := [(0, 2)] })) (fun G => G.setK 12 64)
/-- The number 1 in c4; a stopped group 0 for the window. -/
def thread2 : State := inC thread0 (fun C => { C with c := Store.write C.c 4 1 })
def thread3 : State := inG thread0 (fun G => { G with run := .stopped })

theorem test_system_forms_run : Each (Meets system group3)
    [.fence (L 0 0x800 0 0), .sysrd (L 0 1 0 0), .syswr (L 0 1 1 0), .clock32 R, .clock64 (L 0 0 0 0), .pmrd (L 0 1 0 0)] := by
  repeat first | exact trivial | refine ⟨meets_of rfl (by decide) (fun _ _ => trivial), ?_⟩
theorem test_barv_runs : Meets system group3 (.barv (L 0 0 1 0)) :=
  meets_of rfl (by decide) (fun i hi => by apply at_ready hi; decide)
theorem test_fencex_runs : Meets system group3 (.fencex (L 0 0 0 0)) :=
  meets_of rfl (by decide) (fun i hi => by apply at_ready hi; decide)
theorem test_trap_of_no_lane_runs :
    Meets system group3 (.trap ⟨0, 0, 0, 0, 0, 0, 0, 0, 1, 7, 0, none⟩) :=
  meets_of rfl (by decide) (fun i hi => by apply at_ready hi; decide)
theorem test_walks_run : Each (Meets system group3)
    [.cflush (L 0 0 1 3 2 (some 256)), .cinv (L 0 0 1 3 2 (some 256)), .icinv (L 0 0 1 3 2 (some 256))] := by
  repeat first
    | exact trivial
    | refine ⟨meets_of rfl (by decide) (fun i hi => by
        simp only [walk, icinv, rangeOk]
        apply at_ready hi; decide), ?_⟩
theorem test_waits_on_barriers_run : Each (Meets system group3) [.bwait ⟨0, 20, 0, 0, 1, 0, 0, 0, 0, 7, 0, none⟩, .bsync (L 0 0 1 0), .sleep (L 0 0 0 2)] := by
  repeat first
    | exact trivial
    | refine ⟨meets_of rfl (by decide) (fun i hi => by apply at_ready hi; decide), ?_⟩
theorem test_binit_runs : Meets system thread2 (.binit (L 0 0 0 0)) := meets_of rfl (by decide) (fun _ _ => trivial)
theorem test_pools_run : Each (Meets system group3) [.claim (L 0 16 1 2), .release (L 0 16 1 2), .tclaim (L 0 2 1 2)] := by
  repeat first
    | exact trivial
    | refine ⟨meets_of rfl (by decide) (fun i hi => by
        simp only [unstuck]
        apply at_ready hi; decide), ?_⟩
theorem test_trelease_runs : Meets system group4 (.trelease (L 0 0 1 1)) :=
  meets_of rfl (by decide) (fun i hi => by
    simp only [unstuck]
    apply at_ready hi; decide)
theorem test_group_window_runs : Each (Meets system thread3)
    [.gstop (L 0 0 0 0), .grd (L 0 0x400 0 0), .gwr (L 0 0x800 0 3 0 (some 0x10000005)), .gres (L 0 0xC00 0 0), .gstat (L 0 0x1000 0 0)] := by
  repeat first
    | exact trivial
    | refine ⟨meets_of rfl (by decide) (fun i hi => by
        simp only [windowForm, isNamed, isHeld, unstuck]
        apply at_ready hi; decide), ?_⟩
theorem test_gstop_of_a_running_group_runs : Meets system thread0 (.gstop (L 0 0 0 0)) :=
  meets_of rfl (by decide) (fun i hi => by
    simp only [windowForm, isNamed, isHeld, unstuck]
    apply at_ready hi; decide)


/-! Commands to the engines: blocks of a copy, of an MMA and of a collective at 0x2000, 0x2040 and 0x2080. -/

def blockCap (a : Nat) : CapV :=
  ((CapV.mint 0 0xFFF 1 a (a + 64) a).seal dataCap 2).toOption.getD CapV.zero
/-- X = 64 bytes, no bitmap; an MMA; an allgather of nothing, its barrier 0. -/
def copyBits : BitVec 512 := BitVec.ofNat 512 (2 ^ 510 + 2 ^ 504 + 64 * 2 ^ 448)
def mmaBits : BitVec 512 := BitVec.ofNat 512 (2 * 2 ^ 504)
def collBits : BitVec 512 := BitVec.ofNat 512 (7 * 2 ^ 504)
def withBlocks (s : State) : State :=
  { s with mem := s.mem.homeWrite 0x2000 (leBytes 64 copyBits.toNat ++ leBytes 64 mmaBits.toNat ++ leBytes 64 collBits.toNat) }
/-- A group of the role of collectives, with the three capabilities in k20 to k31. -/
def group5 : State :=
  withBlocks (inG (inT group3 (fun T => { T with roles := [(1, 1)] }))
    (fun G => putK (blockCap 0x2080) 28 (putK (blockCap 0x2040) 24 (putK (blockCap 0x2000) 20 G))))
/-- A context with `dataCap` in c4 and c5, the three in c20 to c25, and a record in its ring. -/
def thread4 : State :=
  withBlocks (inC (inT thread1 (fun T => { T with ridx := 1 }))
    (fun C => putC (blockCap 0x2080) 24 (putC (blockCap 0x2040) 22 (putC (blockCap 0x2000) 20 C))))

theorem test_appends_run : Each (Meets engine group5)
    [.tcopy ⟨8, 20, 0, 0, 1, 2, 0, 0, 0, 7, 0, none⟩, .rcopy ⟨8, 20, 0, 0, 1, 2, 0, 0, 0, 7, 0, none⟩] := by
  repeat first
    | exact trivial
    | refine ⟨meets_of rfl (by decide) (fun i hi => by
        simp only [copy, appends, hasPermit]
        apply at_ready hi; decide), ?_⟩

theorem test_apnd_runs : Meets engine group5 (.apnd ⟨8, 20, 0, 0, 1, 1, 0, 0, 0, 7, 0, none⟩) :=
  meets_of rfl (by decide) (fun i hi => by
    simp only [apnd, appends, hasPermit]
    apply at_ready hi; decide)
theorem test_mma_runs : Meets engine thread4 (.mma ⟨8, 22, 0, 0, 0, 2, 0, 0, 0, 7, 0, none⟩) :=
  meets_of rfl (by decide) (fun i hi => by
    simp only [mma, appends, hasPermit]
    apply at_ready hi; decide)
theorem test_tile_commands_run : Each (Meets engine thread4)
    [.mzero ⟨8, 12, 0, 0, 0, 0, 0, 0, 0, 7, 0, none⟩, .mload ⟨8, 4, 12, 0, 0, 0, 0, 0, 0, 7, 0, none⟩,
     .mstore ⟨8, 4, 12, 0, 0, 0, 0, 0, 0, 7, 0, none⟩, .mdrain ⟨8, 12, 0, 0, 0, 0, 0, 0, 0, 7, 0, none⟩] := by
  repeat first
    | exact trivial
    | refine ⟨meets_of rfl (by decide) (fun i hi => by
        simp only [tile, appends, hasPermit]
        apply at_ready hi; decide), ?_⟩
theorem test_coll_runs : Meets engine group5 (.coll ⟨8, 28, 0, 0, 1, 1, 0, 0, 0, 7, 0, none⟩) :=
  meets_of rfl (by decide) (fun i hi => by
    simp only [coll, hasPermit]
    apply at_ready hi; decide)
theorem test_cpl_runs : Meets engine group5 (.cpl ⟨4, 4, 0, 0, 1, 2, 10, 1, 0, 7, 0, none⟩) :=
  meets_of rfl (by decide) (fun i hi => by
    simp only [cpl, checked]
    apply at_ready hi; decide)
theorem test_waits_on_engines_run : Each (Meets engine group5)
    [.sheaf (L 0 0 0 0), .wsheaf (L 0 0 1 1), .wseq (L 0 0 1 1)] := by
  repeat first
    | exact trivial
    | refine ⟨meets_of rfl (by decide) (fun i hi => by
        simp only [postDropped]
        apply at_ready hi; decide), ?_⟩
theorem test_wchk_runs : Meets engine group5 (.wchk (L 0 0 1 1)) :=
  meets_of rfl (by decide) (fun i hi => by
    have h : (i.issued (Op.long 0x3C 4 (L 0 0 1 1))).T.owner 0 = none := by apply at_ready hi; decide
    change chunkEnds (L 0 0 1 1) (i.issued (Op.long 0x3C 4 (L 0 0 1 1)))
    unfold chunkEnds
    rw [show (L 0 0 1 1).bits 31 19 = 0 by decide, h]
    trivial)
theorem test_dpost_runs : Meets engine thread4 (.dpost ⟨32, 0, 12, 0, 0, 0, 0, 0, 0, 7, 0, none⟩) :=
  meets_of rfl (by decide) (fun i hi => by
    simp only [postDropped]
    apply at_ready hi; decide)
theorem test_crec_runs : Meets engine group5 (.crec (L 0 0 1 1)) :=
  meets_of rfl (by decide) (fun i hi => by apply at_ready hi; decide)
theorem test_crec_runs_in_threads : Meets engine thread4 (.crec (L 0 0 0 0)) :=
  meets_of rfl (by decide) (fun i hi => by apply at_ready hi; decide)
theorem test_tlaunch_runs : Meets engine thread4 (.tlaunch (L 0 0x1400 0 0)) :=
  meets_of rfl (by decide) (fun i hi => by
    simp only [tlaunch]
    apply at_ready hi; decide)


/-! BRD, JOIN, EXIT, RTT, TRAP. -/

theorem eq_get {s : State} {i : Iss} (hi : ready s = some i) (h : (ready s).isSome = true) : i = (ready s).get h := by
  simp [hi]

def MoveMeets (s : State) (x : Instr) : Prop :=
  ∃ m i, moving x = some m ∧ Clear s i ∧ i.admits m.op m.ok ∧ i.mustPark m.op = none ∧ m.pre (i.issued m.op)
def moveChecks (s : State) (x : Instr) : Bool :=
  match moving x, ready s with
  | some m, some i => passesDecode i m.op m.ok && (i.mustPark m.op).isNone
  | _, _ => false
theorem moveMeets_of {s : State} {x : Instr} {m : Move} (hm : moving x = some m) (h : moveChecks s x = true)
    (hp : ∀ i, ready s = some i → m.pre (i.issued m.op)) : MoveMeets s x := by
  unfold moveChecks at h
  rw [hm] at h
  split at h
  · rename_i r' i hr' hi
    cases hr'
    simp only [Bool.and_eq_true, Option.isNone_iff_eq_none] at h
    exact ⟨m, i, hm, clear_of hi, admits_of h.1, h.2, hp i hi⟩
  · simp at h

/-- A diverged group: a CONV entry and a child that runs. -/
def parted : State :=
  let s := inG group0 (fun G => { G with stack := [Path.fresh .conv 0x40 allLanes CapV.codePage,
    Path.fresh .live 0 1 CapV.codePage] })
  { s with cur := some (.path 0 1) }
/-- A group whose handler is about to return to entry 0 at pc 0x100 with every lane. -/
def handling : State :=
  let s := inG group0 (fun G => { G with
    tf := true
    handler := some { path := Path.fresh .conv 0 allLanes CapV.codePage, ix := 0, code := CapV.codePage, want := none }
    v := Tbl.set G.v (trapRow + 15) ([0, 0, 0, 0, 0xFFFFFFFF, 0xFFFFFFFF, 0xFFFFFFFF, 0x100] ++ List.replicate 88 0) })
  { s with cur := some (.handler 0) }

theorem test_brd_runs : MoveMeets group0 (.brd (L 0 4 0 3 0 (some 8))) :=
  moveMeets_of rfl (by decide) (fun i hi => ⟨⟨0, by apply at_ready hi; decide⟩, by apply at_ready hi; decide⟩)
theorem test_join_runs : MoveMeets parted .join32 := moveMeets_of rfl (by decide) (fun _ _ => trivial)
theorem test_join64_runs : MoveMeets parted (.join64 (L 0 0 0 0)) := moveMeets_of rfl (by decide) (fun _ _ => trivial)
theorem test_exit_runs : MoveMeets group0 .exit32 :=
  moveMeets_of rfl (by decide) (fun i hi h => by
    have : (i.issued (exit (Op.short 0x39 1)).op).ctl = false := by apply at_ready hi; decide
    exact absurd (h.symm.trans this) (by decide))
theorem test_exit_of_a_thread_runs : MoveMeets thread0 (.exit64 (L 0 0 0 0)) :=
  moveMeets_of rfl (by decide) (fun i hi _ => by apply at_ready hi; decide)
theorem test_trap_runs : MoveMeets group0 (.trap (L 0 9 0 0)) :=
  moveMeets_of rfl (by decide) (fun i hi => by
    simp only [trap]
    apply at_ready hi; decide)
theorem test_rtt_runs : MoveMeets handling (.rtt (L 0 0 0 0)) :=
  moveMeets_of rfl (by decide) (fun i hi => by
    obtain rfl := eq_get hi (by decide)
    refine ⟨_, (Option.some_get (by decide)).symm, by decide, by decide, ?_, by decide⟩
    obtain ⟨⟨⟩, h⟩ := ok_of (e := ((ready handling).get (by decide) |>.issued (Op.long 0x3F 1 (L 0 0 0 0))).rttWindow
      { path := Path.fresh .conv 0 allLanes CapV.codePage, ix := 0, code := CapV.codePage, want := none } ⟨0, 0, 0⟩) (by decide)
    exact h)

/-! Forms refused, results held back, results due. -/

theorem test_form_is_refused : ∃ x o l s i, form x = some (o, l) ∧ Clear s i ∧ ¬i.admits o l := by
  refine ⟨.p2k32 ⟨8, 4, 15⟩, _, _, group0, _, rfl, clear_of (Option.some_get (by decide)).symm, ?_⟩
  intro h
  exact absurd h.2.2.2 (by decide)
theorem test_lookahead_holds_a_result : ∃ (x : Instr) (r : Rule) (s : State) (i : Iss), ruleForm x = some r ∧ Clear s i ∧
    i.admits r.op r.ok ∧ i.mustPark r.op = none ∧ 0 < r.op.lookahead ∧ r.pre (i.issued r.op) ∧
    r.ws (i.issued r.op) ≠ [] ∧ ∀ w ∈ r.ws (i.issued r.op), i.takes w = true := by
  refine ⟨.ldu { L 10 0 1 2 with la := 3 }, _, group1, _, rfl, clear_of (Option.some_get (by decide)).symm,
    admits_of (by decide), by decide, by decide, passes_of (by decide), ?_, ?_⟩
  · intro h
    exact absurd (congrArg List.isEmpty h) (by decide)
  · exact List.all_eq_true.1 (by decide)
/-- A result whose shadow has ended. -/
def due : State :=
  inP group0 (fun p => { p with pend := [⟨1, 0, true, [.k 3 7], none, 0, 0⟩] })
theorem test_due_result : ∃ (x : Instr) (o : Op) (l : Iss → Bool) (s : State) (i : Iss) (u : State), form x = some (o, l) ∧
    s.issuing = some i ∧ i.p.late = [] ∧ i.G.stopReq = false ∧ i.G.stepDue = false ∧
    i.settled o = some u ∧ ∃ j, u.issuing = some j ∧ j.ag = i.ag ∧ j.p.mask = i.p.mask ∧ j.p.mask ≠ 0 :=
  ⟨.iadd32 R, _, _, due, _, _, rfl, (Option.some_get (by decide)).symm, by decide, by decide,
    by decide, (Option.some_get (by decide)).symm, _, (Option.some_get (by decide)).symm, by decide, by decide, by decide⟩


/-! Ill-formed terms, one for each check of R94 that the words alone settle. -/

theorem test_literal_missing : (Instr.movl (L 10 0 0 2)).wf = false := by decide
theorem test_literal_selected_but_absent : (Instr.iadd64 (L 2 0 0 3)).wf = false := by decide
theorem test_literal_not_taken : (Instr.p2k64 (L 2 0 0 3 0 (some 1))).wf = false := by decide
theorem test_literal_not_selected : (Instr.iadd64 (L 2 0 0 2 0 (some 1))).wf = false := by decide
theorem test_reserved_asel : (Instr.iadd64 (L 2 0 3 0)).wf = false := by decide
theorem test_window_code_of_another : (Instr.gres (L 0 0x400 0 0)).wf = false := by decide
theorem test_well_formed : (Instr.iadd64 (L 2 0 0 0)).wf = true ∧ (Instr.movl (L 10 0 0 3 0 (some 5))).wf = true ∧
    (Instr.bra96 (L 0 0 0 0 0 (some 4))).wf = true ∧ (Instr.gres (L 0 0xC00 0 0)).wf = true := by decide
/-- Ill-formed words are refused by name. -/
theorem test_words_refused :
    decode [0xE0000009, 0x00000070] = .error .badForm ∧ decode [0xC0000000] = .error .longLatency32 ∧ decode [0x20028401, 0x00898170] = .error .badForm ∧
      decode [0x20028401, 0x00871170] = .error .reservedAsel ∧ decode [0xE00400FD, 0xC0000070] = .error .reservedGop := by
  decide

/-! Words of the spec's worked examples (spec/04_encoding.md to spec/08_isa_engines_system.md). -/

theorem test_examples_of_encoding :
    -- FFMA.f32.rz v4, v5, v6, v7
    decode [0x61828441, 0x00380970] = .ok (.ffma ⟨4, 5, 6, 7, 0, 0, 1, 1, 0, 7, 0, none⟩) ∧
    -- ?!q2 LD.b32.rlx v8, [p3 + 0x40] ^2
    decode [0x000608A1, 0x020150A2] = .ok (.ld ⟨8, 12, 0, 0x40, 0, 2, 10, 0, 1, 2, 2, none⟩) ∧
    -- NOP; 0; HINT 0x3FFF_FFFF
    decode [0x800000E4] = .ok .nop32 ∧ decode [0x00000000] = .error .unassigned ∧
    decode [0xFFFFFFFF] = .ok (.hint 0x3FFFFFFF) := by decide
theorem test_examples_of_lanes :
    -- IADD.s32.sat v4, v5, 17
    decode [0x20028401, 0x00891170] = .ok (.iadd64 ⟨4, 5, 0, 17, 0, 2, 2, 1, 0, 7, 0, none⟩) ∧
    -- BRD q1, taken, merge: RPC 13 words on, the branch 5 words on
    decode [0x600080E2, 0x00698070, 5] = .ok (.brd ⟨0, 1, 0, 13, 0, 3, 0, 0, 0, 7, 0, some 5⟩) ∧
    -- SHFL.down.w32.b32 v7, v6, k9, q3
    decode [0x02430781, 0x4580D070] = .ok (.shfl ⟨7, 6, 9, 0b010_001_011_0000, 0, 1, 10, 0, 0, 7, 0, none⟩) := by decide
theorem test_examples_of_memory :
    -- CADD kp3, kp2, 0x100
    decode [0x00040CA9, 0x08031070] = .ok (.cadd64 ⟨12, 8, 0, 0x100, 1, 2, 2, 0, 0, 7, 0, none⟩) ∧
    -- STU.b32 [kp3], k63
    decode [0x60063FA1, 0x00035070] = .ok (.stu ⟨63, 12, 0, 0, 1, 2, 10, 0, 0, 7, 0, none⟩) ∧
    -- ATOM.add.n32 v4, [kp3], v5
    decode [0x000604A5, 0x002B3070] = .ok (.atom ⟨4, 12, 0, 5, 1, 2, 6, 0, 0, 7, 0, none⟩) ∧
    -- CAS.b32 v8, [kp3], v10, q1
    decode [0x200608A5, 0x08535070] = .ok (.cas ⟨8, 12, 0, 0b00_001_000_01010, 1, 2, 10, 0, 0, 7, 0, none⟩) ∧
    -- ST.b32 [kp3], v6
    decode [0x200606A1, 0x00035070] = .ok (.st ⟨6, 12, 0, 0, 1, 2, 10, 0, 0, 7, 0, none⟩) ∧
    -- FENCE.rel.twr
    decode [0x000000B1, 0x80000470] = .ok (.fence ⟨0, 0, 0, 0b10_00000000000, 0, 0, 0, 4, 0, 7, 0, none⟩) ∧
    -- CFLUSH.pkg kp4, k9, h17
    decode [0x424800B1, 0x08828670] = .ok (.cflush ⟨0, 16, 9, 0b000010001_0000, 1, 1, 0, 6, 0, 7, 0, none⟩) := by decide
theorem test_examples_of_engines :
    -- TCOPY k20, kp4, k10
    decode [0x628814F1, 0x00028070] = .ok (.tcopy ⟨20, 16, 10, 0, 1, 1, 0, 0, 0, 7, 0, none⟩) ∧
    -- WCHK k22, k12, k14, 0x3000
    decode [0x838616F1, 0x06028070] = .ok (.wchk ⟨22, 12, 14, 192, 1, 1, 0, 0, 0, 7, 0, none⟩) ∧
    -- BSYNC k30, h17
    decode [0x60001EF9, 0x08800070] = .ok (.bsync ⟨30, 0, 0, 0b000010001_0000, 0, 0, 0, 0, 0, 7, 0, none⟩) ∧
    -- CLAIM 32
    decode [0x800000F9, 0x01010070] = .ok (.claim ⟨0, 0, 0, 32, 0, 2, 0, 0, 0, 7, 0, none⟩) ∧
    -- MMA c10, cp3, c12
    decode [0x03030AF5, 0x00000070] = .ok (.mma ⟨10, 6, 12, 0, 0, 0, 0, 0, 0, 7, 0, none⟩) := by decide

/-! Words written out from R80 and R95, one of each other row: F, B 7, A 6, D 5, MAJ, LEN. -/

theorem test_rows_of_short_words :
    decode [0b010_0000111_0000110_0000101_000001_00] = .ok (.imin32 ⟨5, 6, 7⟩) ∧
    decode [0b100_0000111_0000110_0000101_000010_00] = .ok (.andn32 ⟨5, 6, 7⟩) ∧
    decode [0b010_0000111_0000110_0000101_000011_00] = .ok (.sar32 ⟨5, 6, 7⟩) ∧
    decode [0b011_0000111_0000110_0000101_000100_00] = .ok (.brev32 ⟨5, 6, 7⟩) ∧
    decode [0b111_0000111_0000110_0000101_001011_00] = .ok (.shrUb ⟨5, 6, 7⟩) ∧
    decode [0b111_0000111_0000110_0000101_001100_00] = .ok (.umov32 ⟨5, 6, 7⟩) ∧
    decode [0b100_0000111_0000110_0000101_001101_00] = .ok (.umax32 ⟨5, 6, 7⟩) ∧
    decode [0b101_0000111_0000110_0000101_001110_00] = .ok (.pmov32 ⟨5, 6, 7⟩) ∧
    decode [0b011_0000111_0000110_0000101_010001_00] = .ok (.fexpt32 ⟨5, 6, 7⟩) ∧
    decode [0b001_0000111_0000110_0000101_010100_00] = .ok (.hmul232 ⟨5, 6, 7⟩) ∧
    decode [0b000_0000111_0000110_0000101_101011_00] = .ok (.cclr32 ⟨5, 6, 7⟩) ∧
    decode [0b000_0000111_0000110_0000101_111001_00] = .ok (.winb32 ⟨5, 6, 7⟩) := by decide
theorem test_rows_of_long_words :
    decode [0b011_0000111_0000110_0000101_010010_01, 0b0000000000000_00_00_0001_010_0_111_0011] =
      .ok (.fdiv ⟨5, 6, 7, 0, 0, 0, 1, 2, 0, 7, 3, none⟩) ∧
    decode [0b000_0000111_0000110_0000101_010011_01, 0b0000000000000_00_00_0001_000_0_111_0000] =
      .ok (.ftanh ⟨5, 6, 7, 0, 0, 0, 1, 0, 0, 7, 0, none⟩) ∧
    decode [0b010_0000111_0000110_0000101_111111_01, 0b0000000010010_01_00_0000_000_0_111_0000] =
      .ok (.sysrd ⟨5, 6, 7, 0x12, 1, 0, 0, 0, 0, 7, 0, none⟩) := by decide

/-! Steps, fetches, words that are no instruction. -/

/-- What an answer that is no refusal holds. -/
theorem answer_of {ε α : Type} {e : Except ε α} (h : e.toOption.isSome = true) : e = .ok (e.toOption.get h) := by
  cases e with
  | ok _ => rfl
  | error _ => simp [Except.toOption] at h

/-- Words placed at address 0. -/
def withWords (ws : List Word) (s : State) : State :=
  { s with mem := s.mem.homeWrite 0 (ws.flatMap (fun w => leBytes 4 w.toNat)) }
def nopAt : State := withWords [0x800000E4] group0
theorem test_step_has_an_instruction : ∃ (s : State) (i : Iss) (ws : List Word) (u : State) (x : Instr), s.agenda = [] ∧
    s.issuing = some i ∧ i.fetch = .ok (ws, u) ∧ decode ws = .ok x ∧ isHost i.p.pc.toNat = false ∧
    ∀ n, Tbl.get i.s.mem.ic (icKey i.core i.ctl n) = none :=
  ⟨nopAt, _, _, _, .nop32, by decide, (Option.some_get (by decide)).symm, answer_of (by decide), by decide, by decide,
    fun _ => rfl⟩
/-- An agent issues at a turn; a device step comes about at a turn. -/
def turnAt (x : Act) (s : State) : State := { s with agenda := [⟨5, x⟩] }
theorem test_turn_has_an_instruction : ∃ (s : State) (ag : Agent) (dt : Nat) (rest : List Turn) (i : Iss) (ws : List Word)
    (u : State) (x : Instr), s.agenda = ⟨dt, .issue ag⟩ :: rest ∧
    ({ ({ s with agenda := rest } : State).elapse dt with cur := some ag } : State).issuing = some i ∧
    i.fetch = .ok (ws, u) ∧ decode ws = .ok x :=
  ⟨turnAt (.issue (.path 0 0)) nopAt, .path 0 0, 5, [], _, _, _, .nop32, rfl, (Option.some_get (by decide)).symm,
    answer_of (by decide), by decide⟩
theorem test_turn_has_a_device_step : ∃ (s : State) (dt : Nat) (rest : List Turn) (x : Instr),
    s.agenda = ⟨dt, .event x⟩ :: rest ∧ x.shape = .event := ⟨turnAt (.event .go) group0, 5, [], .go, rfl, rfl⟩
theorem test_words_do_not_decode : ∃ (s : State) (i : Iss) (ws : List Word) (u : State) (j : Iss), s.agenda = [] ∧
    s.issuing = some i ∧ i.fetch = .ok (ws, u) ∧ decode ws = .error .unassigned ∧ Clear u j :=
  ⟨group0, _, _, _, _, by decide, (Option.some_get (by decide)).symm, answer_of (by decide), by decide,
    clear_of (Option.some_get (by decide)).symm⟩
theorem test_reserved_gop_is_fetched : ∃ (s : State) (i : Iss) (ws : List Word) (u : State) (j : Iss), s.agenda = [] ∧
    s.issuing = some i ∧ i.fetch = .ok (ws, u) ∧ decode ws = .error .reservedGop ∧ Clear u j :=
  ⟨withWords [0xE00400FD, 0xC0000070] thread0, _, _, _, _, by decide, (Option.some_get (by decide)).symm,
    answer_of (by decide), by decide, clear_of (Option.some_get (by decide)).symm⟩
theorem test_encodes : ∃ (x : Instr) (ws : List Word), x.wf = true ∧ encode x = some ws ∧ ws.length = 3 :=
  ⟨.bra96 (L 0 0 0 0 0 (some 4)), _, by decide, (Option.some_get (by decide)).symm, by decide⟩
theorem test_window_words : ∃ w0 w1 : Word, w0.extractLsb' 0 8 = 0xFD ∧ w0.extractLsb' 29 3 = 7 ∧
    w1.extractLsb' 15 2 ≠ 3 ∧ w1.extractLsb' 17 2 ≠ 3 := ⟨0xE00400FD, 0xA0000070, by decide⟩
/-- An outcome that is a next state. -/
def after? (o : Out1) : Option State :=
  match o with
  | .next t => some t
  | _ => none
theorem next_of {o : Out1} (h : (after? o).isSome = true) : o = .next ((after? o).get h) := by
  unfold after? at h ⊢
  split at h <;> first | rfl | simp at h
theorem test_step_answers : ∃ t, steps nopAt t := ⟨_, next_of (by decide)⟩
theorem test_storage_canonical : memoryWf State.reset.mem ∧ memoryWf nopAt.mem :=
  ⟨⟨by decide, by decide, by decide, by decide, by simp [State.reset, Mem.reset]⟩,
    ⟨by decide, by decide, by decide, by decide, by
      intro e he
      exact absurd (List.isEmpty_iff.1 (by decide : nopAt.mem.l1.isEmpty = true) ▸ he) (by simp)⟩⟩


/-! Traps. -/

def handled : State := inG group0 (fun G => { G with trapv := 0x200 })
theorem quiet_of {G : Group} {ix : Nat} {p : Path} (h : G.stack[ix]? = some p) (h1 : G.tf = false) (h2 : G.handler.isNone = true)
    (h4 : G.orphans.isEmpty = true) (h3 : G.stack.all (fun q => q.pend.isEmpty && q.win.isEmpty && q.mask != 0) = true) :
    quietAt G ix p := by
  refine ⟨h, h1, Option.isNone_iff_eq_none.1 h2, List.isEmpty_iff.1 h4, fun q hq => ?_⟩
  have := List.all_eq_true.1 h3 q hq
  simpa [and_assoc] using this
theorem test_trap_has_a_handler : ∃ (s : State) (g ix : Nat) (G : Group) (p : Path) (tr : Trap), s.group g = some G ∧
    quietAt G ix p ∧ G.trapv ≠ 0 ∧ tr.toFirmware = false ∧ tr.late = false ∧ tr.flags = 0 :=
  ⟨handled, 0, 0, _, _, Trap.of cILLEGAL 0 0 1, (Option.some_get (by decide)).symm,
    quiet_of (Option.some_get (by decide)).symm (by decide) (by decide) (by decide) (by decide), by decide, rfl, rfl, rfl⟩
theorem test_trap_has_no_handler : ∃ (s : State) (g ix : Nat) (G : Group) (p : Path) (T : Team) (tr : Trap), s.group g = some G ∧
    quietAt G ix p ∧ G.trapv = 0 ∧ tr.toFirmware = false ∧ tr.flags = 0 ∧ s.team G.team = some T ∧
    ∃ C, s.ctx G.team = some C ∧ C.exited = false ∧ C.trapped = none :=
  ⟨group0, 0, 0, _, _, _, Trap.of cILLEGAL 0 0 1, (Option.some_get (by decide)).symm,
    quiet_of (Option.some_get (by decide)).symm (by decide) (by decide) (by decide) (by decide), by decide, rfl, rfl,
    (Option.some_get (by decide)).symm, _, (Option.some_get (by decide)).symm, by decide, by decide⟩
theorem test_trap_has_no_thread : ∃ (s : State) (g ix : Nat) (G : Group) (p : Path) (T : Team) (tr : Trap), s.group g = some G ∧
    quietAt G ix p ∧ G.trapv = 0 ∧ tr.toFirmware = false ∧ tr.flags = 0 ∧ s.team G.team = some T ∧
    ∀ C, s.ctx G.team = some C → C.exited = true ∨ C.trapped ≠ none :=
  ⟨inC group0 (fun C => { C with exited := true }), 0, 0, _, _, _, Trap.of cILLEGAL 0 0 1, (Option.some_get (by decide)).symm,
    quiet_of (Option.some_get (by decide)).symm (by decide) (by decide) (by decide) (by decide), by decide, rfl, rfl,
    (Option.some_get (by decide)).symm, by
      intro C hC
      left
      have h : (((inC group0 (fun C => { C with exited := true })).ctx 0).all (fun C => C.exited)) = true := by decide
      rw [show ((inC group0 (fun C => { C with exited := true })).ctx 0) = some C from hC] at h
      exact h⟩
theorem test_trap_of_a_thread : ∃ (s : State) (n : Nat) (C : Ctx) (T : Team) (tr : Trap), s.ctx n = some C ∧
    s.team n = some T ∧ tr.toFirmware = false ∧ C.path.pend = [] :=
  ⟨thread0, 0, _, _, Trap.of cILLEGAL 0 0 1, (Option.some_get (by decide)).symm, (Option.some_get (by decide)).symm, rfl, by decide⟩

/-- The capability in k4 to k7 without its tag. -/
def untagged : State := inG group1 (fun G => { G with ktag := 0 })
theorem test_load_fails_a_check : ∃ (w : Long) (s : State) (i : Iss) (k : Nat × CapErr) (rest : List (Nat × CapErr)), Clear s i ∧
    i.admits (Op.long 0x28 0 w) (ruleLd (Op.long 0x28 0 w) w).ok ∧ i.mustPark (Op.long 0x28 0 w) = none ∧
    (accesses (i.issued (Op.long 0x28 0 w)) w (i.active (Op.long 0x28 0 w)) w.off10 (pvBit w)).filterMap
      (fun x => ((i.issued (Op.long 0x28 0 w)).lsErr useLd ((tyOf w).w / 8) x).map (fun e => (x.l, e))) = k :: rest ∧
    ∀ e ∈ k :: rest, ∃ c, e.2 = .cap c :=
  ⟨L 10 0 1 2, untagged, _, (0, .cap subTAG), [], clear_of (Option.some_get (by decide)).symm, admits_of (by decide), by decide, by decide,
    by
      intro e he
      cases List.mem_singleton.1 he
      exact ⟨_, rfl⟩⟩
theorem test_store_fails_a_check : ∃ (w : Long) (s : State) (i : Iss) (k : Nat × CapErr) (rest : List (Nat × CapErr)), Clear s i ∧
    i.admits (Op.long 0x28 1 w) (ruleSt (Op.long 0x28 1 w) w).ok ∧ i.mustPark (Op.long 0x28 1 w) = none ∧
    (accesses (i.issued (Op.long 0x28 1 w)) w (i.active (Op.long 0x28 1 w)) w.off10 (pvBit w)).filterMap
      (fun x => ((i.issued (Op.long 0x28 1 w)).lsErr useSt ((tyOf w).w / 8) x).map (fun e => (x.l, e))) = k :: rest ∧
    ∀ e ∈ k :: rest, ∃ c, e.2 = .cap c :=
  ⟨L 10 0 1 2, untagged, _, (0, .cap subTAG), [], clear_of (Option.some_get (by decide)).symm, admits_of (by decide), by decide, by decide,
    by
      intro e he
      cases List.mem_singleton.1 he
      exact ⟨_, rfl⟩⟩

/-! Storage, the host window, derivations, barriers. -/

theorem test_storage_ranges : ∃ (m : Mem) (colour a : Nat) (bs : List Byte), memoryWf m ∧ colour < 4096 ∧
    (a < hbmTop → a + bs.length ≤ hbmTop) ∧ a % 16 = 0 ∧ bs.length = 16 ∧ m.lsPoison 0 colour (a / 16) = false ∧ a + 16 = hbmTop :=
  ⟨State.reset.mem, 1, hbmTop - 16, List.replicate 16 7, test_storage_canonical.1, by decide⟩

/-- Access to 4 KiB of the host window. -/
def hostCap : CapV := CapV.mint 0 0xFFF 1 hostBase (hostBase + 0x1000) hostBase
def hosted : State :=
  inT (inG group1 (fun G => putK hostCap 4 G)) (fun T => { T with
    regions := [{ region0 with base := hostBase, top := hostBase + 0x1000 }] })
theorem test_load_from_the_host : ∃ (w : Long) (s : State) (i : Iss), Clear s i ∧ s.ras.watch = [] ∧
    i.admits (Op.long 0x28 0 w) (ruleLd (Op.long 0x28 0 w) w).ok ∧ i.mustPark (Op.long 0x28 0 w) = none ∧ w.ord = 0 ∧
    (let xs := accesses (i.issued (Op.long 0x28 0 w)) w (i.active (Op.long 0x28 0 w)) w.off10 (pvBit w)
     let n := (tyOf w).w / 8
     xs ≠ [] ∧ ∀ x ∈ xs, (i.issued (Op.long 0x28 0 w)).lsErr useLd n x = none ∧
      (i.issued (Op.long 0x28 0 w)).refusal (i.issued (Op.long 0x28 0 w)).s n false true x = none ∧ isHost x.addr = true ∧
      admitting i.T.regions x.addr (x.addr + n) .read ≠ []) :=
  ⟨L 10 0 1 2, hosted, _, clear_of (Option.some_get (by decide)).symm, rfl, admits_of (by decide), by decide, by decide, by decide⟩
theorem test_store_to_the_host : ∃ (w : Long) (s : State) (i : Iss), Clear s i ∧ s.ras.watch = [] ∧
    i.admits (Op.long 0x28 1 w) (ruleSt (Op.long 0x28 1 w) w).ok ∧ i.mustPark (Op.long 0x28 1 w) = none ∧ w.ord = 0 ∧
    (let xs := accesses (i.issued (Op.long 0x28 1 w)) w (i.active (Op.long 0x28 1 w)) w.off10 (pvBit w)
     let n := (tyOf w).w / 8
     xs ≠ [] ∧ ∀ x ∈ xs, (i.issued (Op.long 0x28 1 w)).lsErr useSt n x = none ∧
      (i.issued (Op.long 0x28 1 w)).refusal (i.issued (Op.long 0x28 1 w)).s n true false x = none ∧ isHost x.addr = true ∧
      admitting i.T.regions x.addr (x.addr + n) .write ≠ []) :=
  ⟨L 10 0 1 2, hosted, _, clear_of (Option.some_get (by decide)).symm, rfl, admits_of (by decide), by decide, by decide, by decide⟩

/-- A tagged result of cursor arithmetic, of narrowing, of a permission mask; sealings of forms 1, 2 and 4, and their
unsealings. -/
def peerCap : CapV := CapV.mint 0 0xFFF 1 (2 ^ 55) (2 ^ 55 + 0x1000) (2 ^ 55)
def allCap : CapV := CapV.mint 0 0xFFF 1 0 (2 ^ 56) 0
theorem test_derivations :
    ((dataCap.setCursor 0x2000).toOption.any (·.tag)) = true ∧ ((dataCap.narrow 16 true).toOption.any (·.tag)) = true ∧
    ((dataCap.narrow 0x5001 false).toOption.any (·.tag)) = true ∧
    ((dataCap.andPerms 0xFF).toOption.any (·.tag)) = true ∧ ((peerCap.seal allCap 1).toOption.any (·.tag)) = true ∧
    (((CapV.mint 0 0xFFF 1 64 128 64).seal dataCap 2).toOption.any (·.tag)) = true ∧
    ((CapV.codePage.seal dataCap 4).toOption.any (·.tag)) = true := by decide
theorem test_unsealings :
    (((((CapV.mint 0 0xFFF 1 64 128 64).seal dataCap 2).toOption.getD CapV.zero).unseal dataCap).toOption.any (·.tag)) = true ∧
    ((((peerCap.seal allCap 1).toOption.getD CapV.zero).unseal allCap).toOption.any (·.tag)) = true ∧
    (((CapV.codePage.seal dataCap 4).toOption.getD CapV.zero).unseal dataCap).toOption.any (·.tag) = true := by decide
theorem test_barrier_is_owned : ∃ (s : State) (core h : Nat), (s.bar core h).owner ≠ none ∧ 1 ≤ (s.bar core h).arrN :=
  ⟨group0.setBar 0 0 { owner := some 0, arrN := 1, bytN := 0, arr := 0, byt := 0, cph := 5 }, 0, 0, by decide⟩
/-- A package that is READY. -/
def up (s : State) : State := { s with bring := { s.bring with stage := 8, pcie := true, go := true } }
theorem test_sweep_register_answers : ∃ s : State, s.ready = true := ⟨up State.reset, by decide⟩


/-! Device steps: for each constructor a state in which it comes about. -/

def Arises (R : Instr → Option Event) (s : State) (x : Instr) : Prop := ∃ r, R x = some r ∧ r.ok s

/-- The only value there, by decision of what is asked of it. -/
theorem given {α : Type} {o : Option α} {P : α → Prop} [DecidablePred P] (h : o.any (fun x => decide (P x)) = true) :
    ∃ x, o = some x ∧ P x := by
  cases o with
  | none => simp at h
  | some x => exact ⟨x, rfl, by simpa using h⟩

/-- Chain ch of the team. -/
def inChain (ch : Nat) (f : Chain → Chain) (s : State) : State := inT s (fun T => T.setChain ch (f (T.chain ch)))
/-- A request at the host for lane 0 whose result path 0 holds; a late fault; records for the ring. -/
def asked : State :=
  let r : HostReq := { ag := .path 0 0, pc := 0, lanes := [0], size := 4, signed := false, dst := .v 8, kind := 0, cq := 0,
                       expect := [], fn := 0, acq := none }
  { group0 with io := { group0.io with reqs := [(3, r)] } }
def lateAt : State := inP group0 (fun p => { p with late := [⟨cHOSTERR, 0, 1, 1, 0⟩] })
def ringing : State := inT group0 (fun T => { T with ringQ := [⟨5, none, 0⟩, ⟨6, some 1, 2⟩] })
def word : AtomRq := { colour := 1, addr := 0x1000, op := 0, ty := 6, fl := false, a := 1, c := 0 }

theorem test_steps_of_issue :
    Arises issueTurns (inChain 1 (fun c => { c with halted := true }) group0) (.chctlAbandonFaulted 0 1) ∧
    Arises issueTurns group0 (.chctlAbandonAll 0 2) ∧ Arises issueTurns due (.loadResult (.path 0 0) 0) ∧
    Arises issueTurns group0 (.atomicAtHome 0 word) ∧
    Arises issueTurns asked (.hostWindowCompletion 3 0 [[1, 2, 3, 4]]) ∧ Arises issueTurns lateAt (.lateFault (.path 0 0)) :=
  ⟨⟨_, rfl, by decide, given (by decide)⟩, ⟨_, rfl, by decide, _, (Option.some_get (by decide)).symm⟩,
    ⟨_, rfl, _, ⟨_, (Option.some_get (by decide)).symm, (Option.some_get (by decide)).symm⟩, by decide, by decide⟩,
    ⟨_, rfl, trivial, by decide, by decide, by decide⟩,
    ⟨_, rfl, _, ⟨(Option.some_get (by decide)).symm, by decide, _, (Option.some_get (by decide)).symm⟩, by decide, by decide,
      fun _ => by decide⟩,
    ⟨_, rfl, ⟨_, ⟨cHOSTERR, 0, 1, 1, 0⟩, [], (Option.some_get (by decide)).symm, by decide⟩, by decide,
      _, (Option.some_get (by decide)).symm, by decide⟩⟩

/-- A group whose stack is empty; one that has starved; a path with expired hints; one whose SLEEP is over. -/
def emptied : State := inG group0 (fun G => { G with stack := [] })
def starved : State := inG group0 (fun G => { G with starve := 64 })
def hintOver : State := { inP group0 (fun p => { p with spin := 1 }) with clock := 64 }
def asleep : State :=
  withWords [0b110_0000000_0000000_0000000_111111_01, 0b0000000000101_00_10_0000_000_0_111_0000]
    { inP group0 (fun p => { p with wait := some ⟨.sleep 5, 0, 0⟩ }) with clock := 64 }

theorem test_steps_of_records :
    Arises recordTurns ringing (.noticeRecord 0) ∧ Arises recordTurns ringing (.engineCompletionRecord 0 1 2) ∧
    Arises recordTurns emptied (.groupRetirement 0) ∧ Arises recordTurns starved (.starvationRaise 0) ∧
    Arises recordTurns hintOver (.hintCyclesExpiry (.path 0 0)) :=
  ⟨⟨_, rfl, _, _, (Option.some_get (by decide)).symm, (Option.some_get (by decide)).symm, by decide⟩,
    ⟨_, rfl, _, _, (Option.some_get (by decide)).symm, (Option.some_get (by decide)).symm, by decide⟩,
    ⟨_, rfl, given (by decide)⟩, ⟨_, rfl, given (by decide)⟩, ⟨_, rfl, given (by decide)⟩⟩
theorem test_sleep_ends : Arises recordTurns asleep (.sleepEnd (.path 0 0)) := by
  have hi : asleep.view (.path 0 0) = some ((asleep.view (.path 0 0)).get (by decide)) := (Option.some_get _).symm
  have hf := answer_of (e := ((asleep.view (.path 0 0)).get (by decide)).fetch) (by decide)
  exact ⟨_, rfl, _, _, ⟨_, 5, 0b110_0000000_0000000_0000000_111111_01, [0b0000000000101_00_10_0000_000_0_111_0000], _, hi, by decide,
    by decide, hf, rfl, clear_of (Option.some_get (by decide)).symm⟩, admits_of (by decide), by decide⟩


/-! A command 1 at work on a chain, from its block. -/

def atWork (b : Nat) : Cmd := { Cmd.new 1 ⟨BitVec.ofNat 512 b, 0⟩ none 0 with accepted := true, status := 1 }
/-- The team's chain holds the command, no other. -/
def holding (ch : Nat) (c : Cmd) (s : State) : State := inChain ch (fun x => { x with tseq := 1, cmds := [c] }) s
def working? (s : State) (n ch q : Nat) : Option (Team × Cmd) :=
  (s.team n).bind (fun T => ((T.chain ch).cmd (BitVec.ofNat 32 q)).bind (fun c =>
    if c.accepted = true ∧ c.status = 1 ∧ c.fin = 0 ∧ T.halt = false then some (T, c) else none))
theorem works {s : State} {n ch q : Nat} (h : (working? s n ch q).isSome = true) :
    working s n ch q ((working? s n ch q).get h).1 ((working? s n ch q).get h).2 := by
  have e := (Option.some_get h).symm
  generalize (working? s n ch q).get h = x at e
  unfold working? at e
  simp only [Option.bind_eq_some_iff, Option.ite_none_right_eq_some, Option.some.injEq] at e
  obtain ⟨T, hT, c, hc, ⟨h1, h2, h3, h4⟩, rfl⟩ := e
  exact ⟨hT, hc, ⟨h1, h2, h3⟩, h4⟩

/-- A copy of 64 bytes without bitmap; the same under GCM, its ciphertext read, its key slot as at acceptance. -/
def copyAt : State := holding 0 (atWork (2 ^ 510 + 2 ^ 504 + 64 * 2 ^ 448)) group0
def sealedAt : State :=
  let s := holding 0 { atWork (2 ^ 510 + 2 ^ 509 + 2 ^ 504 + 64 * 2 ^ 448) with parts := [(0, List.replicate 64 0)] } group0
  { s with sec := { s.sec with slots := [(0, { loaded := true, key := 0, high := 0, gen := 0 })] } }
/-- An entry not yet accepted; a line operation of a group. -/
def waitingAt : State := holding 0 (Cmd.new 1 ⟨copyBits, 0⟩ none 0) group0
def lining : State :=
  inG group0 (fun G => { G with ops := [⟨0, 1, [{ lane := 0, src := 0x1000, dst := 0x2000, keep := true, tagged := false }], 4, false⟩] })

theorem test_steps_of_copies :
    Arises engineTurns waitingAt (.chainEntryAcceptance 0 0) ∧ Arises engineTurns copyAt (.copyChunk 0 0 1 0) ∧
    Arises engineTurns lining (.lineOperation 0 0) ∧ Arises engineTurns sealedAt (.gcmRecord 0 1 0) :=
  ⟨⟨_, rfl, by decide, _, _, (Option.some_get (by decide)).symm, (Option.some_get (by decide)).symm, by decide⟩,
    ⟨_, rfl, _, _, works (by decide), by decide, by decide,
      by decide, by decide, .inr (.inl ⟨rfl, ⟨by decide, by decide, by decide, by decide, by decide⟩⟩)⟩,
    ⟨_, rfl, _, _, _, (Option.some_get (by decide)).symm, (Option.some_get (by decide)).symm, (Option.some_get (by decide)).symm,
      .inr ⟨by decide, by decide, by decide⟩⟩,
    ⟨_, rfl, _, _, _, _, works (by decide), by decide,
      (Option.some_get (by decide)).symm, by decide, by decide, (Option.some_get (by decide)).symm, by decide⟩⟩

/-- An MMA of one K-block with its descriptors, and with the block fetched; an MZERO; an MDRAIN to group 0. -/
def mmaAt (parts : Tbl (List Byte)) : State := holding 1 { atWork (2 * 2 ^ 504 + 2 ^ 384) with parts := [(0, []), (1, [])] ++ parts } group0
def zeroing : State := holding 1 (atWork (3 * 2 ^ 504)) group0
def draining : State := holding 1 (atWork (6 * 2 ^ 504)) group0

theorem test_steps_of_the_matrix_unit :
    Arises matrixTurns (mmaAt []) (.tileFetch 0 1) ∧ Arises matrixTurns (mmaAt [(2, []), (3, [])]) (.mmaKblock 0 1) ∧
    Arises matrixTurns zeroing (.tileStoreRowOperation 0 1) ∧ Arises matrixTurns draining (.drainRowStaging 0 1) :=
  ⟨⟨_, rfl, _, _, works (by decide), by decide, by decide, by decide, by decide, by decide, fun _ => by decide⟩,
    ⟨_, rfl, _, _, _, _, works (by decide), by decide,
      by decide, (Option.some_get (by decide)).symm, (Option.some_get (by decide)).symm⟩,
    ⟨_, rfl, _, _, works (by decide), by decide⟩,
    ⟨_, rfl, _, _, _, _, works (by decide), by decide,
      by decide, by decide, (Option.some_get (by decide)).symm, (Option.some_get (by decide)).symm, by decide⟩⟩

/-- A collective of two members, of one element in the rows of a descriptor at 0x1000; member 1 is device 5. -/
def collAt (op rank : Nat) (sent : List Nat) : State :=
  holding 2 { atWork (7 * 2 ^ 504 + op * 2 ^ 320 + rank * 2 ^ 304 + 2 * 2 ^ 288 + 2 ^ 256) with
    mtab := [4 * 2 ^ 114, 5 * 2 ^ 114], sent := sent,
    parts := [(0, leBytes 64 (dataCap.bits.toNat + 128 * 2 ^ 320 + 2 ^ 352))] } group0
/-- The package at stage 8 with an extent that takes peers' requests; the sealed operand by which member 1 writes there. -/
def takingPeers (s : State) : State :=
  up { s with sec := { s.sec with exts := [(0, { Ext.page with pi := true })] } }
def sealedPeer : CapV := (peerCap.seal allCap 1).toOption.getD CapV.zero
def message (op src unit : Nat) (data : List Byte) : PeerMsg :=
  { src := src, unit := unit, result := false, data := data, kind := ⟨op, 2, 1, 0⟩, cap := sealedPeer.bits, tag := true,
    addr := 2 ^ 55 }
/-- A copy of 64 bytes to another device, and one from it; the request for the chunk is sent. -/
def pushing : State :=
  holding 2 { atWork (2 ^ 510 + 2 ^ 504 + 64 * 2 ^ 448 + 2 ^ 208) with sent := [0] } group0
def pulling : State :=
  holding 2 { atWork (2 ^ 510 + 2 ^ 504 + 64 * 2 ^ 448 + dataCap.bits.toNat * 2 ^ 128) with sent := [0] } group0

theorem test_messages_arrive :
    Arises collTurns (takingPeers (collAt 0 0 [])) (.collMessage 0 1 (message 0 1 0 [1, 2])) ∧
    Arises collTurns (takingPeers (collAt 3 0 [1])) (.collMessage 0 1 (message 3 1 1 [1, 2])) ∧
    Arises collTurns pulling (.collMessage 0 1 (message 0 1 0 (List.replicate 64 7))) :=
  ⟨⟨_, rfl, _, _, .inl ⟨works (by decide), by decide, ⟨by decide, by decide, by decide⟩,
      by decide, by decide, by decide, ⟨0, by decide⟩, by decide⟩⟩,
    ⟨_, rfl, _, _, .inr (.inl ⟨works (by decide), by decide,
      ⟨⟨by decide, by decide, by decide⟩, by decide, by decide⟩, by decide, by decide⟩)⟩,
    ⟨_, rfl, _, _, .inr (.inr (.inr ⟨works (by decide),
      by decide, by decide, by decide⟩))⟩⟩
/-- Whatever port the blob names for a device, a message leaves where that port is UP. -/
theorem test_message_leaves (h : reachable (collAt 0 1 []) 4) :
    Arises collTurns (collAt 0 1 []) (.collMessage 0 1 (message 0 1 0 [])) :=
  ⟨_, rfl, _, _, .inr (.inr (.inl ⟨works (by decide), ⟨by decide, by decide, ⟨by decide, by decide⟩, by decide⟩, by decide,
    by decide, by decide, (by decide : CapV.dest ⟨BitVec.ofNat 128 (4 * 2 ^ 114), false⟩ = 4) ▸ h⟩))⟩
theorem test_steps_of_collectives :
    Arises collTurns (collAt 0 0 []) (.abortNotice 0 1 4 1) ∧
    Arises collTurns (collAt 0 0 [2 ^ 60]) (.switchReductionResult 0 1 0 [1, 2]) ∧
    Arises collTurns (collAt 256 0 [2 ^ 60]) (.switchStateLost 0 1 [0]) ∧
    Arises collTurns pushing (.peerAcknowledgement 0 1 0) ∧
    Arises collTurns pushing (.peerAcknowledgement 0 1 ((1 + 1 + 256 * 2) * 2 ^ 64)) :=
  ⟨⟨_, rfl, _, _, works (by decide), by decide⟩, ⟨_, rfl, _, _, works (by decide), by decide⟩, ⟨_, rfl, _, _, works (by decide), by decide⟩,
    ⟨_, rfl, _, _, works (by decide), by decide⟩, ⟨_, rfl, _, _, works (by decide), .inl (by decide)⟩⟩


/-! Walks, teams, tasks, queues, gleaning, functions. -/

def inCore (s : State) (f : Core → Core) : State := s.setCore 0 (f (s.core 0))
def inFn (s : State) (f : Fn → Fn) : State := { s with sec := { s.sec with fns := [(0, f (s.fn 0))] } }
/-- A walk of lines 0x1000 to 0x1100 of tower 0. -/
def walk0 : Walk :=
  { kind := .forward, tower := 0, lo := 0x1000, hi := 0x1100, cursor := 0x1000, cls := 0, age := 0, on := none, core := 0,
    scope := 1, colour := 1, team := 0, bar := 0, task := 0, visited := 0 }
def walking (w : Walk) : State := { group0 with sched := { group0.sched with walks := [(7, w)] } }
/-- Core 0 has released line 32 of colour 1. -/
def releasedAt : State := { group0 with mem := { group0.mem with rel := [(relKey 32 1, 1)] } }

theorem test_steps_of_walks :
    Arises walkTurns (walking walk0) (.cacheWalk 7) ∧ Arises walkTurns (walking { walk0 with age := 9 }) (.walkResume 7) ∧
    Arises walkTurns (walking { walk0 with on := some 2, cursor := 0x1100 }) (.walkEnd 7) ∧
    Arises walkTurns (walking { walk0 with on := some 2 }) (.forward 7) ∧
    Arises walkTurns releasedAt (.drainRequest 0 1) ∧ Arises walkTurns releasedAt (.releaseRecordRetirement 32 1) :=
  ⟨⟨_, rfl, _, _, ⟨(Option.some_get (by decide)).symm, by decide, (Option.some_get (by decide)).symm, .inr (.inr (by decide))⟩, by decide⟩,
    ⟨_, rfl, _, _, ⟨(Option.some_get (by decide)).symm, by decide, (Option.some_get (by decide)).symm, .inr (.inr (by decide))⟩, by decide⟩,
    ⟨_, rfl, given (by decide)⟩, ⟨_, rfl, given (by decide)⟩, ⟨_, rfl, (relKey 32 1, 1), by decide⟩, ⟨_, rfl, by decide⟩⟩

/-- A task of one team of one group; its team first in core 0's queue; its team ended; its work done. -/
def task0 : Task :=
  { record := BitVec.ofNat 2048 (2 ^ 1248), tags := 0, minted := true, fn := 0, colour := 1, cls := 0, order := 0, examined := true,
    eligible := some 0, admitted := false, deps := [], dealt := 0, ended := 0, started := 0, total := 1, regions := [], edge := [],
    edgeBegun := false, cores := [], wmask := 0, status := 0, cause := 0, sub := 0, complete := false, ringOk := false,
    partialRun := none, place := [] }
def tasked (k : Task) (s : State) : State := { s with sched := { s.sched with tasks := [(taskKey 3 1, k)] } }
def idle : State := { group0 with groups := [], ctxs := [], teams := [], cur := none }
def queuing : State := inCore (tasked task0 idle) (fun c => { c with
  teamq := [⟨taskKey 3 1, 0, 0, none⟩], scanned := some (taskKey 3 1 * 2 ^ 20) })
def teamDone : State := inC { group0 with groups := [] } (fun C => { C with exited := true })
def level2 : State := inC group0 (fun C => { C with trapped := some (4, 1, 7) })
def preemptible : State :=
  inT (tasked { task0 with admitted := true, started := 1 } (inFn group0 (fun F => { F with csax := 1 }))) (fun T => { T with task := taskKey 3 1 })
def halting : State := inT preemptible (fun T => { T with halt := true })

theorem test_steps_of_teams :
    Arises teamTurns queuing (.l1RegionScan 0) ∧ Arises teamTurns queuing (.teamStart 0) ∧ Arises teamTurns teamDone (.teamEnd 0) ∧
    Arises teamTurns level2 (.level2Fault 0) ∧
    Arises teamTurns (tasked { task0 with edgeBegun := true } idle) (.taskCompletion (taskKey 3 1)) :=
  ⟨⟨_, rfl, ⟨taskKey 3 1, 0, 0, none⟩, [], _, by decide, (Option.some_get (by decide)).symm, by decide⟩,
    ⟨_, rfl, ⟨taskKey 3 1, 0, 0, none⟩, [], _, _, ⟨by decide, (Option.some_get (by decide)).symm, (Option.some_get (by decide)).symm⟩,
      by decide⟩,
    ⟨_, rfl, _, _, (Option.some_get (by decide)).symm, (Option.some_get (by decide)).symm, by decide, by decide⟩,
    ⟨_, rfl, _, _, _, (Option.some_get (by decide)).symm, (Option.some_get (by decide)).symm, (Option.some_get (by decide)).symm⟩,
    ⟨_, rfl, given (by decide)⟩⟩
theorem test_teams_are_saved :
    Arises teamTurns (inCore preemptible (fun c => { c with retire := true })) (.preemptionRequest [0]) ∧ Arises teamTurns halting (.teamSave 0) :=
  ⟨⟨_, rfl, by decide, by decide, by
      intro n hn
      cases List.mem_singleton.1 hn
      exact given (by decide)⟩,
    ⟨_, rfl, _, _, (Option.some_get (by decide)).symm, (Option.some_get (by decide)).symm, by decide⟩⟩
/-- The package once the team has been saved: its image is first in core 0's queue. -/
def savedTeam : State := (after? (execTeamSave 0 halting)).getD halting
theorem test_team_is_restored : Arises teamTurns savedTeam (.teamRestore 0 0 1) :=
  ⟨_, rfl, by decide, by decide, _, (Option.some_get (by decide)).symm⟩


/-- The task not yet examined; eligible; admitted, with its team still to be dealt. -/
def unseen : State := { tasked { task0 with examined := false } idle with clock := 1 }
def eligibleTask : State := tasked task0 idle
def admittedTask : State := tasked { task0 with admitted := true } idle

theorem test_steps_of_queues :
    Arises queueTurns group0 (.qsub 0 3 0x1000 none) ∧ Arises queueTurns eligibleTask (.qctlRelease 0 3 1) ∧
    Arises queueTurns eligibleTask (.qctlCancel 0 3 1) ∧ Arises queueTurns unseen (.recordExamination 3) ∧
    Arises queueTurns eligibleTask (.admission (taskKey 3 1)) ∧ Arises queueTurns admittedTask (.teamDeal (taskKey 3 1)) :=
  ⟨⟨_, rfl, trivial⟩, ⟨_, rfl, trivial⟩, ⟨_, rfl, trivial⟩, ⟨_, rfl, _, (Option.some_get (by decide)).symm⟩,
    ⟨_, rfl, _, (Option.some_get (by decide)).symm, by decide, by decide, by decide, fun h => absurd h (by decide)⟩,
    ⟨_, rfl, _, (Option.some_get (by decide)).symm, by decide, by decide, by decide, by decide, by
      rw [if_neg (by decide)]
      exact ⟨_, (Option.some_get (by decide)).symm⟩⟩⟩

/-- An idle core; one that has sent a glean to core 1; one that has an answer. -/
def gleaning : State := inCore idle (fun c => { c with gleanTo := some 1 })
def gleaned : State := inCore gleaning (fun c => { c with gleanAns := some [⟨taskKey 3 1, 0, 0, none⟩] })
/-- Function 0 is time-sliced, resident, the holder or none. -/
def slicing (h : Option Nat) : State :=
  let s := inFn group0 (fun F => { F with ts := true })
  { s with sched := { s.sched with holder := h } }
theorem test_steps_of_gleaning :
    Arises gleanTurns idle (.glean 0) ∧ Arises gleanTurns gleaning (.gleanAnswer 0) ∧ Arises gleanTurns gleaned (.gleanAnswerArrival 0) ∧
    Arises gleanTurns (slicing (some 0)) .quantumEnd ∧ Arises gleanTurns (slicing none) .holderChange :=
  ⟨⟨_, rfl, _, (Option.some_get (by decide)).symm, by decide⟩, ⟨_, rfl, ⟨1, by decide⟩, by decide⟩,
    ⟨_, rfl, [⟨taskKey 3 1, 0, 0, none⟩], by decide⟩, ⟨_, rfl, 0, by decide⟩, ⟨_, rfl, 0, by decide⟩⟩
theorem test_steps_of_functions :
    Arises fnTurns { group0 with clock := 1800 } .tokenTick ∧ Arises fnTurns (up group0) (.fcfgEnable 5 1) ∧
    Arises fnTurns (up group0) (.fcfgDisable 0 0) :=
  ⟨⟨_, rfl, by decide⟩, ⟨_, rfl, by decide⟩, ⟨_, rfl, by decide⟩⟩

/-! Registers, management commands, resets, the host interface. -/

/-- A LIVE extent that a running EXT_REVOKE of function 0 waits on; a command that ends; a sweep at work. -/
def revoking : State := inFn group0 (fun F => { F with mstatus := 1, mop := 2, mextent := some 0 })
def ending : State := inFn group0 (fun F => { F with mstatus := 1, mop := 9, mend := 2 })
def sweeping : State := { group0 with sec := { group0.sec with passRun := 1 } }

theorem test_register_write : Arises mgmtTurns (up group0) (.registerWrite 0 0x700 5) := ⟨_, rfl, fun _ => trivial⟩
theorem zero_fn : 0 < 16 := by decide
theorem test_commands_of_extents :
    Arises extentTurns group0 (.extAdd 0 1 5) ∧ Arises extentTurns group0 (.extRevoke 0 1) ∧ Arises extentTurns group0 (.extFree 0 1) ∧
    Arises extentTurns revoking (.revocationPoint 0) :=
  ⟨⟨_, rfl, zero_fn⟩, ⟨_, rfl, zero_fn⟩, ⟨_, rfl, zero_fn⟩, ⟨_, rfl, by decide, 0, by decide⟩⟩
theorem test_commands_of_colours :
    Arises colourTurns group0 (.colSet 0 1 0 0 0) ∧ Arises colourTurns group0 (.imgBind 0 1 0) ∧
    Arises colourTurns group0 (.keyRelease 0 1 0 none) ∧ Arises colourTurns group0 (.keyZero 0 1) :=
  ⟨⟨_, rfl, zero_fn⟩, ⟨_, rfl, zero_fn⟩, ⟨_, rfl, zero_fn⟩, ⟨_, rfl, zero_fn⟩⟩
theorem test_other_commands :
    Arises sweepTurns group0 (.preempt 0 0) ∧ Arises sweepTurns group0 (.sweep 0) ∧ Arises sweepTurns group0 (.mcmdUnlistedOp 0 17) ∧
    Arises sweepTurns ending (.managementCommandEnd 0) ∧ Arises sweepTurns sweeping .sweepPassComplete :=
  ⟨⟨_, rfl, zero_fn⟩, ⟨_, rfl, zero_fn⟩, ⟨_, rfl, by decide⟩, ⟨_, rfl, by decide, .inl (by decide)⟩, ⟨_, rfl, by decide⟩⟩

/-- Function 0 scrubbed, room for its receipt in a LIVE extent of colour 0. -/
def scrubbedAt : State :=
  let s := inFn group0 (fun F => { F with flr := 6 })
  { s with sec := { s.sec with exts := [(0, { Ext.page with colour := 0 })] }, ras := { s.ras with rcptLen := 0x8000 } }
theorem fixLen_length (n : Nat) (xs : List Byte) : (fixLen n xs).length = n := by simp [fixLen]
theorem receipt_length : (scrubbedAt.receipt 0).length = 256 := by
  unfold State.receipt
  rw [fixLen_length, List.length_append, fixLen_length]
  decide
theorem test_steps_of_the_interface :
    Arises hostTurns (up group0) (.functionLevelReset 0) ∧ Arises hostTurns group0 (.stopInterface 0) ∧
    Arises hostTurns scrubbedAt (.scrubReceipt 0) ∧ Arises hostTurns group0 (.lockInterface 0) ∧
    Arises hostTurns group0 (.startInterface 0) ∧ Arises hostTurns (up group0) (.spdmRequest .getCertificate) ∧
    Arises hostTurns group0 (.ideIntegrityFailure 0) ∧ Arises hostTurns group0 .flitReplay :=
  ⟨⟨_, rfl, by decide⟩, ⟨_, rfl, by decide⟩, ⟨_, rfl, by decide, by rw [receipt_length]; decide, (0, { Ext.page with colour := 0 }), by decide⟩,
    ⟨_, rfl, by decide⟩, ⟨_, rfl, by decide⟩, ⟨_, rfl, by decide⟩, ⟨_, rfl, by decide⟩, ⟨_, rfl, trivial⟩⟩
theorem test_inbound_requests :
    Arises inboundTurns (up group0) (.hostInboundRequest 0 (.read 0 4)) ∧
    Arises inboundTurns (up group0) (.peerInboundRequest 5 0 false (.read 0 4)) := ⟨⟨_, rfl, by decide⟩, ⟨_, rfl, trivial⟩⟩


/-! Power, ports, errors, records, the checkpoint engine. -/

def stage (n : Nat) : State := { group0 with bring := { group0.bring with stage := n } }
theorem test_steps_of_power :
    Arises powerTurns group0 .powerUp ∧ Arises powerTurns group0 .powerOff ∧ Arises powerTurns group0 .conventionalReset ∧
    Arises powerTurns (stage 1) (.pcieTraining true) ∧ Arises powerTurns (stage 1) .go ∧
    Arises powerTurns (stage 2) (.firmwareVerify none) ∧ Arises powerTurns (stage 3) (.configApply none) ∧
    Arises powerTurns (stage 4) (.hbmTraining true) ∧ Arises powerTurns (stage 5) (.fabricBringUp true) ∧
    Arises powerTurns (stage 6) .fewickStageEnd ∧ Arises powerTurns { stage 4 with clock := 2 ^ 40 } .stageTimeLimit ∧
    Arises powerTurns group0 (.pacing true) :=
  ⟨⟨_, rfl, trivial⟩, ⟨_, rfl, trivial⟩, ⟨_, rfl, by decide⟩, ⟨_, rfl, by decide⟩, ⟨_, rfl, trivial⟩,
    ⟨_, rfl, by decide, fun _ h => absurd h (by simp)⟩, ⟨_, rfl, by decide, fun _ h => absurd h (by simp)⟩, ⟨_, rfl, by decide⟩,
    ⟨_, rfl, by decide⟩, ⟨_, rfl, by decide, .inl (by decide)⟩, ⟨_, rfl, given (by decide)⟩, ⟨_, rfl, trivial⟩⟩

/-- A package at stage 8 whose port 0 is in a state, with a flit that its receiver has not acknowledged. -/
def porting (st : Nat) (f : Port → Port) : State :=
  { up group0 with clock := 720000000, bring := { (up group0).bring with ports := [(0, f { Port.off with enabled := true, state := st })] } }
def flight (n : Nat) : Flight := { ctr := 0, dev := 5, team := 0, seq := 1, unit := 0, req := ⟨0, false, false, [], [1], none⟩, resends := n, at_ := 720000000 }
theorem test_steps_of_ports :
    Arises portTurns (porting 1 id) (.partnerSignal 0) ∧ Arises portTurns (porting 1 id) (.detectTimeout 0) ∧
    Arises portTurns (porting 0 (fun p => { p with reason := 1 })) (.detectRetry 0) ∧
    Arises portTurns (porting 2 id) (.negotiate 0 ⟨0xFF, 0xFF, 0xFF, false, false⟩) ∧
    Arises portTurns (porting 3 id) (.attest 0 ⟨0, 0, true, true⟩) ∧
    Arises portTurns (porting 4 id) (.flitReceived 0 ⟨0, true, 0⟩) ∧
    Arises portTurns (porting 4 (fun p => { p with flights := [flight 0] })) (.flitResend 0) ∧
    Arises portTurns (porting 4 (fun p => { p with flights := [flight 255] })) (.retryLimit 0) ∧
    Arises portTurns (porting 5 id) (.portRetrain 0) ∧ Arises portTurns (porting 4 id) (.portDisable 0) :=
  ⟨⟨_, rfl, by dsimp only [trains]; decide⟩, ⟨_, rfl, by dsimp only [trains]; decide⟩, ⟨_, rfl, by dsimp only [trains]; decide⟩,
    ⟨_, rfl, by dsimp only [trains]; decide⟩, ⟨_, rfl, by dsimp only [trains]; decide⟩, ⟨_, rfl, by decide⟩,
    ⟨_, rfl, by decide, flight 0, [], by decide⟩, ⟨_, rfl, by decide, flight 255, by decide⟩, ⟨_, rfl, trivial⟩, ⟨_, rfl, trivial⟩⟩

/-- A core to be retired; a snapshot to be written; a watch window that has ended; a segment an hour old. -/
def retiring : State := inCore idle (fun c => { c with retire := true })
def triggered : State := { group0 with ras := { group0.ras with trigs := [⟨1, 0, 5, []⟩] } }
def watched : State := { group0 with ras := { group0.ras with ended := [(1, [], [])] } }
def segment : State :=
  { group0 with clock := 2 ^ 40, ras := { group0.ras with rings := [(0, { LogRing.empty with en := true, recs := [7] })] } }
def imaging : State := { idle with ras := { idle.ras with ckStatus := 1, ckOp := 1 } }
theorem test_steps_of_errors :
    Arises rasTurns group0 (.softError (.v 0 0 3) true) ∧ Arises rasTurns group0 (.parityError 0) ∧
    Arises rasTurns retiring (.coreRetirement 0) ∧ Arises rasTurns group0 (.patrolScrub 0) :=
  ⟨⟨_, rfl, by decide⟩, ⟨_, rfl, by decide⟩, ⟨_, rfl, by dsimp only; rw [if_neg (by decide)]; decide⟩, ⟨_, rfl, trivial⟩⟩
theorem test_steps_of_logs :
    Arises logTurns group0 .snapshotRequest ∧ Arises logTurns triggered .snapshotWrite ∧ Arises logTurns watched .watchWindowEnd ∧
    Arises logTurns segment (.segmentClose 0) :=
  ⟨⟨_, rfl, trivial⟩, ⟨_, rfl, by decide⟩, ⟨_, rfl, by decide⟩, ⟨_, rfl, by decide⟩⟩
theorem test_steps_of_checkpoints :
    Arises checkpointTurns (up group0) .checkpoint ∧ Arises checkpointTurns imaging .checkpointImageWrite ∧
    Arises checkpointTurns (up group0) (.checkpointRestore none) :=
  ⟨⟨_, rfl, trivial⟩, ⟨_, rfl, by decide⟩, ⟨_, rfl, trivial⟩⟩


/-! Where a step completes: for each table a state in which what its rule asks for holds. -/

/-- Of a state in which one command is at work, what holds of that command. -/
theorem of_work {s : State} {n ch q : Nat} {P : Team → Cmd → Prop} (h : (working? s n ch q).isSome = true)
    (hp : P ((working? s n ch q).get h).1 ((working? s n ch q).get h).2) : ∀ T c, working s n ch q T c → P T c := by
  intro T c w
  have e : working? s n ch q = some (T, c) := by
    simp [working?, w.team, w.cmd, w.run.1, w.run.2.1, w.run.2.2, w.free]
  simpa [e] using hp
/-- The entry that a chain accepts next. -/
theorem of_next {s : State} {n ch : Nat} {P : Team → Cmd → Prop} {T0 : Team} {c0 : Cmd} (hT : s.team n = some T0)
    (hc : (T0.chain ch).next = some c0) (hp : P T0 c0) : ∀ T c, s.team n = some T → (T.chain ch).next = some c → P T c := by
  intro T c h1 h2
  cases hT.symm.trans h1
  cases hc.symm.trans h2
  exact hp
def begun (s : State) : State := inChain 0 (fun x => { x with cmds := x.cmds.map (fun c => { c with begun := [0], exec := true }) }) s
/-- A copy whose capabilities reach bytes 0x1000 and on of the extent. -/
def entryAt : State :=
  holding 0 (Cmd.new 1 ⟨BitVec.ofNat 512 (2 ^ 510 + 2 ^ 504 + 64 * 2 ^ 448 + dataCap.bits.toNat * (2 ^ 128 + 1)), 0xF⟩ none 0)
    (inT group0 (fun T => { T with regions := [region0] }))

theorem test_engine_steps_complete :
    Arises engineCompletions entryAt (.chainEntryAcceptance 0 0) ∧ Arises engineCompletions (begun copyAt) (.copyChunk 0 0 1 0) ∧ Arises engineCompletions copyAt (.copyChunk 0 0 1 0) ∧
    Arises engineCompletions lining (.lineOperation 0 0) ∧ Arises engineCompletions sealedAt (.gcmRecord 0 1 0) :=
  ⟨⟨_, rfl, ⟨by decide, _, _, (Option.some_get (by decide)).symm, (Option.some_get (by decide)).symm, by decide⟩,
      of_next (Option.some_get (by decide)).symm (Option.some_get (by decide)).symm (by decide)⟩,
    ⟨_, rfl, ⟨_, _, works (by decide), by decide, by decide, by decide, by decide, .inl ⟨rfl, by decide⟩⟩,
      of_work (by decide) (by decide)⟩,
    ⟨_, rfl, ⟨_, _, works (by decide), by decide,
      by decide, by decide, by decide, .inr (.inl ⟨rfl, ⟨by decide, by decide, by decide, by decide, by decide⟩⟩)⟩,
      of_work (by decide) (by decide)⟩,
    ⟨_, rfl, ⟨_, _, _, (Option.some_get (by decide)).symm, (Option.some_get (by decide)).symm, (Option.some_get (by decide)).symm,
      .inr ⟨by decide, by decide, by decide⟩⟩, fun G T o h1 _ h3 h4 => by
        cases (Option.some_get (by decide : (lining.group 0).isSome = true)).symm.trans h1 |> Option.some.inj
        cases h3; cases h4⟩,
    ⟨_, rfl, ⟨_, _, _, _, works (by decide), by decide,
      (Option.some_get (by decide)).symm, by decide, by decide, (Option.some_get (by decide)).symm, by decide⟩,
      of_work (by decide) (by decide)⟩⟩
/-- With nothing pinned and nothing waiting no fetch waits. -/
theorem unpinned {s : State} (hp : s.mem.pins = []) (hq : s.mem.pinQ = []) (h : Nat × Nat × Nat) (prot : Bool) (ls : List Nat) :
    s.pinWaits h prot ls = false := by
  simp [State.pinWaits, State.pinShort, State.pinsAt, hp, hq]
  intros
  split at * <;> simp_all
theorem test_matrix_steps_complete :
    Arises engineCompletions (mmaAt []) (.tileFetch 0 1) ∧ Arises engineCompletions zeroing (.tileStoreRowOperation 0 1) ∧
    Arises engineCompletions (collAt 0 0 [2 ^ 60]) (.switchReductionResult 0 1 0 [1, 2]) :=
  ⟨⟨_, rfl, ⟨_, _, works (by decide), by decide, by decide, by decide, by decide, by decide, fun _ => by decide⟩,
      of_work (by decide) ⟨unpinned (by decide) (by decide) _ _ _, by decide⟩⟩,
    ⟨_, rfl, ⟨_, _, works (by decide), by decide⟩, of_work (by decide) (by decide)⟩,
    ⟨_, rfl, ⟨_, _, works (by decide), by decide⟩, of_work (by decide) (by decide)⟩⟩

/-- A page of function 0 that the host may reach; a record of a task can be read there. -/
def opened (s : State) : State :=
  up { s with sec := { s.sec with exts := [(0, { Ext.page with hi := true })] } }
/-- The image of an extent of colour 1 beside that page; an extent of colour 1 that is FREE; a colour to protect. -/
def extImage : BitVec 128 := BitVec.ofNat 128 (2 ^ 107 + 2 ^ 88 + 2 ^ 44 + 0x100)
theorem test_commands_complete :
    Arises commandCompletions (opened group0) (.qsub 0 3 0x1000 none) ∧
    Arises commandCompletions (up eligibleTask) (.qctlRelease 0 3 1) ∧
    Arises commandCompletions (up eligibleTask) (.qctlCancel 0 3 1) ∧
    Arises commandCompletions (up group0) (.fcfgEnable 5 1) ∧ Arises commandCompletions (up State.reset) (.fcfgDisable 0 0) ∧
    Arises commandCompletions (up group0) (.registerWrite 0 0x7200 5) :=
  ⟨⟨_, rfl, trivial, by decide⟩, ⟨_, rfl, trivial, by decide, _, (Option.some_get (by decide)).symm, by decide⟩,
    ⟨_, rfl, trivial, by decide, _, (Option.some_get (by decide)).symm, by decide⟩, ⟨_, rfl, by decide, by decide⟩,
    ⟨_, rfl, by decide, by decide⟩, ⟨_, rfl, fun _ => trivial, by unfold reachesReg; decide, (by decide : 0 < 2), .inl (by decide)⟩⟩
theorem passes {l : List (Prop × Nat)} (h : l.Forall (fun x => ¬x.1)) : ∀ x ∈ l, ¬x.1 := List.forall_iff_forall_mem.1 h
theorem test_management_commands_complete :
    Arises commandCompletions (up group0) (.extAdd 0 1 extImage) ∧ Arises commandCompletions (up group0) (.extRevoke 0 0) ∧
    Arises commandCompletions (up group0) (.extFree 0 0) ∧ Arises commandCompletions (up State.reset) (.colSet 0 1 0 0 0) ∧
    Arises commandCompletions (up group0) (.imgBind 0 1 0) ∧ Arises commandCompletions (up preemptible) (.preempt 0 0) ∧
    Arises commandCompletions (up group0) (.sweep 0) :=
  ⟨⟨_, rfl, zero_fn, by decide, by decide, passes (by simp only [extAddCommand, List.Forall]; decide), trivial⟩,
    ⟨_, rfl, zero_fn, by decide, by decide, passes (by simp only [takeCommand, takeChecks, List.Forall]; decide), trivial⟩,
    ⟨_, rfl, zero_fn, by decide, by decide, passes (by simp only [takeCommand, takeChecks, List.Forall]; decide), trivial⟩,
    ⟨_, rfl, zero_fn, by decide, by decide, passes (by simp only [colSetCommand, badColour, List.Forall]; decide), trivial⟩,
    ⟨_, rfl, zero_fn, by decide, by decide, passes (by simp only [imgBindCommand, badColour, List.Forall]; decide), trivial⟩,
    ⟨_, rfl, zero_fn, by decide, by decide, passes (by simp only [preemptCommand, List.Forall]; decide), trivial⟩,
    ⟨_, rfl, zero_fn, by decide, by decide, passes (by simp only [sweepCommand, List.Forall]; decide), trivial⟩⟩
theorem test_interface_steps_complete :
    Arises interfaceCompletions (up group0) (.functionLevelReset 0) ∧ Arises interfaceCompletions group0 (.lockInterface 0) ∧
    Arises interfaceCompletions (opened group0) (.hostInboundRequest 0 (.read 0 4)) ∧
    Arises interfaceCompletions (takingPeers group0) (.peerInboundRequest 5 sealedPeer.bits true (.write (2 ^ 55) [1])) :=
  ⟨⟨_, rfl, by decide, by decide⟩, ⟨_, rfl, by decide, by decide⟩, ⟨_, rfl, by decide, by decide⟩, ⟨_, rfl, trivial, by decide⟩⟩
theorem test_bring_up_completes :
    Arises powerCompletions (stage 1) (.pcieTraining true) ∧ Arises powerCompletions (stage 1) .go ∧
    Arises powerCompletions (stage 4) (.hbmTraining true) ∧ Arises powerCompletions (stage 5) (.fabricBringUp true) :=
  ⟨⟨_, rfl, by decide, by decide⟩, ⟨_, rfl, trivial, by decide⟩, ⟨_, rfl, by decide, by decide⟩, ⟨_, rfl, by decide, by decide⟩⟩
theorem test_ports_complete :
    Arises powerCompletions (porting 2 id) (.negotiate 0 ⟨0xFF, 0xFF, 0xFF, false, false⟩) ∧
    Arises powerCompletions (porting 3 id) (.attest 0 ⟨0, 0, true, true⟩) ∧
    Arises powerCompletions (porting 4 id) (.flitReceived 0 ⟨0, true, 0⟩) ∧
    Arises powerCompletions (porting 5 id) (.portRetrain 0) ∧ Arises powerCompletions (porting 4 id) (.portDisable 0) :=
  ⟨⟨_, rfl, by dsimp only [trains]; decide, by decide⟩, ⟨_, rfl, by dsimp only [trains]; decide, by decide⟩,
    ⟨_, rfl, by decide, by decide⟩, ⟨_, rfl, trivial, by decide⟩, ⟨_, rfl, trivial, by decide⟩⟩
theorem test_records_complete :
    Arises powerCompletions (up group0) .snapshotRequest ∧ Arises powerCompletions (up group0) .checkpoint :=
  ⟨⟨_, rfl, trivial, by decide⟩, ⟨_, rfl, trivial, by decide⟩⟩
/-- A colour to be protected; a function whose interface is locked; a snapshot with its place in HBM. -/
def protectedAt : State :=
  up { group0 with sec := { group0.sec with colours := [(1, { Colour.plain with prot := true, kslot := 2 })], pways := 4 } }
def lockedAt : State := inFn State.reset (fun F => { F with tdi := 1 })
def snapping : State :=
  { triggered with ras := { triggered.ras with snapBase := 0x1000 },
                   sec := { triggered.sec with exts := [(0, { Ext.page with colour := 0, basep := 1 })] } }
theorem test_more_steps_complete :
    Arises commandCompletions protectedAt (.keyZero 0 1) ∧ Arises interfaceCompletions lockedAt (.startInterface 0) ∧
    Arises interfaceCompletions lockedAt (.stopInterface 0) ∧ Arises powerCompletions snapping .snapshotWrite :=
  ⟨⟨_, rfl, zero_fn, by decide, by decide, passes (by simp only [keyZeroCommand, badColour, List.Forall]; decide), trivial⟩,
    ⟨_, rfl, by decide, by decide⟩, ⟨_, rfl, by decide, by decide⟩,
    ⟨_, rfl, by decide, (0, { Ext.page with colour := 0, basep := 1 }), by decide, by decide⟩⟩
/-- Where the fuses, the vendor's signatures, the keys and the layout of images are what they must be (all opaque). -/
theorem test_key_released (b : List Byte) (key : BitVec 512) (h : b.length = 1736)
    (hk : protectedAt.unwrap 1 (protectedAt.colour 1) b = .ok key) :
    Arises commandCompletions protectedAt (.keyRelease 0 1 hostBase (some b)) := by
  have hb : protectedAt.blobRead 1 (hostBase % 2 ^ 64) (some b) = some b := by
    simp [State.blobRead, Option.filter, h, (by decide : isHost (hostBase % 18446744073709551616) = true),
      (by decide : isHost (hostBase % 18446744073709551616 + 1735) = true)]
  refine ⟨_, rfl, zero_fn, by decide, by decide, passes ?_, b, key, hb, hk⟩
  simp only [keyReleaseCommand, badColour, List.Forall, hb]
  exact ⟨by decide, by decide, by decide, by decide, by decide, by simp⟩
theorem test_firmware_verified (b : List Byte) (h : b.length = 4096) (hv : Config.verify b = true)
    (hw : Config.fuseVersion ≤ Config.fwVersion b) :
    Arises powerCompletions { stage 2 with bring := { (stage 2).bring with fwlen := 4096 } } (.firmwareVerify (some b)) :=
  ⟨_, rfl, ⟨by decide, fun _ e => by cases e; exact h⟩, by decide, by decide, b, rfl, hv, hw⟩
theorem test_config_applied (b : List Byte) (h : b.length = 4096) (hv : Config.verify b = true) (hb : Config.blobBound b = true)
    (hs : (Config.blobSpares b).1 ≤ 2 ∧ (Config.blobSpares b).2 ≤ 1) (hn : (Config.blobNums b).2.1 < (Config.blobNums b).2.2.1) :
    Arises powerCompletions { stage 3 with bring := { (stage 3).bring with cfglen := 4096 } } (.configApply (some b)) :=
  ⟨_, rfl, ⟨by decide, fun _ e => by cases e; exact h⟩, by decide, by decide, b, rfl, hv, hb, hs.1, hs.2, hn⟩
theorem test_checkpoint_written (h : (ckEncode imaging.ckImage).length ≤ imaging.ras.ckLimit.toNat) (hs : imaging.ckSlotOk = true) :
    Arises powerCompletions imaging .checkpointImageWrite := ⟨_, rfl, by decide, hs, h⟩
theorem test_checkpoint_restored (b : List Byte) (im : CkImage) (ok : List Bool) (hv : Config.verifyOwn b = true)
    (hd : ckDecode b = some (im, ok)) (h : false ∉ ok ∧ ok.length = im.extents.length ∧ (up idle).ckFits im = true) :
    Arises powerCompletions (up idle) (.checkpointRestore (some b)) :=
  ⟨_, rfl, trivial, by decide, by decide, b, im, ok, rfl, hv, hd, h⟩

/-! Values of the spec's tables of examples (spec/02_capabilities.md, spec/03_number_formats.md, spec/05_isa_control_integer.md,
spec/06_isa_vector_float.md). -/

/-- The table under R114. -/
theorem test_values_of_integers :
    rDivRem tS32 7 0 = (0xFFFFFFFF, 7) ∧ rDivRem tS32 0x80000000 0xFFFFFFFF = (0x80000000, 0) ∧
    rDivRem tS32 0xFFFFFFF9 2 = (0xFFFFFFFD, 0xFFFFFFFF) ∧ rAdd true tS32 0x7FFFFFF0 0x20 = 0x7FFFFFFF ∧
    (⟨8, true, false⟩ : ITy).image (rAdd false ⟨8, true, false⟩ 100 100) = 0xFFFFFFC8 ∧
    (⟨8, false, false⟩ : ITy).image (rAdd true ⟨8, false, false⟩ 200 100) = 0xFF ∧
    rSar ⟨32, false, true⟩ 0x80000000 40 = 0xFFFFFFFF ∧ rShl ⟨32, false, true⟩ 1 40 = 0 ∧
    rRot ⟨32, false, true⟩ 0x80000001 33 = 3 ∧ rMulh tS32 0x40000000 4 = 1 ∧ rBfx tS32 0xF0F0 0x0404 = 0xFFFFFFFF ∧
    rPerm ⟨32, false, true⟩ 0x44332211 0xC704 0x88776655 = 0x00881155 := by decide
/-- The table of conversions under R67: 464, 465, -1000, 5, 7 and 0.25 of f32. -/
theorem test_values_of_conversions :
    fcvt1 f32 e4m3 false 0 false 0x43E80000 = (0x7E, flNX) ∧ fcvt1 f32 e4m3 false 0 false 0x43E88000 = (0x7F, flOF + flNX) ∧
    fcvt1 f32 e4m3 false 0 true 0x43E88000 = (0x7E, flNX) ∧ fcvt1 f32 e5m2 false 0 false 0xC47A0000 = (0xE4, flNX) ∧
    fcvt1 f32 e2m1 false 0 false 0x40A00000 = (6, flNX) ∧ fcvt1 f32 e2m1 false 4 false 0x40A00000 = (7, flNX) ∧
    fcvt1 f32 e2m1 false 0 false 0x40E00000 = (7, flOF + flNX) ∧ fcvt1 f32 e2m1 false 0 false 0x3E800000 = (0, flUF + flNX) ∧
    fcvt1 f32 e2m1 false 0 false 0x7FC00000 = (0, flNV) := by decide
/-- The table under R143. -/
theorem test_values_of_floats :
    fminmax false f32 0 0x7F800001 0x40000000 = (0x40000000, flNV) ∧ fminmax false f32 0 0x80000000 0 = (0x80000000, 0) ∧
    frnd f32 0 0x40200000 = (0x40000000, flNX) ∧ fscale f32 0 0x3FC00000 128 = (0x7F800000, flOF + flNX) ∧
    fscale f32 1 0x3FC00000 128 = (0x7F7FFFFF, flOF + flNX) ∧ fexpt f32 1 = (0xFFFFFF6B, 0) ∧
    (f32.decode 0xC0200000).toITy tS32 4 = (0xFFFFFFFD, flNX) ∧ (f32.decode 0x43960000).toITy ⟨8, false, false⟩ 0 = (0xFF, flNV) := by
  decide
/-- The worked capability of spec/02_capabilities.md: R38 to R41. -/
def worked : CapV := ⟨0x0C00081FFF0022F2A500004000100080#128, true⟩
theorem test_values_of_capabilities :
    worked.base = 0x4000100000 ∧ worked.top = 0x4000200000 ∧ worked.perms = 0x22F ∧ worked.colour = 0x2A5 ∧
    CapV.mint 0 0x22F 0x2A5 0x4000100000 0x4000200000 0x4000100080 = worked ∧
    ((worked.setCursor 0x4000300080).toOption.map (·.tag)) = some false ∧
    ((worked.setCursor 0x40000C0080).toOption.map (fun c => (c.tag, c.bfields.bd, c.bfields.td))) = some (true, -0x7FF0, 0x27FF0) ∧
    (((worked.setCursor 0x4000100081).toOption.bind (fun c => (c.narrow 0x70001 true).toOption)).isNone) = true ∧
    ((worked.setCursor 0x4000100081).toOption.bind (fun c => (c.narrow 0x70001 false).toOption)).map
      (fun c => (c.tag, c.base, c.top, c.cursor)) = some (true, 0x4000100080, 0x4000170082, 0x4000100081) := by decide
/-- IADD.s32.sat v4, v5, 17 where v5 is 0x7FFFFFF0: v4 saturates in every lane, v5 stays. -/
theorem test_add_saturates :
    (after? (execIadd64 ⟨4, 5, 0, 17, 0, 2, 2, 1, 0, 7, 0, none⟩
      (inG group0 (fun G => { G with v := Tbl.set G.v (G.rowNo 5) (List.replicate 96 0x7FFFFFF0) })))).bind
      (fun t => (t.group 0).map (fun G => ((G.row (G.rowNo 4))[95]?, (G.row (G.rowNo 5))[95]?))) =
      some (some 0x7FFFFFFF, some 0x7FFFFFF0) := by
  decide
end Sys2Proof.Tests
end

/-! PROOFS. Instruction state (spec/01_instruction_state.md, spec/13_traps_in_kernel.md): rows and registers after a
write, a stack with nothing outstanding, entry at level 0. -/

namespace Sys2Proof.Machine

/-! Writes of k registers. -/

@[simp] theorem Group.write_k (G : Group) (n : Nat) (x : Word) : G.write (.k n x) = G.setK n x := rfl

/-- A write of a k register reaches the k bank and its tags alone (R21). -/
theorem Group.setK_frame (G : Group) (n : Nat) (x : Word) :
    (G.setK n x).v = G.v ∧ (G.setK n x).vtag = G.vtag ∧ (G.setK n x).q = G.q := by
  unfold Group.setK
  split <;> exact ⟨rfl, rfl, rfl⟩

@[simp] theorem Group.row_setK (G : Group) (n : Nat) (x : Word) (r : Nat) : (G.setK n x).row r = G.row r := by
  simp [Group.row, G.setK_frame n x]
@[simp] theorem Group.frameWord_setK (G : Group) (n : Nat) (x : Word) : (G.setK n x).frameWord = G.frameWord := by
  unfold Group.setK
  split <;> rfl

/-- k52 to k55 and k63 take no write (R21, R28). -/
theorem Group.setK_not_taken (G : Group) {n : Nat} (x : Word) (h : kTaken n = false) : G.setK n x = G := by
  simp [Group.setK, h]

theorem Group.kBank_setK_other (G : Group) {m n : Nat} (x : Word) (h : m ≠ n) :
    (G.setK m x).kBank n = G.kBank n := by
  have hk : Store.read (G.setK m x).k n = Store.read G.k n := by
    unfold Group.setK
    split
    · exact Store.read_write_other _ _ h
    · rfl
  obtain ⟨-, -, -, -, -, -, -, -, -, -, h53, h54, h55, -⟩ := G.write_frame (.k m x)
  simp only [Group.write_k] at h53 h54 h55
  simp only [Group.kBank, Group.frameWord_setK, hk, h53, h54, h55]

/-- k0 to k51 hold what is written to them. -/
theorem Group.kBank_setK_same (G : Group) {n : Nat} (x : Word) (h : n < 52) : (G.setK n x).kBank n = x := by
  have hs : ∀ m, 52 ≤ m → n ≠ m := fun m hm => by omega
  have ht : kTaken n = true := by simp [kTaken, h]
  simp [Group.kBank, Group.setK, ht, fixFlagWrite, hs]

/-- R30: k48 to k50 hold the fault mask, k51 the cause word, k0 to k47 stay. -/
theorem Group.kBank_setCause (G : Group) (m : LaneMask) (cw : Word) :
    (G.setCause m cw).kBank 48 = maskWord m 0 ∧ (G.setCause m cw).kBank 49 = maskWord m 1 ∧
      (G.setCause m cw).kBank 50 = maskWord m 2 ∧ (G.setCause m cw).kBank 51 = cw ∧
      ∀ n, n < 48 → (G.setCause m cw).kBank n = G.kBank n := by
  unfold Group.setCause
  refine ⟨?_, ?_, ?_, Group.kBank_setK_same _ _ (by decide), fun n hn => ?_⟩
  · simp [Group.kBank_setK_other, Group.kBank_setK_same]
  · simp [Group.kBank_setK_other, Group.kBank_setK_same]
  · simp [Group.kBank_setK_other, Group.kBank_setK_same]
  · simp (disch := omega) only [Group.kBank_setK_other]

theorem Group.setCause_frame (G : Group) (m : LaneMask) (cw : Word) :
    (G.setCause m cw).stack = G.stack ∧ (G.setCause m cw).base = G.base ∧ (G.setCause m cw).held = G.held ∧
      (G.setCause m cw).q = G.q ∧ ∀ r, (G.setCause m cw).row r = G.row r := by
  have hK : ∀ (G : Group) n x, (G.setK n x).stack = G.stack ∧ (G.setK n x).base = G.base ∧
      (G.setK n x).held = G.held := fun G n x => by
    obtain ⟨-, -, hst, -, -, -, hb, hh, -⟩ := G.write_frame (.k n x)
    exact ⟨hst, hb, hh⟩
  simp [Group.setCause, Group.setK_frame, hK]

/-! Rows. -/

/-- A row written in every lane reads as what was written. -/
theorem Group.row_writeRow_all (G : Group) (r : Nat) (x : Row) (h : x.length = 96) :
    (G.writeRow r allLanes x).row r = x := by
  refine List.ext_getElem (by simp [h]) fun L h1 h2 => ?_
  have hL : L < 96 := by omega
  have := Group.row_writeRow_same G r allLanes x L hL
  simpa [hL, List.getD_eq_getElem?_getD, List.getElem?_eq_getElem h1, List.getElem?_eq_getElem h2] using this

theorem trapImage_length (G : Group) (m : LaneMask) (pc : Word64) : (trapImage G m pc).length = 96 := rfl

/-! The launch values of the rows (R20). -/

@[simp] theorem fullRow_zeroRow : fullRow zeroRow = zeroRow := by simp [fullRow, zeroRow]

theorem Group.withKp_rows (G : Group) (n : Nat) (c : CapV) :
    (G.withKp n c).v = G.v ∧ (G.withKp n c).vtag = G.vtag := by
  simp [Group.withKp, List.range_succ, Group.write, Group.setK_frame]

/-- A new group lists no row and no quad tag: its banks are those of a blank group. -/
theorem newGroup_rows (t key core slot grp : Nat) (T : Team) (k : Task) (h : Header) (rtab : List Nat)
    (r : Nat × Nat × Role) (now : Nat) :
    (newGroup t key core slot grp T k h rtab r now).v = [] ∧
      (newGroup t key core slot grp T k h rtab r now).vtag = [] := by
  simp [newGroup, Group.withKp_rows, Group.blank]

/-! k63 (R28). -/

theorem winPut_k63 (w : List WinEntry) (age : Nat) (x : Word) : winPut w age (.k 63 x) = w := rfl

/-- A result for k63 changes neither bank nor window, at any age. -/
theorem putWrite_k63 (age : Nat) (st : Group × Path) (x : Word) : putWrite age st (.k 63 x) = st := by
  have hG : st.1.setK 63 x = st.1 := st.1.setK_not_taken x rfl
  simp only [putWrite, winPut_k63, Group.write_k, hG]
  rw [if_neg (by omega)]
  split <;> rfl

/-- The half of R28 about writes: results for k63 may be left out of a list of results. -/
theorem putWrites_drop_k63 (age : Nat) (st : Group × Path) (ws : List RegWrite) (keep : RegWrite → Bool)
    (h : ∀ w, keep w = false → ∃ x, w = .k 63 x) : putWrites age st ws = putWrites age st (ws.filter keep) := by
  induction ws generalizing st with
  | nil => rfl
  | cons w ws ih =>
    have ih' := ih (putWrite age st w)
    cases hw : keep w with
    | true => simpa [putWrites, hw] using ih'
    | false =>
      obtain ⟨x, rfl⟩ := h w hw
      simpa [putWrites, hw, putWrite_k63] using ih'

/-- The half of R28 about reads: k63 reads zero unless the window of the path lists a value for it. -/
theorem Iss.kReg_63 (i : Iss) : i.kReg 63 = ((i.p.win.find? (·.reg == 63)).map (·.val)).getD 0 := by
  simp only [Iss.kReg, Group.kOf]
  rw [if_neg (by omega)]
  cases i.p.win.find? (·.reg == 63) <;> rfl

/-- A path whose window lists a value for k63, which no write of the model puts there (`winPut_k63`). -/
def k63Listed : Path := { Path.fresh .conv 0 allLanes CapV.zero with win := [⟨63, 1, 0⟩] }
/-- A state with that path as the stack of its group 0. -/
def k63State : State :=
  (State.reset.setGroup 0 { Group.blank with stack := [k63Listed] }).setTeam 0 (Team.blank 0 0)
/-- What the instruction of that path sees. -/
def k63View : Iss :=
  k63State.gview (.path 0 0) 0 { Group.blank with stack := [k63Listed] } k63Listed (Team.blank 0 0)

theorem k63State_view : k63State.view (.path 0 0) = some k63View := rfl

/-! A stack with nothing outstanding (R93). -/

/-- The path with no v or q result in its forwarding window. -/
def Path.unheld (p : Path) : Path := { p with held := [] }

theorem Path.unheld_unheld (p : Path) : p.unheld.unheld = p.unheld := rfl

/-- The group with another stack. -/
def Group.withStack (G : Group) (st : List Path) : Group := { G with stack := st }

@[simp] theorem Group.withStack_stack (G : Group) (st : List Path) : (G.withStack st).stack = st := rfl
@[simp] theorem Group.withStack_handler (G : Group) (st : List Path) : (G.withStack st).handler = G.handler := rfl
@[simp] theorem Group.withStack_self (G : Group) : G.withStack G.stack = G := rfl

/-- Paths that owe the banks nothing. -/
def nothingOutstanding (st : List Path) : Prop := ∀ p ∈ st, p.pend = [] ∧ p.win = []

theorem Group.quiet_idle (G : Group) {p : Path} (h : p.pend = []) (hw : p.win = []) : G.quiet p = (G, p.unheld) := by
  obtain ⟨kind, pc, rpc, mask, code, win, held, pend⟩ := p
  subst h hw
  rfl

/-- One entry of the stack settled and flushed: what `Group.quietIn` does at each entry. -/
def Group.quietOne (G : Group) (ix : Nat) : Group :=
  match G.stack[ix]? with
  | some p => (G.quiet p).1.withStack ((G.quiet p).1.stack.set ix (G.quiet p).2)
  | none => G

theorem Group.quietIn_eq (G : Group) (ixs : List Nat) : G.quietIn ixs = (G.flushOrder ixs).foldl Group.quietOne G := rfl

theorem Group.quietOne_idle (G : Group) (h : nothingOutstanding G.stack) (ix : Nat) :
    G.quietOne ix = G.withStack (G.stack.modify ix Path.unheld) := by
  unfold Group.quietOne
  cases hp : G.stack[ix]? with
  | none =>
    rw [List.modify_eq_self (by simpa using hp), G.withStack_self]
  | some p =>
    obtain ⟨hpend, hwin⟩ := h p (List.mem_of_getElem? hp)
    obtain ⟨hlt, rfl⟩ := List.getElem?_eq_some_iff.1 hp
    simp [G.quiet_idle hpend hwin, List.modify_eq_set_getElem?, hlt]

theorem nothingOutstanding_modify {st : List Path} (h : nothingOutstanding st) (ix : Nat) :
    nothingOutstanding (st.modify ix Path.unheld) := by
  intro p hp
  obtain ⟨j, hj⟩ := List.mem_iff_getElem?.1 hp
  rw [List.getElem?_modify] at hj
  obtain ⟨q, hq, rfl⟩ := Option.map_eq_some_iff.1 hj
  have := h q (List.mem_of_getElem? hq)
  split <;> exact this

theorem Group.foldl_quietOne_idle (l : List Nat) (G : Group) (h : nothingOutstanding G.stack) :
    l.foldl Group.quietOne G = G.withStack (l.foldl (fun st ix => st.modify ix Path.unheld) G.stack) := by
  induction l generalizing G with
  | nil => rfl
  | cons ix l ih => rw [List.foldl_cons, G.quietOne_idle h, ih _ (nothingOutstanding_modify h ix)]; rfl

theorem getElem?_foldl_unheld (l : List Nat) (st : List Path) (j : Nat) :
    (l.foldl (fun st ix => st.modify ix Path.unheld) st)[j]? =
      if j ∈ l then st[j]?.map Path.unheld else st[j]? := by
  induction l generalizing st with
  | nil => simp
  | cons ix l ih =>
    rw [List.foldl_cons, ih, List.getElem?_modify]
    by_cases h1 : ix = j
    · subst h1
      by_cases h2 : ix ∈ l <;> simp [h2, Path.unheld_unheld, Function.comp_def]
    · simp [h1, Ne.symm h1]

theorem mem_insertKey (key : Nat → Nat) (x y : Nat) (l : List Nat) : y ∈ insertKey key x l ↔ y = x ∨ y ∈ l := by
  induction l with
  | nil => simp [insertKey]
  | cons z l ih =>
    rw [insertKey]
    split
    · simp
    · simp only [List.mem_cons, ih]; tauto

theorem mem_sortKey (key : Nat → Nat) (y : Nat) (l : List Nat) : y ∈ sortKey key l ↔ y ∈ l := by
  induction l with
  | nil => rfl
  | cons x l ih => rw [List.mem_cons, ← ih]; exact mem_insertKey key x y _

/-- With nothing outstanding, settling every path changes no bank. -/
theorem Group.quietAll_idle (G : Group) (h : nothingOutstanding G.stack) (hh : G.handler = none) :
    G.quietAll = G.withStack (G.stack.map Path.unheld) := by
  have hst : (G.flushOrder (List.range G.stack.length)).foldl (fun st ix => st.modify ix Path.unheld) G.stack =
      G.stack.map Path.unheld := by
    refine List.ext_getElem? fun j => ?_
    rw [getElem?_foldl_unheld, List.getElem?_map]
    by_cases hj : j < G.stack.length <;> simp [Group.flushOrder, mem_sortKey, hj]
  simp only [Group.quietAll, Group.quietIn_eq, Group.foldl_quietOne_idle _ G h, hst, G.withStack_handler, hh]

theorem Group.tidied_of_masks (G : Group) (h : ∀ p ∈ G.stack, p.mask ≠ 0) : G.tidied = G := by
  have hall : G.stack.all (·.mask != 0) = true := by simpa using h
  rw [Group.tidied, hall, Bool.or_true, if_pos rfl]

/-! The parent of an entry turns on kinds and masks alone (R121). -/

/-- What `parentIx` reads of an entry. -/
def Path.shape (p : Path) : Kind × LaneMask := (p.kind, p.mask)

theorem parentIx_congr {st st' : List Path} (h : st.map Path.shape = st'.map Path.shape) (ix : Nat) :
    parentIx st ix = parentIx st' ix := by
  have hj (j : Nat) : st[j]?.map Path.shape = st'[j]?.map Path.shape := by
    simpa only [List.getElem?_map] using congrArg (·[j]?) h
  unfold parentIx
  have hix := hj ix
  cases hp : st[ix]? <;> cases hq : st'[ix]? <;> simp only [hp, hq, Option.map_none, Option.map_some, reduceCtorEq,
    Option.some.injEq, Path.shape, Prod.mk.injEq] at hix
  · rfl
  · simp only [hix.2]
    congr 1
    funext j
    have hjj := hj j
    cases hc : st[j]? <;> cases hd : st'[j]? <;> simp only [hc, hd, Option.map_none, Option.map_some, reduceCtorEq,
      Option.some.injEq, Path.shape, Prod.mk.injEq] at hjj
    · rfl
    · simp only [hjj]

/-! Entry at level 0 (R30, R331). -/

/-- Where settling leaves entry ix a mask and no entry empty, every entry stays. -/
theorem Group.quietAt_kept {G : Group} {ix : Nat} {p q : Path} (hp : G.stack[ix]? = some p)
    (hq : G.quietAll.stack[ix]? = some q) (hm : q.mask ≠ 0) (ht : G.quietAll.tidied = G.quietAll) :
    G.quietAt ix = (G.quietAll, ix, q.mask) := by
  have hset : G.quietAll.stack.set ix q = G.quietAll.stack := by
    obtain ⟨hlt, rfl⟩ := List.getElem?_eq_some_iff.1 hq
    exact List.set_getElem_self _
  simp only [Group.quietAt, hp, hq, if_neg hm, hset, ht, if_true]

/-- A group at a boundary where nothing is outstanding keeps every entry; only forwarding windows go. -/
theorem Group.quietAt_quiet {G : Group} {ix : Nat} {p : Path} (h : Rules.quietAt G ix p) :
    G.quietAt ix = (G.withStack (G.stack.map Path.unheld), ix, p.mask) := by
  obtain ⟨hp, -, hh, -, hall⟩ := h
  have hq := Group.quietAll_idle G (fun q hq => ⟨(hall q hq).1, (hall q hq).2.1⟩) hh
  rw [← hq]
  refine Group.quietAt_kept (q := p.unheld) hp (by simp [hq, hp]) (hall p (List.mem_of_getElem? hp)).2.2
    (Group.tidied_of_masks _ ?_)
  simpa [hq, Path.unheld] using fun q hq => (hall q hq).2.2

/-- The banks of a group at the entry of a trap: the image in row v15 of the trap frame, the fault mask and the cause
word in k48 to k51. -/
def Group.saved (G : Group) (m lanes : LaneMask) (cw : Word) (resume : Word64) : Group :=
  (G.writeRow (trapRow + 15) allLanes (trapImage G m resume)).setCause lanes cw

section
variable (G : Group) (m lanes : LaneMask) (cw : Word) (pc : Word64)

theorem Group.saved_row_image : (G.saved m lanes cw pc).row (trapRow + 15) = trapImage G m pc := by
  obtain ⟨-, -, -, -, hrow⟩ := (G.writeRow (trapRow + 15) allLanes (trapImage G m pc)).setCause_frame lanes cw
  exact (hrow _).trans (G.row_writeRow_all _ _ (trapImage_length _ _ _))

theorem Group.saved_row_other {r : Nat} (h : r ≠ trapRow + 15) : (G.saved m lanes cw pc).row r = G.row r := by
  obtain ⟨-, -, -, -, hrow⟩ := (G.writeRow (trapRow + 15) allLanes (trapImage G m pc)).setCause_frame lanes cw
  exact (hrow r).trans (G.row_writeRow_other _ _ _ _ (Ne.symm h))

theorem Group.saved_kBank : (G.saved m lanes cw pc).kBank 48 = maskWord lanes 0 ∧
    (G.saved m lanes cw pc).kBank 49 = maskWord lanes 1 ∧ (G.saved m lanes cw pc).kBank 50 = maskWord lanes 2 ∧
    (G.saved m lanes cw pc).kBank 51 = cw ∧ ∀ n, n < 48 → (G.saved m lanes cw pc).kBank n = G.kBank n :=
  (G.writeRow (trapRow + 15) allLanes (trapImage G m pc)).kBank_setCause lanes cw

theorem Group.saved_frame : (G.saved m lanes cw pc).stack = G.stack ∧ (G.saved m lanes cw pc).base = G.base ∧
    (G.saved m lanes cw pc).held = G.held ∧ (G.saved m lanes cw pc).q = G.q := by
  obtain ⟨hst, hb, hh, hq, -⟩ := (G.writeRow (trapRow + 15) allLanes (trapImage G m pc)).setCause_frame lanes cw
  exact ⟨hst, hb, hh, hq⟩
end

/-- The handler that starts at TRAPV for entry ix, whose path is p (R331). -/
def Group.handlerFor (G : Group) (ix : Nat) (p : Path) (want : Option (Int × Nat)) : Handler :=
  { path := Path.fresh .conv (BitVec.ofNat 64 G.trapv) p.mask G.code, ix := ix, code := p.code, want := want }

/-- The group in its trap frame: banks saved, TF set, the handler about to issue. -/
def Group.entered (G : Group) (ix : Nat) (p : Path) (t : Trap) (cw : Word) (resume : Word64) : Group :=
  { G.saved p.mask t.lanes cw resume with tf := true, handler := some (G.handlerFor ix p t.want) }

theorem Group.enter0_quiet {G : Group} {ix : Nat} {p : Path} (h : Rules.quietAt G ix p) {t : Trap} (hl : t.late = false)
    (resume : Word64) : G.enter0 ix t resume =
      (G.withStack (G.stack.map Path.unheld)).entered ix p t
        (causeWord t false (parentIx G.stack ix).isSome) resume := by
  have hp : (G.stack.map Path.unheld)[ix]? = some p.unheld := by simp [h.1]
  have harm : parentIx (G.stack.map Path.unheld) ix = parentIx G.stack ix :=
    parentIx_congr (by simp [Function.comp_def, Path.shape, Path.unheld]) ix
  simp only [Group.enter0, G.quietAt_quiet h, Group.withStack_stack, hp, harm, hl, Bool.false_eq_true, if_false]
  rfl

theorem Group.entered_kBank (G : Group) (ix : Nat) (p : Path) (t : Trap) (cw : Word) (pc : Word64) {n : Nat}
    (h : n ≠ 52) : (G.entered ix p t cw pc).kBank n = (G.saved p.mask t.lanes cw pc).kBank n := by
  simp [Group.kBank, h, Group.entered]

theorem Group.entered_row (G : Group) (ix : Nat) (p : Path) (t : Trap) (cw : Word) (pc : Word64) (r : Nat) :
    (G.entered ix p t cw pc).row r = (G.saved p.mask t.lanes cw pc).row r := rfl

theorem Group.entered_frame (G : Group) (ix : Nat) (p : Path) (t : Trap) (cw : Word) (pc : Word64) :
    (G.entered ix p t cw pc).stack = G.stack ∧ (G.entered ix p t cw pc).base = G.base ∧
      (G.entered ix p t cw pc).held = G.held ∧ (G.entered ix p t cw pc).q = G.q :=
  G.saved_frame p.mask t.lanes cw pc

theorem Group.raise_none (G : Group) (p : Path) (age : Nat) : G.raise p age 0 = (G, p) := rfl

/-- The wait of an entry ends: the group is as quiet as before. -/
theorem quietAt_clearWait {G : Group} {ix : Nat} {p : Path} (h : Rules.quietAt G ix p) :
    Rules.quietAt (G.withStack (G.stack.set ix { p with wait := none })) ix { p with wait := none } := by
  obtain ⟨hp, htf, hh, ho, hall⟩ := h
  have hlt := (List.getElem?_eq_some_iff.1 hp).1
  refine ⟨by simp [hlt], htf, hh, ho, fun q hq => ?_⟩
  rcases List.mem_or_eq_of_mem_set hq with hq | rfl
  · exact hall q hq
  · exact hall p (List.mem_of_getElem? hp)

theorem Group.allReady_quiet {G : Group} {ix : Nat} {p : Path} (h : Rules.quietAt G ix p) : G.allReady = true := by
  obtain ⟨-, -, hh, ho, hall⟩ := h
  simp only [Group.allReady, hh, ho, Bool.and_true, List.isEmpty_nil, Bool.true_and, List.all_eq_true]
  intro q hq
  simp [(hall q hq).1]

/-- The entries as a trap of entry ix, whose path is p, leaves them: no wait of p, no forwarding window. -/
def Group.trapStack (G : Group) (ix : Nat) (p : Path) : List Path :=
  (G.stack.map Path.unheld).set ix { p with wait := none, held := [] }

theorem Group.map_unheld_set (G : Group) (ix : Nat) (p : Path) :
    (G.stack.set ix { p with wait := none }).map Path.unheld = G.trapStack ix p := List.map_set

theorem parentIx_clearWait {G : Group} {ix : Nat} {p : Path} (h : G.stack[ix]? = some p) :
    parentIx (G.stack.set ix { p with wait := none }) ix = parentIx G.stack ix := by
  obtain ⟨hlt, rfl⟩ := List.getElem?_eq_some_iff.1 h
  refine parentIx_congr (List.ext_getElem? fun j => ?_) ix
  rw [List.getElem?_map, List.getElem?_map, List.getElem?_set]
  split
  · subst ix; simp [hlt, Path.shape]
  · rfl

theorem State.group_withCur (s : State) (c : Option Agent) (g : Nat) :
    ({ s with cur := c } : State).group g = s.group g := rfl

/-- A trap without flags of a quiet group that has a handler is taken at level 0 at once (R331). -/
theorem State.takeTrap_level0 {s : State} {g ix : Nat} {G : Group} {p : Path} {t : Trap} (hG : s.group g = some G)
    (h : Rules.quietAt G ix p) (hv : G.trapv ≠ 0) (hf : t.toFirmware = false) (hfl : t.flags = 0) :
    s.takeTrap (.path g ix) t =
      { s.setGroup g ((G.withStack (G.stack.set ix { p with wait := none })).enter0 ix t (t.resume.getD p.pc)) with
        cur := if s.cur = some (.path g ix) then some (.handler g) else s.cur } := by
  simp [State.takeTrap, hf, hG, h.1, Group.allReady_quiet h, hfl, Group.raise_none, hv, Group.withStack]

/-- The group that such a trap leaves: its banks saved, its stack without the wait and the windows, its handler about to
issue. -/
theorem Group.enter0_clearWait {G : Group} {ix : Nat} {p : Path} (h : Rules.quietAt G ix p) {t : Trap}
    (hl : t.late = false) (resume : Word64) :
    (G.withStack (G.stack.set ix { p with wait := none })).enter0 ix t resume =
      (G.withStack (G.trapStack ix p)).entered ix p t (causeWord t false (parentIx G.stack ix).isSome) resume := by
  rw [Group.enter0_quiet (quietAt_clearWait h) hl, Group.withStack_stack, parentIx_clearWait h.1, Group.map_unheld_set]
  rfl

/-- The cause word of a trap that is neither late nor an escalation (R329). -/
theorem causeWord_of_prompt {t : Trap} (h : t.late = false) (arm : Bool) : causeWord t false arm =
    BitVec.ofNat 32 (t.detail % 2 ^ 13 * 2 ^ 19 + (if arm then 2 ^ 16 else 0) + t.sub % 16 * 2 ^ 8 +
      t.cause % 256) := by
  simp [causeWord, h]

end Sys2Proof.Machine

section
open Sys2Proof Sys2Proof.Machine

/-- Settles O51: by `State.takeTrap_level0` the group is as it was with its banks saved, TF set and the handler at
TRAPV. -/
theorem trapLevel0 : Obligations.TrapLevel0 := by
  intro s g ix G p tr hG h hv hf hl hfl
  let S : Group := G.withStack (G.trapStack ix p)
  let cw : Word := causeWord tr false (parentIx G.stack ix).isSome
  let pc : Word64 := tr.resume.getD p.pc
  obtain ⟨h48, h49, h50, h51, hk⟩ := S.saved_kBank p.mask tr.lanes cw pc
  obtain ⟨hst, hbase, hheld, hq⟩ := S.entered_frame ix p tr cw pc
  have hE {n : Nat} (hn : n < 52) := S.entered_kBank ix p tr cw pc (Nat.ne_of_lt hn)
  rw [State.takeTrap_level0 hG h hv hf hfl, Group.enter0_clearWait h hl,
    ← causeWord_of_prompt hl (parentIx G.stack ix).isSome]
  exact ⟨S.entered ix p tr cw pc, S.handlerFor ix p tr.want,
    (State.group_withCur _ _ g).trans (State.group_setGroup _ _ _), rfl, rfl, rfl, rfl, rfl, rfl, rfl,
    (S.entered_row ix p tr cw pc _).trans (S.saved_row_image p.mask tr.lanes cw pc),
    ⟨(hE (by decide)).trans h48, (hE (by decide)).trans h49, (hE (by decide)).trans h50⟩, (hE (by decide)).trans h51,
    hst, hbase, hheld, fun r hr => (S.entered_row ix p tr cw pc r).trans (S.saved_row_other p.mask tr.lanes cw pc hr),
    fun n hn => (hE (by omega)).trans (hk n hn), hq,
    fun y hy => (State.group_withCur _ _ y).trans (State.group_setGroup_other _ _ (Ne.symm hy)), rfl⟩

/-- Refutes O58: the view of an instruction whose path lists the value 1 for k63 in its forwarding window reads 1
(`k63State_view`: it is the view of a state's agent). The statement asks for every view, where R28 speaks of the machine
as it runs: no result puts such an entry in a window (`winPut_k63`), and the half about writes holds
(`putWrites_drop_k63`). -/
theorem not_zeroRegister : ¬ Obligations.ZeroRegister := by
  rintro ⟨hread, -⟩
  have h1 : k63View.kReg 63 = 1 := Iss.kReg_63 k63View
  exact absurd ((hread k63View).symm.trans h1) (by decide)

/-- Settles O59: a new group's banks list no row and no quad tag (`newGroup_rows`). -/
theorem rowsAtLaunch : Obligations.RowsAtLaunch := by
  intro t key core slot grp T k h rtab r now
  obtain ⟨hv, htag⟩ := newGroup_rows t key core slot grp T k h rtab r now
  exact ⟨fun n => by simp [Group.row, hv, Tbl.get], fun q => by simp [Group.quadTags, htag, Tbl.get]⟩
end

/-! PROOFS. Capability instructions (spec/02_capabilities.md, spec/07_isa_memory.md): derivations and observations complete
with the results of their rules (R182 to R189). -/

namespace Sys2Proof.Machine

open Sys2Proof.Safety Sys2Proof.Rules

variable {s : State} {i : Iss} {out : Out1} {o : Op} {w : Long}

theorem Iss.capTrap_nil (i : Iss) (whole : Bool) : i.capTrap whole [] = .ok () := rfl

/-- A form that executes once is of the control stream or has its capability in a uniform quad (R182). -/
theorem Iss.capOnceForm_iff (i : Iss) (w : Long) : i.capOnceForm w = true ↔ i.ctl = true ∨ w.asel = 1 := by
  simp [Iss.capOnceForm]

theorem Iss.mem_capLanes {i : Iss} {L : Nat} (h : L ∈ lanesOf (i.capLanes o w)) : L < 96 ∧ capPart i o w L := by
  unfold Iss.capLanes at h
  unfold capPart
  split at h
  next he => rw [lanesOf_one, List.mem_singleton] at h; simp [h, he]
  next he => rw [if_neg he]; exact mem_lanesOf.1 h

/-- The results of a derivation that refuses no lane. -/
theorem Iss.capWrite_eq (i : Iss) (o : Op) (w : Long) (g : Nat → CapV) :
    i.capWrite o w ((lanesOf (i.capLanes o w)).map (fun L => (L, g L))) =
      if i.capOnceForm w then i.capResult w.d.toNat (g 0)
      else i.vpResult w.d.toNat (i.active o) (lanewise (fun L => if (i.active o).getLsbD L then (g L).bits.toNat else 0))
        (lanesAt (fun L => (i.active o).getLsbD L && (g L).tag)) := by
  unfold Iss.capWrite Iss.capLanes
  split
  · rw [lanesOf_one]; rfl
  · rw [← byLane_lanesOf, ← maskOfLanes_filter, List.map_map, List.filter_map, List.map_map]
    simp only [Function.comp_def, List.map_id']

/-- The results of an observation: one plain value, or one for each active lane. -/
theorem Iss.plainWrite_eq (i : Iss) (o : Op) (w : Long) (wd : Nat) (g : Nat → Nat) :
    i.plainWrite o w wd ((lanesOf (i.capLanes o w)).map (fun L => (L, g L))) =
      if i.ctl then [.c (w.d.toNat % 64) (BitVec.ofNat 64 (g 0))]
      else if w.asel = 1 then kResult wd w.d.toNat (g 0)
      else i.vResult wd w.d.toNat (i.active o) (lanewise (fun L => if (i.active o).getLsbD L then g L else 0)) := by
  unfold Iss.plainWrite Iss.capLanes
  by_cases h : i.capOnceForm w = true
  · rw [if_pos h, lanesOf_one]
    rcases (i.capOnceForm_iff w).1 h with hc | ha
    · simp only [hc, if_true]; rfl
    · simp only [ha, if_true]; rfl
  · obtain ⟨hc, ha⟩ := not_or.1 (mt (i.capOnceForm_iff w).2 h)
    rw [if_neg hc, if_neg hc, if_neg ha, if_neg ha, if_neg h, byLane_lanesOf]

/-- A derivation that refuses no participating lane completes with its results (R182). -/
theorem derive_does {legal : Iss → Bool} {regs : List SrcReg} {f : Iss → Nat → CapV → Except CapErr CapV} (h : Clear s i)
    (hx : out = capDerive o w legal regs f s) : (derive o w legal f).does i out := by
  refine rule_results h hx rfl (fun hpre => ?_)
  generalize hj : i.issued (derive o w legal f).op = j at hpre ⊢
  let got (L : Nat) : CapV := match f j L (j.capAt w L) with
    | .ok c => c
    | .error _ => CapV.zero
  have hgot : ∀ L ∈ lanesOf (j.capLanes o w), f j L (j.capAt w L) = .ok (got L) := fun L hL => by
    obtain ⟨c, hc⟩ := hpre L (Iss.mem_capLanes hL).1 (Iss.mem_capLanes hL).2
    simp only [got, hc]
  have hecc : j.ecc (j.capMask o w) (j.capRegs o w regs) = .ok () := by rw [← hj]; exact Iss.issued_ecc i _ h.poison _ _
  simp only [hecc, List.filterMap_map, Function.comp_def, Bind.bind, Except.bind]
  rw [filterMap_none _ _ (fun L hL => by rw [hgot L hL]), filterMap_some _ (fun L => (L, got L)) _
    (fun L hL => by rw [hgot L hL]), Iss.capTrap_nil, Iss.capWrite_eq]
  rfl

/-- An observation completes with its plain results (R188, R189). -/
theorem observe_does {wd : Nat} {legal : Iss → Bool} {regs : List SrcReg} {f : Iss → Nat → CapV → Nat} (h : Clear s i)
    (hx : out = capRead o w wd legal regs f s) : (observe o w wd legal f).does i out := by
  refine rule_results h hx rfl (fun _ => ?_)
  simp only [Iss.issued_ecc i _ h.poison, Bind.bind, Except.bind, Iss.plainWrite_eq]
  rfl

/-- A derivation by an integer operand. -/
theorem byInt_does {tys : List Nat} {legal : Bool} {f : ITy → CapV → Nat → Except CapErr CapV} (h : Clear s i)
    (hx : out = capByInt o w tys legal f s) : (byInt o w tys legal f).does i out :=
  derive_does h hx

/-! The three functions that the rules write otherwise. -/

theorem capSet_eq (o : Op) (w : Long) :
    capSet o w = capByInt o w [6, 7] true (fun _ c b => c.setCursor ((c.base : Int) + b)) := by
  unfold capSet
  simp only [Nat.cast_add]

theorem execCbnd_eq (w : Long) : execCbnd w = capByInt (Op.long 0x2A 2 w) w [6, 7] (w.sc.toNat < 2) (fun _ c b =>
    if b < 2 ^ 56 then c.narrow b (w.sc == 0) else .ok ⟨c.bits, false⟩) := by
  unfold execCbnd
  congr 1
  funext _ c b
  rw [← ite_not]
  simp only [not_le]
  rfl

/-- What CTEST reports, check by check (R49, R189). -/
theorem capTest_eq (i : Iss) (pm : Nat) (c : CapV) (n : Nat) :
    capTest i.colour (i.s.colourOk i.colour) pm c n = testCode i pm c n := by
  have hforms : [0, 3].any isSealedForm = false := by decide
  unfold capTest CapV.check testCode
  by_cases ht : c.tag = false
  · simp [firstErr, ht]
  by_cases h5 : 5 ≤ c.form
  · simp [firstErr, ht, h5]
  by_cases hs : c.form = 1 ∨ c.form = 2 ∨ c.form = 4
  · have h03 : ¬c.form = 0 ∧ ¬c.form = 3 := by omega
    have hsealed : isSealedForm c.form = true := by simpa [isSealedForm, or_assoc] using hs
    simp only [firstErr, ht, h5, hs, hforms, hsealed]
    simp [h03]
  · have h03 : c.form = 0 ∨ c.form = 3 := by omega
    have hsealed : isSealedForm c.form = false := by simpa [isSealedForm, and_assoc] using hs
    have hpass : [0, 3].contains c.form = true := by simpa using h03
    simp only [firstErr, h5, hs, hforms, hsealed, hpass, CapV.has]
    have hend : (c.top : Int) < c.cursor + n ↔ c.top < c.cursor + n := by omega
    simp [ht, hend]
    split_ifs <;> rfl

end Sys2Proof.Machine

section
open Sys2Proof Sys2Proof.Machine

/-- Settles O20: each form is a derivation (`derive_does`, `byInt_does`) or an observation (`observe_does`) of its page's
function; of CSET, CBND and CTEST the machine's function is the rule's written otherwise. -/
theorem capabilityForms : Obligations.CapabilityForms := by
  intro x r s i hx h
  cases x with
  | cadd32 o => cases hx; exact byInt_does h rfl
  | cadd64 w => cases hx; exact byInt_does h rfl
  | cset32 o => cases hx; exact byInt_does h (congrFun (capSet_eq _ _) s)
  | cset64 w => cases hx; exact byInt_does h (congrFun (capSet_eq _ _) s)
  | cbnd w => cases hx; exact byInt_does h (congrFun (execCbnd_eq w) s)
  | cperm32 o => cases hx; exact byInt_does h rfl
  | cperm64 w => cases hx; exact byInt_does h rfl
  | cget w => cases hx; exact observe_does h rfl
  | cseal w => cases hx; exact derive_does h rfl
  | cunseal w => cases hx; exact derive_does h rfl
  | ctest w => cases hx; simp only [← capTest_eq]; exact observe_does h rfl
  | cclr32 o => cases hx; exact derive_does h rfl
  | cclr64 w => cases hx; exact derive_does h rfl
  | _ => cases hx
end

/-! PROOFS. Failed checks (spec/02_capabilities.md, R51, R173): the trap that a list of refusals calls for, and what an
instruction leaves whose body traps. -/

namespace Sys2Proof.Machine

open Sys2Proof.Safety Sys2Proof.Rules

variable {s : State} {i : Iss} {o : Op}

/-- An instruction with nothing in its way reaches its body, in either stream. -/
theorem Iss.begin_issued (h : Clear s i) {legal : Iss → Bool} (ha : i.admits o legal) (hp : i.mustPark o = none) :
    i.begin o legal = .ok (i.issued o) := by
  unfold Iss.issued
  split
  next hc => exact Iss.begin_ctl h hc ha
  next hc => exact Iss.begin_group h (Bool.not_eq_true _ ▸ hc) ha hp

/-- With nothing outstanding, the state before the accounts of an issue is the state in which it issues. -/
theorem Iss.before_clear (h : Clear s i) (o : Op) : i.before o = i := by
  obtain ⟨ag, -, hv⟩ := State.cur_view h.issuing
  obtain ⟨hs, hag, -⟩ := State.view_self hv
  simp only [Iss.before, Iss.settled_clear h.pend, hs, hv, hag, Option.getD_some]

/-- A body that traps leaves the state before the issue, with the trap taken. -/
theorem runInstr_trap (h : Clear s i) {legal : Iss → Bool} {body : Body} (ha : i.admits o legal)
    (hp : i.mustPark o = none) {t : Trap} (hb : body (i.issued o) = .error (.trap t)) :
    runInstr o legal body s = .next (s.takeTrap i.ag t) := by
  obtain ⟨ag, -, hv⟩ := State.cur_view h.issuing
  obtain ⟨hs, -⟩ := State.view_self hv
  simp only [runInstr, h.issuing, Iss.begin_issued h ha hp, hb, Iss.close, Iss.before_clear h, hs]

/-- The subcause of a refusal that is CAPABILITY. -/
def CapErr.sub : CapErr → Nat
  | .cap k => k
  | _ => 0

/-- Of refusals that are all CAPABILITY the lowest lane's names the subcause, and every lane is in the mask (R51). -/
theorem Iss.capTrap_caps (i : Iss) {k : Nat × CapErr} {rest : List (Nat × CapErr)}
    (h : ∀ e ∈ k :: rest, ∃ c, e.2 = .cap c) : ∃ c, k.2 = .cap c ∧
      i.capTrap false (k :: rest) = .error (.trap (Trap.of cCAPABILITY c 0 (maskOfLanes ((k :: rest).map (·.1))))) := by
  have hill : (k :: rest).filter (fun e => e.2 == .illegal) = [] := by
    refine List.filter_eq_nil_iff.2 (fun e he => ?_)
    obtain ⟨c, hc⟩ := h e he
    simp [hc]
  obtain ⟨c, hc⟩ := h k List.mem_cons_self
  refine ⟨c, hc, ?_⟩
  unfold Iss.capTrap
  dsimp only
  rw [hill, filterMap_some _ (fun e => (e.1, e.2.sub)) (k :: rest)
    (fun e he => by obtain ⟨c, hc⟩ := h e he; simp only [hc, CapErr.sub])]
  simp [hc, CapErr.sub, Iss.trap, Function.comp_def]

/-- An access of which active lanes fail a check, none meeting a reserved form, traps before it (R173 steps 2 and 3). -/
theorem Iss.lsCheck_caps (i : Iss) {u : LsUse} {n : Nat} {xs : List Acc} {k : Nat × CapErr} {rest : List (Nat × CapErr)}
    (hbad : xs.filterMap (fun x => (i.lsErr u n x).map (fun e => (x.l, e))) = k :: rest)
    (h : ∀ e ∈ k :: rest, ∃ c, e.2 = .cap c) : ∃ c, k.2 = .cap c ∧
      i.lsCheck u n false xs = .error (.trap (Trap.of cCAPABILITY c 0 (maskOfLanes ((k :: rest).map (·.1))))) := by
  unfold Iss.lsCheck
  rw [hbad]
  exact i.capTrap_caps h

/-- The first check that fails is what a body answers. -/
theorem bind_failed {α : Type} {e c : Except Stop Unit} {rest : Unit → Except Stop α} {x : Stop} (he : e = .ok ())
    (hc : c = .error x) : (e >>= fun _ => c >>= rest) = .error x := by
  rw [he, hc]
  rfl

/-- LD performs nothing where its check fails (R166, R173). -/
theorem memLd_failed (h : Clear s i) {w : Long} (ha : i.admits o (ruleLd o w).ok) (hp : i.mustPark o = none) {t : Trap}
    (ht : (i.issued o).lsCheck useLd ((tyOf w).w / 8) false
      (accesses (i.issued o) w (i.active o) w.off10 (pvBit w)) = .error (.trap t)) :
    memLd o w s = .next (s.takeTrap i.ag t) := by
  refine runInstr_trap h ha hp (bind_failed (Iss.issued_ecc i o h.poison _ _) ?_)
  rw [Iss.issued_active]
  exact ht

/-- ST performs nothing where its check fails (R166, R173). -/
theorem memSt_failed (h : Clear s i) {w : Long} (ha : i.admits o (ruleSt o w).ok) (hp : i.mustPark o = none) {t : Trap}
    (ht : (i.issued o).lsCheck useSt ((tyOf w).w / 8) false
      (accesses (i.issued o) w (i.active o) w.off10 (pvBit w)) = .error (.trap t)) :
    memSt o w s = .next (s.takeTrap i.ag t) := by
  refine runInstr_trap h ha hp (bind_failed (Iss.issued_ecc i o h.poison _ _) ?_)
  rw [Iss.issued_active]
  exact ht

end Sys2Proof.Machine

section
open Sys2Proof Sys2Proof.Machine Sys2Proof.Rules

/-- Settles O53: the check of R173 comes before every access (`memLd_failed`, `memSt_failed`), and of refusals that are all
CAPABILITY it reports every lane and the lowest one's subcause (`Iss.lsCheck_caps`). -/
theorem failedChecksTrap : Obligations.FailedChecksTrap := by
  intro w s i h
  refine ⟨fun k rest ha hp hbad hcap => ?_, fun k rest ha hp hbad hcap => ?_⟩
  · obtain ⟨c, hc, ht⟩ := Iss.lsCheck_caps _ hbad hcap
    exact ⟨c, hc, memLd_failed h ha hp ht⟩
  · obtain ⟨c, hc, ht⟩ := Iss.lsCheck_caps _ hbad hcap
    exact ⟨c, hc, memSt_failed h ha hp ht⟩
end

/-! PROOFS. Requests of the host and of peers (spec/02_capabilities.md, R47, R50, R175): the watch log changes no storage
and sends nothing, and a request is turned away or served. -/

namespace Sys2Proof.Machine

open Sys2Proof.Safety Sys2Proof.Rules

variable {s : State} {rq : InRq}

/-- Storage, and what waits outside, as before. -/
def sameStore (s t : State) : Prop := t.mem = s.mem ∧ t.io = s.io

theorem sameStore_foldl {α : Type} (f : State → α → State) (h : ∀ s x, sameStore s (f s x)) (l : List α) (s : State) :
    sameStore s (l.foldl f s) := by
  induction l generalizing s with
  | nil => exact ⟨rfl, rfl⟩
  | cons x l ih => exact ⟨(ih _).1.trans (h s x).1, (ih _).2.trans (h s x).2⟩

theorem sameStore_watchAt (s : State) (tower path agent colour op : Nat) (accs : List (Nat × Nat)) :
    sameStore s (s.watchAt tower path agent colour op accs) := by
  unfold State.watchAt
  split
  · exact ⟨rfl, rfl⟩
  · refine sameStore_foldl _ (fun s e => ?_) _ _
    dsimp only
    repeat' split
    all_goals exact ⟨rfl, rfl⟩

/-- The watch log's count of an access changes no storage and sends nothing (R454). -/
theorem sameStore_watchEng (s : State) (path agent colour op : Nat) (accs : List (Nat × Nat)) :
    sameStore s (s.watchEng path agent colour op accs) := by
  unfold State.watchEng
  split
  · exact ⟨rfl, rfl⟩
  · exact sameStore_foldl _ (fun s t => sameStore_watchAt s t path agent colour op _) _ _

/-- A refused request changes no storage; one that is no write is answered with its status (R47, R50). -/
theorem State.serve_refused (path agent dst : Nat) {err : Option (Nat × Nat) × Nat} {e : Nat × Nat}
    (refused : Nat × Nat → Nat) (he : err.1 = some e) :
    turnedAway dst (refused e) ((reqSpan rq).2.2 != 1) s (s.serve path agent rq err refused (.answer dst)) := by
  obtain ⟨hm, hio⟩ := sameStore_watchEng s path agent err.2 3 [((reqSpan rq).1, (reqSpan rq).2.1)]
  unfold State.serve turnedAway
  simp only [he]
  by_cases hk : (reqSpan rq).2.2 = 1
  · simp [hk, hm, hio]
  · simp [hk, hm, hio]

/-- An admitted request of the host has its effect at the home (R50, R175, R446). -/
theorem State.serve_admitted (path agent dst : Nat) {err : Option (Nat × Nat) × Nat} (refused : Nat × Nat → Nat)
    (he : err.1 = none) : servedAt dst rq false s (s.serve path agent rq err refused (.answer dst)) := by
  unfold State.serve
  simp only [he]
  obtain ⟨hm, hio⟩ := sameStore_watchEng s path agent err.2 (reqSpan rq).2.2 [((reqSpan rq).1, (reqSpan rq).2.1)]
  generalize s.watchEng path agent err.2 (reqSpan rq).2.2 [((reqSpan rq).1, (reqSpan rq).2.1)] = u at hm hio ⊢
  cases rq with
  | read a n =>
    refine ⟨?_, fun hp hs => ?_⟩
    · by_cases hp : (s.mem.poisonIn a n).isSome = true
      · simp [State.inbound, hp, hm]
      · by_cases hs : isSys a = true <;> simp [State.inbound, hp, hs, hm]
    · simp [State.inbound, hm, hp, hs, hio]
  | write a d => simp [State.inbound, servedAt, hm, hio]
  | atomic r =>
    simp only [State.inbound, servedAt, hm]
    by_cases hp : (s.mem.poisonIn r.addr (((ityOf r.ty).getD tN32).w / 8)).isSome = true
    · simp [hp, hm, hio]
    · simp [hp, hio]

/-- An admitted write of a peer is answered besides (R47). -/
theorem servedAt_peer {dst : Nat} {t : State} (h : servedAt dst rq false s t) :
    servedAt dst rq true s (if (reqSpan rq).2.2 = 1 then t.send (.answer dst [] 0) else t) := by
  cases rq with
  | read a n => exact h
  | write a d =>
    obtain ⟨hm, hio⟩ := h
    exact ⟨hm, by simp [reqSpan, hio]⟩
  | atomic r => exact h

/-- A host's request: discarded, turned away or served (R47, R50, R407, R409). -/
theorem hostInbound_gives (f : Nat) (hf : f < 16) :
    ∃ t, execHostInboundRequest f rq s = .next t ∧
      if (s.fn f).insecure = true then t = s
      else if s.ready = false ∨ (s.fn f).en = false ∨
        (s.hiErr f (reqSpan rq).1 (reqSpan rq).2.1 ((reqSpan rq).2.2 != 0)).1 ≠ none then
        turnedAway f 1 ((reqSpan rq).2.2 != 1) s t
      else servedAt f rq false s t := by
  unfold execHostInboundRequest
  dsimp only
  rw [if_neg (Nat.not_le.2 hf)]
  by_cases hi : (s.fn f).insecure = true
  · simp [hi]
  rw [if_neg hi]
  simp only [if_neg hi]
  by_cases hr : s.ready = false ∨ (s.fn f).en = false
  · refine ⟨_, if_pos (by simpa using hr), ?_⟩
    rw [if_pos (hr.imp_right .inl), turnedAway]
    by_cases hk : (reqSpan rq).2.2 = 1 <;> simp [hk]
  · refine ⟨_, if_neg (by simpa using hr), ?_⟩
    obtain ⟨hready, hen⟩ := not_or.1 hr
    cases he : (s.hiErr f (reqSpan rq).1 (reqSpan rq).2.1 ((reqSpan rq).2.2 != 0)).1 with
    | none => rw [if_neg (by simp [hready, hen])]; exact State.serve_admitted 5 _ f _ he
    | some e => rw [if_pos (by simp)]; exact State.serve_refused 5 _ f _ he

/-- A peer's request: its operand checked at the port, turned away or served (R47). -/
theorem peerInbound_gives (dev : Nat) (cap : BitVec 128) (tag : Bool) :
    ∃ t, execPeerInboundRequest dev cap tag rq s = .next t ∧
      match (if s.ready then s.portErr ⟨cap, tag⟩ rq else (some (cCAPABILITY, subCOLOUR), 0)).1 with
      | some e => turnedAway (16 + dev) (256 + e.1 + 4096 * e.2) true s t
      | none => servedAt (16 + dev) (reqHere rq) true s t := by
  unfold execPeerInboundRequest
  dsimp only
  generalize (if s.ready then s.portErr ⟨cap, tag⟩ rq else (some (cCAPABILITY, subCOLOUR), 0)) = err
  rcases he : err.1 with _ | e
  · have hs := servedAt_peer (State.serve_admitted (s := s) (rq := reqHere rq) 6 (0x8000 + dev) (16 + dev)
      (fun e => 256 + e.1 + 4096 * e.2) he)
    by_cases hk : (reqSpan (reqHere rq)).2.2 = 1
    · rw [if_pos hk] at hs
      simp only [hk]
      exact ⟨_, rfl, hs⟩
    · rw [if_neg hk] at hs
      split
      · contradiction
      · contradiction
      · exact ⟨_, rfl, hs⟩
  · by_cases hk : (reqSpan (reqHere rq)).2.2 = 1
    · obtain ⟨hm, hio⟩ := sameStore_watchEng s 6 (0x8000 + dev) err.2 3
        [((reqSpan (reqHere rq)).1, (reqSpan (reqHere rq)).2.1)]
      simp only [hk]
      exact ⟨_, rfl, by simp [turnedAway, hm, hio]⟩
    · have hs := State.serve_refused (s := s) (rq := reqHere rq) 6 (0x8000 + dev) (16 + dev)
        (fun e => 256 + e.1 + 4096 * e.2) he
      rw [bne_iff_ne.2 hk] at hs
      split
      · contradiction
      · contradiction
      · exact ⟨_, rfl, hs⟩

end Sys2Proof.Machine

section
open Sys2Proof Sys2Proof.Machine Sys2Proof.Rules

/-- Settles O44: a request is turned away with its status (`State.serve_refused`) or performed at the home
(`State.serve_admitted`), as the checks of its side decide. -/
theorem inboundRequests : Obligations.InboundRequests := by
  intro x r s hx hok
  cases x with
  | hostInboundRequest f rq => cases hx; exact hostInbound_gives f hok
  | peerInboundRequest dev cap tag rq => cases hx; exact peerInbound_gives dev cap tag
  | _ => cases hx
end

/-! PROOFS. Derivations (spec/02_capabilities.md, R37 to R45): the fields of a capability value, the bounds that an
encoding stands for, and what each derivation keeps. -/

namespace Sys2Proof.Machine

/-! Fields of a number. -/

theorem testBit_bitsOf (x h l i : Nat) : (bitsOf x h l).testBit i = (decide (i < h + 1 - l) && x.testBit (l + i)) := by
  rw [bitsOf, Nat.testBit_mod_two_pow, Nat.testBit_shiftRight]

theorem testBit_setBits {x h l v : Nat} (hl : l ≤ h) (i : Nat) :
    (setBits x h l v).testBit i = if l ≤ i ∧ i ≤ h then v.testBit (i - l) else x.testBit i := by
  have hlow : x % 2 ^ l < 2 ^ l := Nat.mod_lt _ (Nat.two_pow_pos l)
  have hv : v % 2 ^ (h + 1 - l) < 2 ^ (h + 1 - l) := Nat.mod_lt _ (Nat.two_pow_pos _)
  have e : setBits x h l v = 2 ^ l * (2 ^ (h + 1 - l) * (x >>> (h + 1)) + v % 2 ^ (h + 1 - l)) + x % 2 ^ l := by
    have hp : 2 ^ (h + 1) = 2 ^ l * 2 ^ (h + 1 - l) := by rw [← pow_add]; congr 1; omega
    rw [setBits, hp]
    ring
  rw [e, Nat.testBit_two_pow_mul_add _ hlow, Nat.testBit_two_pow_mul_add _ hv, Nat.testBit_mod_two_pow,
    Nat.testBit_mod_two_pow, Nat.testBit_shiftRight]
  by_cases h1 : i < l
  · simp [h1, show ¬l ≤ i by omega]
  by_cases h2 : i ≤ h
  · simp [h1, h2, show i - l < h + 1 - l by omega, show l ≤ i by omega]
  · simp [h1, h2, show ¬i - l < h + 1 - l by omega, show h + 1 + (i - l - (h + 1 - l)) = i by omega]

/-! Exponents. -/

/-- The exponent found covers the length, unless the search has run out (R39). -/
theorem smallestE_covers {n len fuel e : Nat} (h : smallestE n len fuel e < e + fuel) :
    len ≤ (2 ^ (n - 1) - 1) * 2 ^ smallestE n len fuel e := by
  induction fuel generalizing e with
  | zero => simp [smallestE] at h
  | succ fuel ih =>
    unfold smallestE at h ⊢
    split at h
    next hc => rw [if_pos hc]; exact hc
    next hc => rw [if_neg hc]; exact ih (by omega)

theorem canonicalE_some {n b t e : Nat} (h : canonicalE n b t = some e) :
    e ≤ 39 ∧ 2 ^ e ∣ b ∧ 2 ^ e ∣ t ∧ t - b ≤ (2 ^ (n - 1) - 1) * 2 ^ e := by
  unfold canonicalE at h
  dsimp only at h
  split at h
  next hc =>
    obtain ⟨hb, ht, he⟩ := hc
    obtain rfl := Option.some.inj h
    exact ⟨he, Nat.dvd_of_mod_eq_zero hb, Nat.dvd_of_mod_eq_zero ht, smallestE_covers (by omega)⟩
  next => cases h

/-! Signed fields. -/

theorem wrap_lt (w : Nat) (x : Int) : wrap w x < 2 ^ w := by
  have h := Int.emod_lt_of_pos x (show (0 : Int) < 2 ^ w by positivity)
  have h0 := Int.emod_nonneg x (show (2 : Int) ^ w ≠ 0 by positivity)
  unfold wrap
  zify
  omega

theorem wrap_mod (w : Nat) (x : Int) : wrap w x % 2 ^ w = wrap w x := Nat.mod_eq_of_lt (wrap_lt w x)

/-- A signed number of a width is read back from its low bits. -/
theorem sext_wrap {w : Nat} {x : Int} (hw : 0 < w) (hlo : -2 ^ (w - 1) ≤ x) (hhi : x < 2 ^ (w - 1)) :
    sext w (wrap w x) = x := by
  obtain ⟨k, rfl⟩ : ∃ k, w = k + 1 := ⟨w - 1, by omega⟩
  rw [Nat.add_sub_cancel] at hlo hhi
  have hp : (2 : Int) ^ (k + 1) = 2 * 2 ^ k := by ring
  have hmod : ((wrap (k + 1) x : Nat) : Int) = if 0 ≤ x then x else x + 2 ^ (k + 1) := by
    rw [wrap, Int.toNat_of_nonneg (Int.emod_nonneg _ (by positivity))]
    split
    · exact Int.emod_eq_of_lt ‹_› (by omega)
    · rw [← Int.add_emod_right]; exact Int.emod_eq_of_lt (by omega) (by omega)
  have hlt : wrap (k + 1) x < 2 ^ (k + 1) := by
    zify; rw [hmod]; split <;> omega
  have hlow : wrap (k + 1) x < 2 ^ k ↔ 0 ≤ x := by
    zify; rw [hmod]; split <;> omega
  unfold sext
  rw [Nat.add_sub_cancel, Nat.mod_eq_of_lt hlt, Int.emod_eq_of_lt (by omega) (by exact_mod_cast hlt), hmod]
  simp only [hlow]
  split <;> omega

theorem wrap_of_lt {w : Nat} {x : Int} (h0 : 0 ≤ x) (h : x < 2 ^ w) : ((wrap w x : Nat) : Int) = x := by
  rw [wrap, Int.emod_eq_of_lt h0 h, Int.toNat_of_nonneg h0]

/-! Rounding up, and lists of conditions. -/

theorem le_cdiv_mul (a : Nat) {g : Nat} (hg : 0 < g) : a ≤ cdiv a g * g := by
  have h := Nat.lt_mul_div_succ (a + g - 1) hg
  rw [Nat.mul_comm, Nat.add_one_mul] at h
  unfold cdiv
  omega

theorem firstErr_none {l : List (Bool × CapErr)} (h : firstErr l = none) : ∀ p ∈ l, p.1 = false := by
  induction l with
  | nil => simp
  | cons p l ih =>
    simp only [firstErr] at h
    split at h
    · cases h
    next hp => simpa [hp] using ih h

namespace CapV

/-! Fields of a value. -/

theorem testBit_setFld (c : CapV) {h l v : Nat} (hl : l ≤ h) {i : Nat} (hi : i < 128) :
    (c.setFld h l v).bits.toNat.testBit i = if l ≤ i ∧ i ≤ h then v.testBit (i - l) else c.bits.toNat.testBit i := by
  rw [setFld, BitVec.toNat_ofNat, Nat.testBit_mod_two_pow, testBit_setBits hl, decide_eq_true hi, Bool.true_and]

/-- A field written reads as what was written, as far as it fits. -/
theorem fld_setFld_same (c : CapV) {h l : Nat} (v : Nat) (hl : l ≤ h) (hh : h < 128) :
    (c.setFld h l v).fld h l = v % 2 ^ (h + 1 - l) := by
  refine Nat.eq_of_testBit_eq (fun i => ?_)
  rw [fld, testBit_bitsOf, Nat.testBit_mod_two_pow]
  by_cases hi : i < h + 1 - l
  · rw [testBit_setFld c hl (by omega), if_pos (by omega), Nat.add_sub_cancel_left]
  · simp [hi]

/-- A field apart from the one written reads as before. -/
theorem fld_setFld_other (c : CapV) {h l h' l' : Nat} (v : Nat) (hd : h' < l ∨ h < l') (hl : l ≤ h) (hh : h' < 128) :
    (c.setFld h l v).fld h' l' = c.fld h' l' := by
  refine Nat.eq_of_testBit_eq (fun i => ?_)
  rw [fld, fld, testBit_bitsOf, testBit_bitsOf]
  by_cases hi : i < h' + 1 - l'
  · rw [testBit_setFld c hl (by omega), if_neg (by omega)]
  · simp [hi]

theorem setFld_tag (c : CapV) (h l v : Nat) : (c.setFld h l v).tag = c.tag := rfl

/-- Form, permissions, colour, cursor and tag as before. -/
structure sameHead (c d : CapV) : Prop where
  form : d.form = c.form
  perms : d.perms = c.perms
  colour : d.colour = c.colour
  cursor : d.cursor = c.cursor
  tag : d.tag = c.tag

/-- New bounds fields leave the fields below bit 84 alone (R38, R46). -/
theorem fld_setBounds_low (c : CapV) (n e : Nat) (bd td : Int) (dest : Nat) {h l : Nat} (hh : h < 84) :
    (c.setBounds n e bd td dest).fld h l = c.fld h l := by
  unfold setBounds
  split
  · repeat rw [fld_setFld_other _ _ (by omega) (by omega) (by omega)]
  · repeat rw [fld_setFld_other _ _ (by omega) (by omega) (by omega)]

theorem setBounds_tag (c : CapV) (n e : Nat) (bd td : Int) (dest : Nat) : (c.setBounds n e bd td dest).tag = c.tag := by
  unfold setBounds
  split
  · repeat rw [setFld_tag]
  · repeat rw [setFld_tag]

theorem setBounds_head (c : CapV) (n e : Nat) (bd td : Int) (dest : Nat) : sameHead c (c.setBounds n e bd td dest) :=
  ⟨c.fld_setBounds_low n e bd td dest (by decide), c.fld_setBounds_low n e bd td dest (by decide),
    c.fld_setBounds_low n e bd td dest (by decide), c.fld_setBounds_low n e bd td dest (by decide),
    c.setBounds_tag n e bd td dest⟩

theorem encodeAt_head (c : CapV) (n e b t dest : Nat) : sameHead c (c.encodeAt n e b t dest) :=
  c.setBounds_head n e _ _ dest

theorem reencode_head (c : CapV) (b t : Nat) : sameHead c (c.reencode b t) := by
  unfold reencode
  dsimp only
  split
  · exact c.encodeAt_head _ _ _ _ _
  · exact ⟨rfl, rfl, rfl, rfl, rfl⟩

/-! Bounds. -/

/-- The width of the distances in a value's layout (R38, R46). -/
def distBits (c : CapV) : Nat := if c.form = 1 then 12 else 19

theorem distBits_pos (c : CapV) : 0 < c.distBits := by
  unfold distBits
  split <;> decide

/-- Bounds fields written in the value's own layout are read back. -/
theorem bfields_setBounds (c : CapV) {e : Nat} {bd td : Int} (dest : Nat) (he : e < 2 ^ 6)
    (hb : -2 ^ (c.distBits - 1) ≤ bd ∧ bd < 2 ^ (c.distBits - 1))
    (ht : -2 ^ (c.distBits - 1) ≤ td ∧ td < 2 ^ (c.distBits - 1)) :
    (c.setBounds c.distBits e bd td dest).bfields = ⟨e, bd, td, c.distBits⟩ := by
  have hbd := sext_wrap c.distBits_pos hb.1 hb.2
  have htd := sext_wrap c.distBits_pos ht.1 ht.2
  unfold bfields
  rw [(c.setBounds_head c.distBits e bd td dest).form]
  by_cases hf : c.form = 1
  · have hn : c.distBits = 12 := if_pos hf
    rw [hn] at hbd htd ⊢
    rw [if_pos hf, setBounds, if_pos rfl]
    simp (disch := omega) only [fld_setFld_other, fld_setFld_same, Nat.reduceAdd, Nat.reduceSub, Nat.mod_eq_of_lt he,
      wrap_mod, hbd, htd]
  · have hn : c.distBits = 19 := if_neg hf
    rw [hn] at hbd htd ⊢
    rw [if_neg hf, setBounds, if_neg (by decide)]
    simp (disch := omega) only [fld_setFld_other, fld_setFld_same, Nat.reduceAdd, Nat.reduceSub, Nat.mod_eq_of_lt he,
      wrap_mod, hbd, htd]

/-- The grid unit in which a value's cursor lies at an exponent. -/
def unit (c : CapV) (e : Nat) : Nat := c.cursor / 2 ^ e

theorem decodeBounds_of {c : CapV} {e n : Nat} {bd td : Int} (h : c.bfields = ⟨e, bd, td, n⟩) :
    c.decodeBounds.base = (c.unit e - bd) * 2 ^ e ∧ c.decodeBounds.top = (c.unit e + td) * 2 ^ e := by
  unfold decodeBounds unit
  rw [h]
  simp only [Nat.shiftRight_eq_div_pow, Nat.shiftLeft_eq]
  push_cast
  constructor <;> ring

theorem valid_iff (c : CapV) : c.decodeBounds.valid = true ↔ c.bfields.e ≤ 39 ∧ 0 ≤ c.decodeBounds.base ∧
    c.decodeBounds.base ≤ c.decodeBounds.top ∧ c.decodeBounds.top ≤ spaceTop := by
  have h : c.decodeBounds.valid = (decide (c.bfields.e ≤ 39) && decide (0 ≤ c.decodeBounds.base) &&
    decide (c.decodeBounds.base ≤ c.decodeBounds.top) && decide (c.decodeBounds.top ≤ spaceTop)) := rfl
  rw [h]
  simp only [Bool.and_eq_true, decide_eq_true_eq, and_assoc]

/-- The bounds of a value whose decoding is valid (R38). -/
theorem bounds_of {c : CapV} {e n b t : Nat} {bd td : Int} (h : c.bfields = ⟨e, bd, td, n⟩) (he : e ≤ 39)
    (hb : (c.unit e - bd) * 2 ^ e = b) (ht : (c.unit e + td) * 2 ^ e = t) (hbt : b ≤ t) (hs : t ≤ spaceTop) :
    c.base = b ∧ c.top = t := by
  obtain ⟨hbase, htop⟩ := decodeBounds_of h
  rw [hb] at hbase
  rw [ht] at htop
  have hv : c.decodeBounds.valid = true := c.valid_iff.2 (by rw [h, hbase, htop]; dsimp only; omega)
  simp only [base, top, hv, hbase, htop, if_true, Int.toNat_natCast, and_self]

theorem unit_le (c : CapV) (e : Nat) : c.unit e * 2 ^ e ≤ c.cursor := Nat.div_mul_le_self _ _

theorem lt_unit (c : CapV) (e : Nat) : c.cursor < (c.unit e + 1) * 2 ^ e := by
  have := Nat.lt_mul_div_succ c.cursor (Nat.two_pow_pos e)
  rwa [Nat.mul_comm] at this

/-- Canonical bounds are encoded wherever the cursor lies in the region that R39 gives them. -/
theorem encodeAt_bounds (c : CapV) {e b t : Nat} (dest : Nat) (hc : canonicalE c.distBits b t = some e) (hbt : b ≤ t)
    (hs : t ≤ spaceTop) (hlo : t + 2 ^ e ≤ c.cursor + 2 ^ (e + (c.distBits - 1)))
    (hhi : c.cursor < b + 2 ^ (e + (c.distBits - 1))) :
    (c.encodeAt c.distBits e b t dest).base = b ∧ (c.encodeAt c.distBits e b t dest).top = t := by
  obtain ⟨he, ⟨B, rfl⟩, ⟨T, rfl⟩, -⟩ := canonicalE_some hc
  have hg : 0 < 2 ^ e := Nat.two_pow_pos e
  have hBT : B ≤ T := Nat.le_of_mul_le_mul_left hbt hg
  have hTA : T < c.unit e + 2 ^ (c.distBits - 1) := by
    have := c.lt_unit e
    rw [pow_add] at hlo
    nlinarith
  have hAB : c.unit e < B + 2 ^ (c.distBits - 1) := by
    have := c.unit_le e
    rw [pow_add] at hhi
    nlinarith
  have hg' : (2 : Int) ^ e ≠ 0 := by positivity
  have hanchor : (((c.cursor >>> e) <<< e : Nat) : Int) = c.unit e * 2 ^ e := by
    rw [Nat.shiftRight_eq_div_pow, Nat.shiftLeft_eq, unit]
    push_cast
    ring
  have hbd : ((((c.cursor >>> e) <<< e : Nat) : Int) - (2 ^ e * B : Nat)) / 2 ^ e = c.unit e - B :=
    Int.ediv_eq_of_eq_mul_left hg' (by rw [hanchor]; push_cast; ring)
  have htd : (((2 ^ e * T : Nat) : Int) - ((c.cursor >>> e) <<< e : Nat)) / 2 ^ e = T - c.unit e :=
    Int.ediv_eq_of_eq_mul_left hg' (by rw [hanchor]; push_cast; ring)
  have hf : (c.encodeAt c.distBits e (2 ^ e * B) (2 ^ e * T) dest).bfields =
      ⟨e, c.unit e - B, T - c.unit e, c.distBits⟩ := by
    zify at hBT hTA hAB
    unfold encodeAt
    dsimp only
    rw [hbd, htd]
    exact c.bfields_setBounds dest (by omega) ⟨by omega, by omega⟩ ⟨by omega, by omega⟩
  have hunit : (c.encodeAt c.distBits e (2 ^ e * B) (2 ^ e * T) dest).unit e = c.unit e := by
    rw [unit, (c.encodeAt_head _ _ _ _ _).cursor, unit]
  refine bounds_of hf he ?_ ?_ hbt hs
  · rw [hunit]; push_cast; ring
  · rw [hunit]; push_cast; ring

/-- A re-encoding of canonical bounds in a value's own layout stands for them (R39). -/
theorem reencode_bounds (c : CapV) {e b t : Nat} (hc : canonicalE c.distBits b t = some e) (hbt : b ≤ t)
    (hs : t ≤ spaceTop) (hlo : t + 2 ^ e ≤ c.cursor + 2 ^ (e + (c.distBits - 1)))
    (hhi : c.cursor < b + 2 ^ (e + (c.distBits - 1))) : (c.reencode b t).base = b ∧ (c.reencode b t).top = t := by
  have he : c.reencode b t = c.encodeAt c.distBits e b t c.dest := by
    unfold distBits at hc ⊢
    simp only [reencode, hc]
  rw [he]
  exact c.encodeAt_bounds c.dest hc hbt hs hlo hhi

/-- The decoded bounds are in order and inside the flat space (R38). -/
theorem bounds_le (c : CapV) : c.base ≤ c.top ∧ c.top ≤ spaceTop := by
  unfold base top
  dsimp only
  by_cases hv : c.decodeBounds.valid = true
  · obtain ⟨-, h0, hbt, hs⟩ := c.valid_iff.1 hv
    rw [if_pos hv, if_pos hv]
    omega
  · simp [hv]

/-- Values whose fields decode to the same bounds at the same exponent have the same bounds. -/
theorem bounds_eq {c d : CapV} (he : d.bfields.e = c.bfields.e) (hb : d.decodeBounds.base = c.decodeBounds.base)
    (ht : d.decodeBounds.top = c.decodeBounds.top) : d.base = c.base ∧ d.top = c.top := by
  have hv : d.decodeBounds.valid = c.decodeBounds.valid := by
    rw [Bool.eq_iff_iff, valid_iff, valid_iff, he, hb, ht]
  simp only [base, top, hv, hb, ht, and_self]

/-- Bounds are read from the bounds fields and the cursor alone. -/
theorem bounds_congr {c d : CapV} (hf : d.bfields = c.bfields) (hc : d.cursor = c.cursor) :
    d.base = c.base ∧ d.top = c.top := by
  have hd : d.decodeBounds = c.decodeBounds := by unfold decodeBounds; rw [hf, hc]
  exact bounds_eq (by rw [hf]) (by rw [hd]) (by rw [hd])

/-- Nothing but the tag is read from the tag. -/
theorem retag_fields (c : CapV) (t : Bool) : (⟨c.bits, t⟩ : CapV).base = c.base ∧ (⟨c.bits, t⟩ : CapV).top = c.top ∧
    (⟨c.bits, t⟩ : CapV).cursor = c.cursor ∧ (⟨c.bits, t⟩ : CapV).form = c.form ∧
    (⟨c.bits, t⟩ : CapV).perms = c.perms ∧ (⟨c.bits, t⟩ : CapV).colour = c.colour :=
  ⟨rfl, rfl, rfl, rfl, rfl, rfl⟩

/-! Sources of derivations. -/

/-- A tagged value that the guard lets through is of an unsealed form (R40 to R42). -/
theorem guard_none {c : CapV} (h : c.guard = none) (ht : c.tag = true) : c.form = 0 ∨ c.form = 3 := by
  unfold guard at h
  simp only [ht, Bool.true_and, isSealedForm] at h
  split at h
  · cases h
  split at h
  · cases h
  simp at *
  omega

/-- In the representable region the distances from the cursor's grid unit fit their fields (R38). -/
theorem inRegion_units {c : CapV} {e n : Nat} {bd td : Int} (h : c.bfields = ⟨e, bd, td, n⟩) {x : Int}
    (hx : c.inRegion x = true) : 0 ≤ x ∧ x < 2 ^ 56 ∧
      (-2 ^ (n - 1) ≤ bd + (x / 2 ^ e - c.unit e) ∧ bd + (x / 2 ^ e - c.unit e) < 2 ^ (n - 1)) ∧
      -2 ^ (n - 1) ≤ td - (x / 2 ^ e - c.unit e) ∧ td - (x / 2 ^ e - c.unit e) < 2 ^ (n - 1) := by
  obtain ⟨hbase, htop⟩ := decodeBounds_of h
  have hlo : c.decodeBounds.rlo = max (c.decodeBounds.base - 2 ^ (n - 1) * 2 ^ e)
    (c.decodeBounds.top - (2 ^ (n - 1) - 1) * 2 ^ e) := by simp only [decodeBounds, h]
  have hhi : c.decodeBounds.rhi = min (c.decodeBounds.base + (2 ^ (n - 1) - 1) * 2 ^ e)
    (c.decodeBounds.top + 2 ^ (n - 1) * 2 ^ e) + 2 ^ e := by simp only [decodeBounds, h]
  have hg : (0 : Int) < 2 ^ e := by positivity
  simp only [inRegion, Bool.and_eq_true, decide_eq_true_eq, hlo, hhi, hbase, htop, max_le_iff, lt_min_iff,
    ← min_add_add_right] at hx
  obtain ⟨⟨⟨h1, h2⟩, h3⟩, ⟨h4, h5⟩, h6⟩ := hx
  have le_of (y : Int) (hy : y * 2 ^ e ≤ x) : y ≤ x / 2 ^ e := (Int.le_ediv_iff_mul_le hg).2 hy
  have lt_of (y : Int) (hy : x < y * 2 ^ e) : x / 2 ^ e < y := (Int.ediv_lt_iff_lt_mul hg).2 hy
  have k1 := le_of (c.unit e - bd - 2 ^ (n - 1)) (by linarith)
  have k2 := le_of (c.unit e + td - (2 ^ (n - 1) - 1)) (by linarith)
  have k3 := lt_of (c.unit e - bd + (2 ^ (n - 1) - 1) + 1) (by linarith)
  have k4 := lt_of (c.unit e + td + 2 ^ (n - 1) + 1) (by linarith)
  refine ⟨h3, h6, ⟨by omega, by omega⟩, by omega, by omega⟩

theorem bfields_plain {c : CapV} (h : c.form ≠ 1) : ∃ e bd td, c.bfields = ⟨e, bd, td, 19⟩ ∧ e < 2 ^ 6 := by
  refine ⟨c.fld 127 122, _, _, if_neg h, ?_⟩
  exact Nat.mod_lt _ (by decide)

/-- A new cursor leaves the fields above it alone. -/
theorem fld_setCursorFld (c : CapV) (x : Nat) {h l : Nat} (hl : 56 ≤ l) (hh : h < 128) :
    (c.setFld 55 0 x).fld h l = c.fld h l :=
  fld_setFld_other c x (.inr hl) (by decide) hh

/-- The bounds at a new cursor in the representable region are the old ones (R38, R40). -/
theorem moved_bounds {c : CapV} {e : Nat} {bd td : Int} (hf : c.form ≠ 1) (hb : c.bfields = ⟨e, bd, td, 19⟩) (he : e < 2 ^ 6)
    {x : Nat} (hx : c.inRegion x = true) (dest : Nat) :
    let d := (c.setFld 55 0 x).setBounds 19 e (bd + ((x >>> e : Nat) - (c.cursor >>> e : Nat)))
      (td - ((x >>> e : Nat) - (c.cursor >>> e : Nat))) dest
    d.base = c.base ∧ d.top = c.top ∧ d.cursor = x ∧ d.form = c.form ∧ d.perms = c.perms ∧ d.colour = c.colour := by
  obtain ⟨-, htop, hbd, htd⟩ := inRegion_units hb hx
  have hcur : (c.setFld 55 0 x).cursor = x := by
    rw [cursor, fld_setFld_same _ _ (by decide) (by decide), Nat.mod_eq_of_lt (by exact_mod_cast htop)]
  have hform : (c.setFld 55 0 x).form = c.form := c.fld_setCursorFld x (by decide) (by decide)
  have hn : (c.setFld 55 0 x).distBits = 19 := by rw [distBits, hform, if_neg hf]
  have hu : ((x >>> e : Nat) : Int) - (c.cursor >>> e : Nat) = (x : Int) / 2 ^ e - c.unit e := by
    rw [Nat.shiftRight_eq_div_pow, Nat.shiftRight_eq_div_pow, unit]
    push_cast
    rfl
  have hd := bfields_setBounds (c.setFld 55 0 x) (e := e) dest he (hn ▸ hbd) (hn ▸ htd)
  rw [hu]
  rw [hn] at hd
  intro d
  have hh := setBounds_head (c.setFld 55 0 x) 19 e (bd + ((x : Int) / 2 ^ e - c.unit e)) (td - ((x : Int) / 2 ^ e - c.unit e)) dest
  have hdu : (d.unit e : Int) = (x : Int) / 2 ^ e := by
    rw [unit, hh.cursor, hcur]
    push_cast
    rfl
  obtain ⟨dbase, dtop⟩ := decodeBounds_of hd
  obtain ⟨cbase, ctop⟩ := decodeBounds_of hb
  obtain ⟨hbase, htop'⟩ := bounds_eq (c := c) (d := d) (by rw [hd, hb]) (by rw [dbase, cbase, hdu]; ring)
    (by rw [dtop, ctop, hdu]; ring)
  exact ⟨hbase, htop', hh.cursor.trans hcur, hh.form.trans hform,
    hh.perms.trans (c.fld_setCursorFld x (by decide) (by decide)),
    hh.colour.trans (c.fld_setCursorFld x (by decide) (by decide))⟩

/-- Cursor arithmetic keeps the bounds as long as the tag stays (R40). -/
theorem setCursor_keeps {c d : CapV} {n : Int} (h : c.setCursor n = .ok d) (hd : d.tag = true) :
    c.tag = true ∧ d.base = c.base ∧ d.top = c.top ∧ (d.cursor : Int) = n ∧ d.form = c.form ∧ d.perms = c.perms ∧
      d.colour = c.colour := by
  unfold setCursor at h
  split at h
  · cases h
  next hg =>
  obtain rfl := Except.ok.inj h
  obtain ⟨ht, hr⟩ := (Bool.and_eq_true _ _).mp hd
  have hform : c.form ≠ 1 := by rcases guard_none hg ht with h | h <;> rw [h] <;> decide
  obtain ⟨e, bd, td, hb, he⟩ := bfields_plain hform
  obtain ⟨h0, htop, -⟩ := inRegion_units hb hr
  lift n to Nat using h0
  have hn : wrap 56 (n : Int) = n := by exact_mod_cast wrap_of_lt (Int.natCast_nonneg n) htop
  obtain ⟨hbase, htop, hcur, hform, hperms, hcolour⟩ := moved_bounds hform hb he hr c.dest
  rw [hb, hn]
  obtain ⟨e1, e2, e3, e4, e5, e6⟩ := retag_fields ((c.setFld 55 0 n).setBounds 19 e
    (bd + ((n >>> e : Nat) - (c.cursor >>> e : Nat))) (td - ((n >>> e : Nat) - (c.cursor >>> e : Nat))) c.dest)
    (c.tag && c.inRegion n)
  exact ⟨ht, e1.trans hbase, e2.trans htop, by rw [e3, hcur], e4.trans hform, e5.trans hperms, e6.trans hcolour⟩

/-- Bounds fields are read from the bits above the form, in the layout of the form (R38). -/
theorem bfields_congr {c d : CapV} (hf : d.form = 1 ↔ c.form = 1)
    (h : ∀ h l, 84 ≤ l → h < 128 → d.fld h l = c.fld h l) : d.bfields = c.bfields := by
  unfold bfields
  simp only [hf]
  rw [h 113 108 (by decide) (by decide), h 107 96 (by decide) (by decide), h 95 84 (by decide) (by decide),
    h 127 122 (by decide) (by decide), h 121 103 (by decide) (by decide), h 102 84 (by decide) (by decide)]

/-- A permission mask changes the permissions alone (R42). -/
theorem andPerms_keeps {c d : CapV} {m : Nat} (h : c.andPerms m = .ok d) :
    d.perms = c.perms &&& m % 4096 ∧ d.base = c.base ∧ d.top = c.top ∧ d.tag = c.tag := by
  unfold andPerms at h
  split at h
  · cases h
  obtain rfl := Except.ok.inj h
  have above (h l : Nat) (hl : 80 ≤ l) (hh : h < 128) : (c.setFld 79 68 (c.perms &&& m)).fld h l = c.fld h l :=
    fld_setFld_other c _ (.inr hl) (by decide) hh
  have hcur : (c.setFld 79 68 (c.perms &&& m)).cursor = c.cursor :=
    fld_setFld_other c _ (.inl (by decide)) (by decide) (by decide)
  have hform : (c.setFld 79 68 (c.perms &&& m)).form = c.form := above 83 80 (by decide) (by decide)
  obtain ⟨hb, ht⟩ := bounds_congr (bfields_congr (by rw [hform]) (fun h l hl => above h l (by omega))) hcur
  refine ⟨?_, hb, ht, setFld_tag _ _ _ _⟩
  have hp : c.perms % 2 ^ 12 = c.perms := Nat.mod_mod _ _
  rw [perms, fld_setFld_same _ _ (by decide) (by decide), Nat.and_mod_two_pow, hp]

/-! Forms. -/

/-- A new form changes the form alone. -/
theorem withForm_head (c : CapV) {f : Nat} (hf : f < 16) : (c.withForm f).form = f ∧ (c.withForm f).perms = c.perms ∧
    (c.withForm f).colour = c.colour ∧ (c.withForm f).cursor = c.cursor ∧ (c.withForm f).tag = c.tag :=
  ⟨(fld_setFld_same c f (by decide) (by decide)).trans (Nat.mod_eq_of_lt hf),
    fld_setFld_other c f (.inl (by decide)) (by decide) (by decide),
    fld_setFld_other c f (.inl (by decide)) (by decide) (by decide),
    fld_setFld_other c f (.inl (by decide)) (by decide) (by decide), setFld_tag _ _ _ _⟩

/-- Forms of the same layout have the same bounds. -/
theorem withForm_bounds {c : CapV} {f : Nat} (hf : f < 16) (h1 : f ≠ 1) (hc : c.form ≠ 1) :
    (c.withForm f).base = c.base ∧ (c.withForm f).top = c.top :=
  bounds_congr (bfields_congr (by rw [(c.withForm_head hf).1]; exact iff_of_false h1 hc)
    (fun _ _ hl hh => fld_setFld_other c f (.inr (by omega)) (by decide) hh)) (c.withForm_head hf).2.2.2.1

/-! Narrowing (R41). -/

/-- Bounds inside a value's, about its cursor, are those of its re-encoding, or it stays as it is (R39, R41). -/
theorem reencode_within {c : CapV} {b t : Nat} (hf : c.form ≠ 1) (hb : b ≤ c.cursor) (ht : c.cursor ≤ t)
    (hcb : c.base ≤ b) (hct : t ≤ c.top) :
    c.base ≤ (c.reencode b t).base ∧ (c.reencode b t).top ≤ c.top ∧
      ((canonicalE 19 b t).isSome = true → (c.reencode b t).base = b ∧ (c.reencode b t).top = t) := by
  have hn : c.distBits = 19 := if_neg hf
  cases hc : canonicalE 19 b t with
  | none =>
    have he : c.reencode b t = c := by simp only [reencode, if_neg hf, hc]
    rw [he]
    exact ⟨le_rfl, le_rfl, by simp⟩
  | some e =>
    obtain ⟨-, -, -, hlen⟩ := canonicalE_some hc
    have hp : 2 ^ (e + (19 - 1)) = 2 ^ 18 * 2 ^ e := by rw [pow_add, Nat.mul_comm]
    have hg := Nat.two_pow_pos e
    obtain ⟨h1, h2⟩ := c.reencode_bounds (hn ▸ hc) (hb.trans ht) (hct.trans c.bounds_le.2)
      (by rw [hn]; omega) (by rw [hn]; omega)
    rw [h1, h2]
    exact ⟨hcb, hct, fun _ => ⟨rfl, rfl⟩⟩

/-- A tagged result of narrowing is a re-encoding of bounds inside the source's, about its cursor. -/
theorem narrow_ok {c d : CapV} {len : Nat} {ex : Bool} (h : c.narrow len ex = .ok d) (hd : d.tag = true) :
    ∃ b t, c.tag = true ∧ c.form ≠ 1 ∧ b ≤ c.cursor ∧ c.cursor ≤ t ∧ c.base ≤ b ∧ t ≤ c.top ∧ d = c.reencode b t ∧
      (ex = true → b = c.cursor ∧ t = c.cursor + len ∧ (canonicalE 19 b t).isSome = true) := by
  unfold narrow at h
  dsimp only at h
  generalize (if c.form = 1 then 12 else 19) = w at h
  split at h
  · cases h
  next hg =>
  have hout : ∀ n w e b t, (if n > spaceTop then c.untag else (c.encodeAt w e b t c.dest).untag).tag = false := by
    intro n w e b t
    split <;> rfl
  have hsrc (hin : ¬(c.tag = false)) : c.tag = true ∧ c.form ≠ 1 := by
    have ht : c.tag = true := by simpa using hin
    exact ⟨ht, by rcases guard_none hg ht with h | h <;> rw [h] <;> decide⟩
  cases ex with
  | true =>
    simp only [if_true] at h
    split at h
    · obtain rfl := Except.ok.inj h
      rw [hout] at hd
      cases hd
    next hin =>
      obtain ⟨htag, hbt⟩ := not_or.1 hin
      obtain ⟨hb, ht⟩ := not_or.1 hbt
      split at h
      next e he =>
        exact ⟨c.cursor, c.cursor + len, (hsrc htag).1, (hsrc htag).2, le_rfl, Nat.le_add_right _ _, not_lt.1 hb,
          not_lt.1 ht, (Except.ok.inj h).symm, fun _ => ⟨rfl, rfl, by rw [he]; rfl⟩⟩
      next => cases h
  | false =>
    simp only [Bool.false_eq_true, if_false] at h
    split at h
    · obtain rfl := Except.ok.inj h
      rw [hout] at hd
      cases hd
    next hin =>
      obtain ⟨htag, hbt⟩ := not_or.1 hin
      obtain ⟨hb, ht⟩ := not_or.1 hbt
      exact ⟨_, _, (hsrc htag).1, (hsrc htag).2, Nat.div_mul_le_self _ _,
        (Nat.le_add_right _ _).trans (le_cdiv_mul (c.cursor + len) (Nat.two_pow_pos _)), not_lt.1 hb, not_lt.1 ht,
        (Except.ok.inj h).symm, by simp⟩

/-- Narrowing stays inside the source's bounds, or clears the tag (R41). -/
theorem narrow_keeps {c d : CapV} {len : Nat} {ex : Bool} (h : c.narrow len ex = .ok d) (hd : d.tag = true) :
    c.tag = true ∧ c.base ≤ d.base ∧ d.top ≤ c.top ∧ d.cursor = c.cursor ∧ d.perms = c.perms ∧ d.colour = c.colour ∧
      (ex = true → d.base = c.cursor ∧ d.top = c.cursor + len) := by
  obtain ⟨b, t, htag, hform, hb, ht, hcb, hct, rfl, hex⟩ := narrow_ok h hd
  obtain ⟨h1, h2, h3⟩ := reencode_within hform hb ht hcb hct
  have hh := c.reencode_head b t
  refine ⟨htag, h1, h2, hh.cursor, hh.perms, hh.colour, fun he => ?_⟩
  obtain ⟨rfl, rfl, hs⟩ := hex he
  exact h3 hs

/-! Sealing and unsealing (R44, R45). -/

/-- An encoding of a value in another form, in the layout of that form. -/
theorem reform_bounds (c : CapV) {f n e b t : Nat} (dest : Nat) (hf : f < 16) (hn : n = if f = 1 then 12 else 19)
    (hc : canonicalE n b t = some e) (hbt : b ≤ t) (hs : t ≤ spaceTop) (hlo : t + 2 ^ e ≤ c.cursor + 2 ^ (e + (n - 1)))
    (hhi : c.cursor < b + 2 ^ (e + (n - 1))) :
    ((c.withForm f).encodeAt n e b t dest).base = b ∧ ((c.withForm f).encodeAt n e b t dest).top = t := by
  obtain ⟨hform, -, -, hcur, -⟩ := c.withForm_head hf
  obtain rfl : (c.withForm f).distBits = n := by rw [distBits, hform, hn]
  rw [← hcur] at hlo hhi
  exact encodeAt_bounds _ dest hc hbt hs hlo hhi

/-- Sealing keeps bounds, permissions and colour, under an authority of those bounds (R44). -/
theorem seal_keeps {c k d : CapV} {f : Nat} (h : c.seal k f = .ok d) (hf : f = 1 ∨ f = 2 ∨ f = 4) :
    c.tag = true ∧ d.tag = true ∧ d.form = f ∧ d.base = c.base ∧ d.top = c.top ∧ d.cursor = c.cursor ∧
      d.perms = c.perms ∧ d.colour = c.colour ∧ k.base ≤ c.base ∧ c.top ≤ k.top ∧ k.has pSE = true := by
  unfold CapV.seal at h
  dsimp only at h
  split at h
  · cases h
  next hg =>
  have hok := firstErr_none hg
  simp only [List.forall_mem_cons, List.not_mem_nil, false_imp_iff, implies_true, and_true, Bool.or_eq_false_iff,
    Bool.not_eq_false', decide_eq_false_iff_not, not_lt, gt_iff_lt] at hok
  obtain ⟨-, -, ⟨htag, -⟩, ⟨hsealed, -⟩, -, hperm, -, ⟨hkb, hkt⟩, -⟩ := hok
  have hplain : c.form ≠ 1 := fun hc => by rw [hc] at hsealed; cases hsealed
  have hf16 : f < 16 := by omega
  obtain ⟨w1, w2, w3, w4, w5⟩ := c.withForm_head hf16
  split at h
  next h1 =>
    subst h1
    split at h
    · cases h
    next e he =>
    split at h
    next hreg =>
      obtain rfl := Except.ok.inj h
      obtain ⟨hlo, hhi⟩ := hreg
      have hlo' := (max_le_iff.1 hlo).1
      have hhi' := (lt_min_iff.1 hhi).1
      obtain ⟨hb, ht⟩ := c.reform_bounds (n := 12) (bitsOf c.cursor 54 41) hf16 rfl he c.bounds_le.1 c.bounds_le.2
        (by zify; linarith) (by zify; linarith)
      have hh := (c.withForm 1).encodeAt_head 12 e c.base c.top (bitsOf c.cursor 54 41)
      exact ⟨htag, hh.tag.trans (w5.trans htag), hh.form.trans w1, hb, ht, hh.cursor.trans w4, hh.perms.trans w2,
        hh.colour.trans w3, hkb, hkt, hperm⟩
    next => cases h
  next h1 =>
    obtain rfl := Except.ok.inj h
    obtain ⟨hb, ht⟩ := withForm_bounds hf16 h1 hplain
    exact ⟨htag, w5.trans htag, w1, hb, ht, w4, w2, w3, hkb, hkt, hperm⟩

/-- Unsealing keeps permissions and colour, under an authority of the bounds; and the bounds, where the new layout
represents them at the cursor (R39, R45). -/
theorem unseal_keeps {c k d : CapV} (h : c.unseal k = .ok d) : c.tag = true ∧ d.tag = true ∧
    d.form = (if c.form = 4 then 3 else 0) ∧ d.cursor = c.cursor ∧ d.perms = c.perms ∧ d.colour = c.colour ∧
    k.base ≤ c.base ∧ c.top ≤ k.top ∧ k.has pUS = true ∧ (c.form = 4 → d.base = c.base ∧ d.top = c.top) ∧
    ∀ e, c.form ≠ 4 → canonicalE 19 c.base c.top = some e → c.top + 2 ^ e ≤ c.cursor + 2 ^ (e + 18) →
      c.cursor < c.base + 2 ^ (e + 18) → d.base = c.base ∧ d.top = c.top := by
  unfold CapV.unseal at h
  split at h
  · cases h
  next hg =>
  have hok := firstErr_none hg
  simp only [List.forall_mem_cons, List.not_mem_nil, false_imp_iff, implies_true, and_true, Bool.or_eq_false_iff,
    Bool.not_eq_false', decide_eq_false_iff_not, not_lt, gt_iff_lt] at hok
  obtain ⟨-, -, ⟨htag, -⟩, -, -, hperm, -, hkb, hkt⟩ := hok
  by_cases h4 : c.form = 4
  · rw [if_pos h4] at h ⊢
    obtain rfl := Except.ok.inj h
    obtain ⟨w1, w2, w3, w4, w5⟩ := c.withForm_head (f := 3) (by decide)
    exact ⟨htag, w5.trans htag, w1, w4, w2, w3, hkb, hkt, hperm,
      fun _ => withForm_bounds (by decide) (by decide) (by rw [h4]; decide), fun _ hn => absurd h4 hn⟩
  · rw [if_neg h4, ite_self] at h
    rw [if_neg h4]
    obtain rfl := Except.ok.inj h
    obtain ⟨w1, w2, w3, w4, w5⟩ := c.withForm_head (f := 0) (by decide)
    have hh := (c.withForm 0).reencode_head c.base c.top
    refine ⟨htag, hh.tag.trans (w5.trans htag), hh.form.trans w1, hh.cursor.trans w4, hh.perms.trans w2,
      hh.colour.trans w3, hkb, hkt, hperm, fun hf => absurd hf h4, fun e _ he hlo hhi => ?_⟩
    have hn : (c.withForm 0).distBits = 19 := by rw [distBits, w1]; rfl
    exact reencode_bounds _ (by rw [hn]; exact he) c.bounds_le.1 c.bounds_le.2 (by rw [hn, w4]; exact hlo)
      (by rw [hn, w4]; exact hhi)

end CapV
end Sys2Proof.Machine

section
open Sys2Proof Sys2Proof.Machine

/-- Settles O56, derivation by derivation: what each writes decodes to bounds inside its source's. -/
theorem derivationsNeverWiden : Obligations.DerivationsNeverWiden :=
  ⟨fun _ _ _ h ht => CapV.setCursor_keeps h ht, fun _ _ _ _ h ht => CapV.narrow_keeps h ht,
    fun _ _ _ h => CapV.andPerms_keeps h, fun _ _ _ _ h hf => CapV.seal_keeps h hf, fun _ _ _ h => CapV.unseal_keeps h⟩
end

/-! PROOFS. Storage (spec/02_capabilities.md, R52; R163, R268, R276): what a byte and a tag read after a write at the home,
after an LS store and after an engine's write. -/

namespace Sys2Proof.Machine

open Sys2Proof.Safety

/-- Bytes written from an address, over what stood there. -/
def overlay (a : Nat) (bs : List Byte) (old : Nat → Byte) (x : Nat) : Byte :=
  if a ≤ x ∧ x < a + bs.length then bs.getD (x - a) 0 else old x

theorem overlay_outside {a x : Nat} {bs : List Byte} (old : Nat → Byte) (h : x < a ∨ a + bs.length ≤ x) :
    overlay a bs old x = old x := if_neg (by omega)

theorem overlay_inside {a j : Nat} {bs : List Byte} (old : Nat → Byte) (h : j < bs.length) :
    overlay a bs old (a + j) = bs[j] := by
  rw [overlay, if_pos (by omega), Nat.add_sub_cancel_left, getD_eq_getElem _ h]

theorem overlay_cons (a : Nat) (b : Byte) (bs : List Byte) (old : Nat → Byte) (x : Nat) :
    overlay (a + 1) bs (fun y => if y = a then b else old y) x = overlay a (b :: bs) old x := by
  unfold overlay
  rw [List.length_cons]
  by_cases h : x = a
  · subst h
    rw [if_neg (by omega), if_pos (by omega), Nat.sub_self]
    simp
  · by_cases hx : a + 1 ≤ x ∧ x < a + 1 + bs.length
    · rw [if_pos hx, if_pos (by omega), show x - a = (x - (a + 1)) + 1 by omega, List.getD_cons_succ]
    · rw [if_neg hx, if_neg (by omega)]
      exact if_neg h

/-! Bytes read in a row. -/

theorem Mem.homeRead_eq (m : Mem) (a n : Nat) : m.homeRead a n = (List.range n).map (fun j => m.home (a + j)) := by
  induction n generalizing a with
  | zero => rfl
  | succ n ih =>
    rw [Mem.homeRead, ih, List.range_succ_eq_map, List.map_cons, List.map_map]
    simp [Function.comp_def, Nat.add_assoc, Nat.add_comm 1]

theorem Mem.lsRead_eq (m : Mem) (core colour a n : Nat) :
    m.lsRead core colour a n = (List.range n).map (fun j => m.lsByte core colour (a + j)) := by
  induction n generalizing a with
  | zero => rfl
  | succ n ih =>
    rw [Mem.lsRead, ih, List.range_succ_eq_map, List.map_cons, List.map_map]
    simp [Function.comp_def, Nat.add_assoc, Nat.add_comm 1]

/-- Where bytes stand as they were written, reading them gives them back. -/
theorem map_overlay {f old : Nat → Byte} {a : Nat} {bs : List Byte}
    (h : ∀ x, a ≤ x → x < a + bs.length → f x = overlay a bs old x) :
    (List.range bs.length).map (fun j => f (a + j)) = bs := by
  refine List.ext_getElem (by simp) (fun j h1 h2 => ?_)
  rw [List.getElem_map, List.getElem_range, h _ (by omega) (by omega), overlay_inside old h2]

/-! At the home. -/

/-- A range of addresses holds an address. -/
def holds (x : Nat) (r : Nat × Nat × Nat) : Bool := r.1 ≤ x && x < r.2.1

theorem holds_iff (x a b n : Nat) : holds x (a, b, n) = true ↔ a ≤ x ∧ x < b := by simp [holds]

/-- The free value that a byte which a zeroised key left unreadable reads as (R414). -/
def Mem.darkAt (m : Mem) (x : Nat) : Option Nat := (m.dark.find? (holds x)).map (·.2.2)

theorem Mem.home_eq (m : Mem) (x : Nat) : m.home x = match m.darkAt x with
    | some n => BitVec.ofNat 8 (Config.free (2 ^ 64 * (n + 1) + x))
    | none => m.bytes.read x := by
  have h : m.home x = match m.dark.find? (holds x) with
    | some (_, _, n) => BitVec.ofNat 8 (Config.free (2 ^ 64 * (n + 1) + x))
    | none => m.bytes.read x := rfl
  rw [h, Mem.darkAt]
  cases m.dark.find? (holds x) <;> rfl

/-- What is left of one range holds what it held outside the cut. -/
theorem find_cut (lo hi x a b n : Nat) : ((if b ≤ lo ∨ hi ≤ a then [(a, b, n)]
    else (if a < lo then [(a, lo, n)] else []) ++ (if hi < b then [(hi, b, n)] else [])).find? (holds x)).map (·.2.2) =
    if ¬(lo ≤ x ∧ x < hi) ∧ holds x (a, b, n) = true then some n else none := by
  have piece (c : Prop) [Decidable c] (p q : Nat) : ((if c then [(p, q, n)] else []).find? (holds x)).map (·.2.2) =
      if c ∧ holds x (p, q, n) = true then some n else none := by
    by_cases hc : c
    · cases h : holds x (p, q, n) <;> simp [hc, h]
    · simp [hc]
  have either (c d : Prop) [Decidable c] [Decidable d] : (if c then some n else none).or (if d then some n else none) =
      if c ∨ d then some n else none := by
    by_cases hc : c <;> simp [hc]
  by_cases hk : b ≤ lo ∨ hi ≤ a
  · have h := piece True a b
    simp only [if_true, true_and] at h
    rw [if_pos hk, h]
    exact if_congr (by rw [holds_iff]; omega) rfl rfl
  · rw [if_neg hk, List.find?_append, Option.map_or, piece, piece, either]
    exact if_congr (by simp only [holds_iff]; omega) rfl rfl

/-- Ranges with one cut out hold what they held outside the cut, and nothing inside it. -/
theorem find_cutRange (lo hi x : Nat) (l : List (Nat × Nat × Nat)) :
    ((cutRange lo hi l).find? (holds x)).map (·.2.2) =
      if lo ≤ x ∧ x < hi then none else (l.find? (holds x)).map (·.2.2) := by
  induction l with
  | nil => simp [cutRange]
  | cons r l ih =>
    obtain ⟨a, b, n⟩ := r
    rw [cutRange, List.flatMap_cons, List.find?_append, Option.map_or, find_cut]
    rw [cutRange] at ih
    rw [ih, List.find?_cons]
    by_cases hx : lo ≤ x ∧ x < hi
    · simp [hx]
    · cases hr : holds x (a, b, n) <;> simp [hx]

/-- What a byte reads at its home after a write there (R52, R414). -/
theorem Mem.home_homeWrite (m : Mem) (a : Nat) (bs : List Byte) (x : Nat) :
    (m.homeWrite a bs).home x = overlay a bs m.home x := by
  have hd : (m.homeWrite a bs).darkAt x = if a ≤ x ∧ x < a + bs.length then none else m.darkAt x := by
    unfold Mem.darkAt Mem.homeWrite
    dsimp only
    split
    next he => simp [List.isEmpty_iff.1 he]
    next => exact find_cutRange _ _ _ _
  rw [Mem.home_eq, hd]
  by_cases h : a ≤ x ∧ x < a + bs.length
  · obtain ⟨j, rfl⟩ := Nat.exists_eq_add_of_le h.1
    rw [if_pos h, overlay_inside _ (by omega)]
    exact Memory.read_writeN_inside _ _ _ _ (by omega)
  · rw [if_neg h, overlay_outside _ (by omega), Mem.home_eq]
    have hb : (m.homeWrite a bs).bytes.read x = m.bytes.read x := Memory.read_writeN_outside _ _ _ _ (by omega)
    rw [hb]

/-! Lines of an L1. -/

theorem l1Key_line {core line line' colour : Nat} : l1Key core line colour = l1Key core line' colour ↔ line = line' := by
  unfold l1Key
  omega

theorem Mem.get_setLine (m : Mem) (core line line' colour : Nat) (l : Line) :
    Tbl.get (m.setLine core line colour l).l1 (l1Key core line' colour) =
      if line = line' then some l else Tbl.get m.l1 (l1Key core line' colour) := by
  rw [Mem.setLine, Tbl.get_set]
  exact if_congr l1Key_line rfl rfl

theorem Mem.line_setLine (m : Mem) (core line line' colour : Nat) (l : Line) :
    (m.setLine core line colour l).line core line' colour = if line = line' then l else m.line core line' colour := by
  unfold Mem.line
  rw [Mem.get_setLine]
  split <;> rfl

theorem fillLine_byte (m : Mem) (x : Nat) : ((m.fillLine (lineOf x)).data[x % 128]?).getD 0 = m.home x := by
  have h : x % 128 < 128 := Nat.mod_lt _ (by decide)
  simp [Mem.fillLine, lineOf, h, Nat.div_add_mod]

/-- A line of HBM holds what the core reads in it, whether it is in the L1 already or filled now (R163). -/
theorem Mem.line_byte (m : Mem) (core colour : Nat) {x : Nat} (hx : x < hbmTop) :
    ((m.line core (lineOf x) colour).data[x % 128]?).getD 0 = m.lsByte core colour x := by
  unfold Mem.lsByte Mem.line
  rw [if_pos hx]
  cases Tbl.get m.l1 (l1Key core (lineOf x) colour) with
  | none => exact fillLine_byte m x
  | some l => rfl

/-- A line put into a core's L1 with its bytes as they were changes no byte that the core reads. -/
theorem Mem.lsByte_setLine (m : Mem) (core line colour : Nat) {l : Line} (hl : l.data = (m.line core line colour).data)
    (x : Nat) : (m.setLine core line colour l).lsByte core colour x = m.lsByte core colour x := by
  by_cases hx : x < hbmTop
  · rw [← Mem.line_byte _ _ _ hx, ← Mem.line_byte _ _ _ hx, Mem.line_setLine]
    split
    next he => rw [hl, he]
    next => rfl
  · unfold Mem.lsByte
    rw [if_neg hx, if_neg hx]
    rfl

theorem Mem.lsByte_lsPut {m : Mem} (hm : memoryWf m) (core colour : Nat) {a : Nat} (ha : a < hbmTop) (b : Byte) (x : Nat) :
    (m.lsPut core colour a b).lsByte core colour x = if x = a then b else m.lsByte core colour x := by
  unfold Mem.lsPut
  rw [if_pos ha]
  by_cases hx : x < hbmTop
  · rw [← Mem.line_byte _ _ _ hx, ← Mem.line_byte m _ _ hx, Mem.line_setLine]
    by_cases hl : lineOf a = lineOf x
    · have hlen := line_length core (lineOf x) colour hm
      rw [if_pos hl, hl, Line.put, List.getElem?_set]
      by_cases hxa : x = a
      · rw [if_pos hxa, if_pos (by rw [hxa]), if_pos (by rw [hlen]; exact Nat.mod_lt _ (by decide))]
        rfl
      · rw [if_neg hxa, if_neg (by unfold lineOf at hl; omega)]
    · rw [if_neg hl, if_neg (by rintro rfl; exact hl rfl)]
  · rw [if_neg (by omega)]
    unfold Mem.lsByte
    rw [if_neg hx, if_neg hx]
    rfl

/-- Bytes put one after another from an address. -/
def Mem.putAll (core colour a : Nat) (bs : List (Byte × Nat)) (m : Mem) : Mem :=
  bs.foldl (fun m x => m.lsPut core colour (a + x.2) x.1) m

theorem Mem.putAll_cons (core colour a : Nat) (x : Byte × Nat) (l : List (Byte × Nat)) (m : Mem) :
    m.putAll core colour a (x :: l) = (m.lsPut core colour (a + x.2) x.1).putAll core colour a l := rfl

theorem Mem.lsByte_putAll {m : Mem} (hm : memoryWf m) (core colour : Nat) {a k : Nat} {bs : List Byte}
    (hs : a + k + bs.length ≤ hbmTop) (x : Nat) :
    (m.putAll core colour a (bs.zipIdx k)).lsByte core colour x = overlay (a + k) bs (m.lsByte core colour) x := by
  induction bs generalizing m k with
  | nil => simp [Mem.putAll, overlay]
  | cons b bs ih =>
    rw [List.length_cons] at hs
    rw [List.zipIdx_cons, Mem.putAll_cons, ih (memoryWf_lsPut _ _ _ _ hm) (by omega), ← overlay_cons, ← Nat.add_assoc]
    congr 1
    funext y
    exact Mem.lsByte_lsPut hm core colour (by omega) b y

/-! Tags of an L1's lines. -/

/-- A granule's tag bit in a core's line. -/
def Mem.tagBit (m : Mem) (core colour gr : Nat) : Bool := (m.line core (gr / 8) colour).tags.getLsbD (gr % 8)

theorem Mem.tagBit_setLine (m : Mem) (core line colour gr : Nat) (l : Line) :
    (m.setLine core line colour l).tagBit core colour gr =
      if line = gr / 8 then l.tags.getLsbD (gr % 8) else m.tagBit core colour gr := by
  unfold Mem.tagBit
  rw [Mem.line_setLine]
  split <;> rfl

theorem sum_bits_lt (p : Nat → Bool) (n : Nat) : ((List.range n).map (fun j => if p j then 2 ^ j else 0)).sum < 2 ^ n := by
  induction n with
  | zero => simp
  | succ n ih =>
    rw [List.range_succ, List.map_append, List.sum_append, pow_succ]
    simp only [List.map_cons, List.map_nil, List.sum_cons, List.sum_nil]
    split <;> omega

theorem testBit_sum_bits (p : Nat → Bool) (n i : Nat) :
    ((List.range n).map (fun j => if p j then 2 ^ j else 0)).sum.testBit i = (decide (i < n) && p i) := by
  induction n with
  | zero => simp
  | succ n ih =>
    rw [List.range_succ, List.map_append, List.sum_append]
    simp only [List.map_cons, List.map_nil, List.sum_cons, List.sum_nil]
    cases hp : p n with
    | false =>
      rw [if_neg (by decide), Nat.add_zero, Nat.add_zero, ih]
      by_cases hi : i = n
      · simp [hi, hp]
      · simp [show i < n + 1 ↔ i < n by omega]
    | true =>
      have hs := Nat.testBit_two_pow_mul_add 1 (sum_bits_lt p n) i
      rw [if_pos rfl, Nat.add_zero, Nat.add_comm, ← Nat.mul_one (2 ^ n), hs]
      by_cases hi : i < n
      · rw [if_pos hi, ih]
        simp [hi, Nat.lt_succ_of_lt hi]
      · rw [if_neg hi]
        by_cases he : i = n
        · simp [he, hp]
        · rw [decide_eq_false (by omega), Bool.false_and]
          exact Nat.testBit_lt_two_pow (Nat.one_lt_two_pow (by omega))

/-- The mask of one granule of a line. -/
theorem getLsbD_granuleBit {i : Nat} (n : Nat) (h : i < 8) : (BitVec.ofNat 8 (2 ^ n)).getLsbD i = decide (n = i) := by
  rw [BitVec.getLsbD_ofNat, Nat.testBit_two_pow, decide_eq_true h, Bool.true_and]

theorem fillLine_tag (m : Mem) (gr : Nat) : (m.fillLine (gr / 8)).tags.getLsbD (gr % 8) = m.homeTag gr := by
  have h : gr % 8 < 8 := Nat.mod_lt _ (by decide)
  have e : 8 * (gr / 8) + gr % 8 = gr := Nat.div_add_mod gr 8
  simp only [Mem.fillLine, BitVec.getLsbD_ofNat, testBit_sum_bits, h, decide_true, Bool.true_and, e]

theorem Mem.tagBit_of_lsTag {m : Mem} {core colour gr : Nat} (hg : 16 * gr < hbmTop) (h : m.lsTag core colour gr = true) :
    m.tagBit core colour gr = true := by
  unfold Mem.lsTag at h
  unfold Mem.tagBit Mem.line
  rw [if_pos hg] at h
  cases hl : Tbl.get m.l1 (l1Key core (gr / 8) colour) with
  | none => rw [hl] at h; exact (fillLine_tag m gr).trans h
  | some l => rw [hl] at h; exact (Bool.and_eq_true _ _).mp h |>.1

theorem Mem.tagBit_lsPut (m : Mem) (core colour : Nat) {a : Nat} (ha : a < hbmTop) (b : Byte) (gr : Nat) :
    (m.lsPut core colour a b).tagBit core colour gr = (gr != a / 16 && m.tagBit core colour gr) := by
  unfold Mem.lsPut
  rw [if_pos ha, Mem.tagBit_setLine]
  by_cases hl : lineOf a = gr / 8
  · have hb : a % 128 / 16 = gr % 8 ↔ gr = a / 16 := by unfold lineOf at hl; omega
    have hlt : gr % 8 < 8 := Nat.mod_lt _ (by decide)
    rw [if_pos hl, Mem.tagBit, hl, Line.put, BitVec.getLsbD_and, BitVec.getLsbD_not, getLsbD_granuleBit _ hlt,
      decide_eq_true hlt, Bool.true_and, decide_eq_decide.2 hb, Bool.and_comm]
    rfl
  · have hne : gr ≠ a / 16 := by unfold lineOf at hl; omega
    rw [if_neg hl, bne_iff_ne.2 hne, Bool.true_and]

/-- Putting bytes into an L1 sets no tag, and clears that of every granule it touches (R52). -/
theorem Mem.tagBit_putAll {m : Mem} (core colour : Nat) {a k : Nat} {bs : List Byte} (hs : a + k + bs.length ≤ hbmTop)
    {gr : Nat} (h : (m.putAll core colour a (bs.zipIdx k)).tagBit core colour gr = true) :
    m.tagBit core colour gr = true ∧ ∀ j < bs.length, gr ≠ (a + k + j) / 16 := by
  induction bs generalizing m k with
  | nil => exact ⟨h, fun j hj => absurd hj (Nat.not_lt_zero j)⟩
  | cons b bs ih =>
    rw [List.length_cons] at hs
    obtain ⟨ht, hrest⟩ := ih (by omega) (Mem.putAll_cons _ _ _ _ _ _ ▸ List.zipIdx_cons ▸ h)
    rw [Mem.tagBit_lsPut _ _ _ (by omega), Bool.and_eq_true, bne_iff_ne] at ht
    refine ⟨ht.2, fun j hj => ?_⟩
    cases j with
    | zero => exact ht.1
    | succ j =>
      have := hrest j (by rw [List.length_cons] at hj; omega)
      rwa [show a + k + (j + 1) = a + (k + 1) + j by omega]

/-! An LS store (R163). -/

/-- A line with the poison of the granule at an address gone. -/
def Line.heal (l : Line) (a : Nat) : Line := { l with poison := l.poison &&& ~~~(BitVec.ofNat 8 (2 ^ (a / 16 % 8))) }

theorem Mem.lsWrite_hbm (m : Mem) (core colour : Nat) {a : Nat} (ha : a < hbmTop) (bs : List Byte) :
    m.lsWrite core colour a bs =
      if a % 16 = 0 ∧ bs.length = 16 then
        (m.putAll core colour a bs.zipIdx).setLine core (lineOf a) colour
          (((m.putAll core colour a bs.zipIdx).line core (lineOf a) colour).heal a)
      else m.putAll core colour a bs.zipIdx := if_pos ha

theorem Mem.lsWrite_far (m : Mem) (core colour : Nat) {a : Nat} (ha : ¬a < hbmTop) (bs : List Byte) :
    m.lsWrite core colour a bs = m.homeWrite a bs := if_neg ha

theorem Mem.lsByte_far (m : Mem) (core colour : Nat) {x : Nat} (hx : ¬x < hbmTop) : m.lsByte core colour x = m.home x :=
  if_neg hx

theorem Mem.lsTag_far (m : Mem) (core colour : Nat) {gr : Nat} (hg : ¬16 * gr < hbmTop) :
    m.lsTag core colour gr = m.homeTag gr := if_neg hg

/-- A write at a home outside HBM, as a core reads it. -/
theorem Mem.lsByte_homeWrite (m : Mem) (core colour : Nat) {a : Nat} (ha : ¬a < hbmTop) (bs : List Byte) (x : Nat) :
    (m.homeWrite a bs).lsByte core colour x = overlay a bs (m.lsByte core colour) x := by
  by_cases hx : x < hbmTop
  · have ho := Mem.home_homeWrite m a bs x
    rw [overlay_outside _ (by omega)] at ho ⊢
    unfold Mem.lsByte
    rw [ho]
    rfl
  · rw [Mem.lsByte_far _ _ _ hx, Mem.home_homeWrite]
    unfold overlay
    rw [Mem.lsByte_far _ _ _ hx]

/-- What a core reads after its LS store (R163). -/
theorem Mem.lsByte_lsWrite {m : Mem} (hm : memoryWf m) (core colour : Nat) {a : Nat} {bs : List Byte}
    (hs : a < hbmTop → a + bs.length ≤ hbmTop) (x : Nat) :
    (m.lsWrite core colour a bs).lsByte core colour x = overlay a bs (m.lsByte core colour) x := by
  by_cases ha : a < hbmTop
  · have hp := Mem.lsByte_putAll hm core colour (k := 0) (hs ha) x
    rw [Mem.lsWrite_hbm _ _ _ ha]
    split
    · exact (Mem.lsByte_setLine (l := Line.heal _ a) _ _ _ _ rfl x).trans hp
    · exact hp
  · rw [Mem.lsWrite_far _ _ _ ha]
    exact Mem.lsByte_homeWrite m core colour ha bs x

/-- A granule that a write at a home touches has no tag there (R52). -/
theorem Mem.homeTag_homeWrite (m : Mem) {a : Nat} {bs : List Byte} {x : Nat} (h1 : a ≤ x) (h2 : x < a + bs.length) :
    (m.homeWrite a bs).homeTag (x / 16) = false := by
  have ht : Store.read (m.homeWrite a bs).tags (x / 16) = 0 := by
    show Store.read (Store.clear m.tags (a / 16) ((a + bs.length + 15) / 16)) (x / 16) = 0
    rw [Store.read_clear, if_pos (by omega)]
  simp [Mem.homeTag, ht]

/-- A granule that a core's LS store touches has no tag as that core reads it (R52). -/
theorem Mem.lsTag_lsWrite (m : Mem) (core colour : Nat) {a : Nat} {bs : List Byte} (hs : a < hbmTop → a + bs.length ≤ hbmTop)
    {x : Nat} (h1 : a ≤ x) (h2 : x < a + bs.length) : (m.lsWrite core colour a bs).lsTag core colour (x / 16) = false := by
  have hdiv : hbmTop = 16 * (hbmTop / 16) := by decide
  by_cases ha : a < hbmTop
  · have hput : (m.putAll core colour a bs.zipIdx).tagBit core colour (x / 16) ≠ true := fun ht =>
      (Mem.tagBit_putAll core colour (k := 0) (hs ha) ht).2 (x - a) (by omega) (by rw [show a + 0 + (x - a) = x by omega])
    refine Bool.eq_false_iff.2 (fun ht => hput ?_)
    have hbit := Mem.tagBit_of_lsTag (by have := hs ha; omega) ht
    rw [Mem.lsWrite_hbm _ _ _ ha] at hbit
    split at hbit
    · rw [Mem.tagBit_setLine] at hbit
      split at hbit
      next he => rwa [Mem.tagBit, ← he]
      next => exact hbit
    · exact hbit
  · rw [Mem.lsWrite_far _ _ _ ha, Mem.lsTag_far _ _ _ (by omega)]
    exact Mem.homeTag_homeWrite m h1 h2

/-! A granule stored whole with its tag (R52, R169). -/

/-- A line with the tag of the granule at an address set. -/
def Line.mark (l : Line) (a : Nat) : Line := { l with tags := l.tags ||| BitVec.ofNat 8 (2 ^ (a / 16 % 8)) }

theorem Line.mark_heal_shows (l : Line) (a : Nat) :
    (((l.heal a).mark a).tags.getLsbD (a / 16 % 8) && !((l.heal a).mark a).poison.getLsbD (a / 16 % 8)) = true := by
  have h : a / 16 % 8 < 8 := Nat.mod_lt _ (by decide)
  simp only [Line.mark, Line.heal, BitVec.getLsbD_or, BitVec.getLsbD_and, BitVec.getLsbD_not, getLsbD_granuleBit _ h]
  simp

theorem Mem.lsWriteTagged_hbm (m : Mem) (core colour : Nat) {a : Nat} (ha : a < hbmTop) (bs : List Byte) :
    m.lsWriteTagged core colour a bs true =
      (m.lsWrite core colour a bs).setLine core (lineOf a) colour
        (((m.lsWrite core colour a bs).line core (lineOf a) colour).mark a) := by
  unfold Mem.lsWriteTagged
  rw [if_neg (by decide), if_pos ha]
  rfl

theorem Mem.lsWriteTagged_far (m : Mem) (core colour : Nat) {a : Nat} (ha : ¬a < hbmTop) (bs : List Byte) :
    m.lsWriteTagged core colour a bs true =
      { m.homeWrite a bs with tags := Store.write (m.homeWrite a bs).tags (a / 16) 1 } := by
  unfold Mem.lsWriteTagged
  rw [if_neg (by decide), if_neg ha, Mem.lsWrite_far _ _ _ ha]

theorem Mem.lsTag_setLine (m : Mem) (core colour : Nat) {gr : Nat} (hg : 16 * gr < hbmTop) (l : Line) :
    (m.setLine core (gr / 8) colour l).lsTag core colour gr = (l.tags.getLsbD (gr % 8) && !l.poison.getLsbD (gr % 8)) := by
  unfold Mem.lsTag
  rw [if_pos hg, Mem.get_setLine, if_pos rfl]

/-- The tag does not change the bytes that the store wrote. -/
theorem Mem.lsByte_lsWriteTagged (m : Mem) (core colour a : Nat) (bs : List Byte) (x : Nat) :
    (m.lsWriteTagged core colour a bs true).lsByte core colour x = (m.lsWrite core colour a bs).lsByte core colour x := by
  by_cases ha : a < hbmTop
  · rw [Mem.lsWriteTagged_hbm _ _ _ ha]
    exact Mem.lsByte_setLine (l := Line.mark _ a) _ _ _ _ rfl x
  · rw [Mem.lsWriteTagged_far _ _ _ ha, Mem.lsWrite_far _ _ _ ha]
    rfl

/-- No part of a cut list of ranges meets the range cut out. -/
theorem cutRange_apart {lo hi : Nat} {l : List (Nat × Nat × Nat)} {r : Nat × Nat × Nat} (hr : r ∈ cutRange lo hi l) :
    r.2.1 ≤ lo ∨ hi ≤ r.1 := by
  obtain ⟨⟨a, b, n⟩, -, hc⟩ := List.mem_flatMap.1 hr
  dsimp only at hc
  split at hc
  next hk => rw [List.mem_singleton.1 hc]; exact hk
  next =>
    rw [List.mem_append] at hc
    obtain hc | hc := hc <;> split at hc
    · rw [List.mem_singleton.1 hc]; exact .inl (Nat.le_refl _)
    · cases hc
    · rw [List.mem_singleton.1 hc]; exact .inr (Nat.le_refl _)
    · cases hc

/-- A write at a home leaves no part of what it covers unreadable (R414). -/
theorem Mem.dark_homeWrite_apart (m : Mem) (a : Nat) (bs : List Byte) :
    ∀ r ∈ (m.homeWrite a bs).dark, r.2.1 ≤ a ∨ a + bs.length ≤ r.1 := by
  intro r hr
  have hd : (m.homeWrite a bs).dark = if m.dark.isEmpty then [] else cutRange a (a + bs.length) m.dark := rfl
  rw [hd] at hr
  split at hr
  · cases hr
  · exact cutRange_apart hr

/-- A granule outside HBM that was not poisoned, written whole at its home and tagged, shows the tag (R52). -/
theorem Mem.homeTag_tagged {m : Mem} {a : Nat} {bs : List Byte} (ha : a % 16 = 0) (hb : bs.length = 16)
    (hp : m.poison.any (fun (b, n) => b < 16 * (a / 16) + 16 && 16 * (a / 16) < b + n) = false) :
    Mem.homeTag { m.homeWrite a bs with tags := Store.write (m.homeWrite a bs).tags (a / 16) 1 } (a / 16) = true := by
  have hpoison : (m.homeWrite a bs).poison.any (fun (b, n) => b < 16 * (a / 16) + 16 && 16 * (a / 16) < b + n) = false :=
    List.any_eq_false.2 (fun r hr => List.any_eq_false.1 hp r (List.mem_filter.1 hr).1)
  have hdark : (m.homeWrite a bs).dark.any (fun (lo, hi, _) => lo < 16 * (a / 16) + 16 && 16 * (a / 16) < hi) = false := by
    refine List.any_eq_false.2 (fun (lo, hi, n) hr => ?_)
    have := m.dark_homeWrite_apart a bs (lo, hi, n) hr
    dsimp only at this ⊢
    rw [Bool.and_eq_true, decide_eq_true_iff, decide_eq_true_iff]
    omega
  unfold Mem.homeTag
  rw [Store.read_write_same]
  dsimp only
  rw [hpoison, hdark]
  rfl

/-- A granule stored whole with a tag shows it to the core that stored it (R52, R169). -/
theorem Mem.lsTag_lsWriteTagged (m : Mem) (core colour : Nat) {a : Nat} {bs : List Byte} (ha : a % 16 = 0)
    (hb : bs.length = 16) (hp : m.lsPoison core colour (a / 16) = false) :
    (m.lsWriteTagged core colour a bs true).lsTag core colour (a / 16) = true := by
  have hg : 16 * (a / 16) = a := by omega
  by_cases hh : a < hbmTop
  · have hl : lineOf a = a / 16 / 8 := by unfold lineOf; omega
    rw [Mem.lsWriteTagged_hbm _ _ _ hh, Mem.lsWrite_hbm _ _ _ hh, if_pos ⟨ha, hb⟩, Mem.line_setLine, if_pos rfl, hl,
      Mem.lsTag_setLine _ _ _ (by omega)]
    exact Line.mark_heal_shows _ a
  · rw [Mem.lsWriteTagged_far _ _ _ hh, Mem.lsTag_far _ _ _ (by omega)]
    unfold Mem.lsPoison at hp
    rw [if_neg (by omega)] at hp
    exact Mem.homeTag_tagged ha hb hp

/-! An engine's write (R276). -/

/-- A core's L1 holds no line under a key. -/
def Mem.lacks (m : Mem) (k : Nat) : Prop := ∀ e ∈ m.l1, e.1 ≠ k

theorem Mem.get_of_lacks {m : Mem} {k : Nat} (h : m.lacks k) : Tbl.get m.l1 k = none := by
  cases hg : Tbl.get m.l1 k with
  | none => rfl
  | some l => exact absurd rfl (h _ (Tbl.get_mem hg))

theorem Mem.lacks_outrank {m : Mem} {k : Nat} (h : m.lacks k) (core line : Nat) (d : BitVec 128) :
    (m.outrank core line d).lacks k := by
  intro e he
  obtain ⟨e', he', rfl⟩ := List.mem_map.1 he
  have := h e' he'
  split <;> exact this

theorem Mem.lacks_outrankRange {m : Mem} {k : Nat} (h : m.lacks k) (core a n : Nat) : (m.outrankRange core a n).lacks k := by
  unfold Mem.outrankRange
  split
  · exact h
  · exact List.foldlRecOn (motive := fun m : Mem => m.lacks k) _ _ h (fun _ hm l _ => Mem.lacks_outrank hm core l _)

theorem Mem.lacks_backWhere (m : Mem) {p : Nat → Bool} {k : Nat} (hk : p k = true) : (m.backWhere p false).lacks k := by
  intro e he hek
  have := (List.mem_filter.1 he).2
  rw [hek, hk] at this
  cases this

theorem lineOf_mem_linesOf {a n x : Nat} (h1 : a ≤ x) (h2 : x < a + n) : lineOf x ∈ linesOf a n := by
  unfold linesOf lineOf
  rw [if_neg (by omega), List.mem_map]
  exact ⟨x / 128 - a / 128, List.mem_range.2 (by omega), by omega⟩

/-- After an engine's write its core holds no copy of a line of HBM that it touched (R276). -/
theorem Mem.lacks_engWrite (m : Mem) (core : Nat) {colour a x : Nat} {bs : List Byte} (hc : colour < 4096)
    (ha : a < hbmTop) (h1 : a ≤ x) (h2 : x < a + bs.length) (hx : x < hbmTop) :
    (m.engWrite core a bs).lacks (l1Key core (lineOf x) colour) := by
  have hline : lineOf x < 2 ^ 33 := by
    have : hbmTop < 128 * 2 ^ 33 := by decide
    unfold lineOf
    omega
  have hk1 : l1Core (l1Key core (lineOf x) colour) = core := by unfold l1Core l1Key; omega
  have hk2 : l1Line (l1Key core (lineOf x) colour) = lineOf x := by unfold l1Line l1Key; omega
  have he : m.engWrite core a bs =
      (((m.backWhere (fun k => l1Core k == core && (linesOf a bs.length).contains (l1Line k)) false).outrankRange core a
        bs.length).homeWrite a bs) := by
    unfold Mem.engWrite
    dsimp only
    rw [if_pos ha]
  rw [he]
  refine Mem.lacks_outrankRange (Mem.lacks_backWhere m ?_) core a bs.length
  rw [hk1, hk2, beq_self_eq_true, Bool.true_and, List.contains_iff_mem]
  exact lineOf_mem_linesOf h1 h2

/-- What a byte reads at its home after an engine's write there. -/
theorem Mem.home_engWrite (m : Mem) (core a : Nat) (bs : List Byte) :
    ∃ old : Nat → Byte, ∀ x, (m.engWrite core a bs).home x = overlay a bs old x :=
  ⟨_, fun x => Mem.home_homeWrite _ a bs x⟩

/-- The issuing core reads the written bytes at their home (R276). -/
theorem Mem.lsByte_engWrite (m : Mem) (core : Nat) {colour a x : Nat} {bs : List Byte} (hc : colour < 4096)
    (h1 : a ≤ x) (h2 : x < a + bs.length) : (m.engWrite core a bs).lsByte core colour x = (m.engWrite core a bs).home x := by
  unfold Mem.lsByte
  split
  next hx => rw [Mem.get_of_lacks (m.lacks_engWrite core hc (by omega) h1 h2 hx)]
  next => rfl

end Sys2Proof.Machine

section

open Sys2Proof Sys2Proof.Machine

/-- Settles O54: after an LS store, and at the home after an engine's write, each byte reads as the written ones over the
old (`Mem.lsByte_lsWrite`, `Mem.home_engWrite`); tags follow granule by granule, and the engine drops its core's copies. -/
theorem writesReadBack : Obligations.WritesReadBack := by
  unfold Obligations.WritesReadBack
  intro m core colour a bs hm hc hs
  have hls := Mem.lsByte_lsWrite hm core colour hs
  obtain ⟨old, heng⟩ := m.home_engWrite core a bs
  refine ⟨?_, fun b hb => ?_, fun b h1 h2 => m.lsTag_lsWrite core colour hs h1 h2,
    fun ha hb hp => ⟨m.lsTag_lsWriteTagged core colour ha hb hp, ?_⟩, ?_, ?_⟩
  · rw [Mem.lsRead_eq]
    exact map_overlay (fun x _ _ => hls x)
  · rw [hls, overlay_outside _ hb]
  · rw [Mem.lsRead_eq, ← hb]
    exact map_overlay (fun x _ _ => (m.lsByte_lsWriteTagged core colour a bs x).trans (hls x))
  · rw [Mem.homeRead_eq]
    exact map_overlay (fun x _ _ => heng x)
  · rw [Mem.lsRead_eq]
    exact map_overlay (fun x h1 h2 => (m.lsByte_engWrite core hc h1 h2).trans (heng x))

end

/-! PROOFS. Encoding (spec/04_encoding.md): the words of an encoding and what the decoder reads in them (R78 to R84, R94 to
R96). -/

namespace Sys2Proof

/-! Fields of the words of an encoding (R80, R84). -/

/-- The six fields of a word 0, from bit 0 up. -/
theorem word0_fields (s : Slot) (d a b : BitVec 7) (len : BitVec 2) :
    let w := word0 s d a b len
    w.extractLsb' 0 2 = len ∧ w.extractLsb' 2 6 = s.maj ∧ w.extractLsb' 8 7 = d ∧ w.extractLsb' 15 7 = a ∧
      w.extractLsb' 22 7 = b ∧ w.extractLsb' 29 3 = s.f := by
  let w : BitVec (3 + 7 + 7 + 7 + 6 + 2) := s.f ++ b ++ a ++ d ++ s.maj ++ len
  show w.extractLsb' 0 2 = len ∧ w.extractLsb' 2 6 = s.maj ∧ w.extractLsb' 8 7 = d ∧ w.extractLsb' 15 7 = a ∧
    w.extractLsb' 22 7 = b ∧ w.extractLsb' 29 3 = s.f
  simp (disch := omega) only [w, BitVec.extractLsb'_append_eq_of_le, BitVec.extractLsb'_append_eq_of_add_le,
    Nat.reduceSub, BitVec.extractLsb'_eq_self, and_self]

/-- The eight fields of a word 1, from bit 0 up. -/
theorem word1_fields (x : Long) :
    let w := word1 x
    w.extractLsb' 0 4 = x.la ∧ w.extractLsb' 4 3 = x.qg ∧ w.extractLsb' 7 1 = x.qn ∧ w.extractLsb' 8 3 = x.sc ∧
      w.extractLsb' 11 4 = x.ty ∧ w.extractLsb' 15 2 = x.bsel ∧ w.extractLsb' 17 2 = x.asel ∧
      w.extractLsb' 19 13 = x.imm := by
  let w : BitVec (13 + 2 + 2 + 4 + 3 + 1 + 3 + 4) := x.imm ++ x.asel ++ x.bsel ++ x.ty ++ x.sc ++ x.qn ++ x.qg ++ x.la
  show w.extractLsb' 0 4 = x.la ∧ w.extractLsb' 4 3 = x.qg ∧ w.extractLsb' 7 1 = x.qn ∧ w.extractLsb' 8 3 = x.sc ∧
    w.extractLsb' 11 4 = x.ty ∧ w.extractLsb' 15 2 = x.bsel ∧ w.extractLsb' 17 2 = x.asel ∧ w.extractLsb' 19 13 = x.imm
  simp (disch := omega) only [w, BitVec.extractLsb'_append_eq_of_le, BitVec.extractLsb'_append_eq_of_add_le,
    Nat.reduceSub, BitVec.extractLsb'_eq_self, and_self]

/-- A hint's word: LEN 0b11 below the hint (R79). -/
theorem hintWord_fields (n : BitVec 30) :
    let w : Word := n ++ (3 : BitVec 2)
    w.extractLsb' 0 2 = 3 ∧ w.extractLsb' 2 30 = n :=
  ⟨@BitVec.extractLsb'_append_eq_right 30 2 n 3, @BitVec.extractLsb'_append_eq_left 30 2 n 3⟩

theorem shortOf_word0 (s : Slot) (o : Short) (len : BitVec 2) : shortOf (word0 s o.d o.a o.b len) = o := by
  obtain ⟨-, -, hd, ha, hb, -⟩ := word0_fields s o.d o.a o.b len
  simp only [shortOf, hd, ha, hb]

theorem longOf_words (s : Slot) (w : Long) (len : BitVec 2) : longOf (word0 s w.d w.a w.b len) (word1 w) w.lit = w := by
  obtain ⟨-, -, hd, ha, hb, -⟩ := word0_fields s w.d w.a w.b len
  obtain ⟨hla, hqg, hqn, hsc, hty, hbsel, hasel, himm⟩ := word1_fields w
  simp only [longOf, hd, ha, hb, hla, hqg, hqn, hsc, hty, hbsel, hasel, himm]

/-! The decoder's tables against the table of slots (R95, R96). -/

/-- Row by row, the 32-bit table gives each instruction without a word 1 at its slot. -/
theorem shortRow_slot {x : Instr} {o : Short} (h : x.shape = .short o) :
    shortRow x.slot.maj.toNat x.slot.f.toNat o = .ok x := by
  cases x <;> cases h <;> rfl

/-- Row by row, the long table gives each instruction at its slot, or leaves it to the codes of the group window (R96). -/
theorem longRow_slot {x : Instr} {w : Long} (h : x.shape = .long w) :
    longRow x.slot.maj.toNat x.slot.f.toNat w = match x.slot.gop with
      | none => .ok x
      | some _ => gopRow w := by
  cases x <;> cases h <;> rfl

/-- The codes of the group window, as the immediate's top bits give them (R96). -/
theorem gopRow_slot {x : Instr} {w : Long} {g : BitVec 3} (h : x.shape = .long w) (hg : x.slot.gop = some g)
    (hi : w.imm.extractLsb' 10 3 = g) : gopRow w = .ok x := by
  rw [gopRow, hi]
  cases x <;> cases h <;> cases hg <;> rfl

/-- Every instruction that an encoding can carry passes the decoder's last check (R94). -/
theorem checkLong_of_wf {x : Instr} (h : x.wf = true) : checkLong x = .ok x := by
  unfold checkLong
  unfold Instr.wf at h
  split
  next w hw =>
    rw [hw] at h
    have hasel : w.asel ≠ 3 := by
      simp only [Long.ok, Bool.and_eq_true, bne_iff_ne] at h
      exact h.1.2
    rw [if_neg hasel, if_pos h]
  next => rfl

/-- The group-window code of a well-formed instruction stands in the top bits of its immediate (R96). -/
theorem Long.ok_gop {w : Long} {s : Slot} {g : BitVec 3} (h : w.ok s = true) (hg : s.gop = some g) :
    w.imm.extractLsb' 10 3 = g := by
  have hi : w.imm >>> 10 = g.zeroExtend 13 := by
    simp only [Long.ok, hg, Bool.and_eq_true, beq_iff_eq] at h
    exact h.2
  have hn : w.imm.toNat >>> 10 = g.toNat % 2 ^ 13 := by
    simpa only [BitVec.toNat_ushiftRight, BitVec.toNat_setWidth] using congrArg BitVec.toNat hi
  refine BitVec.eq_of_toNat_eq ?_
  rw [BitVec.extractLsb'_toNat, hn]
  omega

theorem longRow_of_wf {x : Instr} {w : Long} (h : x.wf = true) (hx : x.shape = .long w) :
    longRow x.slot.maj.toNat x.slot.f.toNat w >>= checkLong = .ok x := by
  have hr : longRow x.slot.maj.toNat x.slot.f.toNat w = .ok x := by
    rw [longRow_slot hx]
    split
    next => rfl
    next g hg =>
      rw [Instr.wf, hx] at h
      exact gopRow_slot hx hg (Long.ok_gop h hg)
  rw [hr]
  exact checkLong_of_wf h

/-! Decoding by length (R78). -/

theorem decode_short {w0 : Word} (h : w0.extractLsb' 0 2 = 0) (rest : List Word) :
    decode (w0 :: rest) = shortRow (w0.extractLsb' 2 6).toNat (w0.extractLsb' 29 3).toNat (shortOf w0) := by
  simp [decode, h]

theorem decode_long64 {w0 : Word} (h : w0.extractLsb' 0 2 = 1) (w1 : Word) (rest : List Word) :
    decode (w0 :: w1 :: rest) =
      longRow (w0.extractLsb' 2 6).toNat (w0.extractLsb' 29 3).toNat (longOf w0 w1 none) >>= checkLong := by
  simp [decode, h]

theorem decode_long96 {w0 : Word} (h : w0.extractLsb' 0 2 = 2) (w1 w2 : Word) (rest : List Word) :
    decode (w0 :: w1 :: w2 :: rest) =
      longRow (w0.extractLsb' 2 6).toNat (w0.extractLsb' 29 3).toNat (longOf w0 w1 (some w2)) >>= checkLong := by
  simp [decode, h]

theorem decode_hint {w0 : Word} (h : w0.extractLsb' 0 2 = 3) (rest : List Word) :
    decode (w0 :: rest) = .ok (.hint (w0.extractLsb' 2 30)) := by
  simp [decode, h]

theorem hint_of_shape {x : Instr} {n : BitVec 30} (h : x.shape = .hint n) : x = .hint n := by
  cases x <;> cases h
  rfl

end Sys2Proof

section

open Sys2Proof

/-- Settles O4, length by length: the fields stand where the decoder reads them (`word0_fields`, `word1_fields`), and the
decoder's tables agree with the slots (`shortRow_slot`, `longRow_of_wf`). -/
theorem encodeDecode : Obligations.EncodeDecode := by
  intro x ws more hwf he
  unfold encode at he
  dsimp only at he
  split at he
  next o hx =>
    obtain rfl := Option.some.inj he
    obtain ⟨hlen, hmaj, -, -, -, hf⟩ := word0_fields x.slot o.d o.a o.b 0
    rw [List.cons_append, decode_short hlen, hmaj, hf, shortOf_word0]
    exact shortRow_slot hx
  next n hx =>
    obtain rfl := Option.some.inj he
    obtain ⟨hlen, hn⟩ := hintWord_fields n
    rw [List.cons_append, decode_hint hlen, hn, hint_of_shape hx]
  next w hx =>
    split at he
    next hlit =>
      obtain rfl := Option.some.inj he
      obtain ⟨hlen, hmaj, -, -, -, hf⟩ := word0_fields x.slot w.d w.a w.b 1
      have hw := longOf_words x.slot w 1
      rw [hlit] at hw
      rw [List.cons_append, List.cons_append, decode_long64 hlen, hmaj, hf, hw]
      exact longRow_of_wf hwf hx
    next l hlit =>
      obtain rfl := Option.some.inj he
      obtain ⟨hlen, hmaj, -, -, -, hf⟩ := word0_fields x.slot w.d w.a w.b 2
      have hw := longOf_words x.slot w 2
      rw [hlit] at hw
      rw [List.cons_append, List.cons_append, List.cons_append, decode_long96 hlen, hmaj, hf, hw]
      exact longRow_of_wf hwf hx
  next => cases he

end

namespace Sys2Proof

/-! The group-window slot (R96). -/

/-- What the group window decodes to, from a 64-bit form with selectors that R94 admits, passes the decoder's last check. -/
theorem gopRow_checked {w : Long} (hl : w.lit = none) (hb : w.bsel ≠ 3) (ha : w.asel ≠ 3) :
    gopRow w >>= checkLong = gopRow w := by
  have hok : ∀ {k : Nat}, (w.imm.extractLsb' 10 3).toNat = k →
      w.ok ⟨0x3F, 7, some (BitVec.ofNat 3 k), .both, false⟩ = true := by
    intro k hk
    have hc : w.imm >>> 10 = (BitVec.ofNat 3 k).zeroExtend 13 := by
      refine BitVec.eq_of_toNat_eq ?_
      have := w.imm.isLt
      simp only [BitVec.extractLsb'_toNat, Nat.shiftRight_eq_div_pow] at hk
      simp only [BitVec.toNat_ushiftRight, BitVec.toNat_setWidth, BitVec.toNat_ofNat, Nat.shiftRight_eq_div_pow]
      omega
    simp only [Long.ok, hl, hc, bne_iff_ne.mpr hb, bne_iff_ne.mpr ha, beq_self_eq_true, Bool.and_true]
    rfl
  unfold gopRow
  split
  case h_1 h => exact checkLong_of_wf (x := .gstop w) (hok h)
  case h_2 h => exact checkLong_of_wf (x := .grd w) (hok h)
  case h_3 h => exact checkLong_of_wf (x := .gwr w) (hok h)
  case h_4 h => exact checkLong_of_wf (x := .gres w) (hok h)
  case h_5 h => exact checkLong_of_wf (x := .gstat w) (hok h)
  case h_6 h => exact checkLong_of_wf (x := .tlaunch w) (hok h)
  case h_7 => rfl

/-- A word 0 of slot 0x3F F7 with a word 1 is one of the group window's (R96). -/
theorem decode_gop {w0 w1 : Word} (h : w0.extractLsb' 0 8 = 0xFD) (hf : w0.extractLsb' 29 3 = 7)
    (hb : w1.extractLsb' 15 2 ≠ 3) (ha : w1.extractLsb' 17 2 ≠ 3) :
    decode [w0, w1] = gopRow (longOf w0 w1 none) := by
  have hlen : w0.extractLsb' 0 2 = 1 := by
    rw [← BitVec.extractLsb'_extractLsb'_of_le (len' := 8) (by omega), h]
    rfl
  have hmaj : w0.extractLsb' 2 6 = 0x3F := by
    rw [← BitVec.extractLsb'_extractLsb'_of_le (len' := 8) (by omega), h]
    rfl
  rw [decode_long64 hlen, hmaj, hf]
  exact gopRow_checked rfl hb ha

/-- The code of the group window stands in the top bits of word 1 (R84, R96). -/
theorem longOf_code (w0 w1 : Word) (lit : Option Word) :
    (longOf w0 w1 lit).imm.extractLsb' 10 3 = w1.extractLsb' 29 3 := by
  show (w1.extractLsb' 19 13).extractLsb' 10 3 = _
  refine BitVec.eq_of_getElem_eq fun k hk => ?_
  simp only [BitVec.getElem_extractLsb', BitVec.getLsbD_extractLsb', ← Nat.add_assoc,
    decide_eq_true (show 10 + k < 13 by omega), Bool.true_and, Nat.reduceAdd]

end Sys2Proof

section

open Sys2Proof Sys2Proof.Machine

/-- Settles O3: the decoder evaluated on the words. -/
theorem decodedWords : Obligations.DecodedWords :=
  ⟨rfl, rfl, rfl, rfl, rfl, rfl, rfl, rfl⟩

end

namespace Sys2Proof.Machine

open Sys2Proof.Safety Sys2Proof.Rules

variable {s : State} {i : Iss} {o : Op}

/-- An instruction with nothing in its way whose decode checks fail takes ILLEGAL in the lanes active for it, and does
nothing else (R69, R94). -/
theorem runInstr_refused (h : Clear s i) {legal : Iss → Bool} (ha : ¬i.admits o legal) (body : Body) :
    runInstr o legal body s = .next (s.takeTrap i.ag (Trap.of cILLEGAL 0 0 (i.aim o).lanes)) := by
  obtain ⟨ag, -, hv⟩ := State.cur_view h.issuing
  obtain ⟨hs, hag, -⟩ := State.view_self hv
  have hv' : i.s.view i.ag = some i := by rw [hs, hag]; exact hv
  have hcheck : ((if i.ctl = true then o.inControl else o.inGroup) && (i.ctl || !o.once || o.unguarded) &&
      (o.asel != 2 || (!i.ctl && o.dqRow)) && legal i) = false := by
    rw [← Bool.not_eq_true]
    simpa only [Iss.admits, Bool.and_eq_true, and_assoc] using ha
  have hb : i.begin o legal = .error (i.s.takeTrap i.ag (Trap.of cILLEGAL 0 0 (i.aim o).lanes)) := by
    unfold Iss.begin
    simp only [h.stop, h.late, h.single.2, Iss.settled_clear h.pend, hv', h.mask, hcheck, Bool.and_false, Bool.false_and,
      Bool.false_eq_true, if_false, ne_eq, not_true_eq_false, or_self, Bool.not_false, if_true]
  simp only [runInstr, h.issuing, hb, hs]

/-! Steps. -/

/-- With an agent that issues, no control thread takes its place (R132). -/
theorem State.handOver_issuing (h : s.issuing = some i) : s.handOver = s := by
  obtain ⟨ag, hcur, -⟩ := State.cur_view h
  simp only [State.handOver, hcur]

/-- With no turn left, a step is the next instruction of the agent that issues. -/
theorem step_runNext (ha : s.agenda = []) (h : s.issuing = some i) : step s = runNext s := by
  simp only [step, ha, State.handOver_issuing h]

/-- Words that decode are executed. -/
theorem runNext_decoded {ws : List Word} {u : State} {x : Instr} (h : s.issuing = some i) (hf : i.fetch = .ok (ws, u))
    (hd : decode ws = .ok x) : runNext s = exec x u := by
  simp only [runNext, h, hf, hd]

/-- Words that are no instruction run as one that nothing admits (R94). -/
theorem runNext_refused {ws : List Word} {u : State} {e : DecodeErr} (h : s.issuing = some i)
    (hf : i.fetch = .ok (ws, u)) (hd : decode ws = .error e) :
    runNext s = runInstr (badOp e ws) (fun _ => false) (fun j => .ok (Done.only j.s)) u := by
  simp only [runNext, h, hf, hd]

end Sys2Proof.Machine

section

open Sys2Proof Sys2Proof.Machine Sys2Proof.Safety

/-- Settles O1: with a named agent `step_runNext` and `runNext_decoded`; a turn is run as `runTurn` says. -/
theorem stepRunsDecoded : Obligations.StepRunsDecoded := by
  refine ⟨fun s i ws u x ha hi hf hd => ?_, fun s ag dt rest i ws u x ha hi hf hd => ?_, fun s dt rest x ha hx => ?_⟩
  · rw [step_runNext ha hi, runNext_decoded hi hf hd]
  · simp only [step, ha, runTurn]
    exact runNext_decoded hi hf hd
  · simp only [step, ha, runTurn, hx]

/-- Settles O5: such words run as an instruction that no check admits (`runNext_refused`, `runInstr_refused`). -/
theorem undecodableWords : Obligations.UndecodableWords := by
  intro s i ws u e j ha hi hf hd hj
  rw [step_runNext ha hi, runNext_refused hi hf hd]
  exact runInstr_refused hj (fun h => Bool.false_ne_true h.2.2.2) _

/-- Settles O6: the slot's rows (`decode_gop`, `longOf_code`), and O5 for the two codes that stand for nothing. -/
theorem gopCodes : Obligations.GopCodes := by
  refine ⟨fun w0 w1 h hf hb ha => ?_, fun w => ⟨rfl, rfl⟩, fun s i ws u j ha hi hf hd hj => ?_⟩
  · rw [decode_gop h hf hb ha]
    simp only [gopRow, longOf_code] <;> rfl
  · have hm : (j.aim (badOp .reservedGop ws)).lanes = j.p.mask := by
      have ho : (badOp .reservedGop ws).actsOnce = true := by rfl
      simp only [Iss.aim, ho, Bool.or_true, if_true]
    rw [undecodableWords s i ws u _ j ha hi hf hd hj, hm]

end

/-! PROOFS. Instruction forms run with the checks of their rules (spec/04_encoding.md, R84, R91, R94): what refuses a form,
and results that are due before it. -/

namespace Sys2Proof.Machine

open Sys2Proof.Safety Sys2Proof.Rules

/-- A form runs as one instruction, with the issue data of its rule and no check that passes where the rule's do not (R84,
R94). -/
def runsAs (x : Instr) (o : Op) (l : Iss → Bool) : Prop :=
  ∃ legal body, (∀ s, exec x s = runInstr o legal body s) ∧ ∀ i, legal i = true → l i = true

theorem runsAs_rfl {x : Instr} {o : Op} {l : Iss → Bool} {body : Body} (h : ∀ s, exec x s = runInstr o l body s) :
    runsAs x o l := ⟨l, body, h, fun _ => id⟩

theorem orElse_none {α : Type} (r : Option α) : (r <|> none) = r := by cases r <;> rfl

/-- A form that only the table of conversions lists has its rule from there (R142, R143). -/
theorem form_of_converts {x : Instr} {o : Op} {l : Iss → Bool} {r : Rule} (h : form x = some (o, l))
    (hx : laneForm x = none) (hr : ruleForm x = converts x) (hc : converts x = some r) : r.op = o ∧ r.ok = l := by
  simp only [form, hx, hr, hc] at h
  exact Prod.mk.inj (Option.some.inj h)

/-- FCVT has one rule for pairs of f16 and one for the other formats (R142). -/
theorem fcvt_runsAs {w : Long} {o : Op} {l : Iss → Bool} (h : form (.fcvt w) = some (o, l)) : runsAs (.fcvt w) o l := by
  by_cases hty : w.ty = 4 ∨ w.ty = 5
  · obtain ⟨rfl, rfl⟩ := form_of_converts h rfl (orElse_none _) (if_pos hty)
    exact runsAs_rfl fun s => congrFun (if_pos hty) s
  · obtain ⟨rfl, rfl⟩ := form_of_converts h rfl (orElse_none _) (if_neg hty)
    exact runsAs_rfl fun s => congrFun (if_neg hty) s

/-- FICVT has one rule for each direction (R143). -/
theorem ficvt_runsAs {w : Long} {o : Op} {l : Iss → Bool} (h : form (.ficvt w) = some (o, l)) :
    runsAs (.ficvt w) o l := by
  by_cases hd : bitAt w.imm.toNat 7 = true
  · obtain ⟨rfl, rfl⟩ := form_of_converts h rfl (orElse_none _) (if_pos hd)
    exact runsAs_rfl fun s => congrFun (if_pos hd) s
  · obtain ⟨rfl, rfl⟩ := form_of_converts h rfl (orElse_none _) (if_neg hd)
    exact runsAs_rfl fun s => congrFun (if_neg hd) s

/-- The B selectors of GSTOP, GRES and GSTAT are all but 0b10 (R231). -/
theorem winLegalA_window {w : Long} {i : Iss} (h : winLegalA w i = true) :
    (i.ctl && w.asel == 0 && [0, 1, 3].contains w.bsel) = true := by
  have hb : ∀ b : BitVec 2, (b != 2) = [0, 1, 3].contains b := by decide
  rw [← hb]
  exact h

/-- The checks of a comparison, whose destination the model checks among them (R106). -/
theorem cmpOk_of_checks {w : Long} {i : Iss} {d : Bool}
    (h : (tyIs w tySN && w.bsel != 2 && Long.cmpOf w < 6 && d && i.aOk w (tyOf w).w && i.bOk w (tyOf w).w) = true) :
    (cmpOk w i && d) = true := by
  simp only [Bool.and_eq_true, cmpOk] at h ⊢
  obtain ⟨⟨⟨hcmp, hd⟩, ha⟩, hb⟩ := h
  exact ⟨⟨⟨hcmp, ha⟩, hb⟩, hd⟩

/-- The kind of a DPOST's target (R221). -/
theorem postKind_eq (w : Long) : bitsOf w.d.toNat 5 4 = postKind w := by
  simp only [bitsOf, postKind, Nat.shiftRight_eq_div_pow]
  rfl

/-- Every form runs with the checks of its rule. -/
theorem exec_of_form {x : Instr} {o : Op} {l : Iss → Bool} (h : form x = some (o, l)) : runsAs x o l := by
  cases x with
  | fcvt w => exact fcvt_runsAs h
  | ficvt w => exact ficvt_runsAs h
  | iset w => cases h; exact ⟨_, _, fun _ => rfl, fun _ h => cmpOk_of_checks h⟩
  | icmp w => cases h; exact ⟨_, _, fun _ => rfl, fun _ h => (Bool.and_eq_true_iff.mp (cmpOk_of_checks h)).1⟩
  | umov64 w =>
    cases h
    by_cases hw : (tyOf w).w = 128
    · exact ⟨_, _, fun s => if_pos hw, fun i h => by simpa [uMov, hw] using h⟩
    · exact ⟨_, _, fun s => if_neg hw, fun i h => by simpa [uMov, hw] using h⟩
  | red w =>
    cases h
    by_cases hw : w.bits 29 26 < 9
    · rw [if_pos hw]
      exact runsAs_rfl fun s => congrFun (if_pos hw) s
    · rw [if_neg hw]
      exact runsAs_rfl fun s => congrFun (if_neg hw) s
  | vote w => cases h; exact ⟨_, _, fun _ => rfl, fun _ h => (Bool.and_eq_true_iff.mp h).2⟩
  | lid64 w => cases h; exact ⟨_, _, fun _ => rfl, fun i h => by simp_all [moves.lid]⟩
  | tcopy w => cases h; exact ⟨_, _, fun _ => rfl, fun i h => by simpa [copy, appends] using h⟩
  | rcopy w => cases h; exact ⟨_, _, fun _ => rfl, fun i h => by simpa [copy, appends] using h⟩
  | dpost w => cases h; exact ⟨_, _, fun _ => rfl, fun i h => postKind_eq w ▸ h⟩
  | gstop w => cases h; exact ⟨_, _, fun _ => rfl, fun i h => winLegalA_window h⟩
  | grd w => cases h; exact ⟨_, _, fun _ => rfl, fun i h => by simpa [winLegal, windowForm] using h⟩
  | gwr w => cases h; exact ⟨_, _, fun _ => rfl, fun i h => by simpa [winLegal, windowForm] using h⟩
  | gres w => cases h; exact ⟨_, _, fun _ => rfl, fun i h => winLegalA_window h⟩
  | gstat w => cases h; exact ⟨_, _, fun _ => rfl, fun i h => winLegalA_window h⟩
  | _ => cases h <;> exact runsAs_rfl fun _ => rfl

end Sys2Proof.Machine

section

open Sys2Proof Sys2Proof.Machine Sys2Proof.Safety Sys2Proof.Rules

/-- Settles O26: every form runs with the checks of its rule (`exec_of_form`), and failed checks refuse it
(`runInstr_refused`). -/
theorem refusedFormsTrap : Obligations.RefusedFormsTrap := by
  intro x o l s i hx hi ha
  obtain ⟨legal, body, hb, hle⟩ := exec_of_form hx
  rw [hb]
  exact runInstr_refused hi (fun h => ha ⟨h.1, h.2.1, h.2.2.1, hle i h.2.2.2⟩) body

end

/-! PROOFS. A lookahead (spec/04_encoding.md, R91): a form whose rule admits what the model's own checks refuse. -/

namespace Sys2Proof.Machine

open Sys2Proof.Safety Sys2Proof.Rules

/-- VOTE.ALL q8 with lookahead 1, unguarded, whose A selector is 0b01. -/
def voteSelected : Long := ⟨0, 0, 0, 0, 1, 0, 0, 0, 0, 7, 1, none⟩

/-- Group 0 of core 0 converged at pc 0. -/
def voteState : State := State.reset.placed false []
/-- What its instruction sees. -/
def voteView : Iss :=
  voteState.gview (.path 0 0) 0 Group.host (Path.fresh .conv 0 allLanes CapV.codePage) Team.host

theorem voteState_clear : Clear voteState voteView where
  issuing := rfl
  late := rfl
  pend := rfl
  win := rfl
  mask := by decide
  kind := by decide
  stop := rfl
  single := ⟨rfl, rfl⟩
  poison := rfl

/-- The state in which that VOTE has been refused. -/
def voteRefused : State :=
  voteState.takeTrap (.path 0 0) (Trap.of cILLEGAL 0 0 (voteView.aim (Op.long 0x20 1 voteSelected)).lanes)

/-- A VOTE is asked for the A selector 0b00 (`gwVote`). -/
theorem exec_vote (w : Long) : ∃ body, ∀ s, exec (.vote w) s = runInstr (Op.long 0x20 1 w)
    (fun _ => w.asel == 0 && (w.bits 31 30 != 3 || w.d.toNat % 64 ≤ 61)) body s := ⟨_, fun _ => rfl⟩

theorem exec_voteSelected : exec (.vote voteSelected) voteState = .next voteRefused := by
  obtain ⟨body, hb⟩ := exec_vote voteSelected
  rw [hb]
  exact runInstr_refused voteState_clear (fun h => absurd h.2.2.2 (by decide)) _

theorem voteRefused_pend : ∀ k, voteRefused.view (.path 0 0) = some k → k.p.pend = [] := by
  intro k hk
  have h : (voteRefused.view (.path 0 0)).all (fun k => k.p.pend.isEmpty) = true := by decide +kernel
  rw [hk] at h
  exact List.isEmpty_iff.1 h

/-- The rule of a VOTE that writes a predicate: it admits every A selector (R157). -/
theorem vote_rule {w : Long} (hm : w.bits 31 30 ≠ 3) : ∃ r, ruleForm (.vote w) = some r ∧ r.op = Op.long 0x20 1 w ∧
    (∀ i, r.ok i = true) ∧ (∀ i, r.pre i) ∧ ∀ i, ∃ m x, r.ws i = [.q (w.d.toNat % 8) m x] :=
  ⟨_, rfl, rfl, fun _ => by simp [hm], fun _ => trivial, fun _ => ⟨_, _, if_neg hm⟩⟩

end Sys2Proof.Machine

section

open Sys2Proof Sys2Proof.Machine Sys2Proof.Safety Sys2Proof.Rules

/-- Refutes O27: a VOTE with lookahead 1 and the A selector 0b01. Its rule puts no condition on that selector
(`vote_rule`); the model refuses all but 0b00 (`exec_vote`), so the instruction takes ILLEGAL and leaves no result
outstanding. -/
theorem not_lookaheadDelays : ¬ Obligations.LookaheadDelays := by
  intro h
  obtain ⟨r, hr, hop, hok, hpre, hws⟩ := vote_rule (w := voteSelected) (by decide)
  obtain ⟨m, x, hw⟩ := hws (voteView.issued r.op)
  have hd := h _ r voteState voteView (.inl hr) voteState_clear
  simp only [Rule.delays, hw] at hd
  obtain ⟨t, k, ht, hv, -, -, -, -, hpend⟩ := hd (by rw [hop]; exact ⟨rfl, rfl, rfl, hok _⟩) (by rw [hop]; rfl)
    (by rw [hop]; decide) (hpre _) (List.cons_ne_nil _ _) (List.forall_mem_singleton.2 rfl)
  cases exec_voteSelected.symm.trans ht
  exact List.cons_ne_nil _ _ (hpend.symm.trans (voteRefused_pend k hv))

end

/-! PROOFS. Results that are due (spec/04_encoding.md, R91, R92): once they are written the instruction finds nothing due,
and issues as from the state that holds them. -/

namespace Sys2Proof.Machine

open Sys2Proof.Safety Sys2Proof.Rules

/-- None of a path's results is due before the instruction. -/
def Op.noneDue (o : Op) (p : Path) : Prop := ∀ q ∈ p.pend, o.due q = false

/-- What stands in the way of an issue, in a group and its path, is after as before: requests to stop, a STEP that is due,
late faults; and if no result was due, none is. -/
structure keepsIssue (o : Op) (st st' : Group × Path) : Prop where
  stop : st'.1.stopReq = st.1.stopReq
  step : st'.1.stepDue = st.1.stepDue
  late : st'.2.late = st.2.late
  due : o.noneDue st.2 → o.noneDue st'.2

variable {o : Op}

theorem keepsIssue.refl (st : Group × Path) : keepsIssue o st st := ⟨rfl, rfl, rfl, id⟩

theorem keepsIssue.trans {a b c : Group × Path} (h : keepsIssue o a b) (h' : keepsIssue o b c) : keepsIssue o a c :=
  ⟨h'.stop.trans h.stop, h'.step.trans h.step, h'.late.trans h.late, h'.due ∘ h.due⟩

theorem keepsIssue_foldl {α : Type} {f : Group × Path → α → Group × Path} (hf : ∀ st x, keepsIssue o st (f st x))
    (l : List α) (st : Group × Path) : keepsIssue o st (l.foldl f st) := by
  induction l generalizing st with
  | nil => exact .refl st
  | cons x xs ih => exact (hf st x).trans (ih _)

theorem Group.write_requests (G : Group) (w : RegWrite) :
    (G.write w).stopReq = G.stopReq ∧ (G.write w).stepDue = G.stepDue := by
  cases w <;> simp only [Group.write, Group.writeRow, Group.setK, and_self] <;> split <;> exact ⟨rfl, rfl⟩

theorem keepsIssue_write (G : Group) (p : Path) (w : RegWrite) : keepsIssue o (G, p) (G.write w, p) :=
  ⟨(G.write_requests w).1, (G.write_requests w).2, rfl, id⟩

theorem keepsIssue_putWrite (age : Nat) (st : Group × Path) (w : RegWrite) : keepsIssue o st (putWrite age st w) := by
  obtain ⟨G, p⟩ := st
  have hw := keepsIssue_write (o := o) G p w
  cases w with
  | k n x =>
    simp only [putWrite]
    split
    next => exact ⟨rfl, rfl, rfl, id⟩
    next =>
      split
      next => exact hw
      next => exact ⟨rfl, rfl, rfl, id⟩
  | ktag quad t =>
    simp only [putWrite]
    split
    next => exact hw
    next => exact ⟨rfl, rfl, rfl, id⟩
  | _ => exact ⟨hw.stop, hw.step, rfl, id⟩

theorem keepsIssue_raise (G : Group) (p : Path) (age fl : Nat) : keepsIssue o (G, p) (G.raise p age fl) := by
  unfold Group.raise
  dsimp only
  split
  next => exact .refl _
  next =>
    refine ⟨rfl, rfl, rfl, fun h q hq => ?_⟩
    obtain ⟨q', hq', rfl⟩ := List.mem_map.1 hq
    have hl := h q' hq'
    split <;> exact hl

theorem keepsIssue_landOne (st : Group × Path) (q : Pending) : keepsIssue o st (landOne st q) :=
  (keepsIssue_foldl (keepsIssue_putWrite _) q.landing st).trans (keepsIssue_raise _ _ _ _)

/-- Once the due results are written, none is due. -/
theorem settle_noneDue (G : Group) (p : Path) : o.noneDue (settle o.due (G, p)).2 :=
  (keepsIssue_foldl keepsIssue_landOne _ (G, { p with pend := p.pend.filter (fun q => !o.due q) })).due
    (fun q hq => by simpa using (List.mem_filter.1 hq).2)

theorem settle_keeps (G : Group) (p : Path) : (settle o.due (G, p)).1.stopReq = G.stopReq ∧
    (settle o.due (G, p)).1.stepDue = G.stepDue ∧ (settle o.due (G, p)).2.late = p.late := by
  obtain ⟨hs, hd, hl, -⟩ := keepsIssue_foldl (o := o) keepsIssue_landOne (p.pend.filter o.due)
    (G, { p with pend := p.pend.filter (fun q => !o.due q) })
  exact ⟨hs, hd, hl⟩

/-- A context's results change no outstanding result and no late fault. -/
theorem foldl_landOneCtx_path (l : List Pending) (C : Ctx) : (l.foldl landOneCtx C).path = C.path := by
  have hw : ∀ (ws : List RegWrite) (C : Ctx), (ws.foldl Ctx.write C).path = C.path := by
    intro ws
    induction ws with
    | nil => exact fun _ => rfl
    | cons w ws ih =>
      intro C
      rw [List.foldl_cons, ih]
      cases w <;> simp only [Ctx.write] <;> (try split) <;> rfl
  induction l generalizing C with
  | nil => rfl
  | cons q l ih => rw [List.foldl_cons, ih]; exact hw q.writes C

theorem settleCtx_path (C : Ctx) :
    (settleCtx o.due C).path = { C.path with pend := C.path.pend.filter (fun q => !o.due q) } :=
  foldl_landOneCtx_path _ _

/-- What stands in the way of an issue once the due results are written: what stood there, less those results. -/
structure Iss.cleared (o : Op) (i j : Iss) : Prop where
  stop : j.G.stopReq = i.G.stopReq
  step : j.G.stepDue = i.G.stepDue
  late : j.p.late = i.p.late
  due : o.noneDue j.p

theorem noneDue_of_any {p : Path} (h : p.pend.any o.due = false) : o.noneDue p := by
  intro q hq
  exact Bool.eq_false_iff.2 (fun hd => by rw [List.any_eq_true.2 ⟨q, hq, hd⟩] at h; cases h)

/-- The due results, where there are some and each has its data. -/
theorem Iss.settled_cases {i : Iss} {u : State} (h : i.settled o = some u) :
    (i.p.pend.any o.due = false ∧ u = i.s) ∨
    (i.ctl = true ∧ u = i.s.setCtx i.id (settleCtx o.due i.C)) ∨
    (i.ctl = false ∧ u = i.s.setGroup i.id ((settle o.due (i.G, i.p)).1.setPathAt i.ag (settle o.due (i.G, i.p)).2)) := by
  unfold Iss.settled at h
  split at h
  next => cases h
  split at h
  next =>
    split at h
    next hc => exact .inr (.inl ⟨hc, (Option.some.inj h).symm⟩)
    next hc => exact .inr (.inr ⟨Bool.not_eq_true _ ▸ hc, (Option.some.inj h).symm⟩)
  next hd => exact .inl ⟨Bool.not_eq_true _ ▸ hd, (Option.some.inj h).symm⟩

/-- The path put into a group is the one that its agent sees there. -/
theorem State.view_setPathAt {s : State} {ag : Agent} {i j : Iss} {G : Group} {p : Path} (hv : s.view ag = some i)
    (hc : i.ctl = false) (hj : (s.setGroup i.id (G.setPathAt ag p)).view ag = some j) :
    j.G = G.setPathAt ag p ∧ j.p = p := by
  cases ag with
  | ctl t =>
    obtain ⟨_, _, -, -, rfl⟩ := State.view_ctl hv
    cases hc
  | path g ix =>
    obtain ⟨_, _, _, -, -, -, rfl⟩ := State.view_path hv
    obtain ⟨G', T, p', hG, hp, -, rfl⟩ := State.view_path hj
    obtain rfl := Option.some.inj ((State.group_setGroup _ _ _).symm.trans hG)
    refine ⟨rfl, ?_⟩
    have h : (G.stack.set ix p)[ix]? = some p' := hp
    have hlt : ix < (G.stack.set ix p).length := (List.getElem?_eq_some_iff.1 h).1
    rw [List.getElem?_set_self (List.length_set ▸ hlt)] at h
    exact (Option.some.inj h).symm
  | handler g =>
    obtain ⟨_, _, _, -, -, -, rfl⟩ := State.view_handler hv
    obtain ⟨G', T, x, hG, hp, -, rfl⟩ := State.view_handler hj
    obtain rfl := Option.some.inj ((State.group_setGroup _ _ _).symm.trans hG)
    obtain ⟨y, -, rfl⟩ := Option.map_eq_some_iff.1 hp
    exact ⟨rfl, rfl⟩

theorem Group.setPathAt_keeps (G : Group) (ag : Agent) (p : Path) : (G.setPathAt ag p).stopReq = G.stopReq ∧
    (G.setPathAt ag p).stepDue = G.stepDue := by
  cases ag <;> exact ⟨rfl, rfl⟩

theorem Iss.settled_cleared {s u : State} {ag : Agent} {i j : Iss} (hv : s.view ag = some i) (h : i.settled o = some u)
    (hj : u.view i.ag = some j) : i.cleared o j := by
  obtain ⟨hs, hag, -⟩ := State.view_self hv
  rw [hag] at hj
  obtain ⟨hd, rfl⟩ | ⟨hc, rfl⟩ | ⟨hc, rfl⟩ := Iss.settled_cases h
  · rw [hs, hv] at hj
    cases hj
    exact ⟨rfl, rfl, rfl, noneDue_of_any hd⟩
  · cases ag with
    | ctl t =>
      obtain ⟨C, T, -, -, rfl⟩ := State.view_ctl hv
      obtain ⟨C', T', hC, -, rfl⟩ := State.view_ctl hj
      obtain rfl := Option.some.inj ((State.ctx_setCtx _ _ _).symm.trans hC)
      have hl : (settleCtx o.due C).path.late = C.path.late := by rw [settleCtx_path]
      refine ⟨rfl, rfl, hl, fun q hq => ?_⟩
      have hq' : q ∈ (settleCtx o.due C).path.pend := hq
      rw [settleCtx_path] at hq'
      simpa using (List.mem_filter.1 hq').2
    | path g ix => obtain ⟨_, _, _, -, -, -, rfl⟩ := State.view_path hv; cases hc
    | handler g => obtain ⟨_, _, _, -, -, -, rfl⟩ := State.view_handler hv; cases hc
  · rw [hs, hag] at hj
    obtain ⟨hG, hp⟩ := State.view_setPathAt hv hc hj
    obtain ⟨hstop, hstep, hlate⟩ := settle_keeps (o := o) i.G i.p
    obtain ⟨hstop', hstep'⟩ := Group.setPathAt_keeps (settle o.due (i.G, i.p)).1 ag (settle o.due (i.G, i.p)).2
    exact ⟨by rw [hG, hstop', hstop], by rw [hG, hstep', hstep], by rw [hp, hlate], by rw [hp]; exact settle_noneDue _ _⟩

/-- With none due, the state stands as it is. -/
theorem Iss.settled_noneDue {i : Iss} (h : o.noneDue i.p) : i.settled o = some i.s := by
  have hn : i.p.pend.any (fun q => o.due q && !q.ready) = false :=
    List.any_eq_false.2 (fun q hq => by simp [h q hq])
  have hd : i.p.pend.any o.due = false := List.any_eq_false.2 (fun q hq => by simp [h q hq])
  simp only [Iss.settled, hn, hd, Bool.false_eq_true, if_false]

/-- With nothing else in its way, an instruction begins as from the state in which its due results are written. -/
theorem Iss.begin_settled {s u : State} {ag : Agent} {i j : Iss} (legal : Iss → Bool) (hv : s.view ag = some i)
    (hl : i.p.late = []) (hst : i.G.stopReq = false) (hsd : i.G.stepDue = false) (hu : i.settled o = some u)
    (hj : u.view i.ag = some j) (hm : j.p.mask = i.p.mask) : i.begin o legal = j.begin o legal := by
  obtain ⟨hstop, hstep, hlate, hdue⟩ := Iss.settled_cleared hv hu hj
  obtain ⟨hs, hag, -⟩ := State.view_self hj
  simp only [Iss.begin, hl, hst, hsd, hu, hj, hm, hag, hs, hlate.trans hl, hstop.trans hst, hstep.trans hsd,
    Iss.settled_noneDue hdue, Bool.and_false, Bool.false_and, Bool.false_eq_true, if_false]

/-- An instruction whose due results can be written runs as from the state in which they are. -/
theorem runInstr_settled {s u : State} {i j : Iss} (legal : Iss → Bool) (body : Body) (hi : s.issuing = some i)
    (hl : i.p.late = []) (hst : i.G.stopReq = false) (hsd : i.G.stepDue = false) (hu : i.settled o = some u)
    (hj : u.issuing = some j) (hag : j.ag = i.ag) (hm : j.p.mask = i.p.mask) :
    runInstr o legal body s = runInstr o legal body u := by
  obtain ⟨ag, -, hv⟩ := State.cur_view hi
  obtain ⟨ag', -, hv'⟩ := State.cur_view hj
  obtain ⟨hs, hag', -⟩ := State.view_self hv'
  have hview : u.view i.ag = some j := by rw [← hag, hag']; exact hv'
  have hnd := (Iss.settled_cleared hv hu hview).due
  have hbefore : i.before o = j.before o := by
    simp only [Iss.before, hu, hview, Iss.settled_noneDue hnd, hs, hag, Option.getD_some]
  simp only [runInstr, hi, hj, Iss.begin_settled legal hv hl hst hsd hu hview hm, hbefore]

end Sys2Proof.Machine

section

open Sys2Proof Sys2Proof.Machine Sys2Proof.Safety Sys2Proof.Rules

/-- Settles O28: every form is one instruction (`exec_of_form`), and writing the due results leaves none due and nothing
else in its way changed (`Iss.settled_cleared`, `runInstr_settled`). -/
theorem dueResultsFirst : Obligations.DueResultsFirst := by
  rintro x o l s i u hx hi hl hst hsd hu ⟨j, hj, hag, hm, -⟩
  obtain ⟨legal, body, hb, -⟩ := exec_of_form hx
  rw [hb, hb]
  exact runInstr_settled legal body hi hl hst hsd hu hj hag hm

end

/-! PROOFS. A completion at the host (spec/04_encoding.md, R93; R181, R285, R291): of an access that acquires, it also
drops lines of an L1. -/

namespace Sys2Proof.Machine

/-- A load of the control thread of core 0 from the host window, eight bytes into c4, that acquires at pod scope. -/
def acquiring : HostReq :=
  { ag := .ctl 0, pc := 0, lanes := [0], size := 8, signed := false, dst := .c 4, kind := 0, cq := 0, expect := [],
    fn := 0, acq := some 7 }

/-- A line of L1 with no dirty byte. -/
def cleanLine : Line := { data := List.replicate 128 0, tags := 0, dirty := 0, poison := 0, first := false }

/-- The thread's team at core 0, its request with number 3 at the host, and a clean line of its colour in the core's L1. -/
def acquireState : State :=
  let s := State.reset.placed true []
  { s with io := { s.io with reqs := [(3, acquiring)] }, mem := { s.mem with l1 := [(l1Key 0 0 1, cleanLine)] } }

/-- The request's completion drops the line (R291). -/
theorem acquireState_completed {t : State}
    (h : exec (.hostWindowCompletion 3 0 [List.replicate 8 0]) acquireState = .next t) : t.mem.l1 = [] := by
  have hl : (match exec (.hostWindowCompletion 3 0 [List.replicate 8 0]) acquireState with
    | .next t => t.mem.l1.isEmpty
    | _ => false) = true := by decide
  rw [h] at hl
  exact List.isEmpty_iff.1 hl

end Sys2Proof.Machine

section

open Sys2Proof Sys2Proof.Machine Sys2Proof.Safety Sys2Proof.Rules

/-- Refutes O29: the rule of a completion at the host leaves memory as it was, and the completion of an access that
acquires at a wide scope drops the clean lines of its colour from its core's L1 (`State.hostAcquired`,
`acquireState_completed`). -/
theorem not_resultSteps : ¬ Obligations.ResultSteps := by
  intro h
  obtain ⟨t, ht, -, -, honly⟩ := h (.hostWindowCompletion 3 0 [List.replicate 8 0]) _ acquireState rfl
    ⟨acquiring, ⟨rfl, List.cons_ne_nil _ _, _, rfl⟩, List.cons_ne_nil _ _, le_refl 1,
      fun _ => List.forall_mem_singleton.2 rfl⟩
  have hmem : t.mem = acquireState.mem := honly .mem (by decide)
  have hl1 := acquireState_completed ht
  rw [hmem] at hl1
  exact List.cons_ne_nil _ _ hl1

end

/-! PROOFS. Fetch (spec/04_encoding.md, R78; R242, R243): lines requested ahead can take the place of the line that is
fetched from. -/

namespace Sys2Proof.Machine

/-- A full cache of a control thread of whose lines only one is in no hot loop: that one goes, whichever value is drawn
(R242, R243). -/
theorem State.codeRoom_erases {s : State} {core line k : Nat}
    (hfull : ((s.mem.ic.map (·.1)).filter (fun k => icCore k == core && icCtl k == true)).length = 64)
    (hopen : ((s.mem.ic.map (·.1)).filter (fun k => icCore k == core && icCtl k == true)).filter
      (fun k => !s.looped core true (icLine k)) = [k]) :
    (s.codeRoom core true line).mem = { s.mem with ic := Tbl.erase s.mem.ic k } := by
  have hone : ∀ x : Nat, x % max 1 [k].length = 0 := Nat.mod_one
  unfold State.codeRoom
  simp only [Bool.true_or, Bool.and_true, hfull, hopen, if_true, Nat.lt_irrefl, if_false, List.isEmpty_cons,
    Bool.false_eq_true, hone, List.getElem?_cons_zero]
  rfl

/-- The lines requested ahead of a fetch from a line (R242, R243). -/
def State.ahead (core : Nat) (ctl : Bool) (colour line : Nat) (s : State) (j : Nat) : State :=
  if whereIs (128 * (line + 1 + j)) = whereIs (128 * line) then s.requestCode core ctl colour (line + 1 + j) else s

/-- A line that is not in the cache and that nothing refuses is brought in, and then those after it. -/
theorem State.fetchLine_miss {s : State} {core : Nat} {ctl : Bool} {colour line : Nat} (depth : Nat)
    (h : Tbl.get s.mem.ic (icKey core ctl line) = none) (hr : s.lineRefusal colour line = none) :
    s.fetchLine core ctl colour depth line =
      .ok ((List.range depth).foldl (State.ahead core ctl colour line) (s.fillCode core ctl line)) := by
  unfold State.fetchLine
  simp only [h, hr, Option.isSome_none, Bool.false_eq_true, if_false]
  rfl

/-- A word that passes its checks, from a line that is there. -/
theorem Iss.fetchWord_ok {i : Iss} {s s' : State} {a : Nat}
    (hc : i.p.code.check ⟨if isSys a then [] else [3], pEX⟩ i.colour (s.colourOk i.colour) false a 4 = none)
    (hr : s.rangeRefusal i.core i.colour a 4 false = none)
    (hl : s.fetchLine i.core i.ctl i.colour i.p.steer.depth (a / 128) = .ok s') :
    i.fetchWord s a = .ok (s'.codeWord i.core i.ctl a, s') := by
  simp only [Iss.fetchWord, hc, hr, hl]

/-- An instruction of one word, with no branch target requested. -/
theorem Iss.fetch_one {i : Iss} {s : State} {w : Word} (hpc : i.p.pc.toNat % 4 = 0)
    (hw : i.fetchWord i.s i.p.pc.toNat = .ok (w, s)) (hn : wordCount w = 1) (hb : i.p.steer.branch = none) :
    i.fetch = .ok ([w], s) := by
  simp [Iss.fetch, hpc, hw, hn, Iss.fetchRest, Iss.fetchTarget, hb]

/-- A control thread at pc 0 for which 64 lines are requested ahead, and another of its core in a hot loop of those lines. -/
def floodCtx : Ctx := { Ctx.host with path := { Ctx.host.path with steer := { Ctx.host.path.steer with depth := 64 } } }
def loopCtx : Ctx :=
  { Ctx.host with path := { Ctx.host.path with pc := 128, steer := { Ctx.host.path.steer with loop := some (1, 64) } } }
/-- Both, with NOP.32 at pc 0 and an empty instruction cache. -/
def floodState : State :=
  ((State.reset.placed true (leBytes 4 0x800000E4)).setCtx 0 floodCtx).setCtx 1 loopCtx
def floodView : Iss := floodState.cview 0 floodCtx Team.host

theorem floodState_view : floodState.view (.ctl 0) = some floodView := rfl

/-- Line 0 and 63 lines after it brought in. -/
def floodFull : State := (List.range 63).foldl (State.ahead 0 true 1 0) (floodState.fillCode 0 true 0)

theorem floodFull_keys : floodFull.mem.ic.map (·.1) = (List.range 64).map (icKey 0 true) := by decide +kernel

/-- Of the 64 lines all but line 0 are in the hot loop. -/
theorem floodFull_open : ((floodFull.mem.ic.map (·.1)).filter (fun k => icCore k == 0 && icCtl k == true)).filter
    (fun k => !floodFull.looped 0 true (icLine k)) = [icKey 0 true 0] := by
  rw [floodFull_keys]
  decide +kernel

/-- The next line requested takes the place of line 0. -/
theorem floodFull_next : Tbl.get (State.ahead 0 true 1 0 floodFull 63).mem.ic (icKey 0 true 0) = none := by
  have hroom := State.codeRoom_erases (line := 64) (by rw [floodFull_keys]; decide) floodFull_open
  have hreq : State.ahead 0 true 1 0 floodFull 63 = floodFull.fillCode 0 true 64 := by
    have h1 : whereIs (128 * (0 + 1 + 63)) = whereIs (128 * 0) := by decide
    have h2 : (floodFull.lineRefusal 1 64).isNone = true := by decide +kernel
    simp only [State.ahead, State.requestCode, h1, h2, if_true]
  have hmiss : (Tbl.get floodFull.mem.ic (icKey 0 true 64)).isSome = false := by decide +kernel
  have hhost : isHost (128 * 64) = false := by decide
  rw [hreq]
  simp only [State.fillCode, hmiss, hhost, Bool.false_eq_true, if_false, hroom]
  rw [Tbl.get_set_other _ _ (by decide), Tbl.get_erase]
  simp

/-- The fetch from line 0 goes well and finds nothing of the line left. -/
theorem floodView_fetch : floodView.fetch = .ok ([0], State.ahead 0 true 1 0 floodFull 63) := by
  have hline : floodState.fetchLine 0 true 1 64 0 = .ok (State.ahead 0 true 1 0 floodFull 63) := by
    rw [State.fetchLine_miss 64 (by decide) (by decide), List.range_succ, List.foldl_append,
      List.foldl_cons, List.foldl_nil, floodFull]
  have hword := Iss.fetchWord_ok (i := floodView) (s := floodState) (a := 0) (by decide) (by decide) hline
  have hnone : (State.ahead 0 true 1 0 floodFull 63).codeWord 0 true 0 = 0 := by
    simp only [State.codeWord, Nat.zero_div, floodFull_next]
  refine Iss.fetch_one (by decide) ?_ (by decide) rfl
  exact hnone ▸ hword

end Sys2Proof.Machine

section

open Sys2Proof Sys2Proof.Machine

/-- Refutes O2: NOP.32 at pc 0 of a control thread for which 64 lines are requested ahead, beside a thread in a hot loop of
those lines. The 64th takes the place of the line just fetched (`floodFull_next`), and the fetch gives the word 0
(`floodView_fetch`). The statement bounds no prefetch depth; the model's hints set 0, 3 or 8 lines. -/
theorem not_fetchReadsMemory : ¬ Obligations.FetchReadsMemory := by
  intro h
  obtain ⟨-, -, -, -, hwords⟩ := h floodView [0] _ floodView_fetch (by decide) (fun _ => rfl)
  exact absurd (hwords 0 0 rfl) (by decide)

end

/-! PROOFS. Control flow (spec/04_encoding.md, R79; R119 to R132, R243): the forms of rows 0x38 and 0x39 that keep the
path's entry, each body shown to answer what its rule says. -/

namespace Sys2Proof.Machine

open Sys2Proof.Safety Sys2Proof.Rules

variable {s : State} {i : Iss} {out : Out1}

/-- A form whose body answers what its rule says, from any view that owns its state and reads no poison. -/
theorem owned_does {r : Rule} {body : Body} (h : Clear s i) (hx : out = runInstr r.op r.ok body s)
    (ho : ∀ j, i.owns j j.s → i.owns (r.eff j) (r.eff j).s)
    (hb : ∀ j, i.owns j j.s → (∀ m rs, j.ecc m rs = .ok ()) → r.pre j → body j = .ok
      { s := (r.eff j).s, ws := r.ws j, flags := r.fl j, pc := r.pc j, req := none, moved := false }) : r.does i out :=
  own_rule h hx (ho _ (owns0 h _)) (hb _ (owns0 h _) (Iss.issued_ecc i _ h.poison))

/-! Branches (R119, R120). -/

theorem bra_does (h : Clear s i) (o : Op) (off : Int) : (bra o off).does i (ctlBra o off s) :=
  owned_does h rfl (fun _ => id) (fun _ _ _ _ => rfl)

theorem brc_does (h : Clear s i) (o : Op) (reg : Nat) (z : Bool) (off : Int) :
    (brc o reg z off).does i (ctlBrc o reg z off s) := by
  refine owned_does h rfl (fun _ => id) (fun j _ he _ => ?_)
  have hz : (if j.ctl then j.cReg reg == 0 else j.kReg reg == 0) =
      decide (if j.ctl then j.cReg reg = 0 else j.kReg reg = 0) := by
    split <;> rfl
  simp only [brc, jump, he, hz, beq_iff_eq]
  by_cases hb : decide (if j.ctl then j.cReg reg = 0 else j.kReg reg = 0) = z
  · simp only [hb, if_true]
    rfl
  · simp only [hb, if_false]
    rfl

/-- The rule of BRX, as `flow` has it. -/
def brxRule (w : Long) : Rule :=
  jump (Op.long 0x38 2 w) (fun i => (if i.ctl then w.asel == 0 else w.asel == 1) && 1 ≤ sext 13 w.imm.toNat) (fun i =>
    let x : Int := if i.ctl then (i.cReg w.a.toNat).toNat else (i.kReg w.a.toNat).toNat
    some (words i.p.pc (2 + (if x < sext 13 w.imm.toNat then x else sext 13 w.imm.toNat))))

/-- BRX's index is the whole register of its stream (R120). -/
theorem Iss.regOnce_index (j : Iss) (n : Nat) : ((j.regOnce (if j.ctl then 64 else 32) n : Nat) : Int) =
    if j.ctl then ((j.cReg n).toNat : Int) else ((j.kReg n).toNat : Int) := by
  unfold Iss.regOnce
  split
  next => exact congrArg Nat.cast (Nat.mod_eq_of_lt (j.cReg n).isLt)
  next => exact congrArg Nat.cast (Nat.mod_eq_of_lt (j.kReg n).isLt)

theorem brx_does (h : Clear s i) (w : Long) : (brxRule w).does i (ctlBrx (Op.long 0x38 2 w) w s) := by
  refine owned_does h rfl (fun _ => id) (fun j _ he _ => ?_)
  simp only [brxRule, jump, he, Iss.regOnce_index]
  rfl

/-! Windows and code capabilities (R16, R49). -/

/-- A window that fits passes the check of R16. -/
theorem Iss.window_ok {j : Iss} {top : Bool} {nb : Int} (h : fits j top nb) : j.window top nb = .ok () := by
  obtain ⟨hlo, hhi, htop⟩ := h
  have h1 : ¬(top = true ∧ 4096 < nb + (min 128 j.G.held : Nat)) := fun ⟨ht, hlt⟩ => absurd (htop ht) (by omega)
  simp only [Iss.window, if_neg h1, if_neg (show ¬((j.G.lo + j.G.held : Nat) : Int) < nb + (min 128 j.G.held : Nat) by omega),
    if_neg (show ¬nb < (j.G.lo : Int) by omega)]

/-- A capability that passes R49 steps 1 to 6. -/
theorem Iss.codeCheck_ok {j : Iss} {forms : List Nat} {c : CapV} (h : codeOk j forms c) (hf : ∀ f ∈ forms, f < 5) :
    j.codeCheck forms c = .ok () := by
  obtain ⟨htag, hform, hcol, hok, hperm⟩ := h
  have hcheck : c.check ⟨forms, pEX⟩ j.colour (j.s.colourOk j.colour) false c.base 0 = none := by
    have h5 := hf _ hform
    have hb := c.bounds_le.1
    simp [CapV.check, firstErr, htag, hcol, hok, hperm, hform, Nat.not_lt.2 hb, Nat.not_le.2 h5]
  simp only [Iss.codeCheck, hcheck]

/-! CALL, CALLI, RET, WINB (R128 to R130). -/

/-- The window slid forward, as the agent owns it. -/
theorem slid_owns (h : Clear s i) (d : BitVec 7) {j : Iss} (hj : i.owns j j.s) : i.owns (slid d j) (slid d j).s := by
  unfold slid
  split
  next => exact hj
  next hc => exact withG_owns h hj rfl (by rw [← hj.ctl]; simpa using hc) _ rfl rfl rfl rfl

/-- CALL's and CALLI's frame and link, and the code that a CALLI enters. -/
theorem enter_ok {j : Iss} (o : Op) (d : BitVec 7) (pc : Word64) (code : Option CapV)
    (h : j.ctl = true ∨ fits j true ((j.G.base + frame d : Nat) : Int)) :
    j.enter o d.toNat pc code = .ok
      { s := code.elim (slid d j).s (fun c => (slid d j).s.setCode j.ag c), ws := linkWrites o j, flags := 0,
        pc := some pc, req := none, moved := false } := by
  unfold Iss.enter slid linkWrites
  by_cases hc : j.ctl = true
  · simp only [hc, if_true]
    cases code <;> rfl
  · have hw := Iss.window_ok (h.resolve_left hc)
    simp only [hc, if_false, Bool.false_eq_true]
    rw [show 8 * (d.toNat % 16 + 1) = frame d from rfl, hw]
    cases code <;> rfl

theorem call_does (h : Clear s i) (o : Op) (d : BitVec 7) (off : Int) :
    (call o d off).does i (ctlCall o d.toNat off s) :=
  owned_does h rfl (fun _ => slid_owns h d) (fun _ _ _ hp => enter_ok o d _ none hp)

/-- What a CALLI enters: a form-4 entry at its base, as form 3 (R48). -/
def calliTarget (w : Long) (j : Iss) : CapV :=
  if (j.capOnce w.a.toNat).form = 4 then (j.capOnce w.a.toNat).entry else j.capOnce w.a.toNat

theorem calli_does (h : Clear s i) (o : Op) (w : Long) : (calli o w).does i (ctlCalli o w s) := by
  refine owned_does h rfl (fun _ hj => (withCode_owns h (slid_owns h w.d hj) _).1) (fun j hj he hp => ?_)
  obtain ⟨hcode, hwin⟩ := hp
  have hent := enter_ok o w.d (BitVec.ofNat 64 (calliTarget w j).cursor) (some (calliTarget w j)) hwin
  rw [Option.elim_some, hj.ag, (withCode_owns h (slid_owns h w.d hj) _).2] at hent
  simp only [he, Iss.codeCheck_ok hcode (by decide)]
  exact hent

/-- A window moved by WINB or RET, as the agent owns it. -/
theorem withWindow_owns (h : Clear s i) (hc : i.ctl = false) {j : Iss} (hj : i.owns j j.s) (base fsz : Nat) :
    i.owns (withG j { j.G with base := base, fsz := fsz }) (withG j { j.G with base := base, fsz := fsz }).s :=
  withG_owns h hj rfl hc _ rfl rfl rfl rfl

theorem ret_does (h : Clear s i) (o : Op) : (ret o).does i (ctlRet o s) := by
  refine owned_does h rfl (fun j hj => ?_) (fun j hj he hp => ?_)
  · simp only [ret]
    split
    next => exact (withCode_owns h hj _).1
    next hc => exact (withCode_owns h (withWindow_owns h (by rw [← hj.ctl]; simpa using hc) hj _ _) _).1
  · obtain ⟨hcode, hwin⟩ := hp
    by_cases hc : j.ctl = true
    · simp only [hc, if_true] at hcode
      simp only [ret, hc, if_true, Iss.codeCheck_ok hcode (by decide), hj.ag, (withCode_owns h hj _).2]
      rfl
    · obtain ⟨hfsz, hf, hfit⟩ := hwin.resolve_left hc
      simp only [hc, if_false, Bool.false_eq_true] at hcode
      have hno : ¬(j.G.fsz = 0 ∨ (j.kReg 59).toNat % 256 % 8 ≠ 0) := fun hor => hor.elim hfsz (fun hn => hn hf)
      have hown := (withCode_owns h (withWindow_owns h (by rw [← hj.ctl]; simpa using hc) hj (j.G.base - j.G.fsz)
        ((j.kReg 59).toNat % 256)) (j.kpVal 44)).2
      simp only [ret, hc, if_false, Bool.false_eq_true, he, if_neg hno, Iss.codeCheck_ok hcode (by decide),
        Iss.window_ok hfit, hj.ag, ← hown]
      rfl

/-- An instruction that the control stream has not is admitted to groups alone (R95). -/
theorem Iss.admits_group {o : Op} {legal : Iss → Bool} (hctl : o.inControl = false) (ha : i.admits o legal) :
    i.ctl = false := by
  by_contra hc
  have h1 := ha.1
  rw [if_pos (by simpa using hc)] at h1
  exact absurd (hctl.symm.trans h1) Bool.false_ne_true

/-- The number of rows in a register, as a signed word (R130). -/
theorem Iss.sext_kVal (j : Iss) (n : Nat) : sext 32 (j.kVal 32 n) = (j.kReg n).toInt := by
  have hlt := (j.kReg n).isLt
  have hv : j.kVal 32 n = (j.kReg n).toNat := Nat.mod_eq_of_lt hlt
  rw [hv, BitVec.toInt_eq_toNat_cond, sext]
  split_ifs <;> omega

/-- WINB by a number of rows that both name. -/
theorem winb_does (h : Clear s i) (o : Op) (hctl : o.inControl = false) (legal : Bool) (regs : List SrcReg)
    {delta delta' : Iss → Int} (hd : ∀ j, delta' j = delta j) :
    (winb o legal delta).does i (ctlWinb o legal regs delta' s) := by
  intro ha
  have hc := Iss.admits_group hctl ha
  revert ha
  refine owned_does h rfl (fun _ hj => withWindow_owns h hc hj _ _) (fun j _ he hp => ?_)
  obtain ⟨h8, hbase, hlo, hhi, hwin⟩ := hp
  have hno : ¬(delta j % 8 ≠ 0 ∨ (j.G.base : Int) + delta j < 0 ∨ (j.G.fsz : Int) + delta j < 0 ∨
      248 < (j.G.fsz : Int) + delta j) := by omega
  simp only [he, hd, if_neg hno, Iss.window_ok hwin]
  rfl

/-! TAKE, YIELD, NOP, HINT (R79, R131, R132, R243): their rules as `flow` has them. -/

def takeRule (w : Long) : Rule :=
  { op := Op.long 0x39 2 w, ok := fun _ => true
    pre := fun i => ∃ d, decision i = some d ∧ i.takeRival d = false
    ws := fun i => [.k (w.d.toNat % 64) (((decision i).map (·.payload)).getD 0)]
    eff := taken }
def yieldRule (o : Op) : Rule := { op := o, ok := fun _ => true, eff := yielded }
def nopRule (o : Op) : Rule := { op := o, ok := fun _ => true }
def hintRule (n : Nat) : Rule := { op := Op.short 0x40 0, ok := fun _ => true, eff := hinted n }

theorem take_does (h : Clear s i) (w : Long) : (takeRule w).does i (execTake w s) := by
  refine keep_rule h rfl rfl ⟨fun _ => rfl, fun _ => rfl, fun _ => rfl⟩ (fun hp => ?_)
  obtain ⟨d, hd, hr⟩ := hp
  simp only [takeRule] at hd hr ⊢
  simp only [hd, Option.map_some, Option.getD_some, taken]
  unfold decision at hd
  simp only [hd, hr, Bool.false_eq_true, if_false, Iss.results]
  simp only [kResult, Nat.reduceEqDiff, if_false, BitVec.ofNat_toNat, BitVec.setWidth_eq]

/-- A view with another state that keeps its agent's group or context and its team. -/
theorem owns_keeps {j : Iss} (hj : i.owns j j.s) {t : State} (hk : keeps j.s t) : i.owns { j with s := t } t := by
  have hpath : t.path i.ag = j.s.path i.ag := by
    cases i.ag <;> simp only [State.path, hk.g, hk.c]
  refine ⟨hj.ag, hj.ctl, hj.id, fun hc => ?_, fun hc => ?_, ?_, hj.pend, hj.win, hj.wait, hj.mask⟩
  · rw [hk.g, hpath]
    exact hj.group hc
  · rw [hk.c]
    exact hj.ctx hc
  · simp only [hk.t]
    exact hj.team

theorem yielded_owns (h : Clear s i) {j : Iss} (hj : i.owns j j.s) : i.owns (yielded j) (yielded j).s := by
  unfold yielded
  split
  next hc =>
    refine owns_keeps hj ?_
    split
    next => exact ⟨fun _ => rfl, fun _ => rfl, fun _ => rfl⟩
    next => exact .refl _
  next hc => exact withG_owns h hj rfl (by rw [← hj.ctl]; simpa using hc) _ rfl rfl rfl rfl

theorem yield_does (h : Clear s i) (o : Op) : (yieldRule o).does i (ctlYield o s) := by
  refine owned_does h rfl (fun _ => yielded_owns h) (fun j _ _ _ => ?_)
  simp only [yieldRule, yielded]
  split <;> rfl

theorem nop_does (h : Clear s i) (o : Op) : (nopRule o).does i (ctlNop o s) :=
  owned_does h rfl (fun _ => id) (fun _ _ _ _ => rfl)

/-- The path of the agent, as its view has it. -/
theorem owns_path (h : Clear s i) {j : Iss} (hj : i.owns j j.s) : j.s.path i.ag = some j.p := by
  by_cases hc : i.ctl = true
  · obtain ⟨ag, -, hv⟩ := State.cur_view h.issuing
    obtain ⟨hag, -⟩ := State.view_thread hv hc
    obtain ⟨hC, hp⟩ := hj.ctx hc
    rw [hag]
    simp only [State.path, hC, Option.map_some, hp]
  · exact (hj.group (by simpa using hc)).2.1

/-- The path that the accounts of an issue have left is there already. -/
theorem Iss.issued_setPath (h : Clear s i) (o : Op) :
    (i.issued o).s.setPath i.ag (i.issued o).p = (i.issued o).s := by
  have hj := owns0 h o
  rw [(withPath_owns h hj rfl _ hj.pend hj.win hj.wait hj.mask).2]
  by_cases hc : i.ctl = true
  · simp [withPath, hc, Iss.issued, Iss.issuedC, Iss.issuedCtx, State.setCtx, Tbl.set_set]
  · have hG : (i.issuedGroup o).setPathAt i.ag (i.issuedPath o (i.G.issued + 1)) = i.issuedGroup o := by
      unfold Iss.issuedGroup
      cases i.ag <;> simp [Group.setPathAt, Function.comp_def]
    simp [withPath, hc, Iss.issued, Iss.issuedG, hG, State.setGroup_setGroup]

/-- The hints that steer nothing (R243). -/
theorem Steer.hint_none (t : Steer) {n : Nat} (line : Nat) (h : n = 0 ∨ n = 13 ∨ 16 ≤ n) : t.hint n line = t := by
  obtain rfl | rfl | h := h
  · rfl
  · rfl
  · obtain ⟨m, rfl⟩ := Nat.exists_eq_add_of_le' h
    rfl

theorem hinted_owns (h : Clear s i) (n : Nat) {j : Iss} (hj : i.owns j j.s) : i.owns (hinted n j) (hinted n j).s := by
  have hp : ∀ p, p.pend = [] → p.win = [] → p.wait = none → p.mask = i.p.mask → i.owns (withPath j p) (withPath j p).s :=
    fun p h1 h2 h3 h4 => (withPath_owns h hj rfl p h1 h2 h3 h4).1
  unfold hinted
  split_ifs
  · exact hp _ hj.pend hj.win hj.wait hj.mask
  · exact hp _ hj.pend hj.win hj.wait hj.mask
  · exact owns_keeps hj ⟨fun _ => rfl, fun _ => rfl, fun _ => rfl⟩
  · exact hj
  · exact hp _ hj.pend hj.win hj.wait hj.mask

theorem hint_does (h : Clear s i) (n : Nat) : (hintRule n).does i (ctlHint n s) := by
  refine own_rule h rfl (hinted_owns h n (owns0 h _)) (fun _ => ?_)
  have hj := owns0 h (hintRule n).op
  have hpath := owns_path h hj
  have hset : ∀ p, p.pend = [] → p.win = [] → p.wait = none → p.mask = i.p.mask →
      (i.issued (hintRule n).op).s.setPath i.ag p = (withPath (i.issued (hintRule n).op) p).s :=
    fun p h1 h2 h3 h4 => (withPath_owns h hj rfl p h1 h2 h3 h4).2
  have hself := Iss.issued_setPath h (hintRule n).op
  generalize i.issued (hintRule n).op = j at *
  have hag := hj.ag
  simp only [hag, hpath]
  refine congrArg (fun t => (Except.ok (Done.only t) : Except Stop Done)) (a₂ := (hinted n j).s) ?_
  split
  next => exact hset _ hj.pend hj.win hj.wait hj.mask
  next => exact hset _ hj.pend hj.win hj.wait hj.mask
  next => rfl
  next => rfl
  next h7 h12 h14 h15 =>
    by_cases h0 : n = 0 ∨ n = 13 ∨ 16 ≤ n
    · rw [Steer.hint_none _ _ h0, hinted, if_neg h7, if_neg h12, if_neg (not_or.2 ⟨h14, h15⟩), if_pos h0]
      exact hself
    · rw [hinted, if_neg h7, if_neg h12, if_neg (not_or.2 ⟨h14, h15⟩), if_neg h0]
      exact hset _ hj.pend hj.win hj.wait hj.mask

end Sys2Proof.Machine

section

open Sys2Proof Sys2Proof.Machine Sys2Proof.Safety Sys2Proof.Rules

/-- Settles O22, form by form: each body answers what its rule says (`owned_does`), by the window's and the code
capability's checks where it has them (`Iss.window_ok`, `Iss.codeCheck_ok`). -/
theorem controlFlowForms : Obligations.ControlFlowForms := by
  intro x r s i hx h
  cases x with
  | bra32 o => cases hx; exact bra_does h _ _
  | bra96 w => cases hx; exact bra_does h _ _
  | brc32 o => cases hx; exact brc_does h _ _ _ _
  | brc96 w => cases hx; exact brc_does h _ _ _ _
  | brx w => cases hx; exact brx_does h w
  | call32 o => cases hx; exact call_does h _ _ _
  | call96 w => cases hx; exact call_does h _ _ _
  | calli w => cases hx; exact calli_does h _ w
  | ret32 => cases hx; exact ret_does h _
  | ret64 w => cases hx; exact ret_does h _
  | winb32 o => cases hx; exact winb_does h _ rfl _ _ (fun _ => rfl)
  | winb64 w => cases hx; exact winb_does h _ rfl _ _ (fun j => by rw [Iss.sext_kVal]; rfl)
  | take w => cases hx; exact take_does h w
  | yield32 => cases hx; exact yield_does h _
  | yield64 w => cases hx; exact yield_does h _
  | nop32 => cases hx; exact nop_does h _
  | nop64 w => cases hx; exact nop_does h _
  | hint n => cases hx; exact hint_does h _
  | _ => cases hx

end

/-! PROOFS. The lane forms of rows 0x00 to 0x04 and 0x0B (spec/05_isa_control_integer.md, R103 to R111): the model's result
functions are the rules'. -/

namespace Sys2Proof.Machine

open Sys2Proof.Safety Sys2Proof.Rules

/-! A lane rule and the function that executes its form: one lemma for each shape. -/

/-- From every clear state of a group the function completes as the lane rule says, where the form is admitted and its
lookahead is 0. -/
def laneMeets (r : LaneRule) (f : State → Out1) : Prop :=
  ∀ s i, Clear s i → i.ctl = false → i.admits r.op r.ok → r.op.lookahead = 0 →
    laneDone s i (f s) r.op.bytes (i.active r.op) r.wd r.d (r.val i) 0

variable {o : Op} {w : Long} {ty : ITy → Bool} {satOk subOk : Bool} {tb : ITy → ITy}

/-- Rows 0x00 to 0x0F (R95). -/
theorem Op.lowRow (h : Nat.ble (o.maj + 1) 0x10 = true) : o.maj < 0x10 ∨ (o.maj = 0x20 ∧ o.f = 7) :=
  .inl (Nat.le_of_ble_eq_true h)

theorem two_meets {f g : ITy → Nat → Nat → Nat} (hm : Nat.ble (o.maj + 1) 0x10 = true)
    (e : ∀ a b, f (tyOf w) a b = g (tyOf w) a b) : laneMeets (two o w ty satOk g) (lane2 o w ty satOk f) :=
  fun _ _ h hc ha hla => two_done h hc ha hla (Op.lowRow hm) rfl e

theorem one_meets {f g : ITy → Nat → Nat} (hm : Nat.ble (o.maj + 1) 0x10 = true)
    (e : ∀ a, f (tyOf w) a = g (tyOf w) a) : laneMeets (one o w ty g) (lane1 o w ty f) :=
  fun _ _ h hc ha hla => one_done h hc ha hla (Op.lowRow hm) rfl e

theorem count_meets {f : Nat → Nat → Nat} (hm : Nat.ble (o.maj + 1) 0x10 = true) :
    laneMeets (count o w f) (laneCount1 o w f) :=
  fun _ _ h hc ha hla => count_done h hc ha hla (Op.lowRow hm) rfl

theorem shift_meets {f g : ITy → Nat → Nat → Nat} (hm : Nat.ble (o.maj + 1) 0x10 = true)
    (e : ∀ a b, f (tyOf w) a b = g (tyOf w) a b) : laneMeets (shift o w ty g) (laneShift o w ty f) :=
  fun _ _ h hc ha hla => shift_done h hc ha hla (Op.lowRow hm) rfl e

theorem three_meets {f g : ITy → Nat → Nat → Nat → Nat} (hm : Nat.ble (o.maj + 1) 0x10 = true)
    (e : ∀ a b c, f (tyOf w) a b c = g (tyOf w) a b c) :
    laneMeets (three o w ty satOk tb subOk g) (lane3 o w ty satOk tb subOk f) :=
  fun _ _ h hc ha hla => three_done h hc ha hla (Op.lowRow hm) rfl e

/-! The results that the rules write otherwise than the model (R105, R108). -/

theorem rMin_eq (t : ITy) (a b : Nat) : rMin t a b = smaller t a b := congrArg (wrap t.w) (min_def _ _)

theorem rMax_eq (t : ITy) (a b : Nat) : rMax t a b = larger t a b := congrArg (wrap t.w) (max_def _ _)

theorem rAbs_eq (t : ITy) (a : Nat) : rAbs t a = wrap t.w |t.val a| := by rw [rAbs, Int.abs_eq_natAbs]

/-- The overflow of a signed quotient, least value by −1 (R108). -/
theorem ITy.overflows_iff (t : ITy) (x y : Int) : (t.signed = true ∧ x = t.lo ∧ y = -1) ↔
    (t.signed = true ∧ x = -2 ^ (t.w - 1) ∧ y = -1) :=
  and_congr_right fun hs => by rw [ITy.lo, if_pos hs]

theorem rDivRem_quot (t : ITy) (a b : Nat) : (rDivRem t a b).1 = quot t a b := by
  simp only [rDivRem, quot, ITy.overflows_iff]
  by_cases h0 : t.val b = 0
  · simp only [h0, if_true]
  by_cases ho : t.signed = true ∧ t.val a = -2 ^ (t.w - 1) ∧ t.val b = -1
  · simp only [if_neg h0, if_pos ho]; rw [ho.2.1]
  · simp only [if_neg h0, if_neg ho]

theorem rDivRem_rem (t : ITy) (a b : Nat) : (rDivRem t a b).2 = rem t a b := by
  simp only [rDivRem, rem, ITy.overflows_iff, apply_ite Prod.snd]

/-- The rule of IMADW, as `arith` has it (R107). -/
def madwRule (w : Long) : LaneRule :=
  { op := Op.long 0x00 7 w, wd := 64, d := w.d.toNat
    val := fun i L => wrap 64 ((tyOf w).val (aL i w 32 L) * (tyOf w).val (bL i w (tyOf w) L) + (cL i w 64 L : Nat))
    ok := fun i => tyIs w (fun t => tyWide t && t.w = 32) && !w.sat && w.bsel != 2 && i.vOk 64 w.d.toNat &&
      i.aOk w 32 && i.bOk w 32 && i.vOk 64 w.c }

theorem madw_meets (w : Long) : laneMeets (madwRule w) (laneMadw (Op.long 0x00 7 w) w) := by
  intro s i h hc ha hla
  refine laneOp_done h hc ha (Iss.noPark ha (Op.lowRow rfl)) hla (xs := map3 (fun a b c => wrap 64 ((tyOf w).val a * (tyOf w).val b + (c : Int))) (i.aVals w 32) (i.bVals w (tyOf w))
    (i.vVals 64 w.c)) ?_ (by simp) (fun L hL => ?_)
  · simp only [Iss.issued_vResult, Iss.issued_active, Iss.issued_aVals i _ h.win, Iss.issued_bVals i _ h.win,
      Iss.issued_vVals]
    rfl
  · rw [map3_getD _ _ _ _ _ (by simpa using hL) (by simpa using hL) (by simpa using hL)]
    rfl

end Sys2Proof.Machine

section

open Sys2Proof Sys2Proof.Machine Sys2Proof.Safety Sys2Proof.Rules

/-- Settles O11, shape by shape (`two_meets`, `one_meets`, `three_meets`, `madw_meets`): the model's result function is the
rule's, or the rule's written otherwise. -/
theorem laneArithmetic : Obligations.LaneArithmetic := by
  intro x r s i hx
  suffices h : laneMeets r (exec x) from h s i
  cases x with
  | iadd32 | iadd64 | iaddUb | isub32 | isub64 | isubUb | imul32 | imul64 | imulUb | imulh32 | imulh64 =>
    cases hx; exact two_meets rfl (fun _ _ => rfl)
  | imad => cases hx; exact three_meets rfl (fun _ _ _ => rfl)
  | imadw w => cases hx; exact madw_meets w
  | idiv => cases hx; exact two_meets (f := fun t a b => (rDivRem t a b).1) rfl (rDivRem_quot _)
  | irem => cases hx; exact two_meets (f := fun t a b => (rDivRem t a b).2) rfl (rDivRem_rem _)
  | imin32 | imin64 => cases hx; exact two_meets rfl (rMin_eq _)
  | imax32 | imax64 => cases hx; exact two_meets rfl (rMax_eq _)
  | iabs32 | iabs64 => cases hx; exact one_meets rfl (rAbs_eq _)
  | ineg32 | ineg64 => cases hx; exact one_meets rfl (fun _ => rfl)
  | _ => cases hx

/-- Settles O12, shape by shape (`two_meets`, `one_meets`, `shift_meets`, `three_meets`, `count_meets`): the model's result
functions are the rule's. -/
theorem laneLogic : Obligations.LaneLogic := by
  intro x r s i hx
  suffices h : laneMeets r (exec x) from h s i
  cases x with
  | and32 | and64 | andUb | or32 | or64 | orUb | xor32 | xor64 | xorUb | andn32 | andn64 =>
    cases hx; exact two_meets rfl (fun _ _ => rfl)
  | not32 | not64 | brev32 | brev64 => cases hx; exact one_meets rfl (fun _ => rfl)
  | shl32 | shl64 | shlUb | shr32 | shr64 | shrUb | sar32 | sar64 | rot32 | rot64 | bfx =>
    cases hx; exact shift_meets rfl (fun _ _ => rfl)
  | shf | bfi | perm => cases hx; exact three_meets rfl (fun _ _ _ => rfl)
  | popc32 | popc64 | clz32 | clz64 | ctz32 | ctz64 => cases hx; exact count_meets rfl
  | _ => cases hx

end

/-! PROOFS. LID (spec/06_isa_vector_float.md, R161): a form whose rule admits what the model refuses. -/

namespace Sys2Proof.Machine

open Sys2Proof.Safety Sys2Proof.Rules

/-- LID v0, unguarded, whose A selector is 0b01. -/
def lidSelected : Long := ⟨0, 0, 0, 0, 1, 0, 0, 0, 0, 7, 0, none⟩

/-- What its rule says of it (R161). -/
def lidRule : LaneRule := moves.lid (Op.long 0x20 7 lidSelected) 0 0

/-- The state in which that LID has been refused. -/
def lidRefused : State :=
  voteState.takeTrap (.path 0 0) (Trap.of cILLEGAL 0 0 (voteView.aim (Op.long 0x20 7 lidSelected)).lanes)

/-- A LID is asked for the A selector 0b00 (`gwLid`). -/
theorem exec_lid (w : Long) : ∃ body, ∀ s, exec (.lid64 w) s = runInstr (Op.long 0x20 7 w)
    (fun i => w.asel.toNat == 0 && w.a.toNat % 4 != 3 && i.vOk 32 w.d.toNat) body s := ⟨_, fun _ => rfl⟩

theorem exec_lidSelected : exec (.lid64 lidSelected) voteState = .next lidRefused := by
  obtain ⟨body, hb⟩ := exec_lid lidSelected
  rw [hb]
  exact runInstr_refused voteState_clear (fun h => absurd h.2.2.2 (by decide)) _

/-- Its rule admits it: it puts no condition on the A selector. -/
theorem lidRule_admits : voteView.admits lidRule.op lidRule.ok := ⟨rfl, rfl, rfl, by decide⟩

/-- The refused LID leaves its path at its pc. -/
theorem lidRefused_pc : ∀ j, lidRefused.view (.path 0 0) = some j → j.p.pc = 0 := by
  intro j hj
  have h : (lidRefused.view (.path 0 0)).all (fun j => j.p.pc == 0) = true := by decide +kernel
  rw [hj] at h
  exact eq_of_beq h

end Sys2Proof.Machine

section

open Sys2Proof Sys2Proof.Machine Sys2Proof.Safety Sys2Proof.Rules

/-- Refutes O13: a LID with the A selector 0b01. Its rule puts no condition on that selector (`lidRule_admits`); the model
refuses all but 0b00 (`exec_lidSelected`), so the instruction takes ILLEGAL and its path does not move on. -/
theorem not_laneMoves : ¬ Obligations.LaneMoves := by
  intro h
  obtain ⟨t, j, ht, hv, hpc, -⟩ :=
    h (.lid64 lidSelected) lidRule voteState voteView rfl voteState_clear rfl lidRule_admits (by decide)
  cases exec_lidSelected.symm.trans ht
  rw [lidRefused_pc j hv] at hpc
  exact absurd hpc (by decide)

end

/-! PROOFS. Comparisons, the carry addition and the predicate instructions (spec/05_isa_control_integer.md, R106, R112,
R116): lists over the lanes, and what each form leaves. -/

namespace Sys2Proof.Machine

open Sys2Proof.Safety Sys2Proof.Rules

variable {s : State} {i : Iss} {o : Op} {w : Long}

/-- An instruction that checks the poison of what it reads and then answers results, with the checks and the results of
its rule. -/
theorem results_does {ok legal : Iss → Bool} {m : Iss → LaneMask} {regs : Iss → List SrcReg}
    {ws res : Iss → List RegWrite} (h : Clear s i) (hok : ∀ j, legal j = ok j) (hws : ∀ j, res j = ws j) :
    ({ op := o, ok := ok, ws := ws } : Rule).does i (runInstr o legal (fun j => do
      j.ecc (m j) (regs j)
      .ok (j.results (res j))) s) := by
  obtain rfl := funext hok
  refine rule_results h rfl rfl (fun _ => ?_)
  simp only [Iss.issued_ecc i _ h.poison, Bind.bind, Except.bind, hws]
  rfl

/-- An instruction of lanes with the checks and the results of its rule. -/
theorem laneOp_does {ok legal : Iss → Bool} {regs : List SrcReg} {ws res : Iss → List RegWrite} (h : Clear s i)
    (hok : ∀ j, legal j = ok j) (hws : ∀ j, res j = ws j) :
    ({ op := o, ok := ok, ws := ws } : Rule).does i (laneOp o legal regs res s) :=
  results_does h hok hws

/-! Lists of one value a lane. -/

/-- A list of 96 values, lane by lane. -/
theorem list_eq_lanes {α : Type} {l : List α} {f : Nat → α} (d : α) (hl : l.length = 96)
    (hf : ∀ L, L < 96 → l.getD L d = f L) : l = (List.range 96).map f := by
  refine List.ext_getElem (by simp [hl]) (fun L h1 _ => ?_)
  rw [List.getElem_map, List.getElem_range, ← hf L (by omega), getD_eq_getElem d h1]

/-- The lanes' predicate bits beside two operands. -/
theorem map_zip3_lanes {α : Type} {m : LaneMask} {xs ys : List Nat} (f : Bool → Nat → Nat → α) (hx : xs.length = 96)
    (hy : ys.length = 96) : ((laneBits m).zip (xs.zip ys)).map (fun (q, a, b) => f q a b) =
      (List.range 96).map (fun L => f (m.getLsbD L) (xs.getD L 0) (ys.getD L 0)) := by
  refine list_eq_lanes (f false 0 0) (by simp [hx, hy]) (fun L hL => ?_)
  rw [map_getD _ _ _ (false, 0, 0) _ (by simpa [hx, hy] using hL),
    zip_getD _ _ _ _ _ (by simpa using hL) (by simpa [hx, hy] using hL),
    zip_getD _ _ _ _ _ (hx ▸ hL) (hy ▸ hL), laneBits_getD _ _ hL]

/-- The lanes' bits of three predicates. -/
theorem map_laneBits3 {α : Type} (a b c : LaneMask) (f : Bool → Bool → Bool → α) :
    ((laneBits a).zip ((laneBits b).zip (laneBits c))).map (fun (x, y, z) => f x y z) =
      (List.range 96).map (fun L => f (a.getLsbD L) (b.getLsbD L) (c.getLsbD L)) := by
  refine list_eq_lanes (f false false false) (by simp) (fun L hL => ?_)
  rw [map_getD _ _ _ (false, false, false) _ (by simpa using hL),
    zip_getD _ _ _ _ _ (by simpa using hL) (by simpa using hL),
    zip_getD _ _ _ _ _ (by simpa using hL) (by simpa using hL), laneBits_getD _ _ hL, laneBits_getD _ _ hL,
    laneBits_getD _ _ hL]

/-! Comparison (R112). -/

/-- A combination is the rule's, lane by lane. -/
theorem combine_lanes (w : Long) (i : Iss) {cs : List Bool} (hl : cs.length = 96) :
    combine w i cs = (List.range 96).map (fun L => comb w i L (cs.getD L false)) := by
  refine list_eq_lanes (comb w i 96 false) (by simp [combine, hl]) (fun L hL => ?_)
  unfold combine
  rw [map_getD _ _ _ (false, false) _ (by simpa [hl] using hL), zip_getD _ _ _ _ _ (hl ▸ hL) (by simpa using hL),
    laneBits_getD _ _ hL]
  rfl

/-- The compared and combined outcome is the rule's, lane by lane. -/
theorem Iss.compare_lanes (i : Iss) (w : Long) : i.compare w = (List.range 96).map (outcome w i) := by
  unfold Iss.compare
  rw [combine_lanes _ _ (by simp)]
  refine List.map_congr_left (fun L hL => ?_)
  have hL : L < 96 := by simpa using hL
  rw [map_getD _ _ _ (0, 0) _ (by simpa using hL), zip_getD _ _ _ _ _ (by simpa using hL) (by simpa using hL)]
  rfl

/-- The checks of a comparison, in the rule's order (R94, R112). -/
theorem cmpOk_eq (w : Long) (i : Iss) (d : Bool) : (tyIs w tySN && w.bsel != 2 && Long.cmpOf w < 6 && d &&
    i.aOk w (tyOf w).w && i.bOk w (tyOf w).w) = (cmpOk w i && d) := by
  unfold cmpOk Long.cmpOf
  cases d <;> simp

/-- The rules of ICMP and ISET, as `preds` has them. -/
def icmpRule (w : Long) : Rule :=
  { op := Op.long 0x02 0 w, ok := cmpOk w
    ws := fun i => [.q (w.d.toNat % 8) (i.active (Op.long 0x02 0 w)) (lanesAt (outcome w i))] }
def isetRule (w : Long) : Rule :=
  { op := Op.long 0x01 7 w, ok := fun i => cmpOk w i && i.vOk 32 w.d.toNat
    ws := fun i => i.vResult 32 w.d.toNat (i.active (Op.long 0x01 7 w))
      (lanewise (fun L => if outcome w i L then 0xFFFFFFFF else 0)) }

theorem icmp_does (h : Clear s i) (w : Long) : (icmpRule w).does i (execIcmp w s) :=
  laneOp_does h (fun j => (cmpOk_eq w j true).trans (Bool.and_true _)) (fun j => by
    simp only [Iss.compare_lanes]
    rfl)

theorem iset_does (h : Clear s i) (w : Long) : (isetRule w).does i (execIset w s) :=
  laneOp_does h (fun j => cmpOk_eq w j _) (fun j => by
    simp only [Iss.compare_lanes, Iss.setOut, List.map_map]
    rfl)

/-! IADC (R106). -/

/-- The sums of IADC, lane by lane. -/
theorem carrySums_lanes (i : Iss) (w : Long) :
    ((laneBits (i.G.pred w.sc.toNat)).zip ((i.aVals w (tyOf w).w).zip (i.bVals w (tyOf w)))).map
      (fun (c, a, b) => a + b + (if c then 1 else 0)) = (List.range 96).map (carrySum w i) :=
  map_zip3_lanes (fun c a b => a + b + (if c then 1 else 0)) (by simp) (by simp)

theorem adc_does (h : Clear s i) (o : Op) (w : Long) : (adc o w).does i (laneAdc o w s) :=
  laneOp_does h (fun _ => rfl) (fun j => by
    simp only [carrySums_lanes, Iss.laneOut, List.map_map]
    rfl)

/-! Predicate instructions (R116). -/

/-- The rule of PLOP, as `preds` has it. -/
def plopRule (w : Long) : Rule :=
  { op := Op.long 0x0E 2 w, ok := fun _ => w.asel == 0 && w.bsel == 0
    ws := fun i => [.q (w.d.toNat % 8) (i.active (Op.long 0x0E 2 w)) (lanesAt (fun L =>
      (bitsOf w.imm.toNat 12 5).testBit ((if qL i (w.a.toNat % 8) L then 4 else 0) +
        (if qL i (w.b.toNat % 8) L then 2 else 0) + (if qL i (bitsOf w.imm.toNat 4 2) L then 1 else 0))))] }

theorem plop_does (h : Clear s i) (w : Long) : (plopRule w).does i (execPlop w s) :=
  laneOp_does h (fun _ => rfl) (fun j => by
    rw [map_laneBits3 (f := fun a b c => (bitsOf w.imm.toNat 12 5).testBit
      ((if a then 4 else 0) + (if b then 2 else 0) + (if c then 1 else 0)))]
    rfl)

theorem p2k_does (h : Clear s i) (o : Op) (w : Long) : (p2k o w).does i (predP2k o w s) :=
  laneOp_does h (fun _ => rfl) (fun j => by simp [kResult])

theorem k2p_does (h : Clear s i) (o : Op) (w : Long) : (k2p o w).does i (predK2p o w s) :=
  laneOp_does h (fun _ => rfl) (fun j => by
    have hb : (j.bVals w tN32).zipIdx.map (fun (x, l) => x.testBit (l % 32)) =
        (List.range 96).map (fun L => (bL j w tN32 L).testBit (L % 32)) :=
      list_eq_lanes false (by simp) (fun L hL => by
        simp [bL, List.getD_eq_getElem?_getD, hL])
    rw [hb]
    rfl)

theorem pmov_does (h : Clear s i) (o : Op) (w : Long) : (pmov o w).does i (predMov o w s) :=
  laneOp_does h (fun _ => rfl) (fun j => by
    rw [laneBits, List.map_map]
    rfl)

end Sys2Proof.Machine

section

open Sys2Proof Sys2Proof.Machine Sys2Proof.Safety Sys2Proof.Rules

/-- Settles O14: each form is an instruction of lanes with its rule's checks and results (`laneOp_does`); the lists that
the model builds are the rule's, lane by lane (`Iss.compare_lanes`, `carrySums_lanes`, `map_laneBits3`). -/
theorem predicateForms : Obligations.PredicateForms := by
  intro x r s i hx h
  cases x with
  | icmp w => cases hx; exact icmp_does h w
  | iset w => cases hx; exact iset_does h w
  | iadc32 | iadc64 => cases hx; exact adc_does h _ _
  | plop w => cases hx; exact plop_does h w
  | p2k32 | p2k64 => cases hx; exact p2k_does h _ _
  | k2p32 | k2p64 => cases hx; exact k2p_does h _ _
  | pmov32 | pmov64 => cases hx; exact pmov_does h _ _
  | _ => cases hx

end

/-! PROOFS. The uniform instructions (spec/05_isa_control_integer.md, R115): one lemma for each shape. -/

namespace Sys2Proof.Machine

open Sys2Proof.Safety Sys2Proof.Rules

variable {s : State} {i : Iss} {o : Op} {w : Long} {ty : ITy → Bool} {satOk : Bool}

/-- A uniform instruction with the checks and the results of its rule. -/
theorem uniOp_does {ok legal : Iss → Bool} {regs : Iss → List SrcReg} {ws res : Iss → List RegWrite} (h : Clear s i)
    (hok : ∀ j, (j.uniSel o w && legal j) = ok j) (hws : ∀ j, res j = ws j) :
    ({ op := o, ok := ok, ws := ws } : Rule).does i (uniOp o w legal regs res s) :=
  results_does h hok hws

theorem u2_does {f g : ITy → Nat → Nat → Nat} (h : Clear s i) (e : ∀ a b, f (tyOf w) a b = g (tyOf w) a b) :
    (u2 o w ty satOk g).does i (uni2 o w ty satOk f s) :=
  uniOp_does h (fun _ => rfl) (fun j => congrArg (j.dResult (tyOf w) w.d.toNat) (e _ _))

theorem uShift_does {f g : ITy → Nat → Nat → Nat} (h : Clear s i) (e : ∀ a b, f (tyOf w) a b = g (tyOf w) a b) :
    (uShift o w ty g).does i (uniShift o w ty f s) :=
  uniOp_does h (fun _ => rfl) (fun j => congrArg (j.dResult (tyOf w) w.d.toNat) (e _ _))

theorem uCount_does {f : Nat → Nat → Nat} (h : Clear s i) : (uCount o w f).does i (uniCount o w f s) :=
  uniOp_does h (fun _ => rfl) (fun _ => rfl)

theorem u3_does {f g : ITy → Nat → Nat → Nat → Nat} (h : Clear s i)
    (e : ∀ a b c, f (tyOf w) a b c = g (tyOf w) a b c) : (u3 o w ty satOk g).does i (uni3 o w ty satOk f s) :=
  uniOp_does h (fun _ => rfl) (fun j => congrArg (j.dResult (tyOf w) w.d.toNat) (e _ _ _))

/-- UMOV of 128 bits names a quad or a pair; of less, a register or a register's worth of an immediate. -/
theorem uMov_does (h : Clear s i) : (uMov o w).does i (uniMov o w s) := by
  unfold uMov uniMov
  by_cases hw : (tyOf w).w = 128
  · simp only [hw, if_true]
    exact uniOp_does h (fun _ => rfl) (fun _ => rfl)
  · simp only [hw, if_false]
    exact uniOp_does h (fun _ => rfl) (fun _ => rfl)

/-- The rule of UCMP, as `uniform` has it (R112, R115). -/
def ucmpRule (w : Long) : Rule :=
  { op := Op.long 0x0D 5 w
    ok := fun i => i.uniSel (Op.long 0x0D 5 w) w && (tyIs w tySN && w.bsel != 2 && bitsOf w.imm.toNat 12 10 < 6 &&
      i.dOnce (tyOf w).w w.a.toNat && i.uniB (Op.long 0x0D 5 w) w (tyOf w).w)
    ws := fun i => i.dResult tN32 w.d.toNat (if cmp (bitsOf w.imm.toNat 12 10) ((tyOf w).val (i.aVal1 w (tyOf w).w))
      ((tyOf w).val (i.uniBVal (Op.long 0x0D 5 w) w (tyOf w))) then 1 else 0) }

theorem ucmp_does (h : Clear s i) (w : Long) : (ucmpRule w).does i (execUcmp w s) :=
  uniOp_does h (fun _ => rfl) (fun _ => rfl)

end Sys2Proof.Machine

section

open Sys2Proof Sys2Proof.Machine Sys2Proof.Safety Sys2Proof.Rules

/-- Settles O15, shape by shape (`u2_does`, `uShift_does`, `uCount_does`, `u3_does`, `uMov_does`, `ucmp_does`): the model's
result function is the rule's, or the rule's written otherwise. -/
theorem uniformForms : Obligations.UniformForms := by
  intro x r s i hx h
  cases x with
  | uadd32 | uadd64 | usub32 | usub64 | umul32 | umul64 | uand32 | uand64 | uor32 | uor64 | uxor32 | uxor64 =>
    cases hx; exact u2_does h (fun _ _ => rfl)
  | umin32 | umin64 => cases hx; exact u2_does h (rMin_eq _)
  | umax32 | umax64 => cases hx; exact u2_does h (rMax_eq _)
  | umad => cases hx; exact u3_does h (fun _ _ _ => rfl)
  | usel => cases hx; exact u3_does (f := fun _ a b c => if c ≠ 0 then a else b) h (fun a b c => ite_not (c = 0) a b)
  | umov32 | umov64 => cases hx; exact uMov_does h
  | ushl32 | ushl64 | ushr32 | ushr64 | usar32 | usar64 | ubfx => cases hx; exact uShift_does h (fun _ _ => rfl)
  | ucmp w => cases hx; exact ucmp_does h w
  | upopc32 | upopc64 | uclz32 | uclz64 => cases hx; exact uCount_does h
  | _ => cases hx

end

/-! PROOFS. What the operations on a group's banks and stack leave as it was: that single-step is armed, and the lanes
that it was launched with (R121 to R127, R255, R335). -/

namespace Sys2Proof.Machine

/-- Whether single-step is armed and the lanes of the launch are in H as in G. -/
structure Group.keepsLaunch (G H : Group) : Prop where
  step : H.step = G.step
  launched : H.launched = G.launched

namespace Group.keepsLaunch

theorem refl (G : Group) : G.keepsLaunch G := ⟨rfl, rfl⟩

theorem trans {G H K : Group} (h : G.keepsLaunch H) (h' : H.keepsLaunch K) : G.keepsLaunch K :=
  ⟨h'.step.trans h.step, h'.launched.trans h.launched⟩

theorem foldl {α : Type} {f : Group → α → Group} (hf : ∀ (G : Group) x, G.keepsLaunch (f G x)) (l : List α) (G : Group) :
    G.keepsLaunch (l.foldl f G) := by
  induction l generalizing G with
  | nil => exact .refl G
  | cons x l ih => exact (hf G x).trans (ih _)

/-- A fold over a group beside a path. -/
theorem foldlFst {α : Type} {f : Group × Path → α → Group × Path} (hf : ∀ (st : Group × Path) x, st.1.keepsLaunch (f st x).1)
    (l : List α) (st : Group × Path) : st.1.keepsLaunch (l.foldl f st).1 := by
  induction l generalizing st with
  | nil => exact .refl st.1
  | cons x l ih => exact (hf st x).trans (ih _)

/-! Banks and results (R32, R91). -/

theorem write (G : Group) (w : RegWrite) : G.keepsLaunch (G.write w) := by
  obtain ⟨hstep, -, -, -, -, -, -, -, -, -, -, -, -, hl, -⟩ := G.write_frame w
  exact ⟨hstep, hl⟩

theorem setK (G : Group) (n : Nat) (x : Word) : G.keepsLaunch (G.setK n x) := write G (.k n x)

theorem putWrite (age : Nat) (st : Group × Path) (w : RegWrite) : st.1.keepsLaunch (putWrite age st w).1 := by
  obtain ⟨G, p⟩ := st
  have hw := write G w
  cases w with
  | k n x =>
    simp only [Machine.putWrite]
    split
    next => exact .refl G
    next =>
      split
      next => exact hw
      next => exact .refl G
  | ktag quad t =>
    simp only [Machine.putWrite]
    split
    next => exact hw
    next => exact .refl G
  | _ => exact hw

theorem raise (G : Group) (p : Path) (age fl : Nat) : G.keepsLaunch (G.raise p age fl).1 := by
  unfold Group.raise
  split <;> exact ⟨rfl, rfl⟩

theorem landOne (st : Group × Path) (q : Pending) : st.1.keepsLaunch (landOne st q).1 :=
  (foldlFst (putWrite _) _ st).trans (raise _ _ _ _)

theorem settle (which : Pending → Bool) (st : Group × Path) : st.1.keepsLaunch (settle which st).1 :=
  foldlFst landOne _ (st.1, { st.2 with pend := st.2.pend.filter (fun q => !which q) })

theorem drainWin (G : Group) (w : List WinEntry) : G.keepsLaunch (G.drainWin w) :=
  (foldl (fun _ _ => write _ _) _ G).trans (foldl (fun _ _ => write _ _) _ _)

theorem quiet (G : Group) (p : Path) : G.keepsLaunch (G.quiet p).1 :=
  (settle (·.ready) (G, p)).trans (drainWin _ _)

theorem quietOne (G : Group) (ix : Nat) : G.keepsLaunch (G.quietOne ix) := by
  unfold Group.quietOne
  split
  next p _ => exact ⟨(quiet G p).step, (quiet G p).launched⟩
  next => exact .refl G

theorem quietIn (G : Group) (ixs : List Nat) : G.keepsLaunch (G.quietIn ixs) := foldl quietOne _ G

theorem quietAll (G : Group) : G.keepsLaunch G.quietAll := by
  unfold Group.quietAll
  dsimp only
  split
  next h _ =>
    have hq := (quietIn G (List.range G.stack.length)).trans (quiet _ h.path)
    exact ⟨hq.step, hq.launched⟩
  next => exact quietIn G _

/-! The stack of paths (R121 to R124). -/

theorem withStack (G : Group) (st : List Path) : G.keepsLaunch { G with stack := st } := ⟨rfl, rfl⟩

theorem removeAt (G : Group) (ix : Nat) : G.keepsLaunch (G.removeAt ix) := by
  unfold Group.removeAt
  split
  next => exact .refl G
  next p _ => exact ⟨(quiet G p).step, (quiet G p).launched⟩

theorem removeAll (G : Group) (ixs : List Nat) : G.keepsLaunch (G.removeAll ixs) :=
  (quietIn G ixs).trans (foldl removeAt _ _)

theorem mergeCheck (fuel : Nat) (G : Group) (c : Nat) : G.keepsLaunch (mergeCheck fuel G c) := by
  induction fuel generalizing G c with
  | zero => exact .refl G
  | succ fuel ih =>
    unfold Machine.mergeCheck
    dsimp only
    split
    next => exact .refl G
    next pc _ =>
      have hkids := removeAll G (childrenOf G.stack c)
      have hgone := hkids.trans (removeAt _ c)
      split
      next => exact .refl G
      next =>
        split
        next =>
          split
          next =>
            split
            next => exact hgone.trans (ih _ _)
            next => exact hgone
          next => exact hkids.trans (withStack _ _)
        next => exact .refl G

theorem dropEmpty (G : Group) (ix : Nat) (par : Option Nat) : G.keepsLaunch (G.dropEmpty ix par) := by
  unfold Group.dropEmpty
  cases par with
  | none => exact (removeAt G ix).trans (withStack _ _)
  | some c => exact ((removeAt G ix).trans (mergeCheck _ _ c)).trans (withStack _ _)

theorem purge (G : Group) : G.keepsLaunch G.purge :=
  ((removeAll G _).trans (foldl (mergeCheck 33) _ _)).trans (withStack _ _)

/-! Parked operations (R254, R255). -/

theorem mergePair {G H : Group} (h : mergePair G = some H) : G.keepsLaunch H := by
  unfold Machine.mergePair at h
  dsimp only at h
  split at h
  next => cases h
  next i j _ =>
    split at h
    next => cases h; exact (quietIn G [i, j]).trans (withStack _ _)
    next => cases h

theorem mergePairs (n : Nat) (G : Group) : G.keepsLaunch (mergePairs n G) := by
  induction n generalizing G with
  | zero => exact .refl G
  | succ n ih =>
    unfold Machine.mergePairs
    split
    next H hH => exact (mergePair hH).trans (ih H)
    next => exact .refl G

theorem resolve (G : Group) : G.keepsLaunch G.resolve := by
  unfold Group.resolve
  dsimp only
  split
  next => exact withStack G _
  next => exact ((withStack G _).trans (mergePairs 32 _)).trans (withStack _ _)

theorem tidied (G : Group) : G.keepsLaunch G.tidied := by
  unfold Group.tidied
  split
  next => exact .refl G
  next => exact (purge G).trans (resolve _)

theorem remasked (G : Group) (old new : LaneMask) : G.keepsLaunch (G.remasked old new) := by
  unfold Group.remasked
  split
  next => exact .refl G
  next => exact (withStack G _).trans (tidied _)

/-! The span of rows (R334). -/

theorem fillQuad (s : State) (G : Group) (c : SpanCmd) (quad : Nat) : G.keepsLaunch (s.fillQuad G c quad) :=
  ⟨(foldl (fun _ _ => ⟨rfl, rfl⟩) (List.range 4) G).step, (foldl (fun _ _ => ⟨rfl, rfl⟩) (List.range 4) G).launched⟩

theorem moveSpan (s : State) (G : Group) (c : SpanCmd) : G.keepsLaunch (s.moveSpan G c).2 := by
  unfold State.moveSpan
  dsimp only
  exact ⟨(foldl (fun _ _ => fillQuad _ _ c _) _ _).step, (foldl (fun _ _ => fillQuad _ _ c _) _ _).launched⟩

end Group.keepsLaunch

end Sys2Proof.Machine

/-! PROOFS. The forms that change which entries a group has (spec/05_isa_control_integer.md, R121 to R126;
spec/08_isa_engines_system.md, R224, R225, R334): BRD, JOIN, EXIT, RTT and TRAP. -/

namespace Sys2Proof.Machine

open Sys2Proof.Safety Sys2Proof.Rules

variable {s : State} {i : Iss} {o : Op} {w : Long}

/-- An instruction whose body has placed the path leaves the state that the body answers, where single-step is not
armed (R335). -/
theorem runInstr_moved (h : Clear s i) {legal : Iss → Bool} {body : Body} (ha : i.admits o legal)
    (hp : i.mustPark o = none) {t : State} (hb : body (i.issued o) = .ok { Done.only t with moved := true })
    (ht : i.ctl = false → ∃ G, t.group i.id = some G ∧ G.step = false) : runInstr o legal body s = .next t := by
  simp only [runInstr, h.issuing, Iss.begin_issued h ha hp, hb, Iss.close, Iss.finish, if_true, Iss.issued_ctl]
  by_cases hc : i.ctl = true
  · rw [if_pos hc]
    rfl
  · obtain ⟨G, hG, hstep⟩ := ht (by simpa using hc)
    simp [hc, Done.only, State.stepStop, hG, hstep]

/-- The group of an instruction, its issue accounted: single-step is not armed. -/
theorem Iss.issued_step (h : Clear s i) (hc : i.ctl = false) (o : Op) : (i.issued o).G.step = false := by
  rw [Iss.issued_group i o hc]
  exact (Iss.issuedGroup_step i o).trans h.single.1

/-- The state after a change of the group, its next issuer following. -/
theorem group_followed (t : State) (g : Nat) (G : Group) : ((t.setGroup g G).follow g).group g = some G :=
  (State.group_withCur _ _ g).trans (State.group_setGroup _ _ _)

/-- The same for a change that leaves single-step as it is. -/
theorem followed_unarmed (h : Clear s i) (hc : i.ctl = false) {G : Group} (hG : (i.issued o).G.keepsLaunch G) (t : State) :
    ∃ H, ((t.setGroup (i.issued o).id G).follow (i.issued o).id).group i.id = some H ∧ H.step = false := by
  rw [Iss.issued_id]
  exact ⟨G, group_followed t i.id G, hG.step.trans (Iss.issued_step h hc o)⟩

/-- The path of a group's instruction, its issue accounted, owes the banks nothing (R93). -/
theorem Iss.issued_idle (i : Iss) (hc : i.ctl = false) (o : Op) :
    (i.issued o).p.pend = [] ∧ (i.issued o).p.win = [] := by
  rw [Iss.issued_group i o hc]
  exact ⟨rfl, rfl⟩

/-- The agent of a path is of the group stream. -/
theorem Iss.ctl_of_path (h : Clear s i) {g ix : Nat} (hag : i.ag = .path g ix) : i.ctl = false := by
  obtain ⟨ag, -, hv⟩ := State.cur_view h.issuing
  obtain rfl := (State.view_self hv).2.1.symm.trans hag
  obtain ⟨G, T, p, -, -, -, rfl⟩ := State.view_path hv
  rfl

/-! BRD (R122). -/

/-- The lanes that a BRD sends along its branch. -/
theorem brdTaken_eq (w : Long) (j : Iss) : j.p.mask &&& (if w.a.getLsbD 3 then ~~~(j.G.pred (w.a.toNat % 8))
    else j.G.pred (w.a.toNat % 8)) = brdTaken w j := by
  refine mask_ext _ _ (fun L hL => ?_)
  rw [brdTaken, lanesAt_getLsbD _ _ hL, BitVec.getLsbD_and]
  have hbit : bitAt w.a.toNat 3 = w.a.getLsbD 3 := rfl
  rw [hbit, qL]
  cases w.a.getLsbD 3 <;> simp [hL]

theorem mergeSort_pair {α : Type} (le : α → α → Bool) (x y : α) :
    [x, y].mergeSort le = if le x y then [x, y] else [y, x] := by
  simp [List.mergeSort, List.MergeSort.Internal.splitInTwo, List.merge]

/-- Two arms without the empty ones, in the order of their first lanes (R122). -/
theorem arms_sorted {α : Type} (f : LaneMask × Word64 → α) {T N : LaneMask} (hne : T = 0 → N ≠ 0) (a b : Word64) :
    (([(T, a), (N, b)].filter (fun x => x.1 != 0)).mergeSort (fun x y => firstLane x.1 ≤ firstLane y.1)).map f =
      if T = 0 then [f (N, b)] else if N = 0 then [f (T, a)]
      else if firstLane T ≤ firstLane N then [f (T, a), f (N, b)] else [f (N, b), f (T, a)] := by
  simp only [List.filter_cons, List.filter_nil, bne_iff_ne]
  by_cases hT : T = 0
  · simp only [hT, ne_eq, not_true_eq_false, if_false, if_pos (hne hT), List.mergeSort_singleton, if_true, List.map]
  by_cases hN : N = 0
  · simp only [hT, hN, ne_eq, not_true_eq_false, not_false_eq_true, if_false, if_true, List.mergeSort_singleton, List.map]
  simp only [hT, hN, ne_eq, not_false_eq_true, if_true, if_false, mergeSort_pair, decide_eq_true_eq]
  split <;> rfl

/-- The arms of a BRD that have a lane, each with its pc, lower first active lane first (R122), -/
def brdOrder (w : Long) (j : Iss) : List (LaneMask × Word64) :=
  ([(brdTaken w j, words j.p.pc (sext 32 w.litNat)), (j.p.mask &&& ~~~brdTaken w j, j.p.pc + 12)].filter
    (fun x => x.1 != 0)).mergeSort (fun x y => firstLane x.1 ≤ firstLane y.1)
/-- and the entry of one. -/
def armOf (j : Iss) (x : LaneMask × Word64) : Path :=
  { Path.fresh .defer x.2 x.1 j.p.code with
    crit := j.p.crit, spin := j.p.spin, steer := j.p.steer.after true false }

theorem brdOrder_arms (w : Long) (j : Iss) (hm : j.p.mask ≠ 0) : (brdOrder w j).map (armOf j) = brdArms w j := by
  refine arms_sorted (armOf j) (fun hT => ?_) _ _
  rw [hT, show ~~~(0 : LaneMask) = BitVec.allOnes 96 from rfl, BitVec.and_allOnes]
  exact hm

theorem brd_does (h : Clear s i) (o : Op) (w : Long) : (brd o w).does i (ctlBrd o w s) := by
  intro ha hp ⟨⟨ix, hag⟩, hrpc, hroom⟩
  simp only [brd] at ha hp hag hrpc hroom ⊢
  have hc := Iss.ctl_of_path h ((Iss.issued_ag i o).symm.trans hag)
  simp only [hag]
  refine runInstr_moved h ha hp ?_ (fun hc => followed_unarmed h hc (.trans (.withStack _ _) (.resolve _)) _)
  obtain ⟨hpend, hwin⟩ := Iss.issued_idle i hc o
  have hm : (i.issued o).p.mask ≠ 0 := by rw [Iss.issued_mask]; exact h.mask
  have hecc := Iss.issued_ecc i o h.poison (i.issued o).p.mask [.q (w.a.toNat % 8)]
  generalize i.issued o = j at *
  have harms := brdOrder_arms w j hm
  have hno : ¬(words j.p.pc (sext 13 w.imm.toNat) = 0 ∨ 32 < j.G.stack.length + (brdOrder w j).length) := by
    rw [← harms, List.length_map] at hroom
    exact not_or.2 ⟨hrpc, Nat.not_lt.2 hroom⟩
  simp only [hag, brdTaken_eq, hecc, Group.quiet_idle j.G hpend hwin]
  refine (if_neg hno).trans ?_
  rw [brdStack, ← harms]
  rfl

/-! JOIN (R123). -/

/-- The accounts of an issue leave every entry's parent as it was (R121). -/
theorem parentIx_issued (h : Clear s i) {g ix : Nat} (hag : i.ag = .path g ix) :
    parentIx (i.issued o).G.stack ix = parentIx i.G.stack ix := by
  have hc := Iss.ctl_of_path h hag
  obtain ⟨ag, -, hv⟩ := State.cur_view h.issuing
  obtain rfl := (State.view_self hv).2.1.symm.trans hag
  obtain ⟨G, T, p, -, hp, -, rfl⟩ := State.view_path hv
  rw [Iss.issued_group _ o hc]
  refine parentIx_congr (List.ext_getElem? fun j => ?_) ix
  obtain ⟨hlt, rfl⟩ := List.getElem?_eq_some_iff.1 hp
  show ((G.stack.set ix _).map Path.shape)[j]? = (G.stack.map Path.shape)[j]?
  rw [List.getElem?_map, List.getElem?_map, List.getElem?_set]
  split
  · subst ix
    simp only [hlt, List.getElem?_eq_getElem, Option.map_some]
    rfl
  · rfl

/-- The group once its entry ix has parked at a JOIN and the merge check of its parent c has run. -/
def joined (j : Iss) (ix c : Nat) : Group :=
  let G := mergeCheck 33 { j.G with stack := j.G.stack.set ix { j.p with kind := .park, parkAt := .join } } c
  { G with stack := select G.stack }

theorem joined_keepsLaunch (j : Iss) (ix c : Nat) : j.G.keepsLaunch (joined j ix c) :=
  ((Group.keepsLaunch.withStack _ _).trans (.mergeCheck _ _ _)).trans (.withStack _ _)

theorem join_after {g ix c : Nat} (hag : (i.issued o).ag = .path g ix)
    (hc : parentIx (i.issued o).G.stack ix = some c) :
    (join o).after i = restacked (i.issued o) (joined (i.issued o) ix c) := by
  simp only [join, hag, hc]
  rfl

theorem join_does (h : Clear s i) (o : Op) : (join o).does i (ctlJoin o s) := by
  intro ha hp _
  obtain ⟨-, -, -, hlegal⟩ := id ha
  have hpar := (Bool.and_eq_true_iff.1 hlegal).2
  cases hag : i.ag with
  | handler g => rw [hag] at hpar; cases hpar
  | ctl t => rw [hag] at hpar; cases hpar
  | path g ix =>
    rw [hag] at hpar
    obtain ⟨c, hc⟩ := Option.isSome_iff_exists.1 hpar
    have hag' : (i.issued o).ag = .path g ix := (Iss.issued_ag i o).trans hag
    have hc' : parentIx (i.issued o).G.stack ix = some c := (parentIx_issued h hag).trans hc
    rw [join_after hag' hc']
    refine runInstr_moved h ha hp ?_ (fun hc =>
      followed_unarmed h hc ((joined_keepsLaunch _ _ _).trans (.resolve _)) _)
    simp only [join, hag', hc']
    rfl

/-! EXIT (R126). -/

/-- An entry that owes the banks nothing goes whatever stood in it (R121). -/
theorem Group.removeAt_set (G : Group) (ix : Nat) {p : Path} (hp : p.pend = []) (hw : p.win = []) :
    (G.withStack (G.stack.set ix p)).removeAt ix = G.withStack (G.stack.eraseIdx ix) := by
  unfold Group.removeAt
  by_cases hlt : ix < G.stack.length
  · simp only [Group.withStack_stack, List.getElem?_set_self hlt, Group.quiet_idle _ hp hw, Path.unheld, hp,
      List.append_nil, List.eraseIdx_set_eq]
    rfl
  · have hge : G.stack.length ≤ ix := Nat.le_of_not_lt hlt
    simp only [Group.withStack_stack, List.set_eq_of_length_le hge, List.getElem?_eq_none hge,
      List.eraseIdx_of_length_le hge]

theorem Group.dropEmpty_congr {G H : Group} {ix : Nat} (h : G.removeAt ix = H.removeAt ix) (par : Option Nat) :
    G.dropEmpty ix par = H.dropEmpty ix par := by
  unfold Group.dropEmpty
  rw [h]

/-- The group with lanes of m retired. -/
def Group.losing (G : Group) (m : LaneMask) : Group := { G with gone := G.gone ||| m }

/-- The group once its entry ix, whose path is p, has no lane (R126). -/
def exited (j : Iss) (ix : Nat) (p : Path) : Group :=
  ((j.G.losing p.mask).withStack ((j.G.losing p.mask).stack.set ix { p with mask := 0 })).dropEmpty ix
    (parentIx j.G.stack ix)

theorem exited_unheld (j : Iss) (ix : Nat) {p : Path} (hp : p.pend = []) (hw : p.win = []) :
    exited j ix p.unheld = exited j ix p :=
  Group.dropEmpty_congr (((j.G.losing p.mask).removeAt_set ix (p := { p.unheld with mask := 0 }) hp hw).trans
    ((j.G.losing p.mask).removeAt_set ix (p := { p with mask := 0 }) hp hw).symm) _

theorem exited_keepsLaunch (j : Iss) (ix : Nat) (p : Path) : j.G.keepsLaunch (exited j ix p) :=
  Group.keepsLaunch.trans (H := (j.G.losing p.mask).withStack _) ⟨rfl, rfl⟩ (.dropEmpty _ _ _)

/-- The group that a handler's EXIT leaves: no entry, no handler, every lane of m retired. -/
def Group.retired (G : Group) (m : LaneMask) : Group := { G with gone := m, stack := [], handler := none, tf := false }

theorem Group.retired_keepsLaunch (G : Group) (m : LaneMask) : G.keepsLaunch (G.retired m) := ⟨rfl, rfl⟩

/-- Which agents there are and which waits they have does not turn on the agent named (R338). -/
theorem State.stuckSet_cur (s : State) (c : Option Agent) (core n : Nat) (D : List Waiter) :
    ({ s with cur := c } : State).stuckSet core n D = s.stuckSet core n D := by
  induction n generalizing D with
  | zero => rfl
  | succ n ih => exact ih _

theorem State.deadlocked_cur (s : State) (c : Option Agent) (core : Nat) :
    ({ s with cur := c } : State).deadlocked core = s.deadlocked core := by
  unfold State.deadlocked
  rw [show ({ s with cur := c } : State).waiters core = s.waiters core from rfl]
  simp only [State.stuckSet_cur]

theorem State.detect_none {s : State} {core : Nat} (h : s.deadlocked core = none) : s.detect core = s := by
  unfold State.detect State.detectN
  rw [h]

theorem exit_path (h : Clear s i) (o : Op) {g ix : Nat} (hag : i.ag = .path g ix) :
    (exit o).does i (ctlExit o s) := by
  intro ha hp _
  have hc := Iss.ctl_of_path h hag
  obtain ⟨hpend, hwin⟩ := Iss.issued_idle i hc o
  have hag' : (i.issued o).ag = .path g ix := (Iss.issued_ag i o).trans hag
  have hafter : (exit o).after i = restacked (i.issued o) (exited (i.issued o) ix (i.issued o).p) := by
    simp only [exit, hag']
    rfl
  rw [hafter, ← exited_unheld _ _ hpend hwin]
  refine runInstr_moved h ha hp ?_ (fun hc => followed_unarmed h hc ((exited_keepsLaunch _ _ _).trans (.resolve _)) _)
  simp only [exit, hag', Group.quiet_idle _ hpend hwin]
  rfl

theorem exit_handler (h : Clear s i) (o : Op) {g : Nat} (hag : i.ag = .handler g) :
    (exit o).does i (ctlExit o s) := by
  intro ha hp _
  have hag' : (i.issued o).ag = .handler g := (Iss.issued_ag i o).trans hag
  have hquiet := Group.keepsLaunch.quietAll (i.issued o).G
  have hafter : (exit o).after i = ((i.issued o).s.setGroup (i.issued o).id
      ((i.issued o).G.quietAll.retired (i.issued o).G.launched)).follow (i.issued o).id := by
    simp only [exit, hag']
    rfl
  rw [hafter, ← hquiet.launched]
  refine runInstr_moved h ha hp ?_ (fun hc => followed_unarmed h hc (hquiet.trans (Group.retired_keepsLaunch _ _)) _)
  simp only [exit, hag']
  rfl

/-- The context of a control thread once it has passed its EXIT (R126). -/
def endedCtx (j : Iss) (o : Op) : Ctx := { j.C with exited := true, path := { j.p with pc := pcOn j o.bytes } }

/-- The path of a control thread's instruction is the one of its context. -/
theorem Iss.issued_thread (i : Iss) (hc : i.ctl = true) (o : Op) : (i.issued o).C.path = (i.issued o).p := by
  rw [Iss.issued, if_pos hc]
  rfl

theorem exit_thread (h : Clear s i) (o : Op) {t : Nat} (hag : i.ag = .ctl t) (hc : i.ctl = true) (hid : i.id = t) :
    (exit o).does i (ctlExit o s) := by
  subst hid
  intro ha hp hpre
  obtain ⟨hown, hstop, hdead⟩ := hpre ((Iss.issued_ctl i _).trans hc)
  have hag' : (i.issued o).ag = .ctl i.id := (Iss.issued_ag i o).trans hag
  have hafter : (exit o).after i = { (i.issued o).s.setCtx i.id (endedCtx (i.issued o) o) with cur := none } := by
    simp only [exit, hag', Iss.issued_id]
    rfl
  rw [hafter]
  refine runInstr_moved h ha hp ?_ (fun hg => absurd (hg.symm.trans hc) Bool.false_ne_true)
  simp only [exit, Iss.issued_id] at hown hstop hdead ⊢
  simp only [hag', hown, Bool.false_eq_true, if_false, Iss.issued_thread i hc]
  simp only [State.setCtx_groups, Option.isNone_iff_eq_none.1 hstop]
  exact congrArg (fun t => Except.ok { Done.only t with moved := true })
    (State.detect_none ((State.deadlocked_cur _ none _).trans hdead))

theorem exit_does (h : Clear s i) (o : Op) : (exit o).does i (ctlExit o s) := by
  obtain ⟨ag, -, hv⟩ := State.cur_view h.issuing
  by_cases hc : i.ctl = true
  · obtain ⟨hag, -⟩ := State.view_thread hv hc
    exact exit_thread h o hag hc rfl
  · obtain ⟨ix, hag, -⟩ | ⟨hd, hag, -⟩ := State.view_agent hv (by simpa using hc)
    · exact exit_path h o hag
    · exact exit_handler h o hag

/-! RTT (R225, R334). -/

/-- While TF is set the handler alone issues (R331). -/
theorem handler_of_tf (h : Clear s i) (htf : i.G.tf = true) : i.ag = .handler i.id := by
  obtain ⟨ag, hcur, hv⟩ := State.cur_view h.issuing
  have hissue : s.canIssue ag = true := by
    by_contra hn
    have hnone := h.issuing
    simp only [State.issuing, hcur, if_neg hn] at hnone
    cases hnone
  cases ag with
  | ctl t =>
    obtain ⟨C, T, -, -, rfl⟩ := State.view_ctl hv
    cases htf
  | handler g =>
    obtain ⟨G, T, x, -, -, -, rfl⟩ := State.view_handler hv
    rfl
  | path g ix =>
    obtain ⟨G, T, p, hG, -, -, rfl⟩ := State.view_path hv
    have htf' : G.tf = true := htf
    have hstep : G.step = false := h.single.1
    simp only [State.canIssue, hG, Group.issuers, htf', hstep, if_true, Bool.false_and, Bool.false_eq_true, if_false,
      Bool.and_eq_true] at hissue
    obtain ⟨⟨-, hmem⟩, -⟩ := hissue
    split at hmem <;> simp at hmem

/-- The handler of a group whose handler issues, the issue accounted, owes the banks nothing. -/
theorem Iss.issued_handler (hc : i.ctl = false) (hag : i.ag = .handler i.id) {hd : Handler}
    (hh : (i.issued o).G.handler = some hd) : hd.path.pend = [] ∧ hd.path.win = [] := by
  rw [Iss.issued_group i o hc] at hh
  simp only [Iss.issuedG, Iss.issuedGroup, hag, Group.setPathAt] at hh
  obtain ⟨x, -, rfl⟩ := Option.map_eq_some_iff.1 hh
  exact ⟨rfl, rfl⟩

/-- k48 to k51 taken back from the image (R225). -/
def Group.imageBack (G : Group) : Group :=
  (((G.setK 48 (G.image 0)).setK 49 (G.image 1)).setK 50 (G.image 2)).setK 51 (G.image 3)

theorem Group.keepsLaunch.imageBack (G : Group) : G.keepsLaunch G.imageBack :=
  (((setK G 48 _).trans (setK _ 49 _)).trans (setK _ 50 _)).trans (setK _ 51 _)

/-- A group whose handler hd has left for its path, with the mask M of the image (R334). -/
def Group.leave (G : Group) (hd : Handler) (M : LaneMask) : Group :=
  { G with
    tf := false, handler := none
    stack := match G.stack[hd.ix]? with
      | some p => G.stack.set hd.ix { p with mask := M, pc := G.imagePc, code := hd.code }
      | none => G.stack }

theorem Group.keepsLaunch.leave (G : Group) (hd : Handler) (M : LaneMask) : G.keepsLaunch (G.leave hd M) := ⟨rfl, rfl⟩

/-- The group after a RTT whose handler is hd: the span moved, the image taken back (R225, R334). -/
def returning (hd : Handler) (j : Iss) : Group :=
  ((j.s.moveSpan j.G j.G.spanCmd).2.imageBack.leave hd j.G.imageMask).remasked
    ((j.G.stack[hd.ix]?.map (·.mask)).getD 0) j.G.imageMask

theorem returning_keepsLaunch (hd : Handler) (j : Iss) : j.G.keepsLaunch (returning hd j) :=
  (((Group.keepsLaunch.moveSpan j.s j.G j.G.spanCmd).trans (.imageBack _)).trans (.leave _ _ _)).trans (.remasked _ _ _)

theorem returned_eq (hd : Handler) (i : Iss) (o : Op) : returned hd i o =
    (((i.issued o).s.moveSpan (i.issued o).G (i.issued o).G.spanCmd).1.setGroup (i.issued o).id
      (returning hd (i.issued o))).follow (i.issued o).id := rfl

theorem rtt_does (h : Clear s i) (o : Op) (w : Long) : (rtt o w).does i (sysRtt o w s) := by
  rintro ha hp ⟨hd, hh, hmask, hspan, hwin, hpoison⟩
  change (i.issued o).G.handler = some hd at hh
  obtain ⟨-, -, -, hlegal⟩ := id ha
  have hag := handler_of_tf h (Bool.and_eq_true_iff.1 hlegal).1
  have hc : i.ctl = false := by
    by_contra hc
    obtain ⟨ag, -, hv⟩ := State.cur_view h.issuing
    cases hag.symm.trans (State.view_thread hv (by simpa using hc)).1
  have hafter : (rtt o w).after i = returned hd i o := by simp only [rtt, hh]
  obtain ⟨hpend, hwnd⟩ := Iss.issued_handler hc hag hh
  rw [hafter, returned_eq]
  refine runInstr_moved h ha hp ?_ (fun hc => followed_unarmed h hc (returning_keepsLaunch _ _) _)
  simp only [rtt] at hmask hspan hwin hpoison ⊢
  simp only [Iss.issued_ecc i o h.poison, hh, Group.quiet_idle _ hpend hwnd, hmask, hspan, hpoison, Bool.not_true,
    Bool.false_eq_true, or_self, if_false, Bind.bind, Except.bind]
  rw [hwin]
  rfl

/-! TRAP (R224). -/

@[simp] theorem Iss.issued_pc (i : Iss) (o : Op) : (i.issued o).p.pc = i.p.pc := by
  unfold Iss.issued
  split <;> rfl

theorem trap_does (h : Clear s i) (o : Op) (w : Long) : (trap o w).does i (sysTrap o w s) := by
  intro ha hp hact
  change (i.issued o).ctl = true ∨ (i.issued o).active o ≠ 0 at hact
  rw [Iss.issued_ctl, Iss.issued_active] at hact
  obtain ⟨ag, -, hv⟩ := State.cur_view h.issuing
  have hlanes : (if i.ctl then i.p.mask else i.active o) ≠ 0 := by
    split
    next => exact h.mask
    next hc => exact hact.resolve_left hc
  have hafter : (trap o w).after i = s.takeTrap i.ag
      { Trap.of cBREAK 0 (w.bits 31 19) (if i.ctl then i.p.mask else i.active o) with resume := some (pcOn i o.bytes) } := by
    rw [← (State.view_self hv).1]
    rfl
  rw [hafter]
  refine runInstr_trap (o := o) h ha hp ?_
  simp only [Iss.issued_ctl, Iss.issued_mask, Iss.issued_active, Iss.issued_pc, Iss.issued_ecc i o h.poison, if_neg hlanes,
    Bind.bind, Except.bind]
  rfl

end Sys2Proof.Machine

section

open Sys2Proof Sys2Proof.Machine Sys2Proof.Safety Sys2Proof.Rules

/-- Settles O25, a form at a time: the body answers the state of the rule from what the issue, accounted, reads. -/
theorem entryChangingForms : Obligations.EntryChangingForms := by
  intro x m s i hx h
  cases x with
  | brd w => cases hx; exact brd_does h _ w
  | join32 | join64 => cases hx; exact join_does h _
  | exit32 | exit64 => cases hx; exact exit_does h _
  | trap w => cases hx; exact trap_does h _ w
  | rtt w => cases hx; exact rtt_does h _ w
  | _ => cases hx

end

/-! PROOFS. The drain port as a source (spec/06_isa_vector_float.md, R153; R319, R320): a row that an instruction takes, and
what stays the issuing agent's own. -/

namespace Sys2Proof.Machine

open Sys2Proof.Safety Sys2Proof.Rules

variable {s t : State} {i j : Iss} {o : Op}

/-- DONE of the command that staged a row counts it; with its last row the command ends (R319, R320). -/
def State.rowCounted (s : State) (team : Nat) (n : Word) : State :=
  match s.cmd team 1 n with
  | some c =>
    if c.complete then s
    else if c.done + 1 = c.drainRows then s.endCmd team 1 { c with done := c.done + 1 } 2
    else s.noteCmd team 1 { c with done := c.done + 1 }
  | none => s

theorem teamOnly_rowCounted (team : Nat) (s : State) (n : Word) : teamOnly team s (s.rowCounted team n) := by
  unfold State.rowCounted
  split
  next =>
    split_ifs
    · exact .refl _ _
    · exact teamOnly_endCmd _ _ _ _ _
    · exact teamOnly_noteCmd _ _ _ _
  next => exact .refl _ _

theorem chainKept_endCmd (n ch : Nat) (s : State) (c : Cmd) (st : Nat) : chainKept n ch s (s.endCmd n ch c st) :=
  ((chainKept_leave _ _ _ _).trans (chainKept_noteCmd _ _ _ _)).trans (chainKept_settleChain _ _ _ _)

theorem chainKept_rowCounted (team : Nat) (s : State) (n : Word) : chainKept team 1 s (s.rowCounted team n) := by
  unfold State.rowCounted
  split
  next =>
    split_ifs
    · exact .refl _ _ _
    · exact chainKept_endCmd _ _ _ _ _
    · exact chainKept_noteCmd _ _ _ _
  next => exact .refl _ _ _

/-- The view with the drain buffer's oldest row gone and the row counted. -/
def rowGone (j : Iss) (n : Word) (rest : List DrainRow) : Iss :=
  { withG j { j.G with drain := rest } with s := (withG j { j.G with drain := rest }).s.rowCounted j.team n }

theorem rowTaken_unread (ho : o.asel ≠ 2) (j : Iss) : rowTaken o j = j := if_pos ho

theorem rowTaken_staged {r : DrainRow} {rest : List DrainRow} (ho : o.asel = 2) (hd : j.G.drain = r :: rest) :
    rowTaken o j = rowGone j r.seq rest := by
  simp only [rowTaken, ho, hd, ne_eq, not_true_eq_false, if_false]
  rfl

theorem portRow_staged {r : DrainRow} {rest : List DrainRow} (hd : j.G.drain = r :: rest) : portRow j = laneRow r.row := by
  simp only [portRow, hd, List.head?_cons, Option.map_some, Option.getD_some]

theorem Iss.drainRow_staged {r : DrainRow} {rest : List DrainRow} (hd : j.G.drain = r :: rest) (m : LaneMask) :
    j.drainRow m = .ok (laneRow r.row, (rowGone j r.seq rest).s) := by
  simp only [Iss.drainRow, hd]
  change _ = Except.ok (laneRow r.row, State.rowCounted (j.s.setGroup j.id _) j.team r.seq)
  generalize j.s.setGroup j.id _ = s
  unfold State.rowCounted
  cases hc : s.cmd j.team 1 r.seq with
  | none => rfl
  | some c =>
    by_cases hcomp : c.complete = true
    · simp only [if_pos hcomp]
    · simp only [if_neg hcomp]
      rfl

/-- What a form that may read the drain port reads: a staged row, which is then taken. -/
theorem Iss.readPort (hd : o.asel = 2 → j.G.drain ≠ []) (m : LaneMask) :
    ∃ q, (if o.asel = 2 then j.drainRow m else .ok (zeroRow, j.s)) = .ok (q, (rowTaken o j).s) ∧
      (o.asel = 2 → q = portRow j) := by
  by_cases ho : o.asel = 2
  · obtain ⟨r, rest, hr⟩ := List.exists_cons_of_ne_nil (hd ho)
    refine ⟨portRow j, ?_, fun _ => rfl⟩
    rw [if_pos ho, Iss.drainRow_staged hr, rowTaken_staged ho hr, portRow_staged hr]
  · exact ⟨zeroRow, by rw [if_neg ho, rowTaken_unread ho], fun h => absurd h ho⟩

/-- A view in another state, of which an agent's own team may differ but is there. -/
theorem owns_teamOnly {n ch : Nat} (hj : i.owns j j.s) (hk : teamOnly n j.s t) (hc : chainKept n ch j.s t) :
    i.owns { j with s := t } t := by
  have hgroups : t.groups = j.s.groups := hk.1 .groups (by simp)
  have hctxs : t.ctxs = j.s.ctxs := hk.1 .ctxs (by simp)
  have hgroup : ∀ g, t.group g = j.s.group g := fun g => by simp only [State.group, hgroups]
  have hctx : ∀ c, t.ctx c = j.s.ctx c := fun c => by simp only [State.ctx, hctxs]
  have hpath : t.path i.ag = j.s.path i.ag := by
    cases i.ag <;> simp only [State.path, hgroup, hctx]
  refine ⟨hj.ag, hj.ctl, hj.id, ?_, ?_, ?_, hj.pend, hj.win, hj.wait, hj.mask⟩
  · rw [hgroup, hpath]
    exact hj.group
  · rw [hctx]
    exact hj.ctx
  · obtain ⟨T, hT⟩ := hj.team
    by_cases hm : (if i.ctl then i.id else j.G.team) = n
    · rw [hm] at hT
      obtain ⟨T', hT', -⟩ := hc T hT
      exact ⟨T', hm ▸ hT'⟩
    · exact ⟨T, (hk.2 _ hm).trans hT⟩

/-- The view with a row taken, as the agent owns it: the port is a group's alone. -/
theorem rowTaken_owns (h : Clear s i) (hc : o.asel = 2 → i.ctl = false) (hj : i.owns j j.s) :
    i.owns (rowTaken o j) (rowTaken o j).s := by
  by_cases ho : o.asel = 2
  · cases hd : j.G.drain with
    | nil => simpa only [rowTaken, ho, hd, ne_eq, not_true_eq_false, if_false] using hj
    | cons r rest =>
      rw [rowTaken_staged ho hd]
      exact owns_teamOnly (withG_owns h hj rfl (hc ho) _ rfl rfl rfl rfl) (teamOnly_rowCounted _ _ _)
        (chainKept_rowCounted _ _ _)
  · rwa [rowTaken_unread ho]

/-- The port is no source in the control stream (R86). -/
theorem Iss.admits_port {legal : Iss → Bool} (ha : i.admits o legal) (ho : o.asel = 2) : i.ctl = false := by
  obtain ⟨-, -, hport, -⟩ := ha
  simp only [ho, bne_self_eq_false, Bool.false_or, Bool.and_eq_true, Bool.not_eq_true'] at hport
  exact hport.1

end Sys2Proof.Machine

/-! PROOFS. The float conversions (spec/06_isa_vector_float.md, R58, R67, R142, R143): what a float form leaves, once for
all of them, then form by form. -/

namespace Sys2Proof.Machine

open Sys2Proof.Safety Sys2Proof.Rules

variable {s : State} {i j : Iss} {o : Op} {w : Long} {wd : Nat} {d : BitVec 7} {ok : Iss → Bool}
  {regs : List SrcReg} {res : Iss → Row → FRes} {r : Iss → FRes}

/-- Where no flag raised is enabled, the flags of all the lanes together, or of the context's one value (R69, R70). -/
theorem Iss.fFlags_ok {rs : FRes} (h : j.ctl = true ∨ flagsOf (j.active o) (rs.map (·.2)) &&& j.enables = 0) :
    j.fFlags o rs = .ok (if j.ctl then (rs.headD (0, 0)).2 else flagsOf (j.active o) (rs.map (·.2))) := by
  unfold Iss.fFlags
  by_cases hc : j.ctl = true
  · simp only [hc, if_true]
    cases rs <;> rfl
  · simp only [hc, if_false, Iss.fpe, h.resolve_left hc, if_true, Bool.false_eq_true]

/-- A float form whose lane results are its rule's at the row read, and whose writes are made of them. -/
theorem floatOp_does {out : Iss → List Nat → List RegWrite} {ws : Iss → List RegWrite} (h : Clear s i)
    (hres : ∀ j q, (o.asel = 2 → q = portRow j) → res j q = r j) (hout : ∀ j, out j ((r j).map (·.1)) = ws j) :
    ({ flt o wd d ok r with ws := ws } : Rule).does i (floatOp o ok regs res out s) := by
  intro ha
  have hport : o.asel = 2 → i.ctl = false := Iss.admits_port ha
  revert ha
  refine own_rule h rfl (rowTaken_owns h hport (owns0 h o)) (fun hp => ?_)
  obtain ⟨hdrain, hflags⟩ := hp
  obtain ⟨q, hread, hq⟩ := Iss.readPort (j := i.issued o) hdrain ((i.issued o).act o)
  have hfl := Iss.fFlags_ok (j := i.issued o) (rs := r (i.issued o)) hflags
  simp only [flt, Iss.issued_ecc i o h.poison, hread, Bind.bind, Except.bind, hres _ q hq, hfl, hout]
  rfl

/-- Results of a width, in the lanes or in a c register. -/
theorem flt_does (h : Clear s i) (hres : ∀ j q, (o.asel = 2 → q = portRow j) → res j q = r j) :
    (flt o wd d ok r).does i (floatOp o ok regs res (fun j xs => j.fWrites o wd d xs) s) := by
  refine floatOp_does (wd := wd) (d := d) (ws := (flt o wd d ok r).ws) h hres (fun j => ?_)
  simp only [Iss.fWrites, flt]
  cases r j <;> rfl

/-- Results of an integer type (R56, R115). -/
theorem toInts_does (h : Clear s i) (hres : ∀ j q, (o.asel = 2 → q = portRow j) → res j q = r j) :
    (toInts o w ok r).does i (floatOp o ok regs res (fun j xs => j.iWrites o (intC w.ty.toNat) w.d xs) s) := by
  refine floatOp_does h hres (fun j => ?_)
  simp only [Iss.iWrites, Iss.laneOut]
  cases r j <;> rfl

/-- The images of A do not turn on a row where A is not the drain port. -/
theorem Iss.fA_portRow {F : Fmt} {q : Row} (hq : w.asel.toNat = 2 → q = portRow j) : j.fA w F q = j.fA w F (portRow j) := by
  unfold Iss.fA
  by_cases ha : w.asel = 2
  · rw [hq (congrArg BitVec.toNat ha)]
  · simp only [ha, if_false]

/-- FCVT (R142): pairs of 16-bit elements, or one element. -/
theorem fcvt_does (h : Clear s i) {rl : Rule} (hx : converts (.fcvt w) = some rl) : rl.does i (execFcvt w s) := by
  by_cases hty : w.ty = 4 ∨ w.ty = 5
  · cases (if_pos hty).symm.trans hx
    rw [show execFcvt w s = floatCvt2 (Op.long 0x11 4 w) w s from congrFun (if_pos hty) s]
    unfold floatCvt2
    refine flt_does h (fun j q hq => ?_)
    by_cases ha : w.asel = 2
    · simp only [ha, if_true, hq (congrArg BitVec.toNat ha)]
      rfl
    · simp only [ha, if_false]
      rfl
  · cases (if_neg hty).symm.trans hx
    rw [show execFcvt w s = floatCvt1 (Op.long 0x11 4 w) w s from congrFun (if_neg hty) s]
    unfold floatCvt1
    exact flt_does h (fun j q hq => congrArg (List.map _) (Iss.fA_portRow hq))

/-- ICVT (R143). -/
theorem icvt_does (h : Clear s i) {rl : Rule} (hx : converts (.icvt w) = some rl) : rl.does i (execIcvt w s) := by
  cases hx
  unfold execIcvt floatIcvt
  exact toInts_does h (fun _ _ _ => rfl)

/-- FICVT (R143): to a float format, or from one. -/
theorem ficvt_does (h : Clear s i) {rl : Rule} (hx : converts (.ficvt w) = some rl) : rl.does i (execFicvt w s) := by
  by_cases hd : bitAt w.imm.toNat 7 = true
  · cases (if_pos hd).symm.trans hx
    rw [show execFicvt w s = floatOfInt (Op.long 0x11 6 w) w s from congrFun (if_pos hd) s]
    unfold floatOfInt
    exact flt_does h (fun _ _ _ => rfl)
  · cases (if_neg hd).symm.trans hx
    rw [show execFicvt w s = floatToInt (Op.long 0x11 6 w) w s from congrFun (if_neg hd) s]
    unfold floatToInt
    exact toInts_does h (fun j q hq => congrArg (List.map _) (Iss.fA_portRow hq))

end Sys2Proof.Machine

section

open Sys2Proof Sys2Proof.Machine Sys2Proof.Rules

/-- Settles O17, form by form (`fcvt_does`, `icvt_does`, `ficvt_does`): each is a float form whose lane results are the
rule's (`floatOp_does`), the drain port's row among its operands (`Iss.readPort`). -/
theorem conversionForms : Obligations.ConversionForms := by
  intro x r s i hx h
  cases x with
  | fcvt w => exact fcvt_does h hx
  | icvt w => exact icvt_does h hx
  | ficvt w => exact ficvt_does h hx
  | _ => cases hx

end

/-! PROOFS. SystemForms fails: a control thread's CFLUSH or CINV that begins a walk. Issue notes the work given to the
group among what the thread appended (`Iss.noteGiven`), and what comes after the instruction (`ctxAfter`) asks that the
list stay as the rule's effect has it, which names the new state alone. -/

namespace Sys2Proof.Machine

open Sys2Proof.Safety Sys2Proof.Rules

/-- CFLUSH of the 256 bytes from the cursor of cp pair c4 on, at cluster scope, with barrier 0. -/
def flushControl : Long := ⟨0, 4, 0, 0, 0, 3, 0, 2, 0, 7, 0, some 256⟩

/-- Read access to the control store of team slot 0 of core 0, the cursor at its start. -/
def cstoreCap : CapV := CapV.mint 0 pLD 1 (cstoreOf 0 0) (cstoreOf 0 0 + 0x4000) (cstoreOf 0 0)

/-- The control thread of core 0 at pc 0, with that capability in c4 and c5. -/
def flushCtx : Ctx :=
  { Ctx.host with
    c := Store.write (Store.write [] 4 (cstoreCap.bits.extractLsb' 0 64)) 5 (cstoreCap.bits.extractLsb' 64 64)
    ctag := 4 }

/-- That thread about to issue, its team the owner of barrier 0. -/
def flushState : State :=
  ((State.reset.placed true []).setCtx 0 flushCtx).setBar 0 0
    { owner := some 0, arrN := 1, bytN := 0, arr := 0, byt := 0, cph := 0 }

/-- What its instruction sees. -/
def flushView : Iss := flushState.cview 0 flushCtx Team.host

theorem flushState_clear : Clear flushState flushView where
  issuing := rfl
  late := rfl
  pend := rfl
  win := rfl
  mask := by decide
  kind := by decide
  stop := rfl
  single := ⟨rfl, rfl⟩
  poison := rfl

/-- The rule that SystemForms names for it. -/
def flushRule : Rule := walk (Op.long 0x2C 2 flushControl) flushControl false

theorem flush_admits : flushView.admits flushRule.op flushRule.ok := ⟨rfl, rfl, rfl, by decide +kernel⟩

theorem flush_pre : flushRule.pre (flushView.issued flushRule.op) := by
  show rangeOk _ _ _ ∧ _
  unfold rangeOk
  decide +kernel

/-- The rule's effect leaves what the thread has appended. -/
theorem flushRule_appended : (flushRule.eff (flushView.issued flushRule.op)).C.appended = [] := by decide +kernel

/-- The machine notes the walk: kind 3, number 0. -/
theorem flush_appends : ∃ t, exec (.cflush flushControl) flushState = .next t ∧
    (t.ctx 0).map (·.appended) = some [(3, 0)] := by
  have h : (match exec (.cflush flushControl) flushState with
    | .next t => (t.ctx 0).map (·.appended) == some [(3, 0)]
    | _ => false) = true := by decide +kernel
  split at h
  next t ht => exact ⟨t, ht, eq_of_beq h⟩
  next => cases h

end Sys2Proof.Machine

section

open Sys2Proof Sys2Proof.Machine Sys2Proof.Safety Sys2Proof.Rules

/-- Refutes O23: the CFLUSH of the control thread in `flushState` begins walk 0 and notes (3, 0) among what the thread
appended (`flush_appends`); the rule's state has nothing there (`flushRule_appended`). -/
theorem not_systemForms : ¬ Obligations.SystemForms := by
  intro h
  obtain ⟨t, k, ht, hv, -, -, hafter, -⟩ := h (.cflush flushControl) flushRule flushState flushView rfl flushState_clear
    flush_admits rfl rfl flush_pre (by decide)
  obtain ⟨u, hu, happ⟩ := flush_appends
  cases hu.symm.trans ht
  obtain ⟨C, T, hC, -, rfl⟩ := State.view_ctl hv
  obtain ⟨-, -, hsame⟩ := (hafter.2 rfl).thread
  rw [hC, Option.map_some, Option.some.injEq] at happ
  exact absurd (happ.symm.trans (hsame.trans flushRule_appended)) (List.cons_ne_nil _ _)

end

/-! PROOFS. Loads, stores and atomics: rows 0x28 and 0x29. -/

namespace Sys2Proof.Machine

open Sys2Proof.Safety Sys2Proof.Rules

variable {s : State} {i j : Iss} {out : Out1} {o : Op} {w : Long}

/-! What the bodies share: checks, and the accesses that no refusal holds back. -/

/-- With nothing outstanding no access waits for one before it (R171). -/
theorem Iss.inOrder_clear (h : j.p.pend = []) (rel : Bool) : j.inOrder rel = .ok () := by
  simp [Iss.inOrder, Iss.acquiring, Iss.performed, h]

section

variable {at_ : State} {u : LsUse} {n : Nat} {k : RKind} {write reads whole rel : Bool} {xs : List Acc}

/-- Accesses that pass reach what comes after the checks of R173, with the records that they mark. -/
theorem passes_checks {α : Type} (hp : j.p.pend = []) (he : ∀ m rs, j.ecc m rs = .ok ())
    (h : passes j at_ u n k write reads xs) {m : LaneMask} {rs : List SrcReg} (rest : List Nat → Except Stop α) :
    (j.ecc m rs >>= fun _ => j.lsCheck u n whole xs >>= fun _ => j.lsRegion k n whole xs >>= fun marks =>
      j.inOrder rel >>= fun _ => rest marks) = rest (if k == .read then [] else marked j k n xs) := by
  rw [he, passes_check h, passes_region h, Iss.inOrder_clear hp]
  rfl

end

/-- A value for each access, placed by lane. -/
theorem byLane_accesses (m : LaneMask) (imm : Int) (pv : Bool) (f : Acc → Nat) :
    byLane ((accesses j w m imm pv).map (fun x => (x.l, f x))) =
      lanewise (fun L => if m.getLsbD L then f (accAt j w imm pv L) else 0) := by
  rw [accesses, List.map_map]
  exact byLane_lanesOf m (fun L => f (accAt j w imm pv L))

/-- The lanes of the accesses are those of the mask. -/
theorem maskOfLanes_accesses (m : LaneMask) (imm : Int) (pv : Bool) :
    maskOfLanes ((accesses j w m imm pv).map (·.l)) = m := by
  rw [accesses_lanes, maskOfLanes_lanesOf]

/-- The lanes of the accesses that satisfy a test. -/
theorem maskOfLanes_filter_accesses (m : LaneMask) (imm : Int) (pv : Bool) (p : Acc → Bool) :
    maskOfLanes (((accesses j w m imm pv).filter p).map (·.l)) =
      lanesAt (fun L => m.getLsbD L && p (accAt j w imm pv L)) := by
  rw [accesses, List.filter_map, List.map_map]
  exact (congrArg maskOfLanes (List.map_id _)).trans (maskOfLanes_filter m _)

/-- A memory form: its effect keeps every group, context and team, and its body answers what its rule says from a view
with nothing outstanding that reads no poison. -/
theorem access_does {r : Rule} {body : Body} (h : Clear s i) (hx : out = runInstr r.op r.ok body s)
    (hk : ∀ j, r.eff j = { j with s := (r.eff j).s } ∧ keeps j.s (r.eff j).s)
    (hb : ∀ j, j.p.pend = [] → (∀ m rs, j.ecc m rs = .ok ()) → r.pre j → body j = .ok
      { s := (r.eff j).s, ws := r.ws j, flags := r.fl j, pc := r.pc j, req := none, moved := false }) : r.does i out :=
  keep_rule h hx (hk _).1 (hk _).2 (hb _ (owns0 h _).pend (Iss.issued_ecc i _ h.poison))

/-- The operands of the rules, as the bodies write them. -/
theorem acquires_eq (w : Long) : (w.ord == 1 && scopeWide w.sc.toNat) = acquires w := rfl
theorem pvBit_eq (w : Long) : bitAt w.imm.toNat 10 = pvBit w := rfl

/-! Loads (R166 to R168). -/

theorem ld_does (h : Clear s i) (o : Op) (w : Long) : (ruleLd o w).does i (memLd o w s) := by
  refine access_does h rfl (fun j => ⟨rfl, keeps_loaded _ _ _ _⟩) (fun j hp he hpre => ?_)
  simp only [ruleLd] at hpre ⊢
  refine (passes_checks hp he hpre _).trans ?_
  simp only [Iss.accs_eq, acquires_eq, pvBit_eq, passes_perform hpre, passes_near hpre, passes_far hpre, hostOpen_nil,
    maskOfLanes_accesses, byLane_accesses]
  rfl

/-- What a load of a capability by every lane writes: `val` gives lane L's (R168). -/
def capsLoaded (j : Iss) (d : Nat) (m : LaneMask) (val : Iss → Nat → CapV) : List RegWrite :=
  j.vpResult d m (lanewise (fun L => if m.getLsbD L then (val j L).bits.toNat else 0))
    (lanesAt (fun L => m.getLsbD L && (val j L).tag))

/-- LDC writes what its accesses load. -/
theorem ruleLdc_ws (o : Op) (w : Long) (j : Iss) : (ruleLdc o w).ws j = capsLoaded j w.d.toNat (j.active o) (fun i L =>
    (seen i w (accesses i w (i.active o) w.off10 (pvBit w)) 16).loadCap i.core i.colour
      (accAt i w w.off10 (pvBit w) L)) := rfl

/-- One capability for each access, placed by lane. -/
theorem capsLoaded_accesses (d : Nat) (m : LaneMask) (imm : Int) (pv : Bool) (f : Acc → CapV) {val : Iss → Nat → CapV}
    (hf : ∀ L, f (accAt j w imm pv L) = val j L) :
    j.vpResult d (maskOfLanes ((accesses j w m imm pv).map (·.l)))
      (byLane (((accesses j w m imm pv).map (fun x => (x.l, f x))).map (fun (l, c) => (l, c.bits.toNat))))
      (maskOfLanes ((((accesses j w m imm pv).map (fun x => (x.l, f x))).filter (·.2.tag)).map (·.1))) =
    capsLoaded j d m val := by
  rw [List.map_map, List.filter_map, List.map_map, maskOfLanes_accesses]
  unfold capsLoaded
  simp only [← hf]
  exact congrArg₂ _ (byLane_accesses m imm pv (fun x => (f x).bits.toNat))
    (maskOfLanes_filter_accesses m imm pv (fun x => (f x).tag))

theorem ldc_does (h : Clear s i) (o : Op) (w : Long) : (ruleLdc o w).does i (memLdc o w s) := by
  refine access_does h rfl (fun j => ⟨rfl, keeps_loaded _ _ _ _⟩) (fun j hp he hpre => ?_)
  refine (passes_checks hp he hpre _).trans ?_
  simp only [Iss.accs_eq, acquires_eq, pvBit_eq, passes_perform hpre, passes_near hpre, passes_far hpre, hostOpen_nil]
  rw [ruleLdc_ws, ← capsLoaded_accesses _ _ _ _
    (fun x => (seen j w (accesses j w (j.active o) w.off10 (pvBit w)) 16).loadCap j.core j.colour x) (fun _ => rfl)]
  rfl

/-! Stores (R166, R169). -/

theorem st_does (h : Clear s i) (o : Op) (w : Long) : (ruleSt o w).does i (memSt o w s) := by
  refine access_does h rfl (fun j => ⟨rfl, keeps_stored _ _ _ _ _ (fun _ _ => keeps_bytes _ _ _ _ _)⟩)
    (fun j hp he hpre => ?_)
  simp only [ruleSt] at hpre ⊢
  refine (passes_checks hp he hpre _).trans ?_
  simp only [Iss.accs_eq, pvBit_eq, passes_perform hpre, ← List.getD_eq_getElem?_getD]
  rfl

theorem stc_does (h : Clear s i) (o : Op) (w : Long) : (ruleStc o w).does i (memStc o w s) := by
  refine access_does h rfl (fun j => ⟨rfl, keeps_stored _ _ _ _ _ (fun _ _ => keeps_cap _ _ _ _ _)⟩)
    (fun j hp he hpre => ?_)
  simp only [ruleStc] at hpre ⊢
  refine (passes_checks hp he hpre _).trans ?_
  simp only [Iss.accs_eq, pvBit_eq, passes_perform hpre]
  rfl

theorem accesses_one (w : Long) (imm : Int) (pv : Bool) : accesses j w 1 imm pv = [accAt j w imm pv 0] := by
  rw [accesses, lanesOf_one]
  rfl

theorem ldu_does (h : Clear s i) (o : Op) (w : Long) : (ruleLdu o w).does i (memLdu o w s) := by
  refine access_does h rfl (fun j => ⟨rfl, keeps_loaded _ _ _ _⟩) (fun j hp he hpre => ?_)
  simp only [ruleLdu] at hpre ⊢
  rw [← accesses_one] at hpre
  refine (passes_checks hp he hpre _).trans ?_
  rw [accesses_one] at hpre
  obtain ⟨-, -, hnear, -⟩ := hpre _ (List.mem_singleton_self _)
  simp only [Iss.accs_eq, acquires_eq, accesses_one, passes_perform hpre, hnear]
  rfl

theorem stu_does (h : Clear s i) (o : Op) (w : Long) : (ruleStu o w).does i (memStu o w s) := by
  refine access_does h rfl (fun j => ⟨rfl, keeps_stored _ _ _ _ _ (fun _ _ => ?_)⟩) (fun j hp he hpre => ?_)
  · split
    · exact keeps_cap _ _ _ _ _
    · exact keeps_bytes _ _ _ _ _
  simp only [ruleStu] at hpre ⊢
  rw [← accesses_one] at hpre
  refine (passes_checks hp he hpre _).trans ?_
  rw [accesses_one] at hpre
  simp only [Iss.accs_eq, accesses_one, passes_perform hpre]
  rfl

theorem pref_does (h : Clear s i) (o : Op) (w : Long) : (rulePref o w).does i (memPref o w s) := by
  refine access_does h rfl (fun j => ⟨?_, ?_⟩) (fun j hp he hpre => ?_)
  · simp only [rulePref]
    split <;> rfl
  · simp only [rulePref]
    split
    · exact keeps_fill _ _ _ _
    · exact keeps.refl _
  · simp only [rulePref]
    rw [apply_ite Iss.s]
    simp only [he]
    rfl

/-! Atomics (R175 to R180). -/

/-- The float operations of R179. -/
theorem atomValue_float (op : Nat) (t : ITy) : atomValue true op t = atomFloat op := by
  funext old x
  exact if_pos rfl

/-- The integer operations of R177. -/
theorem atomValue_int (op : Nat) (t : ITy) : atomValue false op t = atomOp t op := by
  funext old x
  match op with
  | 0 | 3 | 4 | 5 | 6 => rfl
  | 1 => exact rMin_eq t old x
  | 2 => exact rMax_eq t old x
  | 7 =>
    show (if x ≤ old then 0 else old + 1) = if old < x then old + 1 else 0
    split_ifs <;> omega
  | n + 8 =>
    show (if old = 0 ∨ x < old then x else old - 1) = if 0 < old ∧ old ≤ x then old - 1 else x
    split_ifs <;> omega

theorem keeps_atomHome (j : Iss) (w : Long) (n : Nat) (xs : List Acc) : keeps j.s (j.atomHome w n xs) := keeps_mem _ _

/-- A fold whose steps keep the state's groups, contexts and teams keeps them. -/
theorem keeps_foldl_snd {α β : Type} (f : β × State → α → β × State) (h : ∀ st x, keeps st.2 (f st x).2) (l : List α)
    (st : β × State) : keeps st.2 (l.foldl f st).2 := by
  induction l generalizing st with
  | nil => exact keeps.refl _
  | cons x l ih => exact (h st x).trans (ih _)

theorem keeps_atomRun (j : Iss) (w : Long) (s : State) (n : Nat) (ok near : List Acc) (f : State → Acc → Nat × State)
    (h : ∀ s x, keeps s (f s x).2) : keeps s (j.atomRun w s n ok near f).2 := by
  unfold Iss.atomRun
  refine .trans ?_ (keeps_watchLs _ _ _ _ _)
  refine .trans ?_ (keeps_after _ _ _ _ _)
  refine .trans ?_ (keeps_core _ _ _)
  refine .trans ?_ (keeps_foldl_snd _ ?_ near ([], _))
  · dsimp only
    split
    · exact keeps_mem _ _
    · exact keeps.refl _
  · rintro ⟨vs, s⟩ x
    exact h s x

/-- The lanes of an instruction's atomics are its active lanes. -/
theorem maskOfLanes_atomAccs (hc : j.ctl = false) (o : Op) (w : Long) :
    maskOfLanes ((atomAccs j o w).map (·.l)) = j.active o := by
  rw [atomAccs, maskOfLanes_accesses, hc]
  rfl

theorem atomAccs_eq (j : Iss) (o : Op) (w : Long) : j.accs w (j.atomLanes o) 0 false = atomAccs j o w := rfl

theorem keeps_atomAll (j : Iss) (o : Op) (w : Long) (rop : Option Nat) (n : Nat) (f : State → Acc → Nat × State)
    (h : ∀ s x, keeps s (f s x).2) : keeps j.s (atomAll j o w rop n f).2 :=
  ((keeps_atomHome _ _ _ _).trans (keeps_mark _ _ _)).trans (keeps_atomRun _ _ _ _ _ _ _ h)

/-- One lane's atomic of ATOM, ATOMF and RED. -/
def atomStep (j : Iss) (w : Long) (f : Nat → Nat → Nat) (s : State) (x : Acc) : Nat × State :=
  let (old, m) := s.mem.atomAt j.core x.addr ((tyOf w).w / 8) (fun old =>
    f old ((j.atomData (tyOf w).w w.c).getD x.l 0))
  (old, { s with mem := m })

theorem ruleAtomic_eff (o : Op) (w : Long) (legal dst : Bool) (f : Nat → Nat → Nat) (rop : Option Nat) (j : Iss) :
    (ruleAtomic o w legal dst f rop).eff j =
      { j with s := (atomAll j o w rop ((tyOf w).w / 8) (atomStep j w f)).2 } := rfl

/-- What ATOM and ATOMF write: the old values. -/
theorem ruleAtomic_ws (o : Op) (w : Long) (legal dst : Bool) (f : Nat → Nat → Nat) (rop : Option Nat) (j : Iss) :
    (ruleAtomic o w legal dst f rop).ws j =
      if !dst then []
      else if j.ctl then (atomAll j o w rop ((tyOf w).w / 8) (atomStep j w f)).1.map
        (fun e => .c (w.d.toNat % 64) (BitVec.ofNat 64 (cImage (tyOf w) e.2)))
      else j.vResult (tyOf w).w w.d.toNat (j.active o)
        (byLane (atomAll j o w rop ((tyOf w).w / 8) (atomStep j w f)).1) := rfl

theorem keeps_atomStep (j : Iss) (w : Long) (f : Nat → Nat → Nat) (s : State) (x : Acc) :
    keeps s (atomStep j w f s x).2 := keeps_mem _ _

theorem ruleAtomic_keeps (o : Op) (w : Long) (legal dst : Bool) (f : Nat → Nat → Nat) (rop : Option Nat) (j : Iss) :
    keeps j.s ((ruleAtomic o w legal dst f rop).eff j).s := by
  rw [ruleAtomic_eff]
  exact keeps_atomAll j o w rop _ (atomStep j w f) (keeps_atomStep j w f)

theorem ruleAtomic_view (o : Op) (w : Long) (legal dst : Bool) (f : Nat → Nat → Nat) (rop : Option Nat) (j : Iss) :
    (ruleAtomic o w legal dst f rop).eff j = { j with s := ((ruleAtomic o w legal dst f rop).eff j).s } := by
  rw [ruleAtomic_eff]

/-- Atomic accesses that pass reach the memory side, with the records that they mark. -/
theorem passes_atomic {α : Type} {at_ : State} {u : LsUse} {n : Nat} {k : RKind} {write reads whole rel : Bool}
    {xs : List Acc} (hp : j.p.pend = []) (he : ∀ m rs, j.ecc m rs = .ok ())
    (h : passes j at_ u n k write reads xs) (can : Bool) {m : LaneMask} {rs : List SrcReg}
    (rest : List Nat → Except Stop α) :
    (j.ecc m rs >>= fun _ => j.hostAtomOk can xs >>= fun _ => j.lsCheck u n whole xs >>= fun _ =>
      j.lsRegion k n whole xs >>= fun marks => j.inOrder rel >>= fun _ => rest marks) =
    rest (if k == .read then [] else marked j k n xs) := by
  rw [passes_far' h, ← passes_checks hp he h rest]
  rfl

theorem atomic_does (h : Clear s i) (o : Op) (w : Long) (legal dst fl : Bool) (op : Nat) (rop pcie : Option Nat) :
    (ruleAtomic o w legal dst (atomValue fl op (tyOf w)) rop).does i (memAtomic o w legal dst fl op rop pcie s) := by
  refine access_does h rfl (fun j => ⟨ruleAtomic_view _ _ _ _ _ _ _, ruleAtomic_keeps _ _ _ _ _ _ _⟩)
    (fun j hp he hpre => ?_)
  refine (passes_atomic hp he hpre _ _).trans ?_
  rw [atomAccs_eq, passes_perform hpre, ruleAtomic_eff, ruleAtomic_ws]
  split
  next ok s1 hok =>
  cases hok
  extract_lets far near data at_
  have hfar : far = [] := passes_far hpre
  have hnear : near = atomAccs j o w := passes_near hpre
  clear_value far near
  subst hfar hnear
  generalize hrun : j.atomRun w _ _ _ _ _ = run
  have hall : atomAll j o w rop ((tyOf w).w / 8) (atomStep j w (atomValue fl op (tyOf w))) = run := hrun
  rw [hall]
  obtain ⟨vs, s2⟩ := run
  cases hc : j.ctl with
  | false => rw [maskOfLanes_atomAccs hc]; rfl
  | true => simp only [hostOpen_nil, List.map_nil, List.append_nil]; rfl

/-- The capability in a register pair of lane L, or of the control thread. -/
def capIn (j : Iss) (r L : Nat) : CapV := if j.ctl then j.cpVal r else j.vpVal r L

/-- One lane's compare and swap. -/
def casStep (j : Iss) (w : Long) (s : State) (x : Acc) : Nat × State :=
  if (tyOf w).w = 128 then
    let (old, ok, s) := s.casCap j.core x (capIn j w.d.toNat x.l) (capIn j w.c x.l)
    (old.bits.toNat + (if old.tag then 2 ^ 128 else 0) + (if ok then 2 ^ 129 else 0), s)
  else
    let (old, ok, m) := s.mem.casAt j.core x.addr ((tyOf w).w / 8) ((j.atomData (tyOf w).w w.d.toNat).getD x.l 0)
      ((j.atomData (tyOf w).w w.c).getD x.l 0)
    (old + (if ok then 2 ^ 129 else 0), { s with mem := m })

/-- CAS by every lane. -/
def casAll (j : Iss) (o : Op) (w : Long) : List (Nat × Nat) × State :=
  atomAll j o w none ((tyOf w).w / 8) (casStep j w)

theorem ruleCas_eff (o : Op) (w : Long) (j : Iss) : (ruleCas o w).eff j = { j with s := (casAll j o w).2 } := rfl

/-- What CAS writes, of the old values `vs` with bit 128 the tag and bit 129 success (R178). -/
def casWrites (j : Iss) (w : Long) (m : LaneMask) (vs : List (Nat × Nat)) : List RegWrite :=
  let t := tyOf w
  let d := w.d.toNat
  let bit (k : Nat) : LaneMask := maskOfLanes ((vs.filter (fun v => v.2.testBit k)).map (·.1))
  let vals : List Nat := byLane (vs.map (fun v => (v.1, v.2 % 2 ^ t.w)))
  if j.ctl then vs.flatMap (fun e =>
      if t.w = 128 then cpResult d (e.2 % 2 ^ 128) (e.2.testBit 128)
      else [.c (d % 64) (BitVec.ofNat 64 (e.2 % 2 ^ t.w))])
  else (if t.w = 128 then j.vpResult d m vals (bit 128) else j.vResult t.w d m vals) ++ [.q (w.bits 29 27) m (bit 129)]

theorem ruleCas_ws (o : Op) (w : Long) (j : Iss) :
    (ruleCas o w).ws j = casWrites j w (j.active o) (casAll j o w).1 := rfl

theorem keeps_casCap (s : State) (core : Nat) (x : Acc) (e new : CapV) : keeps s (s.casCap core x e new).2.2 := by
  unfold State.casCap
  generalize (if x.addr < hbmTop then s.mem.release core (lineOf x.addr) else s.mem) = m
  dsimp only
  split
  · exact keeps_mem _ _
  · exact keeps_mem _ _

theorem keeps_casStep (j : Iss) (w : Long) (s : State) (x : Acc) : keeps s (casStep j w s x).2 := by
  unfold casStep
  split
  · exact keeps_casCap _ _ _ _ _
  · exact keeps_mem _ _

theorem ruleCas_keeps (o : Op) (w : Long) (j : Iss) : keeps j.s ((ruleCas o w).eff j).s := by
  rw [ruleCas_eff]
  exact keeps_atomAll j o w none _ (casStep j w) (keeps_casStep j w)

theorem ruleCas_view (o : Op) (w : Long) (j : Iss) :
    (ruleCas o w).eff j = { j with s := ((ruleCas o w).eff j).s } := by
  rw [ruleCas_eff]

theorem cas_does (h : Clear s i) (o : Op) (w : Long) : (ruleCas o w).does i (memCas o w s) := by
  refine access_does h rfl (fun j => ⟨ruleCas_view _ _ _, ruleCas_keeps _ _ _⟩) (fun j hp he hpre => ?_)
  refine (passes_checks hp he hpre _).trans ?_
  rw [atomAccs_eq, passes_perform hpre, ruleCas_eff, ruleCas_ws]
  split
  next ok s1 hok =>
  cases hok
  extract_lets far near es cs at_ m
  have hfar : far = [] := passes_far hpre
  have hnear : near = atomAccs j o w := passes_near hpre
  clear_value far near
  subst hfar hnear
  generalize hrun : j.atomRun w _ _ _ _ _ = run
  have hall : casAll j o w = run := hrun
  rw [hall]
  obtain ⟨vs, s2⟩ := run
  cases hc : j.ctl with
  | false =>
    have hm : m = j.active o := maskOfLanes_atomAccs hc o w
    simp only [hm, casWrites, hc]
    rfl
  | true =>
    simp only [hostOpen_nil, List.map_nil, List.append_nil, casWrites, hc]
    rfl

/-- The record operation of ATOMF, as the rule lists it. -/
theorem accOp_float (op : Nat) :
    accOp true op = if op = 0 then some 9 else if op = 3 then some 10 else if op = 4 then some 11 else none := by
  match op with
  | 0 | 1 | 2 | 3 | 4 => rfl
  | n + 5 => exact (by simp : _ = (none : Option Nat)).symm

theorem atom_does (h : Clear s i) {r : Rule} (hx : memory (.atom w) = some r) : r.does i (execAtom w s) := by
  cases hx
  rw [← atomValue_int]
  exact atomic_does h _ w _ true false _ _ _

theorem atomf_does (h : Clear s i) {r : Rule} (hx : memory (.atomf w) = some r) : r.does i (execAtomf w s) := by
  cases hx
  rw [← accOp_float, ← atomValue_float _ (tyOf w)]
  exact atomic_does h _ w _ true true _ _ _

/-- RED's integer operations, and its float operations from 9 on (R180). -/
theorem red_does (h : Clear s i) {r : Rule} (hx : memory (.red w) = some r) : r.does i (execRed w s) := by
  cases hx
  unfold execRed
  by_cases hop : Long.aop w < 9
  · rw [if_pos hop, if_pos (show w.bits 29 26 < 9 from hop), ← atomValue_int]
    exact atomic_does h _ w _ false false _ _ _
  · rw [if_neg hop, if_neg (show ¬ w.bits 29 26 < 9 from hop), ← atomValue_float _ (tyOf w)]
    exact atomic_does h _ w _ false true _ _ _

end Sys2Proof.Machine

section

open Sys2Proof Sys2Proof.Machine Sys2Proof.Rules

/-- Settles O21, form by form: with nothing outstanding and accesses that pass, the checks of R173 answer nothing
(`passes_checks`), the memory side performs every access, and what is left of the body is the rule's effect, which keeps
every group, context and team (`access_does`). -/
theorem memoryForms : Obligations.MemoryForms := by
  intro x r s i hx h
  cases x with
  | ld w => cases hx; exact ld_does h _ w
  | st w => cases hx; exact st_does h _ w
  | ldu w => cases hx; exact ldu_does h _ w
  | stu w => cases hx; exact stu_does h _ w
  | ldc w => cases hx; exact ldc_does h _ w
  | stc w => cases hx; exact stc_does h _ w
  | pref w => cases hx; exact pref_does h _ w
  | atom w => exact atom_does h hx
  | cas w => cases hx; exact cas_does h _ w
  | atomf w => exact atomf_does h hx
  | red w => exact red_does h hx
  | _ => cases hx

end

/-! PROOFS. Accesses to the host window (R163, R174): one request for the instruction, one message for each lane. -/

namespace Sys2Proof.Machine

open Sys2Proof.Safety Sys2Proof.Rules

variable {s : State} {i j : Iss} {out : Out1} {o : Op} {w : Long}

/-! A group's instruction that writes no register at once. -/

/-- A path with its outstanding results replaced. -/
def Path.withPend (p : Path) (ps : List Pending) : Path := { p with pend := ps }

/-- What is outstanding is not among what `groupAfter` compares. -/
theorem groupAfter_withPend {e : Iss} {ps : List Pending} {ws : List RegWrite} {fl : Nat}
    (h : groupAfter { e with p := e.p.withPend ps } j ws fl) : groupAfter e j ws fl :=
  ⟨h.rows, h.tags, h.preds, h.k, h.flags, h.ktag, h.window, h.others, h.handler, h.path⟩

/-- A result that the host window owes waits outstanding. -/
theorem landGroup_request {G : Group} {p : Path} (hp : p.pend = []) (la id : Nat) (ws : List RegWrite) :
    landGroup la (some id) ws 0 (G, p) = (G, p.withPend
      [{ la := la, left := la, ready := false, writes := ws, req := some id, flags := 0, gained := 0 }]) := by
  simp [landGroup, hp, Path.withPend]

/-- No register written, nothing changes. -/
theorem landGroup_nil {G : Group} {p : Path} (hp : p.pend = []) (la : Nat) :
    landGroup la none [] 0 (G, p) = (G, p.withPend []) := by
  simp [landGroup, hp, Path.withPend, putWrites, Group.raise]

/-- The path of a group put back stands where it was. -/
theorem State.path_setPathAt {u : State} {ag : Agent} {g : Nat} {G : Group} {p : Path} (q : Path)
    (ha : (∃ ix, ag = .path g ix) ∨ ag = .handler g) (hg : u.group g = some G) (hp : u.path ag = some p) :
    (u.setGroup g (G.setPathAt ag q)).path ag = some q := by
  rcases ha with ⟨ix, rfl⟩ | rfl
  · simp only [State.path, hg] at hp
    have hl : ix < G.stack.length := (List.getElem?_eq_some_iff.mp hp).1
    simp [State.path, Group.setPathAt, hl]
  · simp only [State.path, hg, Option.map_eq_some_iff] at hp
    obtain ⟨y, hy, -⟩ := hp
    simp [State.path, Group.setPathAt, hy]

/-- What becomes of a group's instruction whose results leave the group itself alone. -/
theorem Iss.finish_group (hc : i.ctl = false) {d : Done} (he : i.owns (i.issued o) d.s) (hmv : d.moved = false)
    (hpc : d.pc = none) {ps : List Pending}
    (hl : landGroup o.lookahead d.req d.ws d.flags ((i.issued o).G, (i.issued o).p) =
      ((i.issued o).G, (i.issued o).p.withPend ps)) :
    (i.issued o).finish o d = d.s.setGroup i.id ((i.issued o).G.setPathAt i.ag
      (((i.issued o).p.withPend ps).goto o none (pcOn i o.bytes))) := by
  obtain ⟨hg, hpath, hstep⟩ := he.group hc
  have hnext : (i.issued o).p.pc = i.p.pc := by rw [Iss.issued_group i o hc]; rfl
  simp only [Iss.finish, hmv, Iss.issued_ctl, hc, Iss.issued_id, Iss.issued_ag, hg, hpath, hl, hpc, hnext,
    Bool.false_eq_true, if_false]
  rw [Iss.putBack_live _ _ _ _ (by rfl) hstep, Iss.issued_id, Iss.issued_ag]
  rfl

/-- A group's instruction whose body answers an effect that writes no register at once: its path stands at the next pc
with what is outstanding, its registers as before. -/
theorem runInstr_group (h : Clear s i) (hc : i.ctl = false) {legal : Iss → Bool} {body : Body}
    (ha : i.admits o legal) (hp : i.mustPark o = none) {d : Done} (hb : body (i.issued o) = .ok d)
    (hmv : d.moved = false) (hpc : d.pc = none) (hk : keeps (i.issued o).s d.s) {ps : List Pending}
    (hl : landGroup o.lookahead d.req d.ws d.flags ((i.issued o).G, (i.issued o).p) =
      ((i.issued o).G, (i.issued o).p.withPend ps)) :
    ∃ t j, runInstr o legal body s = .next t ∧ t.view i.ag = some j ∧ j.p.pc = pcOn i o.bytes ∧ j.p.pend = ps ∧
      after i j [] 0 ∧ t.io = d.s.io ∧ t.mem = d.s.mem := by
  obtain ⟨ag, hcur, hv⟩ := State.cur_view h.issuing
  have hag : (∃ ix, i.ag = .path i.id ix) ∨ i.ag = .handler i.id :=
    (State.view_agent hv hc).imp (fun ⟨ix, x⟩ => ⟨ix, x.1⟩) (fun ⟨_, x⟩ => x.1)
  have he := Iss.owns_issued h o (fun _ => hk.g _) (fun _ => hk.c _) ⟨i.T, by rw [hk.t]; exact Iss.issued_teamOf h _⟩
  obtain ⟨hg, hpath, -⟩ := he.group hc
  obtain ⟨T, hT⟩ := he.team
  rw [if_neg (by simp [hc])] at hT
  have hrun : runInstr o legal body s = .next ((i.issued o).finish o d) := by
    simp only [runInstr, h.issuing, Iss.begin_issued h ha hp, hb, Iss.close]
  refine ⟨_, _, hrun.trans (congrArg _ (Iss.finish_group hc he hmv hpc hl)), State.view_of_path hag
    (State.group_setGroup _ _ _) (State.path_setPathAt _ hag hg hpath) (by simpa using hT), rfl, rfl,
    after_issued (o := o) h.win (fun _ => hag) ⟨fun _ => ?_, fun x => ?_⟩, rfl, rfl⟩
  · refine groupAfter_withPend (ps := ps) (groupAfter_raise (o := o) (pc := none) (n := pcOn i o.bytes) he.win
      (by simp) ?_ ?_ ?_)
    · simpa using hag
    · simp [State.gview, putWrites, Group.raise]
    · simp [State.gview, putWrites, Group.raise]
  · simp [hc] at x

/-! The memory side of accesses that all lie in the host window. -/

section

variable {u : LsUse} {n : Nat} {k : RKind} {wr whole : Bool} {xs : List Acc}

/-- Accesses to the host window that pass the checks of R173 and meet no refusal. -/
def hostPasses (j : Iss) (u : LsUse) (n : Nat) (k : RKind) (wr : Bool) (xs : List Acc) : Prop :=
  ∀ x ∈ xs, j.lsErr u n x = none ∧ j.refusal j.s n wr (!wr) x = none ∧ isHost x.addr = true ∧
    admitting j.T.regions x.addr (x.addr + n) k ≠ []

theorem hostPasses_check (h : hostPasses j u n k wr xs) : j.lsCheck u n whole xs = .ok () := by
  unfold Iss.lsCheck
  rw [filterMap_none _ _ (fun x hx => by simp [(h x hx).1])]
  rfl

theorem hostPasses_region (h : hostPasses j u n k wr xs) : ∃ marks, j.lsRegion k n whole xs = .ok marks := by
  have hbad : (xs.filter (fun x => regionChecked x.addr && !(k == .read && j.inParam x.addr n))).filter
      (fun x => (admitting j.T.regions x.addr (x.addr + n) k).isEmpty) = [] := by
    rw [List.filter_filter, List.filter_eq_nil_iff]
    intro x hx
    simp [(h x hx).2.2.2]
  unfold Iss.lsRegion
  simp only [hbad]
  exact ⟨_, rfl⟩

/-- Such accesses reach what comes after the checks. -/
theorem hostPasses_checks {α : Type} (hp : j.p.pend = []) (he : ∀ m rs, j.ecc m rs = .ok ())
    (h : hostPasses j u n k wr xs) (whole : Bool) : ∃ marks, ∀ m rs rel (rest : List Nat → Except Stop α),
      (j.ecc m rs >>= fun _ => j.lsCheck u n whole xs >>= fun _ => j.lsRegion k n whole xs >>= fun marks =>
        j.inOrder rel >>= fun _ => rest marks) = rest marks := by
  obtain ⟨marks, hr⟩ := hostPasses_region (whole := whole) h
  refine ⟨marks, fun m rs rel rest => ?_⟩
  rw [he, hostPasses_check h, hr, Iss.inOrder_clear hp]
  rfl

theorem hostPasses_perform (h : hostPasses j u n k wr xs) : j.perform j.s n wr (!wr) whole xs = (xs, j.s) := by
  unfold Iss.perform
  rw [filterMap_none _ _ (fun x hx => by simp [(h x hx).2.1])]

theorem hostPasses_far (h : hostPasses j u n k wr xs) : xs.filter (fun x => isHost x.addr) = xs := by
  rw [List.filter_eq_self]
  exact fun x hx => (h x hx).2.2.1

theorem hostPasses_near (h : hostPasses j u n k wr xs) : xs.filter (fun x => !isHost x.addr) = [] := by
  rw [List.filter_eq_nil_iff]
  intro x hx
  simp [(h x hx).2.2.1]

/-- The host window is no HBM. -/
theorem hbmTop_le_of_isHost {a : Nat} (h : isHost a = true) : hbmTop ≤ a := by
  by_contra hlt
  rw [isHost, whereIs, if_pos (by omega)] at h
  cases h

theorem hostPasses_lines (h : hostPasses j u n k wr xs) : hbmLines xs n = [] := by
  have hno : xs.flatMap (fun x => if x.addr < hbmTop then linesOf x.addr n else []) = [] := by
    rw [List.flatMap_eq_nil_iff]
    intro x hx
    exact if_neg (Nat.not_lt.2 (hbmTop_le_of_isHost (h x hx).2.2.1))
  rw [hbmLines, hno]
  rfl

end

theorem State.room_nil (u : State) (core colour : Nat) : u.room core colour [] = u := by
  unfold State.room
  exact if_pos rfl

/-- A load of no line fills nothing. -/
theorem Iss.fills_nil (j : Iss) (u : State) (n : Nat) : j.fills u false [] n = u := by
  have hb : u.beforeLoad j.core j.colour false [] n = u := by
    show { u.room j.core j.colour [] with mem := (u.room j.core j.colour []).mem } = u
    rw [State.room_nil]
  unfold Iss.fills
  simp only [hb]
  split
  · cases ‹false = true›
  · split
    · rfl
    · split <;> rfl

/-- A store that holds no line. -/
theorem Iss.storing_nil (j : Iss) (u : State) {xs : List Acc} {n : Nat} (h : hbmLines xs n = []) (f : State → State) :
    j.storing u xs n f = f u := by
  unfold Iss.storing
  simp only [h, State.room_nil]
  split <;> rfl

/-- With no watch range no access is counted. -/
theorem State.watchLs_nil {u : State} (h : u.ras.watch = []) (core colour op : Nat) (l : List (Nat × Nat)) :
    u.watchLs core colour op l = u := by
  unfold State.watchLs
  rw [h]
  rfl

/-- The stores of lanes to the host window are posted in their order (R163). -/
theorem foldl_storeBytes_host {xs : List Acc} (h : ∀ x ∈ xs, isHost x.addr = true) (core colour : Nat)
    (bs : Acc → List Byte) (u : State) :
    xs.foldl (fun s x => s.storeBytes core colour x.addr (bs x)) u =
      { u with io := { u.io with out := u.io.out ++ xs.map (fun x => .hostWrite (x.addr - hostBase) (bs x)) } } := by
  induction xs generalizing u with
  | nil => simp
  | cons x xs ih =>
    rw [List.foldl_cons, ih (fun y hy => h y (List.mem_cons_of_mem _ hy)), State.storeBytes,
      if_pos (h x (List.mem_cons_self ..))]
    simp [State.send]

/-- The request of an instruction that has accesses to the host window. -/
theorem Iss.hostOpen_some (j : Iss) (u : State) {xs : List Acc} (hne : xs ≠ []) (n : Nat) (sg : Bool) (dst : HostDst)
    (kind cq : Nat) (expect : List Nat) (acq : Option Nat) (out : Nat → Acc → Out) :
    ∃ r : HostReq, r.lanes = xs.map (·.l) ∧ r.size = n ∧ r.ag = j.ag ∧
      j.hostOpen u xs n sg dst kind cq expect acq out = (some u.io.reqNo, { u with io :=
        { reqs := Tbl.set u.io.reqs u.io.reqNo r, reqNo := u.io.reqNo + 1
          out := u.io.out ++ xs.map (out u.io.reqNo) } }) := by
  cases xs with
  | nil => exact absurd rfl hne
  | cons x xs => exact ⟨_, rfl, rfl, rfl, rfl⟩

theorem Iss.atHome_false (j : Iss) (n : Nat) (wr : Bool) (xs : List Acc) : j.atHome false n wr xs = j.s := rfl

theorem State.afterLoad_false (u : State) (core colour sc : Nat) : u.afterLoad core colour sc false = u := rfl

theorem State.releasing_false (u : State) (core colour sc : Nat) (as : List Nat) (f : State → State) :
    u.releasing core colour sc false as f = f u := rfl

/-! LD and ST. -/

/-- The zeros that a load holds for its lanes until their data arrives. -/
def hostZeros (j : Iss) (w : Long) (xs : List Acc) : List RegWrite :=
  let m := maskOfLanes (xs.map (·.l))
  if (tyOf w).w = 128 then j.vpResult w.d.toNat m (byLane []) 0 else j.vResult (tyOf w).w w.d.toNat m (byLane [])

/-- What a load leaves whose accesses all lie in the host window: one request, and zeros held for its lanes. -/
def hostLoad (j : Iss) (w : Long) (xs : List Acc) : Done :=
  let t := tyOf w
  let r := j.hostOpen j.s xs (t.w / 8) t.signed (.v (j.G.rowNo w.d.toNat)) 0 7 [] (Long.acqScope w) (readOut (t.w / 8))
  { s := r.2, ws := hostZeros j w xs, flags := 0, pc := none, req := r.1, moved := false }

/-- What a store leaves whose accesses all lie in the host window: the records it marks and its messages. -/
def hostStore (j : Iss) (w : Long) (marks : List Nat) (xs : List Acc) : Done :=
  let n := (tyOf w).w / 8
  let u := j.s.markWritten j.T.task marks
  Done.only { u with io := { u.io with out := u.io.out ++ xs.map (fun x =>
    .hostWrite (x.addr - hostBase) (leBytes n ((j.vVals (tyOf w).w w.d.toNat).getD x.l 0))) } }

theorem State.markWritten_rest (u : State) (task : Nat) (marks : List Nat) :
    (u.markWritten task marks).mem = u.mem ∧ (u.markWritten task marks).io = u.io ∧
      (u.markWritten task marks).ras = u.ras := by
  unfold State.markWritten
  split <;> exact ⟨rfl, rfl, rfl⟩

theorem Iss.issued_rest (hs : i.s = s) (o : Op) :
    (i.issued o).s.mem = s.mem ∧ (i.issued o).s.io = s.io ∧ (i.issued o).s.ras = s.ras := by
  subst hs
  unfold Iss.issued
  split <;> exact ⟨rfl, rfl, rfl⟩

theorem hostLoad_runs (o : Op) (hord : w.ord = 0) : ∃ body, (∀ s, memLd o w s = runInstr o (ruleLd o w).ok body s) ∧
    ∀ j : Iss, j.p.pend = [] → (∀ m rs, j.ecc m rs = .ok ()) → j.s.ras.watch = [] →
      hostPasses j useLd ((tyOf w).w / 8) .read false (accesses j w (j.active o) w.off10 (pvBit w)) →
      body j = .ok (hostLoad j w (accesses j w (j.active o) w.off10 (pvBit w))) := by
  refine ⟨_, fun _ => rfl, fun j hp he hw h => ?_⟩
  obtain ⟨marks, hc⟩ := hostPasses_checks hp he h false
  refine (hc _ _ _ _).trans ?_
  have hacq : acquires w = false := by rw [acquires, hord]; rfl
  have hper : j.perform j.s _ false true false _ = _ := hostPasses_perform (whole := false) h
  simp only [Iss.accs_eq, pvBit_eq, acquires_eq, hacq, Iss.atHome_false, hper, hostPasses_far h, hostPasses_near h,
    Iss.fills_nil, State.afterLoad_false, State.watchLs_nil hw]
  rfl

theorem hostStore_runs (o : Op) (hord : w.ord = 0) : ∃ body, (∀ s, memSt o w s = runInstr o (ruleSt o w).ok body s) ∧
    ∀ j : Iss, j.p.pend = [] → (∀ m rs, j.ecc m rs = .ok ()) → j.s.ras.watch = [] →
      hostPasses j useSt ((tyOf w).w / 8) .write true (accesses j w (j.active o) w.off10 (pvBit w)) →
      ∃ marks, body j = .ok (hostStore j w marks (accesses j w (j.active o) w.off10 (pvBit w))) := by
  refine ⟨_, fun _ => rfl, fun j hp he hw h => ?_⟩
  obtain ⟨marks, hc⟩ := hostPasses_checks hp he h false
  refine ⟨marks, (hc _ _ _ _).trans ?_⟩
  have hrel : (w.ord == 2) = false := by rw [hord]; rfl
  have hper : j.perform j.s _ true false false _ = _ := hostPasses_perform (whole := false) h
  obtain ⟨-, -, hras⟩ := State.markWritten_rest j.s j.T.task marks
  simp only [Iss.accs_eq, pvBit_eq, hper, Iss.storing_nil _ _ (hostPasses_lines h), hrel, State.releasing_false,
    foldl_storeBytes_host (fun x hx => (h x hx).2.2.1)]
  rw [State.watchLs_nil (hras ▸ hw)]
  simp only [← List.getD_eq_getElem?_getD]
  rfl

/-- The request of such a load, and the state with it. -/
theorem hostLoad_eq (j : Iss) (w : Long) {xs : List Acc} (hne : xs ≠ []) : ∃ r : HostReq,
    r.lanes = xs.map (·.l) ∧ r.size = (tyOf w).w / 8 ∧ r.ag = j.ag ∧ hostLoad j w xs =
      { s := { j.s with io :=
          { reqs := Tbl.set j.s.io.reqs j.s.io.reqNo r, reqNo := j.s.io.reqNo + 1
            out := j.s.io.out ++ xs.map (readOut ((tyOf w).w / 8) j.s.io.reqNo) } }
        ws := hostZeros j w xs, flags := 0, pc := none, req := some j.s.io.reqNo, moved := false } := by
  obtain ⟨r, hl, hs, ha, ho⟩ := Iss.hostOpen_some j j.s hne ((tyOf w).w / 8) (tyOf w).signed
    (.v (j.G.rowNo w.d.toNat)) 0 7 [] (Long.acqScope w) (readOut ((tyOf w).w / 8))
  refine ⟨r, hl, hs, ha, ?_⟩
  rw [hostLoad, ho]

/-- What the statement asks of the accesses, as the body meets it. -/
theorem hostPasses_issued {u : LsUse} {n : Nat} {k : RKind} {wr : Bool} {imm : Int} {pv : Bool}
    (hf : ∀ x ∈ accesses (i.issued o) w (i.active o) imm pv, (i.issued o).lsErr u n x = none ∧
      (i.issued o).refusal (i.issued o).s n wr (!wr) x = none ∧ isHost x.addr = true ∧
      admitting i.T.regions x.addr (x.addr + n) k ≠ []) :
    hostPasses (i.issued o) u n k wr (accesses (i.issued o) w ((i.issued o).active o) imm pv) := by
  rw [Iss.issued_active]
  intro x hx
  rw [Iss.issued_T]
  exact hf x hx

end Sys2Proof.Machine

section

open Sys2Proof Sys2Proof.Machine Sys2Proof.Safety Sys2Proof.Rules

/-- Settles O55: the accesses pass and none is near (`hostPasses`), so the body of LD answers the request that it opens
(`hostLoad_runs`, `hostLoad_eq`) and that of ST its posted writes (`hostStore_runs`); neither writes a register at once
(`runInstr_group`). -/
theorem hostWindowAccess : Obligations.HostWindowAccess := by
  intro w s i h hw n far oL oS xL xS
  obtain ⟨ag, -, hv⟩ := State.cur_view h.issuing
  have hs := (State.view_self hv).1
  refine ⟨fun ha hp hf hord => ?_, fun ha hp hf hord => ?_⟩
  · obtain ⟨hne, hf⟩ := hf
    obtain ⟨hmem, hio, hras⟩ := Iss.issued_rest hs oL
    obtain ⟨body, hx, hb⟩ := hostLoad_runs oL hord
    obtain ⟨r, hl, hsize, hag, hd⟩ := hostLoad_eq (i.issued oL) w hne
    have hpend := (owns0 h oL).pend
    have hrun := hb _ hpend (Iss.issued_ecc i _ h.poison) (hras ▸ hw) (hostPasses_issued hf)
    rw [Iss.issued_active, hd] at hrun
    obtain ⟨t, j, ht, hview, hpc, hpd, hafter, htio, htmem⟩ := runInstr_group h (Iss.admits_group rfl ha) ha hp hrun
      rfl rfl (keeps_of _ _ rfl rfl rfl) (landGroup_request hpend _ _ _)
    rw [hio] at hpd htio
    refine ⟨t, j, _, (hx s).trans ht, hview, hpc, hpd, rfl, rfl, ?_⟩
    rw [htio]
    exact ⟨rfl, hafter, rfl, ⟨r, Tbl.get_set_same _ _ _, hl, hsize, hag.trans (Iss.issued_ag _ _)⟩, htmem.trans hmem⟩
  · obtain ⟨-, hf⟩ := hf
    obtain ⟨hmem, hio, hras⟩ := Iss.issued_rest hs oS
    obtain ⟨body, hx, hb⟩ := hostStore_runs oS hord
    have hpend := (owns0 h oS).pend
    obtain ⟨marks, hrun⟩ := hb _ hpend (Iss.issued_ecc i _ h.poison) (hras ▸ hw) (hostPasses_issued hf)
    obtain ⟨mmem, mio, -⟩ := State.markWritten_rest (i.issued oS).s (i.issued oS).T.task marks
    rw [Iss.issued_active] at hrun
    obtain ⟨t, j, ht, hview, hpc, hpd, hafter, htio, htmem⟩ := runInstr_group h (Iss.admits_group rfl ha) ha hp hrun
      rfl rfl ((keeps_mark _ _ _).trans (keeps_of _ _ rfl rfl rfl)) (landGroup_nil hpend _)
    refine ⟨t, j, (hx s).trans ht, hview, hpc, hpd, hafter, ?_, htmem.trans (mmem.trans hmem)⟩
    rw [htio]
    simp only [hostStore, Done.only, mio, hio]
    rfl

end

/-! PROOFS. Phases of a barrier (R217). -/

namespace Sys2Proof.Machine

/-- What the completion of phases keeps of a barrier, with the phases that it completed (R217). -/
def Barrier.Completed (b c : Barrier) (p : Nat) : Prop :=
  c.cph = b.cph + BitVec.ofNat 32 p ∧ c.arr + p * b.arrN = b.arr ∧ c.byt + p * b.bytN = b.byt ∧
    c.owner = b.owner ∧ c.arrN = b.arrN ∧ c.bytN = b.bytN

theorem Barrier.completed_zero (b : Barrier) : b.Completed b 0 := by simp [Barrier.Completed]

/-- One phase before `p` others. -/
theorem Barrier.Completed.succ {b c : Barrier} {p : Nat} (ha : b.arrN ≤ b.arr) (hb : b.bytN ≤ b.byt)
    (h : Barrier.Completed { b with cph := b.cph + 1, arr := b.arr - b.arrN, byt := b.byt - b.bytN } c p) :
    b.Completed c (p + 1) := by
  obtain ⟨hc, har, hby, ho, hn, hm⟩ := h
  refine ⟨?_, ?_, ?_, ho, hn, hm⟩
  · rw [hc]
    bv_omega
  · simp only at har
    rw [Nat.succ_mul]
    omega
  · simp only at hby
    rw [Nat.succ_mul]
    omega

/-- With more fuel than arrivals, an owned barrier settles: every phase takes at least one arrival. -/
theorem Barrier.settle_completed {n : Nat} {b : Barrier} (ho : b.owner ≠ none) (h1 : 1 ≤ b.arrN) (hf : b.arr < n) :
    ∃ p, b.Completed (b.settle n) p ∧ ((b.settle n).arr < b.arrN ∨ (b.settle n).byt < b.bytN) := by
  induction n generalizing b with
  | zero => omega
  | succ n ih =>
    by_cases hs : b.arrN ≤ b.arr ∧ b.bytN ≤ b.byt
    · obtain ⟨ha, hb⟩ := hs
      have step : b.settle (n + 1) =
          Barrier.settle n { b with cph := b.cph + 1, arr := b.arr - b.arrN, byt := b.byt - b.bytN } := by
        simp [Barrier.settle, ha, hb, h1, Option.isSome_iff_ne_none.mpr ho]
      obtain ⟨p, hp, hlt⟩ := ih (b := { b with cph := b.cph + 1, arr := b.arr - b.arrN, byt := b.byt - b.bytN })
        ho h1 (by simp only; omega)
      rw [step]
      exact ⟨p + 1, hp.succ ha hb, hlt⟩
    · have stay : b.settle (n + 1) = b := if_neg (by simp_all)
      rw [stay]
      exact ⟨0, b.completed_zero, by omega⟩

end Sys2Proof.Machine

section

open Sys2Proof Sys2Proof.Machine

/-- Settles O57: the barrier of the state's answer is the settled one (`State.bar_setBar`), and it settles within one more
step than it has arrivals (`Barrier.settle_completed`). -/
theorem barrierPhases : Obligations.BarrierPhases := by
  intro s core h n by' ho h1
  obtain ⟨p, ⟨hc, har, hby, hw, hn, hm⟩, hlt⟩ := Barrier.settle_completed
    (b := { s.bar core h with arr := (s.bar core h).arr + n, byt := (s.bar core h).byt + by' }) ho h1 (Nat.lt_succ_self _)
  simp only [State.arrive, State.bar_setBar]
  exact ⟨p, hc, har, hby, hlt, hw, hn, hm⟩

end

/-! PROOFS. A record whose capabilities are not in the canonical encoding, appended by QSUB (R39, R355, R356). -/

namespace Sys2Proof.Machine

open Sys2Proof.Safety Sys2Proof.Rules

/-- The first bytes of an image header that the loader accepts: magic number, version 2, RTAB 32 (R98). -/
def imageHeader : List Byte := [0x4E, 0x55, 0x44, 0, 0, 2, 0, 0, 0, 0, 0, 0, 0, 0, 0, 0, 32]

/-- A READY package with that header at the base of the code capability. -/
def imageAt0 : State := Tests.up (State.reset.placed false imageHeader)

/-- Read access to the 64 KiB at 0, in the canonical encoding. -/
def recordData : CapV := CapV.mint 0 pLD 1 0 0x10000 0x1000

/-- Write access to the same bytes, encoded at exponent 4 where exponent 0 suffices. -/
def wideRing : CapV :=
  (⟨BitVec.ofNat 128 (pST * 2 ^ 68 + 2 ^ 56 + 0x1000), false⟩ : CapV).encodeAt 19 4 0 0x10000 0

/-- The bytes of a record: CODE, PARAM, RGN and RING, one role of one group, one team in each dimension (R349). -/
def wideRecord : List Byte :=
  leBytes 16 CapV.codePage.bits.toNat ++ leBytes 16 recordData.bits.toNat ++ leBytes 16 recordData.bits.toNat ++
    leBytes 16 wideRing.bits.toNat ++ leBytes 64 0 ++
    leBytes 16 1 ++ leBytes 4 1 ++ leBytes 4 1 ++ leBytes 4 1 ++ leBytes 4 1 ++ leBytes 96 0

/-- The record that QSUB reads there. -/
def wideRead : BitVec 2048 := BitVec.ofNat 2048 (leNat wideRecord)

/-- RING's bounds are the 64 KiB at 0 all the same, and its encoding is not the canonical one (R39). -/
theorem wideRing_notCanonical : wideRing.base = 0 ∧ wideRing.top = 0x10000 ∧ wideRing.canonical ≠ wideRing := by
  decide +kernel

/-- A record that lies in the host is read as the host sends it (R355). -/
theorem State.qsubRead_host (s : State) (f : Nat) {a : Nat} {bs : List Byte} (ha : isHost a = true) (hl : bs.length = 256) :
    s.qsubRead f a (some bs) = some (BitVec.ofNat 2048 (leNat bs), s) := by
  simp [State.qsubRead, ha, hl]

/-- A QSUB that is not turned away appends the record that it reads. -/
theorem exec_qsub_appends {s u : State} {f q a : Nat} {data : Option (List Byte)} {r : BitVec 2048}
    (ho : s.owns f q = true) (hf : (s.fn f).flr = 0) (hn : (s.queue q).qcnt < 4096)
    (hr : s.qsubRead f (a % 2 ^ 56) data = some (r, u)) :
    exec (.qsub f q a data) s = .next (u.appendTask q f r 0 true qsubRank).2 := by
  have hx : exec (.qsub f q a data) s = execQsub f q a data s := rfl
  simp only [hx, execQsub, ho, hf, hr, Nat.not_le.2 hn]
  simp

theorem imageAt0_qsubRead : imageAt0.qsubRead 0 (hostBase % 2 ^ 56) (some wideRecord) = some (wideRead, imageAt0) :=
  State.qsubRead_host _ _ (by decide) (by decide +kernel)

/-- Queue 3 is function 0's, and there is room in it. -/
theorem imageAt0_takes : imageAt0.owns 0 3 = true ∧ (imageAt0.fn 0).flr = 0 ∧ (imageAt0.queue 3).qcnt < 4096 := by
  decide +kernel

/-- The package with that record appended to queue 3. -/
def wideAppended : State := (imageAt0.appendTask 3 0 wideRead 0 true qsubRank).2

theorem exec_wideRecord : exec (.qsub 0 3 hostBase (some wideRecord)) imageAt0 = .next wideAppended :=
  exec_qsub_appends imageAt0_takes.1 imageAt0_takes.2.1 imageAt0_takes.2.2 imageAt0_qsubRead

/-- The task stands, not refused, with RING's slot minted: its record is not the one read (R356). -/
theorem wideAppended_record : ∀ k, wideAppended.task (taskKey 3 1) = some k → k.complete = false ∧ k.record ≠ wideRead := by
  intro k hk
  have h : (wideAppended.task (taskKey 3 1)).all (fun k => !k.complete && k.record != wideRead) = true := by
    decide +kernel
  rw [hk] at h
  simpa using h

end Sys2Proof.Machine

section

open Sys2Proof Sys2Proof.Machine Sys2Proof.Safety Sys2Proof.Rules

/-- Refutes O50: a QSUB whose record holds a RING capability with the bounds of a page in an encoding that is not the
canonical one (`wideRing_notCanonical`). It is accepted, and the task then holds the minted capability, so its record is
not the record read (`wideAppended_record`), which is what the rule asks. -/
theorem not_stepsComplete : ¬ Obligations.StepsComplete := by
  unfold Obligations.StepsComplete comes
  intro h
  obtain ⟨ho, hf, hn⟩ := imageAt0_takes
  have hr : imageAt0.qsubRead 0 (hostBase % 2 ^ 56) (some wideRecord) ≠ none := imageAt0_qsubRead ▸ Option.some_ne_none _
  obtain ⟨t, ht, -, hk⟩ := h (.qsub 0 3 hostBase (some wideRecord)) _ imageAt0 rfl ⟨trivial, ho, hf, hn, hr⟩
  rw [exec_wideRecord] at ht
  obtain rfl : wideAppended = t := Host.Outcome.next.inj ht
  obtain ⟨k, hkey, -, hrec, -⟩ := hk _ _ imageAt0_qsubRead
  exact (wideAppended_record k hkey).2 hrec

end

/-! PROOFS. Records, retirement, starvation, hints and sleep (R126, R222, R229, R243, R251). -/

namespace Sys2Proof.Machine

open Sys2Proof.Safety Sys2Proof.Rules

/-! A record written to the ring of a team (R222). -/

/-- A record of the ring's queue written to the ring's next slot. -/
def State.record (s : State) (n : Nat) (T : Team) (r : RingRec) (rank : Nat) : State :=
  (s.setTeam n { T with ringQ := T.ringQ.erase r }).ringWrite n r.bits rank

section
variable (s : State) (n : Nat) (T : Team) (r : RingRec) (rank : Nat)

/-- The record as 32 bytes: RIDX in its bits 255:192. -/
def Team.recordBytes (T : Team) (r : RingRec) : List Byte := leBytes 32 (r.bits.toNat + (T.ridx + 1) % 2 ^ 64 * 2 ^ 192)

theorem State.record_eq : s.record n T r rank =
    { (s.setTeam n { T with ringQ := T.ringQ.erase r }).setTeam n
        { T with ringQ := T.ringQ.erase r, ridx := T.ridx + 1, ringLast := ⟨s.clock + 1, rank⟩ } with
      mem := s.mem.homeWrite (cstoreOf T.core T.tslot + 0x3000 + 32 * (T.ridx % 32)) (T.recordBytes r) } := by
  simp [State.record, State.ringWrite, Team.recordBytes]

theorem State.team_record : (s.record n T r rank).team n =
    some { T with ringQ := T.ringQ.erase r, ridx := T.ridx + 1, ringLast := ⟨s.clock + 1, rank⟩ } := by
  rw [State.record_eq]
  exact Tbl.get_set_same _ _ _

theorem State.record_mem : (s.record n T r rank).mem =
    s.mem.homeWrite (cstoreOf T.core T.tslot + 0x3000 + 32 * (T.ridx % 32)) (T.recordBytes r) := by
  rw [State.record_eq]

theorem teamOnly_record : teamOnly n s (s.record n T r rank) := by
  rw [State.record_eq]
  exact ((teamOnly_setTeam _ _ _).trans (teamOnly_setTeam _ _ _)).trans (teamOnly_mem _ _ _)

theorem State.record_sec : (s.record n T r rank).sec = s.sec := by
  rw [State.record_eq]
  rfl

end

/-- Team n and storage apart, nothing differs where protection is as before. -/
theorem teamOnly.only {n : Nat} {s t : State} (h : teamOnly n s t) (hs : t.sec = s.sec) : only [.teams, .mem] s t := by
  intro p hp
  by_cases e : p = .sec
  · subst e
    exact hs
  · exact h.1 p (by simp_all)

/-- The bytes of the slot, and no others (R222). -/
theorem ringed_record {s : State} {n : Nat} {T : Team} (hT : s.team n = some T) (r : RingRec) (rank : Nat) :
    ringed n r s (s.record n T r rank) := by
  intro T' hT'
  obtain rfl : T = T' := Option.some.inj (hT.symm.trans hT')
  have hl : (T.recordBytes r).length = 32 := by simp [Team.recordBytes, leBytes]
  refine ⟨⟨_, State.team_record .., rfl, rfl, rfl⟩, fun j hj => ?_, fun b hb => ?_⟩
  · rw [State.record_mem]
    refine (Memory.read_writeN_inside _ _ j _ (by omega)).trans ?_
    rw [← getD_eq_getElem 0 (by omega)]
    rfl
  · rw [State.record_mem]
    exact Memory.read_writeN_outside _ _ b _ (by omega)

theorem noticeRecord_comes {s : State} {n : Nat} {r : RingRec} (h : noticed s n r) :
    ∃ T, s.team n = some T ∧ exec (.noticeRecord n) s = .next (s.record n T r (T.ringRank (bitsOf r.bits.toNat 29 26))) := by
  obtain ⟨T, hT, hr, hroom, hturn⟩ := h
  have hx : exec (.noticeRecord n) s = execNoticeRecord n s := rfl
  refine ⟨T, hT, ?_⟩
  simp [hx, execNoticeRecord, hT, hr, stepIf, State.ringOpen, hroom, hturn, State.record]

/-! The command whose record has been written (R222, R223). -/

theorem State.putCmd_sec (s : State) (n ch : Nat) (x : Cmd) : (s.putCmd n ch x).sec = s.sec := by
  unfold State.putCmd
  split <;> rfl

theorem State.noteCmd_sec (s : State) (n ch : Nat) (x : Cmd) : (s.noteCmd n ch x).sec = s.sec := by
  unfold State.noteCmd
  split <;> rfl

theorem State.settleChain_sec (n ch k : Nat) (s : State) : (State.settleChain n ch k s).sec = s.sec := by
  induction k generalizing s with
  | zero => rfl
  | succ k ih =>
    rw [State.settleChain]
    split
    · rfl
    · dsimp only
      split
      · rfl
      · split
        · split
          · exact State.noteCmd_sec _ _ _ _
          · exact (ih _).trans (State.noteCmd_sec _ _ _ _)
        · exact (ih _).trans (State.putCmd_sec _ _ _ _)

theorem State.rungCmd_sec (s : State) (n ch : Nat) (q : Word) : (s.rungCmd n ch q).sec = s.sec := by
  unfold State.rungCmd
  split
  · split
    · exact (State.settleChain_sec _ _ _ _).trans (State.putCmd_sec _ _ _ _)
    · rfl
  · rfl

theorem teamOnly_rungCmd (n ch : Nat) (s : State) (q : Word) : teamOnly n s (s.rungCmd n ch q) := by
  unfold State.rungCmd
  split
  · split
    · exact (teamOnly_putCmd _ _ _ _).trans (teamOnly_settleChain _ _ _ _)
    · exact teamOnly.refl _ _
  · exact teamOnly.refl _ _

theorem chainKept_rungCmd (n ch : Nat) (s : State) (q : Word) : chainKept n ch s (s.rungCmd n ch q) := by
  unfold State.rungCmd
  split
  · split
    · exact (chainKept_putCmd _ _ _ _).trans (chainKept_settleChain _ _ _ _)
    · exact chainKept.refl _ _ _
  · exact chainKept.refl _ _ _

/-- A command of a chain has the number by which it is found. -/
theorem Chain.cmd_seq {x : Chain} {q : Word} {c : Cmd} (h : x.cmd q = some c) : c.seq = q := by
  simpa using List.find?_some h

/-- Settling its chain leaves a complete command complete. -/
theorem Cmd.settled.complete {c c' : Cmd} (h : c.settled c') (hc : c.complete = true) : c'.complete = true := by
  obtain ⟨st, rung, rfl, rfl | ⟨hn, -, -⟩⟩ := h
  · exact hc
  · simp [hn] at hc

/-- A command that ended its work DONE, TAGFAIL or ABANDONED is complete once its record has been written. -/
theorem State.rungCmd_complete {s : State} {n ch : Nat} {q : Word} {c : Cmd} (h : s.cmd n ch q = some c)
    (hf : c.fin = 2 ∨ c.fin = 3 ∨ c.fin = 6) : ∃ c', (s.rungCmd n ch q).cmd n ch q = some c' ∧ c'.complete = true := by
  have h0 : c.fin ≠ 0 := by omega
  cases hc : c.complete with
  | true => exact ⟨c, by simp [State.rungCmd, h, hc], hc⟩
  | false =>
    obtain ⟨T, -, hq⟩ := State.cmd_some h
    obtain ⟨c', h1, h2⟩ := State.cmd_settleChain 66
      (onlyCmd_putCmd (x := { c with status := c.fin }) h (Chain.cmd_seq (c := c) hq))
    refine ⟨c', ?_, h2.complete ?_⟩
    · simpa [State.rungCmd, h, hc, h0] using h1.1
    · rcases hf with e | e | e <;> simp [Cmd.complete, e]

theorem engineCompletionRecord_comes {s : State} {n ch q : Nat} {r : RingRec}
    (h : queued s n (fun r => r.chain == some ch && r.seq == BitVec.ofNat 32 q) (fun _ => ch) r) :
    ∃ T, s.team n = some T ∧
      exec (.engineCompletionRecord n ch q) s = .next ((s.record n T r ch).rungCmd n ch (BitVec.ofNat 32 q)) := by
  obtain ⟨T, hT, hr, hroom, hturn⟩ := h
  have hx : exec (.engineCompletionRecord n ch q) s = execEngineCompletionRecord n ch q s := rfl
  have hq := List.find?_some hr
  simp only [Bool.and_eq_true, beq_iff_eq] at hq
  refine ⟨T, hT, ?_⟩
  simp [hx, execEngineCompletionRecord, hT, hr, stepIf, State.ringOpen, hroom, hturn, State.record, hq.2]

/-- The record in the ring, and its command complete. -/
theorem engineCompletionRecord_gives {s : State} {n ch : Nat} {q : Word} {T : Team} (hT : s.team n = some T) (r : RingRec) :
    teamNow s ((s.record n T r ch).rungCmd n ch q) n (fun T T' => T'.ridx = T.ridx + 1 ∧
      ∀ c, (T.chain ch).cmd q = some c → ch < T.chains.length → c.fin = 2 ∨ c.fin = 3 ∨ c.fin = 6 →
        ∃ c', (T'.chain ch).cmd q = some c' ∧ c'.complete = true) := by
  intro T1 hT1
  obtain rfl : T = T1 := Option.some.inj (hT.symm.trans hT1)
  have hrec := State.team_record s n T r ch
  obtain ⟨T', hT', -, -, hridx, -⟩ := chainKept_rungCmd n ch (s.record n T r ch) q _ hrec
  refine ⟨T', hT', hridx, fun c hc _ hf => ?_⟩
  obtain ⟨c', h1, h2⟩ := State.rungCmd_complete (State.cmd_of hrec hc) hf
  obtain ⟨T2, hT2, h3⟩ := State.cmd_some h1
  obtain rfl : T' = T2 := Option.some.inj (hT'.symm.trans hT2)
  exact ⟨c', h3, h2⟩

/-! What a trap of one group leaves of another (R93, R338). -/

/-- The agent is a path or the handler of a group. -/
def agentOf (g : Nat) : Agent → Prop
  | .path x _ => x = g
  | .handler x => x = g
  | .ctl _ => False

section
variable {s : State} {g : Nat} {ag : Agent}

theorem State.group_toLevel2 (s : State) (t cause sub : Nat) (word : Word) (g : Nat) :
    (s.toLevel2 t cause sub word).group g = s.group g := by
  unfold State.toLevel2
  dsimp only
  split <;> split <;> rfl

theorem State.group_setPath_other (h : ¬ agentOf g ag) (p : Path) : (s.setPath ag p).group g = s.group g := by
  cases ag with
  | path x ix =>
    simp only [State.setPath]
    split
    · exact State.group_setGroup_other _ _ h
    · rfl
  | handler x =>
    simp only [State.setPath]
    split
    · exact State.group_setGroup_other _ _ h
    · rfl
  | ctl t =>
    simp only [State.setPath]
    split <;> rfl

/-- A group stops at the boundary of one of its own agents. -/
theorem Group.stopAt_agent (G : Group) {x : Nat} (hx : x ≠ g) (h : ¬ agentOf g ag) : ¬ agentOf g (G.stopAt x ag).2 := by
  cases ag with
  | path y ix => exact hx
  | handler y => exact h
  | ctl t => exact h

theorem State.group_deliver1_other {x : Nat} (hx : x ≠ g) (h : ¬ agentOf g ag) (t : Trap) (esc arm : Bool) (resume : Word64) :
    (s.deliver1 x ag t esc arm resume).group g = s.group g := by
  unfold State.deliver1
  split
  · rfl
  · rename_i G _
    have hag := Group.stopAt_agent G hx h
    dsimp only
    generalize ({ (G.stopAt x ag).1 with run := .trapped, cause := _, resume := (G.stopAt x ag).2 } : Group) = H
    cases (s.setGroup x H).path (G.stopAt x ag).2 with
    | none =>
      dsimp only
      split
      · split
        · exact State.group_setGroup_other _ _ hx
        · exact State.group_setGroup_other _ _ hx
      · exact (State.group_toLevel2 _ _ _ _ _ _).trans (State.group_setGroup_other _ _ hx)
    | some p =>
      have hset : ((s.setGroup x H).setPath (G.stopAt x ag).2 { p with pc := resume, wait := none }).group g = s.group g :=
        (State.group_setPath_other hag _).trans (State.group_setGroup_other _ _ hx)
      dsimp only
      split
      · split
        · exact hset
        · exact hset
      · exact (State.group_toLevel2 _ _ _ _ _ _).trans hset

/-- A trap of an agent leaves every group but its own as it is. -/
theorem State.group_takeTrap_other (h : ¬ agentOf g ag) (t : Trap) : (s.takeTrap ag t).group g = s.group g := by
  cases ag with
  | path x ix =>
    have hx : x ≠ g := h
    simp only [State.takeTrap]
    split
    · split
      · exact State.group_toLevel2 _ _ _ _ _ _
      · rfl
    · split
      · rfl
      · split
        · rfl
        · split
          · exact State.group_setPath_other h _
          · split
            · exact (State.group_deliver1_other hx h _ _ _ _).trans (State.group_setGroup_other _ _ hx)
            · exact State.group_setGroup_other _ _ hx
  | handler x =>
    have hx : x ≠ g := h
    simp only [State.takeTrap]
    split
    · split
      · exact State.group_toLevel2 _ _ _ _ _ _
      · rfl
    · split
      · rfl
      · split
        · rfl
        · split
          · exact State.group_setPath_other h _
          · exact (State.group_deliver1_other hx h _ _ _ _).trans (State.group_setGroup_other _ _ hx)
  | ctl x =>
    simp only [State.takeTrap]
    split
    · exact State.group_toLevel2 _ _ _ _ _ _
    · split
      · split
        · exact State.group_setPath_other h _
        · exact State.group_toLevel2 _ _ _ _ _ _
      · rfl

end

/-- A group without a path and without a handler has no agent that could trap. -/
theorem State.path_idle {s : State} {g : Nat} {G : Group} (hG : s.group g = some G) (hs : G.stack = [])
    (hh : G.handler = none) {ag : Agent} {p : Path} (hp : s.path ag = some p) : ¬ agentOf g ag := by
  intro h
  cases ag with
  | path x ix =>
    obtain rfl : x = g := h
    simp [State.path, hG, hs] at hp
  | handler x =>
    obtain rfl : x = g := h
    simp [State.path, hG, hh] at hp
  | ctl t => exact h

/-- The detector leaves such a group as it is (R338). -/
theorem State.group_detectN {s : State} {g : Nat} {G : Group} (hG : s.group g = some G) (hs : G.stack = [])
    (hh : G.handler = none) (core n : Nat) : (State.detectN core n s).group g = some G := by
  induction n generalizing s with
  | zero => exact hG
  | succ n ih =>
    rw [State.detectN]
    split
    · exact hG
    · split
      · exact hG
      · rename_i ag w _ p hp
        exact ih ((State.group_takeTrap_other (State.path_idle hG hs hh hp) _).trans hG)

/-! Retirement (R126, R221, R321). -/

theorem State.group_dropDrains (s : State) (t grp g : Nat) : (s.dropDrains t grp).group g = s.group g := by
  unfold State.dropDrains
  split
  · rfl
  · have h := teamOnly_foldl t (fun (s : State) (c : Cmd) => match s.cmd t 1 c.seq with
        | some c => if c.accepted && c.status == 1 && c.fin == 0 then s.endCmd t 1 c 6 else s
        | none => s)
      (fun u c => by
        split
        · split
          · exact teamOnly_endCmd _ _ _ _ _
          · exact teamOnly.refl _ _
        · exact teamOnly.refl _ _)
    exact congrArg (Tbl.get · g) ((h _ s).1 .groups (by decide))

/-- The group as it stands once it has retired. -/
def Group.retire (G : Group) : Group := { G with run := .retired, v := [], vtag := [], drain := [], poison := [] }

theorem State.group_retireGroup {s : State} {g : Nat} {G : Group} (hs : G.stack = []) (hh : G.handler = none) :
    (s.retireGroup g G).group g = some G.retire := by
  unfold State.retireGroup State.detect
  refine State.group_detectN ?_ (G := G.retire) hs hh _ _
  rw [State.group_dropDrains, State.group_setCore]
  exact State.group_setGroup _ _ _

theorem Group.row_retire (G : Group) (r : Nat) : G.retire.row r = zeroRow := by
  simp [Group.row, Group.retire, Tbl.get]
theorem Group.quadTags_retire (G : Group) (q : Nat) : G.retire.quadTags q = 0 := rfl

theorem groupRetirement_comes {s : State} {g : Nat} {G : Group} (hG : s.group g = some G) (hr : G.run = .running)
    (hs : G.stack = []) (hh : G.handler = none) (ho : G.ops = []) (hl : G.orphans = []) :
    exec (.groupRetirement g) s = .next (s.retireGroup g G) := by
  have hx : exec (.groupRetirement g) s = execGroupRetirement g s := rfl
  simp [hx, execGroupRetirement, hG, hr, hs, hh, ho, hl]

/-! Starvation, hints, sleep (R229, R243, R251). -/

theorem starvationRaise_comes {s : State} {g : Nat} {G : Group} (hG : s.group g = some G) (h : 64 ≤ G.starve)
    (hr : G.raised = none) : exec (.starvationRaise g) s = .next (s.setGroup g { G with raised := some s.clock }) := by
  have hx : exec (.starvationRaise g) s = execStarvationRaise g s := rfl
  simp [hx, execStarvationRaise, hG, h, hr, stepIf]

theorem hintCyclesExpiry_comes {s : State} {ag : Agent} {p : Path} (hp : s.path ag = some p)
    (h : (p.crit ≠ 0 ∧ p.crit ≤ s.clock) ∨ (p.spin ≠ 0 ∧ p.spin ≤ s.clock)) :
    exec (.hintCyclesExpiry ag) s = .next (s.setPath ag
      { p with crit := if p.crit ≤ s.clock then 0 else p.crit, spin := if p.spin ≤ s.clock then 0 else p.spin }) := by
  have hx : exec (.hintCyclesExpiry ag) s = execHintCyclesExpiry ag s := rfl
  have hd : ∀ n, (if (n != 0 && decide (n ≤ s.clock)) = true then 0 else n) = if n ≤ s.clock then 0 else n := by
    intro n
    by_cases hn : n = 0 <;> simp [hn]
  have hc : (p.crit != 0 && decide (p.crit ≤ s.clock) || p.spin != 0 && decide (p.spin ≤ s.clock)) = true := by simpa using h
  simp only [hx, execHintCyclesExpiry, hp, stepIf, hc, hd, if_true]

/-- An ended sleep runs its SLEEP, a NOP of row 0x3F, from the state after the fetch. -/
theorem sleepEnd_comes {s : State} {ag : Agent} {o : Op} {j : Iss} (h : woken s ag o j) :
    lands (j.issued o) (exec (.sleepEnd ag) s) (pcOn j o.bytes) [] 0 (j.issued o).s := by
  obtain ⟨⟨i, till, w, ws, u, hv, hwait, htill, hf, rfl, hclear⟩, ha, hp⟩ := h
  have hx : exec (.sleepEnd ag) s = execSleepEnd ag s := rfl
  have hpath := State.path_of_view hv
  have e : exec (.sleepEnd ag) s = ctlNop { Op.short 0x3F 6 with bytes := 4 * wordCount w } { u with cur := some ag } := by
    simp [hx, execSleepEnd, hpath, hv, hwait, hf, Nat.not_lt.2 htill, ctlNop]
  rw [e]
  exact nop_does hclear _ ha hp rfl trivial (by simp [nopRule])

end Sys2Proof.Machine

section

open Sys2Proof Sys2Proof.Machine Sys2Proof.Safety Sys2Proof.Rules

/-- Settles O30: each step answers the state of its lemma above (`noticeRecord_comes` to `sleepEnd_comes`). -/
theorem recordSteps : Obligations.RecordSteps := by
  unfold Obligations.RecordSteps comes
  intro x r s hr hok
  cases x with
  | noticeRecord n =>
    cases hr
    obtain ⟨r, hn⟩ := hok
    obtain ⟨T, hT, hx⟩ := noticeRecord_comes hn
    have hteam := teamOnly_record s n T r (T.ringRank (bitsOf r.bits.toNat 29 26))
    refine ⟨_, hx, fun r' hn' => ?_, hteam.2, hteam.only (State.record_sec ..)⟩
    obtain ⟨T1, hT1, hr1, -⟩ := hn
    obtain ⟨T2, hT2, hr2, -⟩ := hn'
    obtain rfl : T1 = T2 := Option.some.inj (hT1.symm.trans hT2)
    obtain rfl : r = r' := Option.some.inj (hr1.symm.trans hr2)
    exact ringed_record hT _ _
  | engineCompletionRecord n ch q =>
    cases hr
    obtain ⟨r, hq⟩ := hok
    obtain ⟨T, hT, hx⟩ := engineCompletionRecord_comes hq
    have hteam := (teamOnly_record s n T r ch).trans (teamOnly_rungCmd n ch _ (BitVec.ofNat 32 q))
    exact ⟨_, hx, engineCompletionRecord_gives hT r, hteam.2,
      hteam.only ((State.rungCmd_sec _ _ _ _).trans (State.record_sec ..))⟩
  | groupRetirement g =>
    cases hr
    obtain ⟨G, hG, hrun, hs, hh, ho, hl⟩ := hok
    exact ⟨_, groupRetirement_comes hG hrun hs hh ho hl, G.retire, State.group_retireGroup hs hh, rfl, G.row_retire,
      G.quadTags_retire, rfl⟩
  | starvationRaise g =>
    cases hr
    obtain ⟨G, hG, hst, hn⟩ := hok
    refine ⟨_, starvationRaise_comes hG hst hn, fun G' hG' => ?_⟩
    obtain rfl : G = G' := Option.some.inj (hG.symm.trans hG')
    rfl
  | hintCyclesExpiry ag =>
    cases hr
    obtain ⟨p, hp, h⟩ := hok
    refine ⟨_, hintCyclesExpiry_comes hp h, fun p' hp' => ?_⟩
    obtain rfl : p = p' := Option.some.inj (hp.symm.trans hp')
    rfl
  | sleepEnd ag =>
    cases hr
    obtain ⟨o, j, h⟩ := hok
    obtain ⟨t, k, ht, -⟩ := sleepEnd_comes h
    exact ⟨t, ht, fun o' j' h' => ht ▸ sleepEnd_comes h'⟩
  | _ => cases hr

end

/-! PROOFS. Work given to the engines and waited for: rows 0x3C and 0x3D, and TLAUNCH (R195 to R223, R232). -/

namespace Sys2Proof.Machine

open Sys2Proof.Safety Sys2Proof.Rules

variable {s t : State} {i j : Iss} {out : Out1} {o : Op} {w : Long}

/-! Steps in sequence. -/

/-- A step that ends well, and what follows it. -/
theorem except_ok_bind {ε α β : Type} (a : α) (f : α → Except ε β) : (Except.ok a >>= f) = f a := rfl

/-- Steps in sequence that end well. -/
theorem except_bind_ok {ε α β : Type} {x : Except ε α} {f : α → Except ε β} {b : β} (h : x >>= f = .ok b) :
    ∃ a, x = .ok a ∧ f a = .ok b := by
  cases x with
  | error e => cases h
  | ok a => exact ⟨a, rfl, h⟩

/-! The view of a body, and the note of what an agent gave to the engines. -/

/-- A view with which a form is executed: it owns its state, reads no poison, shows its team, and its stream has the form. -/
structure Iss.executes (i : Iss) (o : Op) (j : Iss) : Prop where
  owns : i.owns j j.s
  ecc : ∀ m rs, j.ecc m rs = .ok ()
  team : j.s.team j.team = some j.T
  thread : j.ctl = true → j.team = j.id
  control : j.ctl = true → o.inControl = true

theorem Iss.executes_issued {l : Iss → Bool} (h : Clear s i) (ha : i.admits o l) : i.executes o (i.issued o) where
  owns := owns0 h o
  ecc := Iss.issued_ecc i o h.poison
  team := by simpa using Iss.issued_teamOf h o
  thread := by
    intro hc
    obtain ⟨ag, -, hv⟩ := State.cur_view h.issuing
    rw [Iss.issued_ctl] at hc
    obtain ⟨hag, -⟩ := State.view_thread hv hc
    obtain rfl : ag = .ctl i.id := (State.view_self hv).2.1.symm.trans hag
    obtain ⟨C, T, -, -, hi⟩ := State.view_ctl hv
    rw [Iss.issued_team, Iss.issued_id, congrArg Iss.team hi]
    rfl
  control := by
    intro hc
    rw [Iss.issued_ctl] at hc
    simpa [hc] using ha.1

/-- The view of a form that the control stream has not is a group's. -/
theorem Iss.executes.group (hj : i.executes o j) (ho : o.inControl = false) : j.ctl = false := by
  cases hc : j.ctl with
  | false => rfl
  | true => exact absurd (hj.control hc) (by simp [ho])

/-- Two views that differ at most in what a group's paths have given to the engines. -/
def Iss.sameButNote (e e' : Iss) : Prop := ∃ l, e = { e' with G := { e'.G with appended := l } }

theorem Iss.sameButNote.refl (e : Iss) : e.sameButNote e := ⟨e.G.appended, rfl⟩

/-- The note of a group is no register: what completes for the one view completes for the other. -/
theorem lands_sameButNote {e e' : Iss} {pc : Word64} {ws : List RegWrite} {fl : Nat} (h : e.sameButNote e')
    (hl : lands e' out pc ws fl e'.s) : lands e out pc ws fl e.s := by
  obtain ⟨l, rfl⟩ := h
  obtain ⟨t, k, hout, hv, hpc, hwait, ⟨hgroup, hctx⟩, helse⟩ := hl
  refine ⟨t, k, hout, hv, hpc, hwait, ⟨fun hc => ?_, fun hc => ?_⟩, ?_⟩
  · obtain ⟨rows, tags, preds, hk, flags, ktag, window, others, handler, path⟩ := hgroup hc
    exact ⟨rows, tags, preds, hk, flags, ktag, window, others, handler, path⟩
  · obtain ⟨c, ctag, cfw, thread, path⟩ := hctx hc
    exact ⟨c, ctag, cfw, thread, path⟩
  · obtain ⟨groups, ctxs, storage, clock, rest⟩ := helse
    exact ⟨groups, ctxs, storage, clock, rest⟩

/-- A form whose body, from any view that executes it, answers what its rule says; its effect may differ in that note. -/
theorem executes_does {r : Rule} {body : Body} (h : Clear s i) (hx : out = runInstr r.op r.ok body s)
    (hb : ∀ j, i.executes r.op j → r.pre j → ∃ e, (r.eff j).sameButNote e ∧ i.owns e e.s ∧ body j = .ok
      { s := e.s, ws := r.ws j, flags := r.fl j, pc := r.pc j, req := none, moved := false }) : r.does i out := by
  intro ha hp hla hpre hm
  obtain ⟨e, hn, ho, hbody⟩ := hb _ (Iss.executes_issued h ha) hpre
  have hd : ({ r with eff := fun _ => e } : Rule).does i out :=
    rule_does h hx _ (fun _ => hbody) rfl rfl rfl rfl rfl (fun _ => ho) (fun _ x => x)
  exact lands_sameButNote hn (hd ha hp hla hpre hm)

/-- The same, where the rule's effect is the body's. -/
theorem effect_does {r : Rule} {body : Body} (h : Clear s i) (hx : out = runInstr r.op r.ok body s)
    (ho : ∀ j, i.executes r.op j → r.pre j → i.owns (r.eff j) (r.eff j).s)
    (hb : ∀ j, i.executes r.op j → r.pre j → body j = .ok
      { s := (r.eff j).s, ws := r.ws j, flags := r.fl j, pc := r.pc j, req := none, moved := false }) : r.does i out :=
  executes_does h hx (fun j hj hp => ⟨_, .refl _, ho j hj hp, hb j hj hp⟩)

/-- The same groups and contexts; every team that is there stays. -/
structure keepsAgents (a b : State) : Prop where
  groups : ∀ n, b.group n = a.group n
  ctxs : ∀ n, b.ctx n = a.ctx n
  teams : ∀ n T, a.team n = some T → ∃ T', b.team n = some T'

theorem keepsAgents.trans {a b c : State} (h : keepsAgents a b) (h' : keepsAgents b c) : keepsAgents a c where
  groups := fun n => (h'.groups n).trans (h.groups n)
  ctxs := fun n => (h'.ctxs n).trans (h.ctxs n)
  teams := fun n T hT => by
    obtain ⟨T', hT'⟩ := h.teams n T hT
    exact h'.teams n T' hT'

theorem keeps.agents {a b : State} (h : keeps a b) : keepsAgents a b :=
  ⟨h.g, h.c, fun n T hT => ⟨T, (h.t n).trans hT⟩⟩

theorem keepsAgents_setTeam (s : State) (n : Nat) (T : Team) : keepsAgents s (s.setTeam n T) where
  groups := fun _ => rfl
  ctxs := fun _ => rfl
  teams := fun m T' hT' => by
    rw [State.team_set]
    split
    · exact ⟨_, rfl⟩
    · exact ⟨_, hT'⟩

/-- A view in a state with the same agents. -/
theorem owns_agents (hj : i.owns j j.s) (hk : keepsAgents j.s t) : i.owns { j with s := t } t := by
  have hpath : t.path i.ag = j.s.path i.ag := by
    cases i.ag <;> simp only [State.path, hk.groups, hk.ctxs]
  refine ⟨hj.ag, hj.ctl, hj.id, fun hc => ?_, fun hc => ?_, ?_, hj.pend, hj.win, hj.wait, hj.mask⟩
  · rw [hk.groups, hpath]
    exact hj.group hc
  · rw [hk.ctxs]
    exact hj.ctx hc
  · obtain ⟨T, hT⟩ := hj.team
    exact hk.teams _ T hT

/-! SHEAF and WSHEAF (R209). -/

def sheafRule (w : Long) : Rule :=
  { op := Op.long 0x3C 1 w, ok := fun i => i.dOnce 32 w.d.toNat && w.bsel != 3
    pre := fun i => i.G.openSheaves < 16
    ws := fun i => [.k (w.d.toNat % 64) (i.G.k55 + 1)]
    eff := fun i => withG i { i.G with k55 := i.G.k55 + 1 } }

theorem sheaf_does (h : Clear s i) (w : Long) : (sheafRule w).does i (execSheaf w s) := by
  refine effect_does h rfl (fun j hj _ => ?_) (fun j _ hp => ?_)
  · exact withG_owns h hj.owns rfl (by rw [← hj.owns.ctl]; exact hj.group rfl) _ rfl rfl rfl rfl
  · have hroom : ¬ 16 ≤ j.G.openSheaves := Nat.not_le.2 hp
    simp only [if_neg hroom, Iss.results, kResult, Nat.reduceEqDiff, if_false, BitVec.ofNat_toNat, BitVec.setWidth_eq]
    rfl

def wsheafRule (w : Long) : Rule :=
  { op := Op.long 0x3C 2 w, ok := fun i => i.bOnce w 32
    pre := fun i => seqBefore i.G.k55 (sheafNo w i) = false ∧
      (∀ x ∈ i.G.ops, i.G.sheafUpTo (sheafNo w i) x.sheaf = false) ∧
      ∀ f ∈ i.G.fails, i.G.sheafUpTo (sheafNo w i) f.sheaf = false }

theorem wsheaf_does (h : Clear s i) (w : Long) : (wsheafRule w).does i (execWsheaf w s) := by
  refine effect_does h rfl (fun j hj _ => hj.owns) (fun j hj hp => ?_)
  obtain ⟨hno, hops, hfails⟩ := hp
  have hnone : j.G.ops.any (fun x => j.G.sheafUpTo (sheafNo w j) x.sheaf) = false := by
    rw [List.any_eq_false]
    exact fun x hx => by simp [hops x hx]
  have hcov : j.G.fails.filter (fun f => j.G.sheafUpTo (sheafNo w j) f.sheaf) = [] := by
    rw [List.filter_eq_nil_iff]
    exact fun f hf => by simp [hfails f hf]
  unfold sheafNo at hno hnone hcov
  simp only [hj.ecc, Bind.bind, Except.bind, hno, hnone, hcov, Bool.false_eq_true, if_false]
  rfl

/-! WSEQ (R201). -/

def wseqRule (w : Long) : Rule :=
  { op := Op.long 0x3C 6 w, ok := fun i => w.sc.toNat % 4 < 3 && i.bOnce w 32
    pre := fun i => seqBefore (i.T.chain (w.sc.toNat % 4)).cseq (seqTarget w i) = false
    eff := fun i => withPath i { i.p with target := none } }

theorem wseq_does (h : Clear s i) (w : Long) : (wseqRule w).does i (execWseq w s) := by
  refine effect_does h rfl (fun j hj _ => ?_) (fun j hj (hp : seqBefore _ _ = false) => ?_)
  · exact (withPath_owns h hj.owns rfl { j.p with target := none } hj.owns.pend hj.owns.win hj.owns.wait hj.owns.mask).1
  · have hset : j.s.setTarget j.ag none = (withPath j { j.p with target := none }).s := by
      rw [← (withPath_owns h hj.owns rfl { j.p with target := none } hj.owns.pend hj.owns.win hj.owns.wait hj.owns.mask).2]
      simp only [State.setTarget, hj.owns.ag, owns_path h hj.owns]
    have hdone : (!seqBefore (j.T.chain (w.sc.toNat % 4)).cseq (seqTarget w j)) = true := by simpa using hp
    unfold seqTarget at hdone
    simp only [hj.ecc, Bind.bind, Except.bind, hdone, if_true, hset]
    rfl

/-! WCHK (R207). -/

def wchkRule (w : Long) : Rule :=
  { op := Op.long 0x3C 4 w, ok := fun i => i.aOnce w 64 && i.dOnce 64 w.d.toNat && w.bsel != 2 && i.bOnce w 32
    pre := chunkEnds w
    ws := fun i => i.dResult tN64 w.d.toNat (chunkLeft w i)
    eff := fun i => if chunkOut w i then { i with s := i.s.draw.2 } else i }

theorem keeps_draw (s : State) : keeps s s.draw.2 := keeps_of _ _ rfl rfl rfl

/-- What ends a WCHK where a command owns the bitmap, as its body tests it. -/
theorem chunkEnds_owner {c : Cmd} (hp : chunkEnds w j) (hown : j.T.owner (w.bits 31 19) = some c) : c.status ≠ 4 ∧
    (c.complete || if w.sc.getLsbD 0 = true then chunkLeft w j != chunkMask w j else chunkLeft w j == 0) = true := by
  unfold chunkEnds at hp
  simp only [hown] at hp
  obtain ⟨hfault, hend⟩ := hp
  refine ⟨hfault, ?_⟩
  rcases hend with hc | hc
  · simp [hc]
  · rw [Bool.or_eq_true]
    right
    split at hc
    next hany => simpa only [if_pos hany, bne_iff_ne] using hc
    next hany => simpa only [if_neg hany, beq_iff_eq] using hc

/-- The body's test for a bitmap that leaves the scratchpad is kept as a name (`out`): unfolded, it costs the kernel much. -/
theorem wchk_does (h : Clear s i) (w : Long) : (wchkRule w).does i (execWchk w s) := by
  refine effect_does h rfl (fun j hj _ => ?_) (fun j hj hp => ?_)
  · dsimp only [wchkRule]
    split
    · exact owns_keeps hj.owns (keeps_draw _)
    · exact hj.owns
  · rw [hj.ecc, except_ok_bind]
    extract_lets m c0 out
    have ho : chunkOut w j = out := rfl
    clear_value out
    have hread : (if out = true then j.s.draw else (0, j.s)) =
        (if out = true then j.s.draw.1 else 0, ((wchkRule w).eff j).s) := by
      dsimp only [wchkRule]
      rw [ho]
      cases out <;> rfl
    have hleft : j.s.chunksClear j.T (w.bits 31 19) c0 m (if out = true then j.s.draw.1 else 0) = chunkLeft w j := by
      rw [← ho]
      rfl
    have hmask : chunkMask w j = m := rfl
    clear_value m c0
    rw [hread]
    simp only [hleft]
    cases hown : j.T.owner (w.bits 31 19) with
    | none => rfl
    | some c =>
      obtain ⟨hfault, hdone⟩ := chunkEnds_owner hp hown
      rw [hmask] at hdone
      exact (if_neg hfault).trans (if_pos hdone)

/-! DPOST (R221). -/

def dpostRule (w : Long) : Rule :=
  { op := Op.long 0x3C 7 w
    ok := fun i => i.bOnce w 32 && (if postKind w = 0 then decide (postIx w < i.T.groups.length)
      else if postKind w = 1 then decide (postIx w < i.T.roles.length) else postKind w == 2)
    pre := fun i => postDropped w i ∨ (i.s.core i.core).dq.length < 64
    eff := posted w }

theorem dpost_does (h : Clear s i) (w : Long) : (dpostRule w).does i (execDpost w s) := by
  unfold execDpost engDpost
  rw [postKind_eq]
  refine effect_does h rfl (fun j hj _ => ?_) (fun j hj hp => ?_)
  · dsimp only [dpostRule, posted]
    split
    · exact hj.owns
    · exact owns_keeps hj.owns (keeps_core _ _ _)
  · dsimp only [dpostRule] at hp ⊢
    unfold postDropped at hp
    unfold posted
    by_cases hgone : postKind w = 0 ∧ j.s.grpLive j.T (postIx w) = false
    · simp only [if_pos hgone]
      exact if_pos (by simpa [postIx] using hgone)
    · have hroom : ¬ 64 ≤ (j.s.core j.core).dq.length := Nat.not_le.2 (hp.resolve_left hgone)
      simp only [if_neg hgone]
      exact (if_neg (by simpa [postIx] using hgone)).trans (if_neg hroom)

/-! CREC (R222, R223). -/

def crecRule (w : Long) : Rule :=
  { op := Op.long 0x3D 7 w
    ok := fun i => if i.ctl then w.d.toNat % 64 % 4 == 0 && w.d.toNat % 64 ≤ 56 && w.bsel != 3
      else w.asel == 1 && w.a.toNat % 4 == 0 && w.bsel != 3
    pre := fun i => if i.ctl then i.T.ringHeld ≠ 0 else
      i.T.ringHeld < 32 ∧ i.T.ringLast.past i.s.clock (i.T.ringRank i.G.grp) = false
    ws := recordRead w
    eff := recorded w }

theorem keepsAgents_ringWrite (s : State) (n : Nat) (bits : BitVec 192) (rank : Nat) :
    keepsAgents s (s.ringWrite n bits rank) := by
  unfold State.ringWrite
  split
  · exact (keeps.refl s).agents
  · exact (keepsAgents_setTeam _ _ _).trans (keeps_mem _ _).agents

theorem crec_does (h : Clear s i) (w : Long) : (crecRule w).does i (execCrec w s) := by
  refine effect_does h rfl (fun j hj _ => ?_) (fun j hj hp => ?_)
  · dsimp only [crecRule, recorded]
    split
    · exact owns_agents hj.owns (keepsAgents_setTeam _ _ _)
    · exact owns_agents hj.owns (keepsAgents_ringWrite _ _ _ _)
  · dsimp only [crecRule] at hp ⊢
    unfold recorded recordRead
    cases hc : j.ctl with
    | true =>
      simp only [hc, if_true] at hp
      simp only [if_true, if_neg hp]
      rfl
    | false =>
      simp only [hc, Bool.false_eq_true, if_false] at hp
      obtain ⟨hroom, hturn⟩ := hp
      have hopen : (!j.s.ringOpen j.T (j.T.ringRank j.G.grp)) = false := by
        unfold Team.ringHeld at hroom
        simp [State.ringOpen, hroom, hturn]
      simp only [Bool.false_eq_true, if_false, hj.ecc, Bind.bind, Except.bind, hopen]
      rfl

/-! CPL (R208, R304). -/

/-- The sources and the destinations of a CPL, as its rule has them. -/
def cplSrcs (j : Iss) (w : Long) : List Acc := (lanesOf j.p.mask).map (cplSrc j w)
def cplDsts (j : Iss) (w : Long) : List Acc := (lanesOf j.p.mask).map (Rules.cplDst j w)

/-- Each destination is made of its lane's source. -/
theorem cplDsts_eq (j : Iss) (w : Long) : (cplSrcs j w).map (fun x =>
    let d := j.cplDst w x.l
    (⟨x.l, d, x.a - (x.c.cursor : Int) + (d.cursor : Int)⟩ : Acc)) = cplDsts j w := by
  unfold cplSrcs cplDsts
  rw [List.map_map]
  rfl

/-- The copies lane by lane. -/
theorem cplLanes_eq (j : Iss) (w : Long) (n : Nat) : ((cplSrcs j w).zip (cplDsts j w)).map (fun (x, d) =>
    ({ lane := x.l, src := x.addr, dst := d.addr
       keep := !(cplDsts j w).any (fun e => x.l < e.l && e.addr == d.addr)
       tagged := n == 16 && x.c.has pLC && d.c.has pSC } : CopyLane)) = cplLanes j w n := by
  unfold cplSrcs cplDsts cplLanes
  rw [List.zip_map', List.map_map]
  rfl

/-- No capability failure on either side. -/
theorem Iss.cplErrs_nil {n : Nat} {src dst : List Acc}
    (hs : ∀ x ∈ src, j.cplErr ⟨[0, 3], pLD, true, false, fun _ => none⟩ n x = none)
    (hd : ∀ x ∈ dst, j.cplErr ⟨[0], pST, true, true, fun _ => none⟩ n x = none) : j.cplErrs n src dst = [] := by
  dsimp only [Iss.cplErrs]
  rw [filterMap_none _ src (fun x hx => by rw [hs x hx]; rfl), filterMap_none _ dst (fun x hx => by rw [hd x hx]; rfl),
    List.append_nil, List.mergeSort_nil]

/-- The accesses that pass leave none to report. -/
theorem checked_undeclared {u : LsUse} {n : Nat} {k : RKind} {xs : List Acc} (h : checked j u n k xs) :
    xs.filter (fun x => regionChecked x.addr && !(k == .read && j.inParam x.addr n) &&
      (admitting j.T.regions x.addr (x.addr + n) k).isEmpty) = [] := by
  rw [List.filter_eq_nil_iff]
  intro x hx
  obtain ⟨-, hfree | ⟨rfl, hparam⟩ | hreg⟩ := h x hx
  · simp [hfree]
  · simp [hparam]
  · simp [hreg]

/-- Both sides pass the region check, and the written records are marked (R376). -/
theorem Iss.cplRegion_ok {us ud : LsUse} {n : Nat} {src dst : List Acc} (hs : checked j us n .read src)
    (hd : checked j ud n .write dst) : j.cplRegion n src dst = .ok (marked j .write n dst) := by
  simp only [Iss.cplRegion, checked_undeclared hs, checked_undeclared hd, List.append_nil, List.mergeSort_nil]
  rfl

theorem cpl_does (h : Clear s i) (ho : o.inControl = false) (w : Long) : (cpl o w).does i (engCpl o w s) := by
  refine effect_does h rfl (fun j hj _ => ?_) (fun j hj hp => ?_)
  · have hm := owns_keeps hj.owns (keeps_mark j.s j.T.task (marked j .write ((cplWidth w.ty.toNat).getD 4) (cplDsts j w)))
    exact withG_owns h hm rfl (by rw [← hj.owns.ctl]; exact hj.group ho) _ rfl rfl rfl rfl
  · obtain ⟨hout, hs, hd⟩ := hp
    change checked j _ _ _ (cplSrcs j w) at hs
    change checked j _ _ _ (cplDsts j w) at hd
    have hsrc : j.accs w j.p.mask w.immI false = cplSrcs j w := rfl
    have herrs := Iss.cplErrs_nil (fun x hx => (hs x hx).1) (fun x hx => (hd x hx).1)
    simp only [hj.ecc, Bind.bind, Except.bind, if_neg (Nat.not_le.2 hout), hsrc, cplDsts_eq, cplLanes_eq, herrs,
      Iss.cplRegion_ok hs hd]
    rfl

/-! An append (R126, R197, R198). -/

/-- An answer that is there. -/
theorem answer_some {α : Type} {e : Except Stop α} {x : α} (h : answer e = some x) : e = .ok x := by
  cases e with
  | ok y => exact congrArg _ (Option.some.inj h)
  | error _ => cases h

/-- The state with the command in the next entry of its chain, before the agent notes it. -/
def Iss.entered (j : Iss) (s : State) (ch : Nat) (b : Blk) (bm : Option Nat) (k0 : Int) : State :=
  let c := j.T.chain ch
  let n := c.tseq + 1
  let T := match bm with
    | some o => { j.T with owners := Tbl.set j.T.owners o (ch, n) }
    | none => j.T
  let c := { c with tseq := n, cmds := c.cmds.filter (fun x => x.seq != n &&
    ((n - x.seq).toNat < 64 || T.owns ch x.seq)) ++ [Cmd.new n b bm k0] }
  let s := s.setTeam j.team (T.setChain ch c)
  { s with mem := s.mem.putEntry ((T.setChain ch c).entry ch n) b }

theorem keepsAgents_entered (j : Iss) (s : State) (ch : Nat) (b : Blk) (bm : Option Nat) (k0 : Int) :
    keepsAgents s (j.entered s ch b bm k0) :=
  (keepsAgents_setTeam _ _ _).trans (keeps_mem _ _).agents

/-- An append of the team that the view shows. -/
theorem Iss.append_eq (hT : s.team j.team = some j.T) (ch : Nat) (b : Blk) (bm : Option Nat) (k0 : Int) :
    j.append s ch b bm k0 = ((j.T.chain ch).tseq + 1,
      j.noteGiven (j.entered s ch b bm k0) ch ((j.T.chain ch).tseq + 1).toNat) := by
  cases bm <;> simp only [Iss.append, hT] <;> rfl

/-- The view that has noted what it gave to the engines. -/
def Iss.noted (j : Iss) (s : State) (ch n : Nat) : Iss :=
  { j with s := j.noteGiven s ch n
           G := if j.ctl then j.G else { j.G with appended := j.G.appended ++ [(ch, n)] }
           C := if j.ctl then { j.C with appended := j.C.appended ++ [(ch, n)] } else j.C }

/-- It shows its agent in the state that has the note. -/
theorem noted_owns (h : Clear s i) (hj : i.executes o j) (hk : keepsAgents j.s t) (ch n : Nat) :
    i.owns (j.noted t ch n) (j.noted t ch n).s := by
  have he := owns_agents hj.owns hk
  cases hc : j.ctl with
  | true =>
    have hi : i.ctl = true := hj.owns.ctl.symm.trans hc
    obtain ⟨hC, hp⟩ := he.ctx hi
    obtain ⟨T, hT⟩ := he.team
    have hid : j.team = i.id := (hj.thread hc).trans hj.owns.id
    have hs : (j.noted t ch n).s = t.setCtx i.id { j.C with appended := j.C.appended ++ [(ch, n)] } := by
      simp [Iss.noted, Iss.noteGiven, hc, hid, hC]
    rw [hs]
    refine ⟨he.ag, he.ctl, he.id, fun hg => absurd hg (by simp [hi]), fun _ => ⟨?_, ?_⟩, ⟨T, ?_⟩, he.pend, he.win,
      he.wait, he.mask⟩
    · rw [State.ctx_setCtx]
      simp [Iss.noted, hc]
    · simpa [Iss.noted, hc] using hp
    · simpa [Iss.noted, hi] using hT
  | false =>
    have hi : i.ctl = false := hj.owns.ctl.symm.trans hc
    obtain ⟨hG, -, -⟩ := he.group hi
    have hg := withG_owns h he rfl hi { j.G with appended := j.G.appended ++ [(ch, n)] } rfl rfl rfl rfl
    have hn : j.noted t ch n = withG { j with s := t } { j.G with appended := j.G.appended ++ [(ch, n)] } := by
      have hG' : t.group j.id = some j.G := by rw [hj.owns.id]; exact hG
      simp [Iss.noted, Iss.noteGiven, hc, hG', withG]
    rw [hn]
    exact hg

/-- The view of the rules after an append, and this one. -/
theorem appended_noted (hT : t.team j.team = some j.T) (ch : Nat) (b : Blk) (bm : Option Nat) (k0 : Int) :
    (appended j t ch b bm k0).sameButNote (j.noted (j.entered t ch b bm k0) ch ((j.T.chain ch).tseq + 1).toNat) := by
  refine ⟨j.G.appended, ?_⟩
  simp only [appended, Iss.append_eq hT, Iss.noted]
  cases j.ctl <;> rfl

/-- A form that appends: with a permit free its body, once it has the entry, appends it and delivers the number. -/
theorem appends_does {ch : Iss → Nat} {ok : Iss → Bool} {body : Body}
    {entry : Iss → Option (Blk × State × Option Nat × Int)} (h : Clear s i) (hx : out = runInstr o ok body s)
    (hb : ∀ j b u bm k0, i.executes o j → j.permit (ch j) = .ok () → entry j = some (b, u, bm, k0) →
      keeps j.s u ∧ body j = .ok (j.seqDone w (j.append u (ch j) b bm k0))) : (appends o w ch ok entry).does i out := by
  refine executes_does h hx (fun j hj hp => ?_)
  obtain ⟨hpermit, hsome⟩ := hp
  obtain ⟨⟨b, u, bm, k0⟩, hentry⟩ := Option.isSome_iff_exists.1 hsome
  obtain ⟨hk, hbody⟩ := hb j b u bm k0 hj (if_neg hpermit) hentry
  have hT : u.team j.team = some j.T := (hk.t _).trans hj.team
  refine ⟨_, ?_, noted_owns h hj (hk.agents.trans (keepsAgents_entered j u (ch j) b bm k0)) (ch j)
    ((j.T.chain (ch j)).tseq + 1).toNat, ?_⟩
  · simp only [appends, hentry]
    exact appended_noted hT _ _ _ _
  · rw [hbody, Iss.append_eq hT]
    rfl

/-! The forms that append (R202, R205, R211 to R213, R216). -/

/-- The block of a command is read from a state that keeps every agent and team. -/
theorem Iss.readBlk_keeps {c : CapV} {b : Blk} {u : State} (h : j.readBlk c = .ok (b, u)) : keeps j.s u := by
  unfold Iss.readBlk at h
  split at h
  · cases h
  · cases h
  · cases h
  · dsimp only at h
    split at h
    · cases h
    · cases hreg : j.lsRegion .read 64 true [⟨0, c, c.base⟩] with
      | error e => simp only [hreg, Bind.bind, Except.bind, reduceCtorEq] at h
      | ok marks =>
        cases hord : j.inOrder false with
        | error e => simp only [hreg, hord, Bind.bind, Except.bind, reduceCtorEq] at h
        | ok _ =>
          simp only [hreg, hord, Bind.bind, Except.bind] at h
          split at h
          · cases h
          · cases h
            exact keeps_fills _ _ _ _ _

/-- What a block read gives a rule is what it gives the body. -/
theorem blockAt_some {c : CapV} {x : Blk × State} (h : blockAt j c = some x) : j.readBlk c = .ok x ∧ keeps j.s x.2 :=
  ⟨answer_some h, Iss.readBlk_keeps (answer_some h)⟩

theorem tile_does (h : Clear s i) (o : Op) (w : Long) (opc : Nat) (desc : Bool) :
    (tile o w opc desc).does i (engTile o w opc desc s) := by
  refine appends_does h rfl (fun j b u bm k0 hj hp hentry => ?_)
  cases hentry
  refine ⟨keeps.refl _, ?_⟩
  simp only [hp, Bind.bind, Except.bind]

theorem mma_does (h : Clear s i) (o : Op) (w : Long) : (mma o w).does i (engMma o w s) := by
  refine appends_does h rfl (fun j b u bm k0 hj hp hentry => ?_)
  cases hblk : blockAt j (j.capOnce w.a.toNat) with
  | none => simp only [hblk, reduceCtorEq] at hentry
  | some x =>
    obtain ⟨hread, hk⟩ := blockAt_some hblk
    simp only [hblk] at hentry
    split at hentry
    next hopc =>
      cases hentry
      refine ⟨hk, ?_⟩
      simp only [hp, hread, Bind.bind, Except.bind, hopc, ne_eq, not_true_eq_false, if_false]
    next => cases hentry

theorem apnd_does (h : Clear s i) (o : Op) (w : Long) : (apnd o w).does i (engApnd o w s) := by
  refine appends_does h rfl (fun j b u bm k0 hj hp hentry => ?_)
  cases hblk : blockAt j (j.capOnce w.a.toNat) with
  | none => simp only [hblk, reduceCtorEq] at hentry
  | some x =>
    obtain ⟨hread, hk⟩ := blockAt_some hblk
    simp only [hblk] at hentry
    split at hentry
    next htakes =>
      cases hentry
      refine ⟨hk, ?_⟩
      simp only [hj.ecc, hp, hread, Bind.bind, Except.bind, htakes, Bool.not_true, Bool.false_eq_true, if_false]
    next => cases hentry

theorem copy_does (h : Clear s i) (o : Op) (w : Long) (ch : Nat) : (copy o w ch).does i (engCopy o w ch s) := by
  have hok : ∀ j : Iss, (j.aOnce w 128 && j.dOnce 32 w.d.toNat && w.bsel != 3 &&
      (w.bsel == 2 || j.bOnceReg w (if j.ctl then 64 else 64)) &&
      (ch == 0 || (j.T.roles[j.G.role]?).any (fun r => r.2 == 1))) = (copy o w ch).ok j := fun j => by
    simp only [copy, appends, ite_self]
  unfold engCopy
  rw [funext hok]
  refine appends_does h rfl (fun j b u bm k0 hj hp hentry => ?_)
  unfold copyEntry at hentry
  cases hblk : blockAt j (j.capOnce w.a.toNat) with
  | none => simp only [hblk, reduceCtorEq] at hentry
  | some x =>
    obtain ⟨b0, u0⟩ := x
    obtain ⟨hread, hk⟩ := blockAt_some hblk
    simp only [hblk] at hentry
    split at hentry
    next => cases hentry
    next hpass =>
      push Not at hpass
      obtain ⟨hopc, hgcm, hsize, hbusy⟩ := hpass
      cases hsrc : answer (j.moveCap ch b0 0 (j.copyOffs w).1) with
      | none => simp only [hsrc, reduceCtorEq] at hentry
      | some b1 =>
        cases hdst : answer (j.moveCap ch b1 1 (j.copyOffs w).2) with
        | none => simp only [hsrc, hdst, reduceCtorEq] at hentry
        | some b2 =>
          simp only [hsrc, hdst, Option.some.injEq, Prod.mk.injEq] at hentry
          obtain ⟨rfl, rfl, rfl, rfl⟩ := hentry
          refine ⟨hk.trans (keeps_mem _ _), ?_⟩
          have hplain : ¬(ch = 2 ∧ b0.gcm = true) := fun ⟨e, hg⟩ => hgcm e hg
          have hfree : ¬((!b0.nobm) = true ∧ j.T.bitmapBusy b0.bitmap = true) :=
            fun ⟨e, hg⟩ => hbusy (by simpa using e) hg
          simp only [hj.ecc, hp, hread, Bind.bind, Except.bind, if_neg (not_not.2 hopc), if_neg hplain, if_neg hsize,
            if_neg hfree, answer_some hsrc, answer_some hdst]

/-! COLL (R216). -/

theorem keepsAgents_arrive (s : State) (core b n by' : Nat) : keepsAgents s (s.arrive core b n by') :=
  (keeps_of s (s.arrive core b n by') rfl rfl rfl).agents

/-- The open join written to the team that is there. -/
def State.openedJoin (s : State) (n : Nat) (x : Word × CapV × List Nat) : State :=
  match s.team n with
  | some T => s.setTeam n { T with join := some x }
  | none => s

theorem keepsAgents_openedJoin (s : State) (n : Nat) (x : Word × CapV × List Nat) : keepsAgents s (s.openedJoin n x) := by
  unfold State.openedJoin
  split
  · exact keepsAgents_setTeam _ _ _
  · exact (keeps.refl s).agents

/-- A group's note alone, in whatever state. -/
theorem noted_sameButNote (hc : j.ctl = false) (t u : State) (ch n : Nat) :
    ({ j with s := u } : Iss).sameButNote { j.noted t ch n with s := u } :=
  ⟨j.G.appended, by simp [Iss.noted, hc]⟩

/-- The state in which a later group of the team has joined and arrived. -/
def Iss.joins (j : Iss) (n : Word) (c : CapV) (gs : List Nat) : State :=
  (j.s.setTeam j.team { j.T with join := some (n, c, (j.G.grp :: gs).eraseDups) }).arrive j.core
    ((((j.T.chain 2).cmd n).map (fun x => x.block.get 344 336)).getD 0) 1 0

theorem keepsAgents_joins (j : Iss) (n : Word) (c : CapV) (gs : List Nat) : keepsAgents j.s (j.joins n c gs) :=
  (keepsAgents_setTeam _ _ _).trans (keepsAgents_arrive _ _ _ _ _)

theorem coll_does (h : Clear s i) (ho : o.inControl = false) (w : Long) : (coll o w).does i (engColl o w s) := by
  refine executes_does h rfl (fun j hj hp => ?_)
  obtain ⟨hpermit, hsome⟩ := hp
  obtain ⟨x, hx⟩ := Option.isSome_iff_exists.1 hsome
  have hc := hj.group ho
  simp only [coll, hx, Option.map_some, Option.getD_some]
  unfold collJoined at hx
  cases hopen : j.T.openJoin with
  | some y =>
    obtain ⟨n, c, gs⟩ := y
    simp only [hopen] at hx
    split at hx
    next hpass =>
      cases hx
      obtain ⟨hbase, herr, hbar⟩ := hpass
      refine ⟨_, noted_sameButNote hc (j.joins n c gs) _ 2 n.toNat,
        noted_owns h hj (keepsAgents_joins j n c gs) 2 n.toNat, ?_⟩
      simp only [hj.ecc, Bind.bind, Except.bind, if_neg (not_not.2 hbase), herr, hbar, Bool.not_true, Bool.false_eq_true,
        if_false]
      rfl
    next => cases hx
  | none =>
    simp only [hopen] at hx
    cases hblk : blockAt j (j.capOnce w.a.toNat) with
    | none => simp only [hblk, reduceCtorEq] at hx
    | some y =>
      obtain ⟨b, u⟩ := y
      obtain ⟨hread, hk⟩ := blockAt_some hblk
      simp only [hblk] at hx
      split at hx
      next hpass =>
        cases hx
        obtain ⟨hopc, hbar⟩ := hpass
        have hT : u.team j.team = some j.T := (hk.t _).trans hj.team
        have hpermit : j.permit 2 = .ok () := if_neg (hpermit (by rw [hopen]; rfl))
        have hn := noted_owns h hj (hk.agents.trans (keepsAgents_entered j u 2 b none 0)) 2 ((j.T.chain 2).tseq + 1).toNat
        refine ⟨_, noted_sameButNote hc (j.entered u 2 b none 0) _ 2 ((j.T.chain 2).tseq + 1).toNat,
          owns_agents hn ?_, ?_⟩
        · rw [Iss.append_eq hT]
          exact (keepsAgents_openedJoin _ j.team ((j.T.chain 2).tseq + 1, j.capOnce w.a.toNat, [j.G.grp])).trans
            (keepsAgents_arrive _ _ _ _ _)
        simp only [hj.ecc, Bind.bind, Except.bind, hpermit, hread, if_neg (not_not.2 hopc), hbar, Bool.not_true,
          Bool.false_eq_true, if_false, Iss.append_eq hT]
        rfl
      next => cases hx

/-! The scheduler's append of a record leaves every agent and team (R355, R357). -/

theorem keeps_engRead (s : State) (a n : Nat) : keeps s (s.engRead a n).2 := by
  unfold State.engRead
  split
  · exact keeps_draw s
  · split
    · exact keeps.refl s
    · exact keeps.refl s

theorem keeps_fence (s : State) (core colour sc : Nat) (acq rel : Bool) : keeps s (s.fence core colour sc acq rel) := by
  unfold State.fence
  cases acq <;> cases rel <;> exact keeps_of _ _ rfl rfl rfl

theorem keeps_schedRead {s : State} {colour a n : Nat} {x : List Byte × State} (h : s.schedRead colour a n = .ok x) :
    keeps s x.2 := by
  unfold State.schedRead at h
  split at h
  · cases h
  · cases h
    exact keeps_engRead _ _ _

theorem keeps_takeSlots {colour n : Nat} : ∀ {s t : State} {a : Nat}, s.takeSlots colour a n = .ok t → keeps s t := by
  induction n with
  | zero =>
    intro s t a h
    cases h
    exact keeps.refl s
  | succ n ih =>
    intro s t a h
    rw [State.takeSlots] at h
    obtain ⟨x, hx, h⟩ := except_bind_ok h
    dsimp only at h
    split at h
    · cases h
    · exact (keeps_schedRead hx).trans (ih h)

theorem keeps_checkCaps {s : State} {k : Task} {qsub : Bool} {x : Task × Header × State} (h : s.checkCaps k qsub = .ok x) :
    keeps s x.2.2 := by
  unfold State.checkCaps at h
  obtain ⟨c0, -, h⟩ := except_bind_ok h
  obtain ⟨hb, hhb, h⟩ := except_bind_ok h
  dsimp only at h
  split at h
  · cases h
  · obtain ⟨-, -, h⟩ := except_bind_ok h
    obtain ⟨-, -, h⟩ := except_bind_ok h
    obtain ⟨-, -, h⟩ := except_bind_ok h
    obtain ⟨rb, hrb, h⟩ := except_bind_ok h
    obtain ⟨rs, -, h⟩ := except_bind_ok h
    have hs := (keeps_schedRead hhb).trans (keeps_schedRead hrb)
    split at h
    · obtain ⟨u, hu, h⟩ := except_bind_ok h
      cases h
      exact hs.trans (keeps_takeSlots hu)
    · cases h
      exact hs

theorem keeps_checkRecord {s : State} {k : Task} {qsub : Bool} {x : Task × State} (h : s.checkRecord k qsub = .ok x) :
    keeps s x.2 := by
  unfold State.checkRecord at h
  obtain ⟨y, hy, h⟩ := except_bind_ok h
  dsimp only at h
  split at h
  · cases h
  · split at h
    · cases h
    · obtain ⟨rb, hrb, h⟩ := except_bind_ok h
      split_ifs at h
      cases h
      exact (keeps_checkCaps hy).trans (keeps_schedRead hrb)

theorem keeps_sched (s : State) (x : Sched) : keeps s { s with sched := x } := keeps_of _ _ rfl rfl rfl
theorem keeps_queue (s : State) (q : Nat) (x : Queue) : keeps s (s.setQueue q x) := keeps_of _ _ rfl rfl rfl

theorem keeps_ringStore (s : State) (k : Task) (key : Nat) : keeps s (s.ringStore k key) := by
  unfold State.ringStore
  dsimp only
  split_ifs
  · exact keeps.refl s
  · exact keeps_send _ _
  · exact keeps.refl s
  · exact keeps_mem _ _

theorem keeps_completeTask (s : State) (key status cause sub : Nat) : keeps s (s.completeTask key status cause sub) := by
  unfold State.completeTask
  split
  · exact keeps.refl s
  · split
    · exact keeps.refl s
    · exact (((keeps_task _ _ _).trans (keeps_queue _ _ _)).trans (keeps_ringStore _ _ _)).trans (keeps_sched _ _)

theorem keeps_tagSlots (s : State) (k : Task) : keeps s (s.tagSlots k) := by
  unfold State.tagSlots
  dsimp only
  split
  · exact keeps.refl s
  · exact keeps_mem _ _

theorem keeps_appendTask (s : State) (q f : Nat) (record : BitVec 2048) (tags : BitVec 16) (qsub : Bool) (rank : Nat) :
    keeps s (s.appendTask q f record tags qsub rank).2 := by
  unfold State.appendTask
  dsimp only
  split
  · exact (((keeps_queue _ _ _).trans (keeps_sched _ _)).trans (keeps_task _ _ _)).trans (keeps_completeTask _ _ _ _ _)
  · rename_i k u hk
    have hs := ((keeps_queue _ _ _).trans (keeps_sched _ _)).trans (keeps_checkRecord hk)
    split
    · exact (hs.trans (keeps_task _ _ _)).trans (keeps_tagSlots _ _)
    · exact hs.trans (keeps_task _ _ _)

/-! TLAUNCH (R232). -/

theorem keeps_launched (w : Long) (j : Iss) : keeps j.s (launched w j).2 :=
  ((keeps_fence _ _ _ _ _ _).trans (keeps_engRead _ _ _)).trans (keeps_appendTask _ _ _ _ _ _ _)

theorem tlaunch_does (h : Clear s i) (w : Long) : (tlaunch w).does i (execTlaunch w s) := by
  refine effect_does h rfl (fun j hj _ => owns_keeps hj.owns (keeps_launched w j)) (fun j hj hp => ?_)
  obtain ⟨hcap, halign, hrange, hcount, hflr, hturn, hread⟩ := hp
  have hperf : j.performed = true := by simp [Iss.performed, hj.owns.pend]
  have hqueue : ¬(4096 ≤ (j.s.queue (j.bVal1 w tN64)).qcnt ∨ (j.s.fn j.T.fn).flr ≠ 0 ∨
      (j.s.queue (j.bVal1 w tN64)).last.past j.s.clock (launchRank j.core) = true) := by
    rintro (hx | hx | hx)
    · exact absurd hx (Nat.not_le.2 hcount)
    · exact hx hflr
    · exact absurd hx (by simp [hturn])
  simp only [hcap, if_neg (not_not.2 halign), hrange, hperf, Bool.not_true, Bool.false_eq_true, if_false,
    if_neg hqueue, hread]
  rfl

end Sys2Proof.Machine

section

open Sys2Proof Sys2Proof.Machine Sys2Proof.Safety Sys2Proof.Rules

/-- Settles O24: the body of each form answers what its rule says from any view that executes it (`executes_does`); the forms
that append have one proof (`appends_does`). -/
theorem engineForms : Obligations.EngineForms := by
  unfold Obligations.EngineForms follows
  intro x r s i hr h
  cases x with
  | cpl w => cases hr; exact cpl_does h rfl w
  | sheaf w => cases hr; exact sheaf_does h w
  | wsheaf w => cases hr; exact wsheaf_does h w
  | tcopy w => cases hr; exact copy_does h _ w 0
  | wchk w => cases hr; exact wchk_does h w
  | apnd w => cases hr; exact apnd_does h _ w
  | wseq w => cases hr; exact wseq_does h w
  | dpost w => cases hr; exact dpost_does h w
  | mma w => cases hr; exact mma_does h _ w
  | mzero w => cases hr; exact tile_does h _ w 3 false
  | mload w => cases hr; exact tile_does h _ w 4 true
  | mstore w => cases hr; exact tile_does h _ w 5 true
  | mdrain w => cases hr; exact tile_does h _ w 6 false
  | coll w => cases hr; exact coll_does h rfl w
  | rcopy w => cases hr; exact copy_does h _ w 2
  | crec w => cases hr; exact crec_does h w
  | tlaunch w => cases hr; exact tlaunch_does h w
  | _ => cases hr

end

/-! PROOFS. Storage right after power-up (spec/11_memory_model.md, R268, R269). -/

section

open Sys2Proof Sys2Proof.Machine Sys2Proof.Safety

/-- Settles O9: nothing is listed in storage at power-up, and no L1 holds a line. -/
theorem storageCanonicalAtReset : Obligations.StorageCanonicalAtReset := by
  unfold Obligations.StorageCanonicalAtReset
  exact ⟨Memory.wf_reset, rfl, rfl, rfl, fun e he => absurd he List.not_mem_nil⟩

end

/-! PROOFS. WalkSteps fails: a forward into an L2 that holds its 2^20 lines (R2, R383) draws the free value that says which
copy goes, and its rule has no such draw. -/

namespace Sys2Proof.Machine

open Sys2Proof.Safety Sys2Proof.Rules

/-- In a tower whose L2 is full, room for one more copy takes one free value. -/
theorem State.fresh_l2Room {s : State} {tower : Nat}
    (h : 2 ^ 20 ≤ (s.mem.l2.filter (fun e => e.2.getLsbD tower)).length) : (s.l2Room tower).fresh = s.fresh + 1 := by
  unfold State.l2Room
  rw [if_neg (by rw [List.length_map]; omega)]
  rfl

/-- A forward that visits its one line: the walk moves on, the line is copied. -/
theorem execForward_visits {s : State} {n : Nat} {w : Walk} (hw : Tbl.get s.sched.walks n = some w)
    (hk : w.kind = .forward) (hon : w.on ≠ none) (hc : w.cursor < w.hi) :
    execForward n s = .next ((s.visitLine w (lineOf w.cursor)).setWalk n
      { w with cursor := w.cursor + 128, visited := w.visited + 1 }) := by
  have hon' : w.on.isNone = false := Option.isNone_eq_false_iff.2 (Option.isSome_iff_ne_none.2 hon)
  simp [execForward, hw, hk, State.visitWalk, hon', State.visitLines, Nat.not_le.2 hc]

theorem State.fresh_setWalk (s : State) (n : Nat) (w : Walk) : (s.setWalk n w).fresh = s.fresh := rfl

/-- A line that a forward visits draws what making room in each target tower draws. -/
theorem State.fresh_visitLine_forward {s : State} {w : Walk} (hk : w.kind = .forward) (line : Nat) :
    (s.visitLine w line).fresh = (((List.range 4).filter (fun t => w.scope.testBit t)).foldl State.l2Room s).fresh := by
  simp only [State.visitLine, hk]

/-- A running forward of one line at 0x1000 into tower 0. -/
def forwardRunning : Walk :=
  { kind := .forward, tower := 0, lo := 0x1000, hi := 0x1080, cursor := 0x1000, cls := 0, age := 1, on := some 2, core := 0,
    scope := 1, colour := 1, team := 2 ^ 33, bar := 0, task := 0, visited := 0 }

/-- After power-up, but for the running forward and the lines in the L2 of the towers. -/
def forwardInto (l2 : Store 4) : State :=
  { State.reset with mem := { Mem.reset with l2 := l2 }, sched := { Sched.reset with walks := [(7, forwardRunning)] } }

/-- The forward into a full L2 makes room in tower 0 and so draws. -/
theorem forwardInto_draws {l2 : Store 4} (h : (l2.filter (fun e => e.2.getLsbD 0)).length = 2 ^ 20) (line : Nat) :
    ((forwardInto l2).visitLine forwardRunning line).fresh = 1 := by
  have htowers : (List.range 4).filter (fun t => forwardRunning.scope.testBit t) = [0] := by decide
  rw [State.fresh_visitLine_forward rfl, htowers, List.foldl_cons, List.foldl_nil,
    State.fresh_l2Room (s := forwardInto l2) h.ge]
  rfl

/-- The 2^20 lines from address 0 in the L2 of tower 0. -/
def fullL2 : Store 4 := (List.range (2 ^ 20)).map (fun k => (k, 1))

theorem fullL2_length : (fullL2.filter (fun e => e.2.getLsbD 0)).length = 2 ^ 20 := by
  have hall : fullL2.filter (fun e => e.2.getLsbD 0) = fullL2 := by
    rw [List.filter_eq_self]
    intro e he
    obtain ⟨k, -, rfl⟩ := List.mem_map.1 he
    exact (by decide : (1 : BitVec 4).getLsbD 0 = true)
  rw [hall, fullL2, List.length_map, List.length_range]

end Sys2Proof.Machine

section

open Sys2Proof Sys2Proof.Machine Sys2Proof.Safety Sys2Proof.Rules

/-- Refutes O34: where the L2 of the target tower holds its 2^20 lines (`fullL2`), the forward draws the free value that
names the copy which goes (log 5) and the counter `fresh` advances; the rule of a forward lets only storage and walks
change. -/
theorem not_walkSteps : ¬ Obligations.WalkSteps := by
  unfold Obligations.WalkSteps comes
  intro h
  have hfull := fullL2_length
  generalize fullL2 = l2 at hfull
  have hw : Tbl.get (forwardInto l2).sched.walks 7 = some forwardRunning := rfl
  obtain ⟨t, ht, hgives⟩ := h (.forward 7) _ (forwardInto l2) rfl ⟨forwardRunning, hw, rfl, by decide, by decide⟩
  obtain ⟨-, -, -, -, honly⟩ := hgives forwardRunning hw
  have hx : exec (.forward 7) (forwardInto l2) = _ := execForward_visits hw rfl (by decide) (by decide)
  obtain rfl := Host.Outcome.next.inj (hx.symm.trans ht)
  have hfresh : State.fresh _ = State.fresh _ := honly .fresh (by decide)
  rw [State.fresh_setWalk, forwardInto_draws hfull] at hfresh
  exact absurd hfresh Nat.one_ne_zero

end

/-! PROOFS. Every step keeps storage in its canonical form (spec/11_memory_model.md, R268, R269; R52): what an answer of a
body, of an instruction and of a step has to keep; issue, traps and waits touch no storage. -/

namespace Sys2Proof.Machine

open Sys2Proof.Safety Sys2Proof.Rules

variable {s t : State} {i j : Iss} {α β : Type}

/-! What answers keep. -/

/-- What a body that stops has done by then keeps storage canonical. -/
def Stop.canon : Stop → Prop
  | .trap _ => True
  | .fault _ note => ∀ s : State, memoryWf s.mem → memoryWf (note s).mem
  | .wait _ note => ∀ s : State, memoryWf s.mem → memoryWf (note s).mem

/-- A computation answers values of which P holds, or stops with storage kept canonical. -/
def answers (P : α → Prop) : Except Stop α → Prop
  | .ok a => P a
  | .error e => e.canon

@[simp] theorem answers_ok {P : α → Prop} {a : α} : answers P (.ok a) ↔ P a := Iff.rfl
@[simp] theorem answers_pure {P : α → Prop} {a : α} : answers P (pure a) ↔ P a := Iff.rfl
@[simp] theorem answers_trap {P : α → Prop} {t : Trap} : answers P (.error (.trap t)) := trivial
@[simp] theorem answers_waitOnly {P : α → Prop} {w : WaitWhy} : answers P (.error (.wait w (fun s => s))) := fun _ h => h

@[simp] theorem answers_bind {P : β → Prop} {x : Except Stop α} {f : α → Except Stop β} :
    answers P (x >>= f) ↔ answers (fun a => answers P (f a)) x := by
  cases x <;> rfl

theorem answers.mono {P Q : α → Prop} {x : Except Stop α} (hx : answers P x) (h : ∀ a, P a → Q a) : answers Q x := by
  cases x with
  | ok a => exact h a hx
  | error e => exact hx

/-- An instruction's body keeps storage canonical. -/
def Body.canon (b : Body) : Prop := ∀ i : Iss, memoryWf i.s.mem → answers (fun d => memoryWf d.s.mem) (b i)

/-- What answers a next state answers one whose storage is canonical. -/
def nextWf : Out1 → Prop
  | .next t => memoryWf t.mem
  | _ => True

@[simp] theorem nextWf_next : nextWf (.next t) ↔ memoryWf t.mem := Iff.rfl
@[simp] theorem nextWf_refused (r : Refusal) : nextWf (.refused r) := trivial

theorem nextWf_stepIf {b : Bool} (h : memoryWf s.mem) : nextWf (stepIf b s) := by
  cases b
  · trivial
  · exact h

theorem nextWf_stepSome {x : Option State} (h : ∀ s, x = some s → memoryWf s.mem) : nextWf (stepSome x) := by
  cases x with
  | none => trivial
  | some s => exact h s rfl

theorem wf_ite {c : Prop} [Decidable c] {x y : State} (hx : memoryWf x.mem) (hy : memoryWf y.mem) :
    memoryWf (if c then x else y).mem := by split <;> assumption

theorem State.mem_ite {c : Prop} [Decidable c] {x y : State} {m : Mem} (hx : x.mem = m) (hy : y.mem = m) :
    (if c then x else y).mem = m := by split <;> assumption

/-- The state of a pair taken apart. -/
theorem wf_of_pair {x : α × State} {a : α} (e : x = (a, t)) (h : memoryWf x.2.mem) : memoryWf t.mem := by
  rw [e] at h
  exact h

theorem wf_foldl (f : State → α → State) (hf : ∀ s a, memoryWf s.mem → memoryWf (f s a).mem) (l : List α)
    (h : memoryWf s.mem) : memoryWf (l.foldl f s).mem := by
  induction l generalizing s with
  | nil => exact h
  | cons a l ih => exact ih (hf s a h)

theorem mem_foldl (f : State → α → State) (hf : ∀ s a, (f s a).mem = s.mem) (l : List α) (s : State) :
    (l.foldl f s).mem = s.mem := by
  induction l generalizing s with
  | nil => rfl
  | cons a l ih => exact (ih _).trans (hf s a)

/-! Checks. -/

section
variable {P : Unit → Prop}

@[simp] theorem answers_illegal {P : α → Prop} : answers P (i.illegal) := trivial
@[simp] theorem answers_iss_trap {P : α → Prop} {c k : Nat} {m : LaneMask} : answers P (i.trap c k m) := trivial
theorem answers_ite {P : α → Prop} {c : Prop} [Decidable c] {x y : Except Stop α} (hx : answers P x) (hy : answers P y) :
    answers P (if c then x else y) := by split <;> assumption

@[simp] theorem answers_need {b : Bool} (h : P ()) : answers P (i.need b) := answers_ite h trivial
@[simp] theorem answers_ecc {m : LaneMask} {rs : List SrcReg} (h : P ()) : answers P (i.ecc m rs) :=
  answers_ite h (answers_ite h trivial)
@[simp] theorem answers_inOrder {b : Bool} (h : P ()) : answers P (i.inOrder b) := answers_ite answers_waitOnly h
@[simp] theorem answers_permit {ch : Nat} (h : P ()) : answers P (i.permit ch) := answers_ite answers_waitOnly h

@[simp] theorem answers_capTrap {w : Bool} {l : List (Nat × CapErr)} (h : P ()) : answers P (i.capTrap w l) := by
  unfold Iss.capTrap
  refine answers_ite trivial ?_
  split
  · trivial
  · exact answers_ite h trivial

@[simp] theorem answers_lsCheck {u : LsUse} {n : Nat} {w : Bool} {xs : List Acc} (h : P ()) :
    answers P (i.lsCheck u n w xs) :=
  answers_capTrap h

@[simp] theorem answers_lsRegion {P : List Nat → Prop} {k : RKind} {n : Nat} {w : Bool} {xs : List Acc} (h : ∀ l, P l) :
    answers P (i.lsRegion k n w xs) := by
  unfold Iss.lsRegion
  dsimp only
  split
  · trivial
  · exact h _

@[simp] theorem answers_fpe {P : Nat → Prop} {m : LaneMask} {fl : List Nat} (h : ∀ n, P n) : answers P (i.fpe m fl) :=
  answers_ite (h _) trivial

end

/-! Parts of the state other than storage. -/

@[simp] theorem State.setSlot_mem (s : State) (n : Nat) (x : KeySlot) : (s.setSlot n x).mem = s.mem := rfl
@[simp] theorem State.draw_mem (s : State) : s.draw.2.mem = s.mem := rfl
@[simp] theorem State.follow_mem (s : State) (g : Nat) : (s.follow g).mem = s.mem := rfl

@[simp] theorem State.setPath_mem (s : State) (ag : Agent) (p : Path) : (s.setPath ag p).mem = s.mem := by
  cases ag <;> unfold State.setPath <;> dsimp only <;> split <;> rfl

@[simp] theorem State.toLevel2_mem (s : State) (t c k : Nat) (w : Word) : (s.toLevel2 t c k w).mem = s.mem := by
  unfold State.toLevel2
  dsimp only
  split <;> split <;> rfl

/-! Traps (R335, R337). -/

@[simp] theorem State.deliver1_mem (s : State) (g : Nat) (ag : Agent) (t : Trap) (esc arm : Bool) (r : Word64) :
    (s.deliver1 g ag t esc arm r).mem = s.mem := by
  unfold State.deliver1
  split
  · rfl
  · dsimp only
    repeat' split
    all_goals simp

@[simp] theorem State.takeTrap_mem (s : State) (ag : Agent) (t : Trap) : (s.takeTrap ag t).mem = s.mem := by
  unfold State.takeTrap
  cases ag <;> dsimp only <;> repeat' split
  all_goals simp

/-! Waits and the deadlock detector (R338). -/

theorem State.detectN_mem (core n : Nat) (s : State) : (State.detectN core n s).mem = s.mem := by
  induction n generalizing s with
  | zero => rfl
  | succ n ih =>
    unfold State.detectN
    split
    · rfl
    · split
      · rfl
      · exact (ih _).trans (State.takeTrap_mem ..)

@[simp] theorem State.detect_mem (s : State) (core : Nat) : (s.detect core).mem = s.mem := State.detectN_mem ..

@[simp] theorem State.startWait_mem (s : State) (ag : Agent) (w : WaitWhy) : (s.startWait ag w).mem = s.mem := by
  unfold State.startWait
  split
  · rfl
  · split <;> simp

/-! Issue: the state that a view holds. -/

theorem State.view_s {ag : Agent} (h : s.view ag = some i) : i.s = s := by
  cases ag with
  | path g ix => obtain ⟨G, T, p, -, -, -, rfl⟩ := State.view_path h; rfl
  | handler g => obtain ⟨G, T, x, -, -, -, rfl⟩ := State.view_handler h; rfl
  | ctl t => obtain ⟨C, T, -, -, rfl⟩ := State.view_ctl h; rfl

theorem State.issuing_s (h : s.issuing = some i) : i.s = s := by
  obtain ⟨ag, -, hv⟩ := State.cur_view h
  exact State.view_s hv

theorem Iss.settled_mem {o : Op} (h : i.settled o = some t) : t.mem = i.s.mem := by
  unfold Iss.settled at h
  split at h
  · cases h
  · split at h
    · split at h <;> cases h <;> rfl
    · cases h; rfl

@[simp] theorem Iss.park_mem (i : Iss) (a : ParkAt) : (i.park a).mem = i.s.mem := rfl

@[simp] theorem Iss.tick_mem (i : Iss) (o : Op) : (i.tick o).mem = i.s.mem := by
  unfold Iss.tick
  split <;> rfl

@[simp] theorem State.stepStop_mem (s : State) (g : Nat) (ag : Agent) : (s.stepStop g ag).mem = s.mem := by
  unfold State.stepStop
  dsimp only
  repeat' split
  all_goals simp

@[simp] theorem Iss.aim_s (i : Iss) (o : Op) : (i.aim o).s = i.s := rfl

/-- The storage that stands before the body: the view's that goes on to it, or that of the state in which it does not run. -/
def memBefore : Except State Iss → Mem
  | .error t => t.mem
  | .ok j => j.s.mem

theorem memBefore_ite {c : Prop} [Decidable c] {x y : Except State Iss} {m : Mem} (hx : memBefore x = m)
    (hy : memBefore y = m) : memBefore (if c then x else y) = m := by split <;> assumption

theorem Iss.begin_mem (i : Iss) (o : Op) (legal : Iss → Bool) : memBefore (i.begin o legal) = i.s.mem := by
  unfold Iss.begin
  refine memBefore_ite rfl ?_
  cases i.p.late with
  | cons f rest =>
    simp only [memBefore]
    split <;> simp
  | nil =>
    refine memBefore_ite ?_ ?_
    · simp only [memBefore]
      split <;> simp
    · cases hs : i.settled o with
      | none => simp [memBefore]
      | some s1 =>
        have h1 := Iss.settled_mem hs
        cases hv : s1.view i.ag with
        | none => simpa only [hv, memBefore] using h1
        | some i1 =>
          have h2 : i1.s.mem = i.s.mem := State.view_s hv ▸ h1
          simp only [hv]
          refine memBefore_ite ?_ (memBefore_ite ((s1.takeTrap_mem _ _).trans h1) ?_)
          · simp only [memBefore]
            split <;> simpa using h1
          · cases i1.mustPark o with
            | some a => exact h2
            | none =>
              have ht := (i1.tick_mem o).trans h2
              cases hw : (i1.tick o).view i1.ag with
              | none => simpa [hw, memBefore] using h2
              | some i2 =>
                have h3 : i2.s.mem = i.s.mem := State.view_s hw ▸ ht
                simpa [hw, memBefore] using h3

@[simp] theorem Iss.putBack_mem (i : Iss) (s : State) (G : Group) (p : Path) : (i.putBack s G p).mem = s.mem := by
  unfold Iss.putBack
  dsimp only
  split <;> simp

@[simp] theorem Iss.finish_mem (i : Iss) (o : Op) (d : Done) : (i.finish o d).mem = d.s.mem := by
  unfold Iss.finish
  dsimp only
  repeat' split
  all_goals simp

theorem Iss.before_mem (i : Iss) (o : Op) : (i.before o).s.mem = i.s.mem := by
  unfold Iss.before
  split
  · rename_i t ht
    cases hv : t.view i.ag with
    | none => rfl
    | some j => exact (congrArg State.mem (State.view_s hv)).trans (Iss.settled_mem ht)
  · rfl

theorem Iss.close_wf {i0 : Iss} {o : Op} {x : Except Stop Done} (h0 : memoryWf i0.s.mem)
    (h : answers (fun d => memoryWf d.s.mem) x) : memoryWf (i0.close i o x).mem := by
  cases x with
  | ok d => simpa [Iss.close] using h
  | error e => cases e with
    | trap t => simpa [Iss.close] using h0
    | fault t note => simpa [Iss.close] using h _ h0
    | wait w note => simpa [Iss.close] using h _ h0

/-- One instruction whose body keeps storage canonical keeps it canonical. -/
theorem runInstr_wf {o : Op} {legal : Iss → Bool} {body : Body} (hb : body.canon) (h : memoryWf s.mem) :
    nextWf (runInstr o legal body s) := by
  unfold runInstr
  cases hi : s.issuing with
  | none => trivial
  | some i =>
    have hs : memoryWf i.s.mem := by rw [State.issuing_s hi]; exact h
    have hbeg := i.begin_mem o legal
    simp only
    cases hx : i.begin o legal with
    | error t =>
      rw [hx] at hbeg
      exact (congrArg memoryWf hbeg).mpr hs
    | ok j =>
      rw [hx] at hbeg
      exact Iss.close_wf (by rw [Iss.before_mem]; exact hs) (hb j ((congrArg memoryWf hbeg).mpr hs))

end Sys2Proof.Machine

/-! PROOFS. Every step keeps storage in its canonical form: the accesses of a core, command chains, barriers. -/

namespace Sys2Proof.Machine

open Sys2Proof.Safety Sys2Proof.Rules

variable {s t : State} {i j : Iss} {m : Mem} {o : Op} {w : Long}

/-! Storage. -/

theorem memoryWf_unpin (which : Nat × Nat × Nat → Bool) (h : memoryWf m) : memoryWf (m.unpin which) :=
  ⟨h.bytes, h.tags, h.rel, h.tile, h.lines⟩

theorem memoryWf_dropL2 (line : Nat) (ts : List Nat) (h : memoryWf m) : memoryWf (m.dropL2 line ts) :=
  ⟨h.bytes, h.tags, h.rel, h.tile, h.lines⟩

theorem memoryWf_markFirst (core colour : Nat) (lines : List Nat) (h : memoryWf m) :
    memoryWf (m.markFirst core colour lines) :=
  memoryWf_fold _ (fun m l w => by
    dsimp only
    split
    · exact memoryWf_setLine _ _ _ _ w (line_length _ _ _ w)
    · exact w) lines h

theorem memoryWf_filterL1 (p : Nat × Line → Bool) (h : memoryWf m) : memoryWf { m with l1 := m.l1.filter p } :=
  memoryWf_l1 _ h (fun e he => h.lines e (List.mem_of_mem_filter he))

theorem memoryWf_setTags (l : List Nat) (h : memoryWf m) :
    memoryWf { m with tags := l.foldl (fun t g => Store.write t g 1) m.tags } :=
  ⟨h.bytes, Store.wf_fold _ (fun _ _ w => Store.wf_write _ _ _ w) l h.tags, h.rel, h.tile, h.lines⟩

theorem State.giveUp_wf (core : Nat) (keep : List Nat) (n : Nat) (h : memoryWf s.mem) :
    memoryWf (State.giveUp core keep n s).mem := by
  induction n generalizing s with
  | zero => exact h
  | succ n ih =>
    unfold State.giveUp
    dsimp only
    split
    · exact h
    · exact ih (by simpa using memoryWf_backWhere _ _ h)

@[simp] theorem State.room_wf (core colour : Nat) (lines : List Nat) (h : memoryWf s.mem) :
    memoryWf (s.room core colour lines).mem := by
  unfold State.room
  dsimp only
  split
  · exact h
  · exact State.giveUp_wf _ _ _ h

@[simp] theorem State.markWritten_mem (s : State) (k : Nat) (ixs : List Nat) : (s.markWritten k ixs).mem = s.mem := by
  unfold State.markWritten
  split <;> rfl

@[simp] theorem State.watchAt_mem (s : State) (a b c d e : Nat) (l : List (Nat × Nat)) :
    (s.watchAt a b c d e l).mem = s.mem := by
  unfold State.watchAt
  split
  · rfl
  · refine mem_foldl _ (fun s e => ?_) _ s
    dsimp only
    repeat' split
    all_goals rfl

@[simp] theorem State.watchLs_mem (s : State) (a b c : Nat) (l : List (Nat × Nat)) : (s.watchLs a b c l).mem = s.mem := by
  unfold State.watchLs
  split
  · rfl
  · exact mem_foldl _ (fun s l => State.watchAt_mem ..) _ s

@[simp] theorem State.watchEng_mem (s : State) (a b c d : Nat) (l : List (Nat × Nat)) :
    (s.watchEng a b c d l).mem = s.mem := by
  unfold State.watchEng
  split
  · rfl
  · exact mem_foldl _ (fun s l => State.watchAt_mem ..) _ s

/-! Command chains (R196 to R200). -/

@[simp] theorem State.noteCmd_mem (s : State) (t ch : Nat) (c : Cmd) : (s.noteCmd t ch c).mem = s.mem := by
  unfold State.noteCmd
  split <;> rfl

@[simp] theorem State.putCmd_wf (n ch : Nat) (c : Cmd) (h : memoryWf s.mem) : memoryWf (s.putCmd n ch c).mem := by
  unfold State.putCmd
  split
  · exact h
  · exact memoryWf_homeWrite _ _ h

@[simp] theorem State.settleChain_wf (n ch k : Nat) (h : memoryWf s.mem) : memoryWf (State.settleChain n ch k s).mem := by
  induction k generalizing s with
  | zero => exact h
  | succ k ih =>
    unfold State.settleChain
    dsimp only
    split
    · exact h
    · split
      · exact h
      · split
        · split
          · simpa using h
          · exact ih (by simpa using h)
        · exact ih (State.putCmd_wf _ _ _ h)

@[simp] theorem State.leave_wf (n ch : Nat) (q : Word) (h : memoryWf s.mem) : memoryWf (s.leave n ch q).mem := by
  unfold State.leave
  dsimp only
  split
  · exact memoryWf_unpin _ h
  · split <;> exact h

@[simp] theorem State.endCmd_wf (n ch : Nat) (c : Cmd) (st : Nat) (h : memoryWf s.mem) :
    memoryWf (s.endCmd n ch c st).mem :=
  State.settleChain_wf _ _ _ (by simpa using State.leave_wf _ _ _ h)

@[simp] theorem State.faultCmd_wf (n ch : Nat) (c : Cmd) (a b d e : Nat) (h : memoryWf s.mem) :
    memoryWf (s.faultCmd n ch c a b d e).mem := by
  unfold State.faultCmd
  dsimp only
  split <;> simp [h]

@[simp] theorem State.ringWrite_wf (n : Nat) (bits : BitVec 192) (rank : Nat) (h : memoryWf s.mem) :
    memoryWf (s.ringWrite n bits rank).mem := by
  unfold State.ringWrite
  split
  · exact h
  · exact memoryWf_homeWrite _ _ h

@[simp] theorem State.rungCmd_wf (n ch : Nat) (q : Word) (h : memoryWf s.mem) : memoryWf (s.rungCmd n ch q).mem := by
  unfold State.rungCmd
  split
  · split <;> simp [h]
  · exact h

@[simp] theorem State.abandon_wf (n ch : Nat) (c : Cmd) (h : memoryWf s.mem) : memoryWf (s.abandon n ch c).mem := by
  unfold State.abandon
  dsimp only
  split <;> simp [h]

@[simp] theorem State.abandonFaulted_wf (n ch : Nat) (h : memoryWf s.mem) : memoryWf (s.abandonFaulted n ch).mem := by
  unfold State.abandonFaulted
  split
  · exact h
  · have hf := wf_foldl (s := s) (fun s c => s.abandon n ch c) (fun _ _ w => State.abandon_wf _ _ _ w)
    dsimp only
    split
    · exact hf _ h
    · exact State.settleChain_wf _ _ _ (hf _ h)

@[simp] theorem State.abandonAll_wf (n ch : Nat) (h : memoryWf s.mem) : memoryWf (s.abandonAll n ch).mem := by
  unfold State.abandonAll
  split
  · exact h
  · have hf := wf_foldl (s := s) (fun s c => s.abandon n ch c) (fun _ _ w => State.abandon_wf _ _ _ w)
    dsimp only
    split <;> exact hf _ h

/-- A row taken from the drain port (R320). -/
theorem Iss.drainRow_answers (act : LaneMask) (h : memoryWf i.s.mem) :
    answers (fun x => memoryWf x.2.mem) (i.drainRow act) := by
  unfold Iss.drainRow
  split
  · dsimp only
    split
    · refine answers_ite h ?_
      dsimp only [answers]
      split
      · exact State.endCmd_wf _ _ _ _ h
      · simpa using h
    · exact h
  · exact answers_ite trivial answers_waitOnly

/-! Barriers (R217 to R219). -/

@[simp] theorem State.arrive_mem (s : State) (core h n b : Nat) : (s.arrive core h n b).mem = s.mem := rfl

@[simp] theorem State.setArrived_mem (s : State) (ag : Agent) (p : Option (Word64 × Word)) :
    (s.setArrived ag p).mem = s.mem := by
  unfold State.setArrived
  split <;> simp

@[simp] theorem State.writeEarly_mem (s : State) (ag : Agent) (ws : List RegWrite) : (s.writeEarly ag ws).mem = s.mem := by
  unfold State.writeEarly
  repeat' split
  all_goals rfl

theorem Iss.barWait_answers {h : Nat} {p : Word} {note : State → State} {done : Except Stop Done} {P : Done → Prop}
    (hn : ∀ s, (note s).mem = s.mem) (hd : answers P done) : answers P (i.barWait h p note done) := by
  have hw : ∀ s : State, memoryWf s.mem → memoryWf (note s).mem := fun s x => (hn s).symm ▸ x
  unfold Iss.barWait
  refine answers_ite hd ?_
  split
  · exact answers_ite hw hw
  · exact hw

theorem barInit_wf (h : memoryWf s.mem) : nextWf (barInit o w s) :=
  runInstr_wf (fun _ hi => hi) h

theorem barArrive_wf (h : memoryWf s.mem) : nextWf (barArrive o w s) :=
  runInstr_wf (fun i hi => by simp [hi]) h

theorem barWaitOp_wf (h : memoryWf s.mem) : nextWf (barWaitOp o w s) :=
  runInstr_wf (fun i hi => by
    simp only [answers_bind]
    exact answers_need (answers_ecc (Iss.barWait_answers (fun _ => rfl) hi))) h

theorem barSync_wf (h : memoryWf s.mem) : nextWf (barSync o w s) :=
  runInstr_wf (fun i hi => by
    simp only [answers_bind]
    refine answers_need ?_
    split
    · exact Iss.barWait_answers (fun _ => rfl) (by simpa using hi)
    · exact Iss.barWait_answers (fun s => by simp) (by simpa using hi)) h

end Sys2Proof.Machine

/-! PROOFS. Every step keeps storage in its canonical form: lane instructions, loads and stores, appends. -/

namespace Sys2Proof.Machine

open Sys2Proof.Safety Sys2Proof.Rules

variable {s t : State} {i j : Iss} {m : Mem} {o : Op} {w : Long}

@[simp] theorem Iss.results_s (i : Iss) (ws : List RegWrite) : (i.results ws).s = i.s := rfl
@[simp] theorem Done.only_s (s : State) : (Done.only s).s = s := rfl

/-- Lane instructions, whose results are register writes alone. -/
theorem laneOp_wf {legal : Iss → Bool} {regs : List SrcReg} {res : Iss → List RegWrite} (h : memoryWf s.mem) :
    nextWf (laneOp o legal regs res s) :=
  runInstr_wf (fun i hi => by simp [hi]) h

/-! Accesses (R163 to R174). -/

@[simp] theorem Iss.perform_mem (i : Iss) (s : State) (n : Nat) (a b c : Bool) (xs : List Acc) :
    (i.perform s n a b c xs).2.mem = s.mem := by
  unfold Iss.perform
  split <;> simp

@[simp] theorem State.fill_wf (core colour : Nat) (lines : List Nat) (h : memoryWf s.mem) :
    memoryWf (s.fill core colour lines).mem := by
  unfold State.fill
  refine memoryWf_fold _ (fun _ _ w => memoryWf_touch _ _ _ w) _ ?_
  split <;> simp [h]

@[simp] theorem State.beforeLoad_wf (core colour : Nat) (acq : Bool) (xs : List Acc) (n : Nat) (h : memoryWf s.mem) :
    memoryWf (s.beforeLoad core colour acq xs n).mem := by
  unfold State.beforeLoad
  dsimp only
  split
  · exact memoryWf_fold _ (fun _ _ w => memoryWf_acquireLine _ _ _ w) _ h
  · exact State.fill_wf _ _ _ h

@[simp] theorem Iss.atHome_wf (acq : Bool) (n : Nat) (wr : Bool) (xs : List Acc) (h : memoryWf i.s.mem) :
    memoryWf (i.atHome acq n wr xs).mem := by
  unfold Iss.atHome
  split <;> simp [h]

@[simp] theorem Iss.fills_wf (i : Iss) (acq : Bool) (xs : List Acc) (n : Nat) (h : memoryWf s.mem) :
    memoryWf (i.fills s acq xs n).mem := by
  unfold Iss.fills
  dsimp only
  split
  · exact h
  · split
    · exact memoryWf_markFirst _ _ _ (State.beforeLoad_wf _ _ _ _ _ h)
    · split
      · exact memoryWf_markFirst _ _ _ (State.beforeLoad_wf _ _ _ _ _ h)
      · exact State.beforeLoad_wf _ _ _ _ _ h

theorem Iss.storing_wf (i : Iss) (xs : List Acc) (n : Nat) {f : State → State}
    (hf : ∀ s, memoryWf s.mem → memoryWf (f s).mem) (h : memoryWf s.mem) : memoryWf (i.storing s xs n f).mem := by
  unfold Iss.storing
  dsimp only
  split
  · exact memoryWf_markFirst _ _ _ (hf _ (State.room_wf _ _ _ h))
  · exact hf _ (State.room_wf _ _ _ h)

@[simp] theorem State.afterLoad_wf (core colour sc : Nat) (acq : Bool) (h : memoryWf s.mem) :
    memoryWf (s.afterLoad core colour sc acq).mem := by
  unfold State.afterLoad
  split
  · exact memoryWf_acquireFence _ _ _ h
  · exact h

@[simp] theorem State.storeBytes_wf (core colour a : Nat) (bs : List Byte) (h : memoryWf s.mem) :
    memoryWf (s.storeBytes core colour a bs).mem := by
  unfold State.storeBytes
  split
  · exact h
  · exact memoryWf_lsWrite _ _ _ _ h

@[simp] theorem State.storeCap_wf (core colour a : Nat) (c : CapV) (h : memoryWf s.mem) :
    memoryWf (s.storeCap core colour a c).mem := by
  unfold State.storeCap
  split
  · exact h
  · exact memoryWf_lsWriteTagged _ _ _ _ _ h

theorem State.releasing_wf (core colour sc : Nat) (rel : Bool) (as : List Nat) {f : State → State}
    (hf : ∀ s, memoryWf s.mem → memoryWf (f s).mem) (h : memoryWf s.mem) :
    memoryWf (s.releasing core colour sc rel as f).mem := by
  unfold State.releasing
  split
  · have hr : memoryWf (f { s with mem := s.mem.releaseAccess core colour sc as }).mem :=
      hf _ (memoryWf_releaseAccess _ _ _ _ h)
    dsimp only
    split
    · exact memoryWf_drain _ _ hr
    · exact hr
  · exact hf s h

@[simp] theorem Iss.hostOpen_mem (i : Iss) (s : State) (xs : List Acc) (n : Nat) (sg : Bool) (dst : HostDst) (kind cq : Nat)
    (ex : List Nat) (acq : Option Nat) (out : Nat → Acc → Out) :
    (i.hostOpen s xs n sg dst kind cq ex acq out).2.mem = s.mem := by
  unfold Iss.hostOpen
  split <;> rfl

theorem memLd_wf (h : memoryWf s.mem) : nextWf (memLd o w s) :=
  runInstr_wf (fun i hi => by
    simp only [answers_bind]
    refine answers_ecc (answers_lsCheck (answers_lsRegion fun _ => answers_inOrder ?_))
    simpa using State.afterLoad_wf _ _ _ _ (i.fills_wf _ _ _ (by simp [hi]))) h

theorem memLdc_wf (h : memoryWf s.mem) : nextWf (memLdc o w s) :=
  runInstr_wf (fun i hi => by
    simp only [answers_bind]
    refine answers_ecc (answers_lsCheck (answers_lsRegion fun _ => answers_inOrder ?_))
    simpa using State.afterLoad_wf _ _ _ _ (i.fills_wf _ _ _ (by simp [hi]))) h

/-- What the stores share: the accesses that no refusal holds back, between the room that they need and the watch. -/
theorem stored_wf (i : Iss) (sc : Nat) (rel : Bool) (as : List Nat) (xs : List Acc) (n : Nat) {f : State → Acc → State}
    (hf : ∀ s x, memoryWf s.mem → memoryWf (f s x).mem) (h : memoryWf s.mem) :
    memoryWf (i.storing s xs n (fun s => s.releasing i.core i.colour sc rel as (fun s => xs.foldl f s))).mem :=
  i.storing_wf xs n (fun _ hs => State.releasing_wf _ _ _ _ _ (fun _ ht => wf_foldl f hf xs ht) hs) h

theorem memSt_wf (h : memoryWf s.mem) : nextWf (memSt o w s) :=
  runInstr_wf (fun i hi => by
    simp only [answers_bind]
    refine answers_ecc (answers_lsCheck (answers_lsRegion fun _ => answers_inOrder ?_))
    simpa using stored_wf _ _ _ _ _ _ (fun _ _ => State.storeBytes_wf _ _ _ _) (by simpa using hi)) h

theorem memStc_wf (h : memoryWf s.mem) : nextWf (memStc o w s) :=
  runInstr_wf (fun i hi => by
    simp only [answers_bind]
    refine answers_ecc (answers_lsCheck (answers_lsRegion fun _ => answers_inOrder ?_))
    simpa using stored_wf _ _ _ _ _ _ (fun _ _ => State.storeCap_wf _ _ _ _) (by simpa using hi)) h

theorem memLdu_wf (h : memoryWf s.mem) : nextWf (memLdu o w s) :=
  runInstr_wf (fun i hi => by
    simp only [answers_bind]
    refine answers_ecc (answers_lsCheck (answers_lsRegion fun _ => answers_inOrder ?_))
    have hp (n : Nat) (a b c d e : Bool) (xs ys : List Acc) : memoryWf (i.perform (i.atHome a n b xs) n c d e ys).2.mem := by
      simp [hi]
    split
    · exact hp ..
    · refine answers_ite (by simp [hi]) ?_
      simpa using State.afterLoad_wf _ _ _ _ (i.fills_wf _ _ _ (hp ..))) h

theorem memStu_wf (h : memoryWf s.mem) : nextWf (memStu o w s) :=
  runInstr_wf (fun i hi => by
    simp only [answers_bind]
    refine answers_ecc (answers_lsCheck (answers_lsRegion fun _ => answers_inOrder ?_))
    simpa using stored_wf _ _ _ _ _ _ (fun s x hs => by split <;> simp [hs]) (by simpa using hi)) h

theorem memPref_wf (h : memoryWf s.mem) : nextWf (memPref o w s) :=
  runInstr_wf (fun i hi => by
    simp only [answers_bind]
    refine answers_ecc ?_
    simp only [answers_ok, Done.only_s]
    split <;> simp [hi]) h

/-! Appends (R198, R202, R205, R212, R213, R216). -/

theorem Iss.readBlk_answers (c : CapV) (h : memoryWf i.s.mem) : answers (fun x => memoryWf x.2.mem) (i.readBlk c) := by
  unfold Iss.readBlk
  split
  · trivial
  · trivial
  · trivial
  · dsimp only
    split
    · trivial
    · simp only [answers_bind]
      refine answers_lsRegion fun _ => answers_inOrder ?_
      split
      · trivial
      · exact i.fills_wf _ _ _ h

@[simp] theorem Iss.noteGiven_mem (i : Iss) (s : State) (ch n : Nat) : (i.noteGiven s ch n).mem = s.mem := by
  unfold Iss.noteGiven
  split <;> split <;> rfl

@[simp] theorem Iss.append_wf (i : Iss) (ch : Nat) (b : Blk) (bm : Option Nat) (k : Int) (h : memoryWf s.mem) :
    memoryWf (i.append s ch b bm k).2.mem := by
  unfold Iss.append
  split
  · exact h
  · simpa using memoryWf_putEntry _ _ h

@[simp] theorem Iss.seqDone_s (i : Iss) (w : Long) (r : Word × State) : (i.seqDone w r).s = r.2 := rfl

@[simp] theorem Iss.moveCap_answers {P : Blk → Prop} {ch : Nat} {b : Blk} {k : Nat} {off : Int} (h : ∀ b, P b) :
    answers P (i.moveCap ch b k off) := by
  unfold Iss.moveCap
  refine answers_ite (h _) ?_
  split
  · exact h _
  all_goals trivial

theorem engCopy_wf {ch : Nat} (h : memoryWf s.mem) : nextWf (engCopy o w ch s) :=
  runInstr_wf (fun i hi => by
    simp only [answers_bind]
    refine answers_ecc (answers_permit ((i.readBlk_answers _ hi).mono fun ⟨b, s⟩ hs => ?_))
    dsimp only
    refine answers_ite trivial (answers_ite trivial (answers_ite trivial (answers_ite answers_waitOnly ?_)))
    simp only [answers_bind]
    refine Iss.moveCap_answers fun b => Iss.moveCap_answers fun b => ?_
    refine Iss.append_wf _ _ _ _ _ ?_
    dsimp only
    split
    · exact hs
    · exact memoryWf_homeWrite _ _ hs) h

theorem engApnd_wf (h : memoryWf s.mem) : nextWf (engApnd o w s) :=
  runInstr_wf (fun i hi => by
    simp only [answers_bind]
    refine answers_ecc (answers_permit ((i.readBlk_answers _ hi).mono fun ⟨b, s⟩ hs => ?_))
    exact answers_ite trivial (Iss.append_wf _ _ _ _ _ hs)) h

theorem engMma_wf (h : memoryWf s.mem) : nextWf (engMma o w s) :=
  runInstr_wf (fun i hi => by
    simp only [answers_bind]
    refine answers_permit ((i.readBlk_answers _ hi).mono fun ⟨b, s⟩ hs => ?_)
    exact answers_ite trivial (Iss.append_wf _ _ _ _ _ hs)) h

theorem engTile_wf {opc : Nat} {desc : Bool} (h : memoryWf s.mem) : nextWf (engTile o w opc desc s) :=
  runInstr_wf (fun i hi => by
    simp only [answers_bind]
    exact answers_permit (Iss.append_wf _ _ _ _ _ hi)) h

theorem engColl_wf (h : memoryWf s.mem) : nextWf (engColl o w s) :=
  runInstr_wf (fun i hi => by
    simp only [answers_bind]
    refine answers_ecc ?_
    split
    · refine answers_ite trivial ?_
      split
      · trivial
      · trivial
      · exact answers_ite trivial (by simpa using hi)
    · simp only [answers_bind]
      refine answers_permit ((i.readBlk_answers _ hi).mono fun ⟨b, s⟩ hs => ?_)
      refine answers_ite trivial (answers_ite trivial ?_)
      have ha := i.append_wf 2 b none 0 hs
      simp only [answers_ok, Iss.seqDone_s, State.arrive_mem]
      split <;> exact ha) h

end Sys2Proof.Machine

/-! PROOFS. Every step keeps storage in its canonical form: floats, atomics, the work given to the engines. -/

namespace Sys2Proof.Machine

open Sys2Proof.Safety Sys2Proof.Rules

variable {s t : State} {i j : Iss} {m : Mem} {o : Op} {w : Long}

/-! Floats (R133 to R143). -/

theorem floatOp_wf {legal : Iss → Bool} {regs : List SrcReg} {res : Iss → Row → FRes} {out : Iss → List Nat → List RegWrite}
    (h : memoryWf s.mem) : nextWf (floatOp o legal regs res out s) :=
  runInstr_wf (fun i hi => by
    refine answers_bind.2 (answers_ecc (answers_bind.2 ?_))
    have hrow : answers (fun x => memoryWf x.2.mem) (if o.asel = 2 then i.drainRow (i.act o) else .ok (zeroRow, i.s)) :=
      answers_ite (i.drainRow_answers _ hi) hi
    refine hrow.mono fun ⟨row, u⟩ hu => ?_
    simp only [answers_bind]
    exact answers_ite hu (answers_fpe fun _ => hu)) h

/-! Atomics (R175 to R181). -/

@[simp] theorem answers_hostAtomOk {P : Unit → Prop} {can : Bool} {xs : List Acc} (h : P ()) :
    answers P (i.hostAtomOk can xs) :=
  answers_ite h trivial

@[simp] theorem Iss.atomHome_wf (w : Long) (n : Nat) (xs : List Acc) (h : memoryWf i.s.mem) :
    memoryWf (i.atomHome w n xs).mem := by
  unfold Iss.atomHome
  have hr := memoryWf_fold (fun (m : Mem) l => m.release i.core l) (fun _ _ w => memoryWf_release _ _ w)
    (hbmLines (i.admitted n true xs) n) h
  dsimp only
  split
  · exact memoryWf_fold _ (fun _ _ w => memoryWf_acquireLine _ _ _ w) _ hr
  · exact hr

/-- The lanes of an atomic one after the other, each at its home. -/
theorem Iss.atomRun_wf (i : Iss) (w : Long) (n : Nat) (ok near : List Acc) {step : State → Acc → Nat × State}
    (hstep : ∀ s x, memoryWf s.mem → memoryWf (step s x).2.mem) (h : memoryWf s.mem) :
    memoryWf (i.atomRun w s n ok near step).2.mem := by
  have hfold : ∀ (l : List Acc) (z : List (Nat × Nat) × State), memoryWf z.2.mem →
      memoryWf (l.foldl (fun z x => (z.1 ++ [(x.l, (step z.2 x).1)], (step z.2 x).2)) z).2.mem := fun l => by
    induction l with
    | nil => exact fun _ hz => hz
    | cons x l ih => exact fun z hz => ih _ (hstep z.2 x hz)
  unfold Iss.atomRun
  simp only [State.watchLs_mem]
  refine State.afterLoad_wf _ _ _ _ ?_
  simp only [State.setCore_mem]
  refine hfold near (_, _) ?_
  split
  · exact memoryWf_releaseAccess _ _ _ _ h
  · exact h

theorem memAtomic_wf {legal dst fl : Bool} {op : Nat} {rop pcie : Option Nat} (h : memoryWf s.mem) :
    nextWf (memAtomic o w legal dst fl op rop pcie s) :=
  runInstr_wf (fun i hi => by
    refine answers_bind.2 (answers_ecc (answers_bind.2 (answers_hostAtomOk (answers_bind.2 (answers_lsCheck
      (answers_bind.2 (answers_lsRegion fun _ => answers_bind.2 (answers_inOrder ?_))))))))
    generalize hp : Iss.perform _ _ _ _ _ _ _ = p
    split
    next ok s1 =>
    have h1 : memoryWf s1.mem := wf_of_pair hp (by simp [hi])
    extract_lets
    generalize hr : Iss.atomRun _ _ _ _ _ _ _ = r
    split
    next vs s2 =>
    have h2 : memoryWf s2.mem := wf_of_pair hr
      (i.atomRun_wf w _ _ _ (fun s x hs => by simpa using memoryWf_atomAt _ _ _ _ hs) (by simpa using h1))
    generalize ho : Iss.hostOpen _ _ _ _ _ _ _ _ _ _ _ = q
    split
    next req s3 => exact wf_of_pair ho (by simpa using h2)) h

theorem State.casCap_wf (core : Nat) (x : Acc) (e new : CapV) (h : memoryWf s.mem) :
    memoryWf (s.casCap core x e new).2.2.mem := by
  have hm : memoryWf (if x.addr < hbmTop then s.mem.release core (lineOf x.addr) else s.mem) := by
    split
    · exact memoryWf_release _ _ h
    · exact h
  unfold State.casCap
  generalize (if x.addr < hbmTop then s.mem.release core (lineOf x.addr) else s.mem) = m at hm
  dsimp only
  split
  · exact memoryWf_homeWriteTagged _ _ _ hm
  · exact hm

theorem memCas_wf (h : memoryWf s.mem) : nextWf (memCas o w s) :=
  runInstr_wf (fun i hi => by
    refine answers_bind.2 (answers_ecc (answers_bind.2 (answers_lsCheck (answers_bind.2 (answers_lsRegion fun _ =>
      answers_bind.2 (answers_inOrder ?_))))))
    generalize hp : Iss.perform _ _ _ _ _ _ _ = p
    split
    next ok s1 =>
    have h1 : memoryWf s1.mem := wf_of_pair hp (by simp [hi])
    extract_lets
    generalize hr : Iss.atomRun _ _ _ _ _ _ _ = r
    split
    next vs s2 =>
    have h2 : memoryWf s2.mem := wf_of_pair hr
      (i.atomRun_wf w _ _ _ (fun s x hs => by
      split
      · exact State.casCap_wf _ _ _ _ hs
      · exact memoryWf_casAt _ _ _ _ _ hs) (by simpa using h1))
    generalize ho : Iss.hostOpen _ _ _ _ _ _ _ _ _ _ _ = q
    split
    next req s3 => exact wf_of_pair ho (by simpa using h2)) h

/-! Work given to the engines and waited for (R201, R207 to R209, R221, R223). -/

@[simp] theorem answers_cplRegion {P : List Nat → Prop} {n : Nat} {a b : List Acc} (h : ∀ l, P l) :
    answers P (i.cplRegion n a b) := by
  unfold Iss.cplRegion
  dsimp only
  split
  · trivial
  · exact h _

theorem engCpl_wf (h : memoryWf s.mem) : nextWf (engCpl o w s) :=
  runInstr_wf (fun i hi => by
    simp only [answers_bind]
    refine answers_ecc (answers_ite answers_waitOnly ?_)
    simp only [answers_bind]
    exact answers_capTrap (answers_cplRegion fun _ => by simp [hi])) h

theorem engSheaf_wf (h : memoryWf s.mem) : nextWf (engSheaf o w s) :=
  runInstr_wf (fun _ hi => answers_ite answers_waitOnly hi) h

theorem engWsheaf_wf (h : memoryWf s.mem) : nextWf (engWsheaf o w s) :=
  runInstr_wf (fun i hi => by
    simp only [answers_bind]
    refine answers_ecc (answers_ite trivial (answers_ite answers_waitOnly ?_))
    split
    · exact hi
    · intro s hs
      dsimp only
      split <;> exact hs) h

@[simp] theorem State.setTarget_mem (s : State) (ag : Agent) (n : Option (Word64 × Word)) :
    (s.setTarget ag n).mem = s.mem := by
  unfold State.setTarget
  split <;> simp

theorem engWseq_wf (h : memoryWf s.mem) : nextWf (engWseq o w s) :=
  runInstr_wf (fun i hi => by
    have hhold : ∀ n (s : State), memoryWf s.mem → memoryWf (if w.bsel = 2 then s.setTarget i.ag n else s).mem := by
      intro n s hs
      split <;> simp [hs]
    simp only [answers_bind]
    refine answers_ecc (answers_ite (by simp [hi]) ?_)
    split
    · exact hhold _
    · exact hhold _) h

theorem engWchk_wf (h : memoryWf s.mem) : nextWf (engWchk o w s) :=
  runInstr_wf (fun i hi => by
    refine answers_bind.2 (answers_ecc ?_)
    extract_lets m c0 out
    have hd : memoryWf (if out then i.s.draw else (0, i.s)).2.mem := by split <;> exact hi
    generalize (if out then i.s.draw else (0, i.s)) = d at hd ⊢
    split
    split
    · exact hd
    · exact answers_ite trivial (answers_ite hd answers_waitOnly)) h

theorem engDpost_wf (h : memoryWf s.mem) : nextWf (engDpost o w s) :=
  runInstr_wf (fun _ hi => answers_ite hi (answers_ite answers_waitOnly hi)) h

theorem engCrec_wf (h : memoryWf s.mem) : nextWf (engCrec o w s) :=
  runInstr_wf (fun i hi => by
    refine answers_ite (answers_ite answers_waitOnly hi) ?_
    simp only [answers_bind]
    exact answers_ecc (answers_ite answers_waitOnly (State.ringWrite_wf _ _ _ hi))) h

end Sys2Proof.Machine

/-! PROOFS. Every step keeps storage in its canonical form: what the engines share, bring-up, capabilities, control flow,
fetch. -/

namespace Sys2Proof.Machine

open Sys2Proof.Safety Sys2Proof.Rules

variable {s t : State} {i j : Iss} {m : Mem} {o : Op} {w : Long}

/-! Engines: charges, faults, messages, reads and writes (R273 to R276, R401, R446). -/

/-- The state of a charge, where it has one. -/
theorem State.charge_mem (s : State) (colour : Nat) (w : Work) (n : Nat) :
    (∀ t, s.charge colour w n = .go t → t.mem = s.mem) ∧ ∀ t, s.charge colour w n = .wait t → t.mem = s.mem := by
  unfold State.charge
  dsimp only
  repeat' split
  all_goals
    constructor
    all_goals
      intro t ht
      cases ht
  all_goals rfl

theorem State.charged_wf {colour : Nat} {w : Work} {n : Nat} {start : State → State}
    (hst : ∀ s, memoryWf s.mem → memoryWf (start s).mem) (h : memoryWf s.mem) : nextWf (s.charged colour w n start) := by
  obtain ⟨hgo, hwait⟩ := s.charge_mem colour w n
  unfold State.charged
  split
  next t ht => exact hst t (hgo t ht ▸ h)
  next t ht => exact (hwait t ht ▸ h : memoryWf t.mem)
  · trivial

@[simp] theorem State.markHull_mem (s : State) (T : Team) (a n : Nat) : (s.markHull T a n).mem = s.mem := by
  unfold State.markHull
  split <;> simp

@[simp] theorem State.failCmd_wf (n ch : Nat) (c : Cmd) (e : EngErr) (ecc : Nat) (h : memoryWf s.mem) :
    memoryWf (s.failCmd n ch c e ecc).mem := State.faultCmd_wf _ _ _ _ _ _ _ h

@[simp] theorem State.setPort_mem (s : State) (p : Nat) (x : Port) : (s.setPort p x).mem = s.mem := rfl

theorem State.sendPeer_mem {dev n seq unit : Nat} {req : PeerReq} (h : s.sendPeer dev n seq unit req = some t) :
    t.mem = s.mem := by
  unfold State.sendPeer at h
  dsimp only at h
  split at h
  · cases h
  · cases h
    rfl

@[simp] theorem State.engRead_mem (s : State) (a n : Nat) : (s.engRead a n).2.mem = s.mem := by
  unfold State.engRead
  split
  · rfl
  · split <;> rfl

@[simp] theorem State.engReads_mem (s : State) (l : List (Nat × Nat)) : (s.engReads l).2.mem = s.mem := by
  induction l generalizing s with
  | nil => rfl
  | cons r l ih => exact (ih _).trans (s.engRead_mem r.1 r.2)

@[simp] theorem State.engStore_wf (core a : Nat) (bs : List Byte) (h : memoryWf s.mem) :
    memoryWf (s.engStore core a bs).mem := by
  unfold State.engStore
  split
  · exact h
  · exact memoryWf_engWrite _ _ _ h

@[simp] theorem State.engStores_wf (core : Nat) (l : List (Nat × Nat)) (bs : List Byte) (h : memoryWf s.mem) :
    memoryWf (s.engStores core l bs).mem := by
  induction l generalizing s bs with
  | nil => exact h
  | cons r l ih => exact ih _ (State.engStore_wf _ _ _ h)

@[simp] theorem State.setTags_wf (l : List Nat) (h : memoryWf s.mem) : memoryWf (s.setTags l).mem := memoryWf_setTags l h

/-! Bring-up (R432 to R436). -/

theorem memoryWf_reset : memoryWf Mem.reset := ⟨rfl, rfl, rfl, rfl, fun _ he => absurd he List.not_mem_nil⟩

@[simp] theorem State.powered_mem (s : State) (n : Nat) : (s.powered n).mem = Mem.reset := rfl
@[simp] theorem State.restarted_mem (s : State) : s.restarted.mem = Mem.reset := rfl
@[simp] theorem State.enter_mem (s : State) (n : Nat) : (s.enter n).mem = s.mem := rfl
@[simp] theorem State.failStage_mem (s : State) (n : Nat) : (s.failStage n).mem = s.mem := rfl
@[simp] theorem State.applyBlob_mem (s : State) (bs : List Byte) : (s.applyBlob bs).mem = s.mem := rfl
@[simp] theorem State.stage1_mem (s : State) : s.stage1.mem = s.mem := by
  unfold State.stage1
  split <;> rfl

theorem execPowerUp_wf : nextWf (execPowerUp s) := memoryWf_reset
theorem execPowerOff_wf : nextWf (execPowerOff s) := memoryWf_reset
theorem execConventionalReset_wf : nextWf (execConventionalReset s) := nextWf_stepIf memoryWf_reset

theorem execPcieTraining_wf {flit : Bool} (h : memoryWf s.mem) : nextWf (execPcieTraining flit s) :=
  nextWf_stepIf (by split <;> simpa using h)

theorem execGo_wf (h : memoryWf s.mem) : nextWf (execGo s) := by
  unfold execGo
  split <;> simpa using h

theorem nextWf_ite {c : Prop} [Decidable c] {x y : Out1} (hx : nextWf x) (hy : nextWf y) : nextWf (if c then x else y) := by
  split <;> assumption

theorem execFirmwareVerify_wf {img : Option (List Byte)} (h : memoryWf s.mem) : nextWf (execFirmwareVerify img s) := by
  unfold execFirmwareVerify
  refine nextWf_ite trivial (nextWf_ite h ?_)
  split
  · exact h
  · exact nextWf_ite trivial (nextWf_ite h (nextWf_ite h h))

theorem execConfigApply_wf {blob : Option (List Byte)} (h : memoryWf s.mem) : nextWf (execConfigApply blob s) := by
  unfold execConfigApply
  refine nextWf_ite trivial (nextWf_ite h ?_)
  split
  · exact h
  · exact nextWf_ite trivial (nextWf_ite h (nextWf_ite h (nextWf_ite h h)))

theorem execHbmTraining_wf {ok : Bool} (h : memoryWf s.mem) : nextWf (execHbmTraining ok s) :=
  nextWf_stepIf (by split <;> exact h)

theorem execFabricBringUp_wf {ok : Bool} (h : memoryWf s.mem) : nextWf (execFabricBringUp ok s) :=
  nextWf_stepIf (by split <;> exact h)

theorem execStageTimeLimit_wf (h : memoryWf s.mem) : nextWf (execStageTimeLimit s) := by
  unfold execStageTimeLimit
  split
  · trivial
  · exact nextWf_stepIf h

@[simp] theorem State.publish_wf (h : memoryWf s.mem) : memoryWf s.publish.mem := memoryWf_homeWrite _ _ h
theorem execFewickStageEnd_wf (h : memoryWf s.mem) : nextWf (execFewickStageEnd s) := nextWf_stepIf (State.publish_wf h)

/-! Capability instructions (R182 to R189). -/

theorem capDerive_wf {legal : Iss → Bool} {regs : List SrcReg} {f : Iss → Nat → CapV → Except CapErr CapV}
    (h : memoryWf s.mem) : nextWf (capDerive o w legal regs f s) :=
  runInstr_wf (fun _ hi => answers_bind.2 (answers_ecc (answers_bind.2 (answers_capTrap hi)))) h

theorem capRead_wf {wd : Nat} {legal : Iss → Bool} {regs : List SrcReg} {f : Iss → Nat → CapV → Nat}
    (h : memoryWf s.mem) : nextWf (capRead o w wd legal regs f s) :=
  runInstr_wf (fun _ hi => answers_bind.2 (answers_ecc hi)) h

/-! Control flow (R117 to R132). -/

@[simp] theorem answers_window {P : Unit → Prop} {top : Bool} {nb : Int} (h : P ()) : answers P (i.window top nb) :=
  answers_ite trivial (answers_ite trivial (answers_ite trivial h))

@[simp] theorem answers_codeCheck {P : Unit → Prop} {forms : List Nat} {c : CapV} (h : P ()) :
    answers P (i.codeCheck forms c) := by
  unfold Iss.codeCheck
  split
  · trivial
  · trivial
  · trivial
  · exact h

@[simp] theorem State.setCode_mem (s : State) (ag : Agent) (c : CapV) : (s.setCode ag c).mem = s.mem := by
  unfold State.setCode
  split <;> simp

@[simp] theorem Iss.restack_mem (i : Iss) (G : Group) : (i.restack G).s.mem = i.s.mem := rfl

theorem ctlBra_wf {off : Int} (h : memoryWf s.mem) : nextWf (ctlBra o off s) := runInstr_wf (fun _ hi => hi) h

theorem ctlBrc_wf {reg : Nat} {z : Bool} {off : Int} (h : memoryWf s.mem) : nextWf (ctlBrc o reg z off s) :=
  runInstr_wf (fun i hi => answers_bind.2 (answers_ecc (by
    have hgo : ∀ b : Bool, memoryWf (if b then i.goto (pcPlus i.p.pc off) else Done.only i.s).s.mem := by
      intro b
      cases b <;> exact hi
    exact hgo _))) h

theorem ctlBrx_wf (h : memoryWf s.mem) : nextWf (ctlBrx o w s) :=
  runInstr_wf (fun _ hi => answers_bind.2 (answers_ecc hi)) h

theorem ctlBrd_wf (h : memoryWf s.mem) : nextWf (ctlBrd o w s) :=
  runInstr_wf (fun i hi => by
    split
    · exact answers_ite trivial (answers_bind.2 (answers_ecc hi))
    · trivial) h

theorem ctlJoin_wf (h : memoryWf s.mem) : nextWf (ctlJoin o s) :=
  runInstr_wf (fun i hi => by
    split
    · split
      · exact hi
      · trivial
    · trivial) h

theorem ctlExit_wf (h : memoryWf s.mem) : nextWf (ctlExit o s) :=
  runInstr_wf (fun i hi => by
    split
    · exact hi
    · exact hi
    · refine answers_ite answers_waitOnly ?_
      simp only [answers_ok, Done.only_s, State.detect_mem]
      split
      · simpa using hi
      · exact hi) h

theorem Iss.enter_answers (d : Nat) (pc : Word64) (code : Option CapV) (h : memoryWf i.s.mem) :
    answers (fun d => memoryWf d.s.mem) (i.enter o d pc code) := by
  unfold Iss.enter
  cases code with
  | none => exact answers_ite h (answers_bind.2 (answers_window h))
  | some c => exact answers_ite (by simpa using h) (answers_bind.2 (answers_window (by simpa using h)))

theorem ctlCall_wf {d : Nat} {off : Int} (h : memoryWf s.mem) : nextWf (ctlCall o d off s) :=
  runInstr_wf (fun i hi => i.enter_answers _ _ _ hi) h

theorem ctlCalli_wf (h : memoryWf s.mem) : nextWf (ctlCalli o w s) :=
  runInstr_wf (fun i hi => answers_bind.2 (answers_ecc (answers_bind.2 (answers_codeCheck (i.enter_answers _ _ _ hi))))) h

theorem ctlRet_wf (h : memoryWf s.mem) : nextWf (ctlRet o s) :=
  runInstr_wf (fun i hi => by
    refine answers_ite (answers_bind.2 (answers_codeCheck (by simpa using hi))) (answers_bind.2 (answers_ecc ?_))
    exact answers_ite trivial (answers_bind.2 (answers_codeCheck (answers_bind.2 (answers_window (by simpa using hi)))))) h

theorem ctlWinb_wf {legal : Bool} {regs : List SrcReg} {delta : Iss → Int} (h : memoryWf s.mem) :
    nextWf (ctlWinb o legal regs delta s) :=
  runInstr_wf (fun _ hi =>
    answers_bind.2 (answers_ecc (answers_ite trivial (answers_bind.2 (answers_window hi))))) h

theorem ctlTake_wf (h : memoryWf s.mem) : nextWf (ctlTake o w s) :=
  runInstr_wf (fun i hi => by
    extract_lets
    split
    · exact answers_ite answers_waitOnly hi
    · exact answers_ite answers_waitOnly trivial) h

@[simp] theorem State.handOn_mem (s : State) (n : Nat) : (s.handOn n).mem = s.mem := rfl

theorem ctlYield_wf (h : memoryWf s.mem) : nextWf (ctlYield o s) :=
  runInstr_wf (fun i hi => answers_ite (by
    simp only [answers_ok, Done.only_s]
    split <;> exact hi) hi) h

theorem ctlNop_wf (h : memoryWf s.mem) : nextWf (ctlNop o s) := runInstr_wf (fun _ hi => hi) h

theorem ctlHint_wf {n : Nat} (h : memoryWf s.mem) : nextWf (ctlHint n s) :=
  runInstr_wf (fun i hi => by
    have hmark : ∀ f : Path → Path, memoryWf (match i.s.path i.ag with
        | some p => i.s.setPath i.ag (f p)
        | none => i.s).mem := by
      intro f
      split <;> simpa using hi
    simp only [answers_ok, Done.only_s]
    split
    · exact hmark _
    · exact hmark _
    · exact hi
    · exact hi
    · exact hmark _) h

/-! Fetch (R78, R174, R242): the instruction caches are no part of the canonical form. -/

theorem memoryWf_ic (x : Tbl (List Byte)) (h : memoryWf m) : memoryWf { m with ic := x } :=
  ⟨h.bytes, h.tags, h.rel, h.tile, h.lines⟩

@[simp] theorem State.codeRoom_wf (core : Nat) (ctl : Bool) (line : Nat) (h : memoryWf s.mem) :
    memoryWf (s.codeRoom core ctl line).mem := by
  unfold State.codeRoom
  refine wf_ite h ?_
  extract_lets
  split
  next x u hd =>
  have hu : memoryWf u.mem := wf_of_pair hd h
  split
  · exact memoryWf_ic _ hu
  · exact hu

@[simp] theorem State.fillCode_wf (core : Nat) (ctl : Bool) (line : Nat) (h : memoryWf s.mem) :
    memoryWf (s.fillCode core ctl line).mem := by
  unfold State.fillCode
  dsimp only
  split
  · exact h
  · split
    · exact memoryWf_ic _ (State.codeRoom_wf core ctl line h)
    · exact memoryWf_ic _ (State.codeRoom_wf core ctl line h)

@[simp] theorem State.requestCode_wf (core : Nat) (ctl : Bool) (colour line : Nat) (h : memoryWf s.mem) :
    memoryWf (s.requestCode core ctl colour line).mem := by
  unfold State.requestCode
  split <;> simp [h]

theorem State.fetchLine_wf {core : Nat} {ctl : Bool} {colour depth line : Nat} (h : memoryWf s.mem)
    (hf : s.fetchLine core ctl colour depth line = .ok t) : memoryWf t.mem := by
  have hahead : ∀ u : State, memoryWf u.mem → memoryWf ((List.range depth).foldl (fun s j =>
      if whereIs (128 * (line + 1 + j)) = whereIs (128 * line) then s.requestCode core ctl colour (line + 1 + j)
      else s) u).mem :=
    fun u hu => wf_foldl _ (fun s j hs => by
      split
      · exact State.requestCode_wf _ _ _ _ hs
      · exact hs) _ hu
  unfold State.fetchLine at hf
  split at hf
  · cases hf
    exact hahead s h
  · split at hf
    · cases hf
    · cases hf
      exact hahead _ (State.fillCode_wf _ _ _ h)

theorem Iss.fetchWord_wf {a : Nat} {x : Word × State} (h : memoryWf s.mem) (hf : i.fetchWord s a = .ok x) :
    memoryWf x.2.mem := by
  unfold Iss.fetchWord at hf
  split at hf
  · cases hf
  · cases hf
  · cases hf
  · split at hf
    · cases hf
    · split at hf
      · cases hf
      next t ht =>
        cases hf
        exact State.fetchLine_wf h ht

theorem Iss.fetchRest_wf {n a : Nat} {x : List Word × State} (h : memoryWf s.mem) (hf : i.fetchRest n a s = .ok x) :
    memoryWf x.2.mem := by
  induction n generalizing a s x with
  | zero => cases hf; exact h
  | succ n ih =>
    unfold Iss.fetchRest at hf
    split at hf
    · cases hf
    next w u hw =>
      split at hf
      · cases hf
      next ws v hv =>
        cases hf
        exact ih (x := (ws, v)) (Iss.fetchWord_wf h hw) hv

@[simp] theorem Iss.fetchTarget_wf (ws : List Word) (h : memoryWf s.mem) : memoryWf (i.fetchTarget ws s).mem := by
  unfold Iss.fetchTarget
  split
  · split
    · exact State.requestCode_wf _ _ _ _ h
    · exact h
  · exact h

theorem Iss.fetch_wf {x : List Word × State} (h : memoryWf i.s.mem) (hf : i.fetch = .ok x) : memoryWf x.2.mem := by
  unfold Iss.fetch at hf
  dsimp only at hf
  split at hf
  · cases hf
  · split at hf
    · cases hf
    next w u hw =>
      split at hf
      · cases hf
      next ws v hv =>
        cases hf
        exact Iss.fetchTarget_wf _ (Iss.fetchRest_wf (Iss.fetchWord_wf h hw) hv)

@[simp] theorem State.evict_wf (core line colour : Nat) (h : memoryWf s.mem) : memoryWf (s.evict core line colour).mem :=
  by simpa [State.evict] using memoryWf_backWhere _ _ h

@[simp] theorem State.evictCode_wf (core : Nat) (ctl : Bool) (line : Nat) (h : memoryWf s.mem) :
    memoryWf (s.evictCode core ctl line).mem := by
  unfold State.evictCode
  split
  · exact h
  · simpa using memoryWf_dropCode _ h

end Sys2Proof.Machine

/-! PROOFS. Every step keeps storage in its canonical form: device steps of issue, group-wide operations, requests that
arrive from the host and from peers. -/

namespace Sys2Proof.Machine

open Sys2Proof.Safety Sys2Proof.Rules

variable {s t : State} {i j : Iss} {m : Mem} {o : Op} {w : Long}

/-! Device steps of issue (R91, R93, R175, R181, R222, R226). -/

theorem execChctlAbandonFaulted_wf {n ch : Nat} (h : memoryWf s.mem) : nextWf (execChctlAbandonFaulted n ch s) :=
  nextWf_stepIf (by simp [h])
theorem execChctlAbandonAll_wf {n ch : Nat} (h : memoryWf s.mem) : nextWf (execChctlAbandonAll n ch s) :=
  nextWf_stepIf (by simp [h])

theorem State.landResult_mem {ag : Agent} {n : Nat} (h : s.landResult ag n = some t) : t.mem = s.mem := by
  unfold State.landResult at h
  repeat' split at h
  all_goals cases h
  all_goals rfl

theorem execLoadResult_wf {ag : Agent} {n : Nat} (h : memoryWf s.mem) : nextWf (execLoadResult ag n s) := by
  unfold execLoadResult
  split
  next u hu => exact (State.landResult_mem hu ▸ h : memoryWf u.mem)
  · trivial

theorem execAtomicAtHome_wf {core : Nat} {rq : AtomRq} (h : memoryWf s.mem) : nextWf (execAtomicAtHome core rq s) := by
  unfold execAtomicAtHome
  extract_lets
  refine nextWf_ite trivial (nextWf_ite ?_ ?_)
  · exact memoryWf_casAt _ _ _ _ _ h
  · simpa using memoryWf_atomAt _ _ _ _ h

theorem State.hostAcquired_wf (ag : Agent) (sc : Nat) (h : memoryWf s.mem) : memoryWf (s.hostAcquired ag sc).mem := by
  unfold State.hostAcquired
  extract_lets go
  have hgo : ∀ core n, memoryWf (go core n).mem := by
    intro core n
    cases hT : s.team n with
    | none => simpa [go, hT] using h
    | some T => simpa [go, hT] using memoryWf_acquireFence core T.colour sc h
  split
  · exact hgo _ _
  next g ix =>
    cases s.group g with
    | none => exact h
    | some G => exact hgo _ _
  next g =>
    cases s.group g with
    | none => exact h
    | some G => exact hgo _ _

theorem State.hostDone_wf {id st : Nat} {d : List Byte} (h : memoryWf s.mem) (hd : s.hostDone id st d = some t) :
    memoryWf t.mem := by
  unfold State.hostDone at hd
  split at hd
  · cases hd
  next r hr =>
    split at hd
    · cases hd
    next l rest hl =>
      split at hd
      · cases hd
      · have ha : memoryWf (match r.acq with
            | some sc => s.hostAcquired r.ag sc
            | none => s).mem := by
          split
          · exact State.hostAcquired_wf _ _ h
          · exact h
        extract_lets at hd
        split at hd
        · cases hd
          exact ha
        · split at hd
          · cases hd
          · cases hd
            rw [State.setPath_mem]
            exact ha

theorem State.hostDoneAll_wf {id st : Nat} {ds : List (List Byte)} (h : memoryWf s.mem)
    (hd : State.hostDoneAll id st ds s = some t) : memoryWf t.mem := by
  induction ds generalizing s with
  | nil => cases hd; exact h
  | cons d ds ih =>
    obtain ⟨u, hu, hd⟩ := Option.bind_eq_some_iff.1 hd
    exact ih (State.hostDone_wf h hu) hd

theorem execHostWindowCompletion_wf {id st : Nat} {ds : List (List Byte)} (h : memoryWf s.mem) :
    nextWf (execHostWindowCompletion id st ds s) := by
  unfold execHostWindowCompletion
  split
  next u hu => exact State.hostDoneAll_wf h hu
  · trivial

theorem execLateFault_wf {ag : Agent} (h : memoryWf s.mem) : nextWf (execLateFault ag s) := by
  unfold execLateFault
  split
  · split
    · exact nextWf_stepIf (by simpa using h)
    · trivial
  · trivial

theorem execNoticeRecord_wf {n : Nat} (h : memoryWf s.mem) : nextWf (execNoticeRecord n s) := by
  unfold execNoticeRecord
  split
  · split
    · exact nextWf_stepIf (State.ringWrite_wf _ _ _ h)
    · trivial
  · trivial

theorem execEngineCompletionRecord_wf {n ch q : Nat} (h : memoryWf s.mem) :
    nextWf (execEngineCompletionRecord n ch q s) := by
  unfold execEngineCompletionRecord
  split
  · split
    · exact nextWf_stepIf (State.rungCmd_wf _ _ _ (State.ringWrite_wf _ _ _ h))
    · trivial
  · trivial

@[simp] theorem State.dropDrains_wf (n grp : Nat) (h : memoryWf s.mem) : memoryWf (s.dropDrains n grp).mem := by
  unfold State.dropDrains
  split
  · exact h
  · refine wf_foldl _ (fun s c hs => ?_) _ h
    split
    · exact wf_ite (State.endCmd_wf _ _ _ _ hs) hs
    · exact hs

@[simp] theorem State.retireGroup_wf (g : Nat) (G : Group) (h : memoryWf s.mem) : memoryWf (s.retireGroup g G).mem := by
  unfold State.retireGroup
  simpa using State.dropDrains_wf _ _ (by simpa using h)

theorem execGroupRetirement_wf {g : Nat} (h : memoryWf s.mem) : nextWf (execGroupRetirement g s) := by
  unfold execGroupRetirement
  split
  · exact nextWf_ite (State.retireGroup_wf _ _ h) trivial
  · trivial

theorem execStarvationRaise_wf {g : Nat} (h : memoryWf s.mem) : nextWf (execStarvationRaise g s) := by
  unfold execStarvationRaise
  split
  · exact nextWf_stepIf h
  · trivial

theorem execHintCyclesExpiry_wf {ag : Agent} (h : memoryWf s.mem) : nextWf (execHintCyclesExpiry ag s) := by
  unfold execHintCyclesExpiry
  split
  · exact nextWf_stepIf (by simpa using h)
  · trivial

theorem execSleepEnd_wf {ag : Agent} (h : memoryWf s.mem) : nextWf (execSleepEnd ag s) := by
  unfold execSleepEnd
  split
  next p i hp hi =>
    split
    · refine nextWf_ite trivial ?_
      split
      next w ws u hf =>
        have hu : memoryWf u.mem := Iss.fetch_wf (by rw [State.view_s hi]; exact h) hf
        exact runInstr_wf (fun _ hj => hj) hu
      · trivial
    · trivial
  · trivial

/-! Row 0x20 (R154 to R161). -/

@[simp] theorem answers_redFlags {P : Nat → Prop} {es : List (Nat × LaneMask)} (h : ∀ n, P n) : answers P (i.redFlags es) :=
  answers_ite (h _) trivial

theorem groupOp_wf {legal : Iss → Bool} {regs : List SrcReg} {res : Iss → Except Stop Done}
    (hr : ∀ i : Iss, memoryWf i.s.mem → answers (fun d => memoryWf d.s.mem) (res i)) (h : memoryWf s.mem) :
    nextWf (groupOp o w legal regs res s) :=
  runInstr_wf (fun i hi => answers_bind.2 (answers_ecc (hr i hi))) h

theorem gwShfl_wf (h : memoryWf s.mem) : nextWf (gwShfl o w s) := groupOp_wf (fun _ hi => hi) h
theorem gwVote_wf (h : memoryWf s.mem) : nextWf (gwVote o w s) :=
  runInstr_wf (fun _ hi => answers_bind.2 (answers_ecc (answers_ite hi hi))) h
theorem gwRdfl_wf (h : memoryWf s.mem) : nextWf (gwRdfl o w s) := groupOp_wf (fun _ hi => answers_ite trivial hi) h
theorem gwRdln_wf (h : memoryWf s.mem) : nextWf (gwRdln o w s) := groupOp_wf (fun _ hi => hi) h
theorem gwRedg_wf (h : memoryWf s.mem) : nextWf (gwRedg o w s) :=
  runInstr_wf (fun _ hi => answers_bind.2 (answers_ecc (answers_bind.2 (answers_redFlags fun _ => hi)))) h
theorem gwScang_wf (h : memoryWf s.mem) : nextWf (gwScang o w s) :=
  runInstr_wf (fun _ hi => answers_bind.2 (answers_ecc (answers_bind.2 (answers_redFlags fun _ => hi)))) h
theorem gwMatch_wf (h : memoryWf s.mem) : nextWf (gwMatch o w s) := groupOp_wf (fun _ hi => answers_ite hi hi) h

/-! Requests that arrive (R47, R50, R52, R442). -/

theorem State.inbound_wf (rq : InRq) (h : memoryWf s.mem) : memoryWf (s.inbound rq).2.mem := by
  unfold State.inbound
  split
  · split
    · exact h
    · split <;> exact h
  · exact memoryWf_homeWrite _ _ h
  · extract_lets
    split
    · exact h
    · exact memoryWf_homeWrite _ _ h

theorem State.serve_wf (path agent : Nat) (rq : InRq) (err : Option (Nat × Nat) × Nat) (refused : Nat × Nat → Nat)
    (reply : List Byte → Nat → Out) (h : memoryWf s.mem) : memoryWf (s.serve path agent rq err refused reply).mem := by
  unfold State.serve
  split
  next a n k hk =>
  split
  · exact wf_ite (by simpa using h) (by simpa using h)
  · have hi := State.inbound_wf (s := s.watchEng path agent err.2 k [(a, n)]) rq (by simpa using h)
    extract_lets
    split
    next d st u hu => exact (wf_of_pair hu hi : memoryWf u.mem)
    next u hu => exact (wf_of_pair hu hi : memoryWf u.mem)

theorem execHostInboundRequest_wf {f : Nat} {rq : InRq} (h : memoryWf s.mem) : nextWf (execHostInboundRequest f rq s) :=
  nextWf_ite trivial (nextWf_ite h (nextWf_ite (wf_ite h (by simpa using h)) (State.serve_wf _ _ _ _ _ _ h)))

theorem execPeerInboundRequest_wf {dev : Nat} {cap : BitVec 128} {tag : Bool} {rq : InRq} (h : memoryWf s.mem) :
    nextWf (execPeerInboundRequest dev cap tag rq s) := by
  unfold execPeerInboundRequest
  extract_lets
  split
  · simpa using h
  · exact State.serve_wf _ _ _ _ _ _ h
  · exact State.serve_wf _ _ _ _ _ _ h

end Sys2Proof.Machine

/-! PROOFS. Every step keeps storage in its canonical form: the copy engine and the matrix unit. -/

namespace Sys2Proof.Machine

open Sys2Proof.Safety Sys2Proof.Rules

variable {s t : State} {i j : Iss} {m : Mem} {o : Op} {w : Long}

/-! Computations that answer a state among other things, or an error with no state. -/

/-- P holds of what a computation answers, if it answers. -/
def okP {ε α : Type} (P : α → Prop) : Except ε α → Prop
  | .ok x => P x
  | .error _ => True

/-- A computation that answers a value and a state answers a state whose storage is canonical. -/
abbrev okWf {ε α : Type} : Except ε (α × State) → Prop := okP (fun x => memoryWf x.2.mem)

section
variable {ε α β : Type} {P : α → Prop} {Q : β → Prop}

@[simp] theorem okP_ok {x : α} : okP P (.ok x : Except ε α) ↔ P x := Iff.rfl
@[simp] theorem okP_error {e : ε} : okP P (.error e : Except ε α) := trivial

theorem okP_ite {c : Prop} [Decidable c] {x y : Except ε α} (hx : okP P x) (hy : okP P y) : okP P (if c then x else y) := by
  split <;> assumption

/-- A check before the rest. -/
theorem okP_check {x : Except ε β} {f : β → Except ε α} (h : ∀ b, okP P (f b)) : okP P (x >>= f) := by
  cases x with
  | ok b => exact h b
  | error e => trivial

theorem okP_bind {x : Except ε β} {f : β → Except ε α} (hx : okP Q x) (h : ∀ b, Q b → okP P (f b)) : okP P (x >>= f) := by
  cases x with
  | ok b => exact h b hx
  | error e => trivial

theorem okP.of_eq {x : Except ε α} {y : α} (hx : okP P x) (e : x = .ok y) : P y := by
  rw [e] at hx
  exact hx

end

/-! Copies (R203 to R206, R216, R303 to R313). -/

theorem State.watchEng_wf (a b c d : Nat) (l : List (Nat × Nat)) (h : memoryWf s.mem) :
    memoryWf (s.watchEng a b c d l).mem :=
  (s.watchEng_mem a b c d l).symm ▸ h

theorem State.noteCmd_wf (n ch : Nat) (c : Cmd) (h : memoryWf s.mem) : memoryWf (s.noteCmd n ch c).mem :=
  (s.noteCmd_mem n ch c).symm ▸ h

theorem State.gcmAccept_wf {T : Team} {c : Cmd} (h : memoryWf s.mem) : okWf (s.gcmAccept T c) := by
  unfold State.gcmAccept
  extract_lets
  split
  · trivial
  · split
    next bs u hu =>
    have hu : memoryWf u.mem := wf_of_pair hu (by simpa using h)
    extract_lets
    refine okP_ite trivial (okP_ite trivial ?_)
    split
    · trivial
    · exact okP_ite trivial hu

theorem State.acceptCopy_wf {n ch : Nat} {T : Team} {c : Cmd} (h : memoryWf s.mem) :
    memoryWf (s.acceptCopy n ch T c).mem := by
  unfold State.acceptCopy
  extract_lets
  split
  · exact State.failCmd_wf _ _ _ _ _ h
  · refine wf_ite ?_ (wf_ite (by simpa using h) h)
    split
    · exact State.failCmd_wf _ _ _ _ _ h
    next c' u hu => simpa using (State.gcmAccept_wf h).of_eq hu

@[simp] theorem State.setChunkBit_wf (T : Team) (b : Blk) (c : Nat) (h : memoryWf s.mem) :
    memoryWf (s.setChunkBit T b c).mem :=
  wf_ite h (memoryWf_homeWrite _ _ h)

@[simp] theorem State.chunksDone_wf (n ch : Nat) (c : Cmd) (cs : List Nat) (k : Nat) (h : memoryWf s.mem) :
    memoryWf (s.chunksDone n ch c cs k).mem :=
  wf_ite (State.endCmd_wf _ _ _ _ h) (by simpa using h)

@[simp] theorem State.runsFail_wf (n ch path : Nat) (T : Team) (c : Cmd) (e : EngErr) (h : memoryWf s.mem) :
    memoryWf (s.runsFail n ch path T c e).mem :=
  State.failCmd_wf _ _ _ _ _ (wf_ite h (by simpa using h))

@[simp] theorem State.engStoresTagged_wf (core : Nat) (l : List (Nat × Nat × List Nat)) (bs : List Byte)
    (h : memoryWf s.mem) : memoryWf (s.engStoresTagged core l bs).mem := by
  induction l generalizing s bs with
  | nil => exact h
  | cons r l ih => exact ih _ (State.setTags_wf _ (State.engStore_wf _ _ _ h))

theorem State.copyLocal_wf {n ch : Nat} {T : Team} {c : Cmd} {k : Nat} (h : memoryWf s.mem) :
    memoryWf (s.copyLocal n ch T c k).mem := by
  unfold State.copyLocal
  extract_lets
  split
  · exact State.runsFail_wf _ _ _ _ _ _ h
  · split
    next bs u hu =>
    have hu : memoryWf u.mem := wf_of_pair hu (by simpa using h)
    exact State.chunksDone_wf _ _ _ _ _ (by simpa using State.setChunkBit_wf _ _ _ (State.engStoresTagged_wf _ _ _ hu))

theorem State.copyCipher_wf {n ch : Nat} {T : Team} {c : Cmd} {k : Nat} (h : memoryWf s.mem) :
    memoryWf (s.copyCipher n ch T c k).mem := by
  unfold State.copyCipher
  extract_lets
  split
  · exact State.runsFail_wf _ _ _ _ _ _ h
  · simpa using h

theorem State.copyPeer_wf {n : Nat} {T : Team} {c : Cmd} {k : Nat} (h : memoryWf s.mem) :
    memoryWf (s.copyPeer n T c k).mem := by
  unfold State.copyPeer
  extract_lets
  refine wf_ite ?_ ?_
  · split
    · exact State.runsFail_wf _ _ _ _ _ _ h
    · split
      next bs u hu =>
      have hu : memoryWf u.mem := wf_of_pair hu (by simpa using h)
      extract_lets v
      have hv : memoryWf v.mem := by simpa [v] using hu
      split
      next z hz => simpa [State.sendPeer_mem hz] using hv
      · exact State.failCmd_wf _ _ _ _ _ hv
  · split
    next z hz => simpa [State.sendPeer_mem hz] using h
    · exact State.failCmd_wf _ _ _ _ _ h

@[simp] theorem State.beginChunk_mem (s : State) (n : Nat) (T : Team) (x : Cmd) (c : Nat) :
    (s.beginChunk n T x c).mem = s.mem := by
  simp [State.beginChunk]

theorem State.peerData_wf {n : Nat} {T : Team} {x : Cmd} {c : Nat} {data : List Byte} (h : memoryWf s.mem)
    (hd : s.peerData n T x c data = some t) : memoryWf t.mem := by
  unfold State.peerData at hd
  extract_lets at hd
  split at hd
  · cases hd
  · split at hd
    · cases hd
      exact State.runsFail_wf _ _ _ _ _ _ h
    · cases hd
      exact State.chunksDone_wf _ _ _ _ _ (State.setChunkBit_wf _ _ _
        (State.watchEng_wf _ _ _ _ _ (State.engStores_wf _ _ _ h)))

theorem execGcmRecord_wf {n a b : Nat} (h : memoryWf s.mem) : nextWf (execGcmRecord n a b s) := by
  unfold execGcmRecord
  split
  · trivial
  next T x _ =>
  extract_lets
  split
  · trivial
  · refine nextWf_ite trivial ?_
    extract_lets
    split
    · exact State.failCmd_wf _ _ _ _ _ h
    · exact State.runsFail_wf _ _ _ _ _ _ h
    · split
      next tag u hu =>
      have hu : memoryWf u.mem := wf_of_pair hu (by simpa using h)
      extract_lets _ _ v
      have hv : memoryWf v.mem := by simpa [v] using State.engStores_wf _ _ _ hu
      refine nextWf_ite ?_ (State.chunksDone_wf _ _ _ _ _ hv)
      exact State.chunksDone_wf _ _ _ _ _ (wf_foldl _ (fun _ _ hs => State.setChunkBit_wf _ _ _ hs) _ hv)

theorem State.lineOp_wf {g : Nat} {G : Group} {T : Team} {l : LineOp} (h : memoryWf s.mem) :
    memoryWf (s.lineOp g G T l).mem := by
  unfold State.lineOp
  extract_lets
  split
  next bs u hu =>
  have hu : memoryWf u.mem := wf_of_pair hu (by split <;> simpa using h)
  extract_lets
  rw [State.setGroup_mem]
  exact State.watchEng_wf _ _ _ _ _ (State.watchEng_wf _ _ _ _ _ (State.watchEng_wf _ _ _ _ _
    (State.setTags_wf _ (wf_foldl _ (fun _ _ hs => State.engStore_wf _ _ _ hs) _ hu))))

theorem execLineOperation_wf {g n : Nat} (h : memoryWf s.mem) : nextWf (execLineOperation g n s) := by
  unfold execLineOperation
  split
  · trivial
  · split
    · exact nextWf_ite (State.lineOp_wf h) (nextWf_ite trivial (State.charged_wf (fun _ hs => by simpa using hs) h))
    · trivial

/-! The matrix unit (R210 to R214, R314 to R321). -/

theorem State.acceptMatrix_wf {n : Nat} {T : Team} {c : Cmd} (h : memoryWf s.mem) :
    memoryWf (s.acceptMatrix n T c).mem := by
  unfold State.acceptMatrix
  split
  · exact State.failCmd_wf _ _ _ _ _ h
  · refine wf_ite (wf_ite h (State.endCmd_wf _ _ _ _ h)) (wf_ite h ?_)
    extract_lets
    rw [State.noteCmd_mem]
    exact wf_ite (by simpa using h) h

@[simp] theorem State.pin_wf (prot : Bool) (x : Nat × Nat × Nat) (l : Nat) (h : memoryWf s.mem) :
    memoryWf (s.pin prot x l).mem := by
  unfold State.pin
  extract_lets
  exact wf_ite ⟨h.bytes, h.tags, h.rel, h.tile, h.lines⟩ (wf_ite ⟨h.bytes, h.tags, h.rel, h.tile, h.lines⟩ h)

theorem State.sharedLine_wf {core colour l : Nat} (h : memoryWf s.mem) : memoryWf (s.sharedLine core colour l).2.mem := by
  unfold State.sharedLine
  extract_lets
  split
  · exact ⟨h.bytes, h.tags, h.rel, h.tile, h.lines⟩
  · exact ⟨h.bytes, h.tags, h.rel, h.tile, h.lines⟩

theorem State.sharedLines_wf {core colour : Nat} {l : List Nat} (h : memoryWf s.mem) :
    memoryWf (s.sharedLines core colour l).2.mem := by
  induction l generalizing s with
  | nil => exact h
  | cons x l ih => exact ih (State.sharedLine_wf h)

theorem State.tileReads_wf {core colour : Nat} {l : List (Nat × Nat)} (h : memoryWf s.mem) :
    memoryWf (s.tileReads core colour l).2.mem := by
  unfold State.tileReads
  split
  · exact State.sharedLines_wf h
  · simpa using h

theorem State.fetchBlock_wf {n : Nat} {T : Team} {c : Cmd} (h : memoryWf s.mem) : memoryWf (s.fetchBlock n T c).mem := by
  unfold State.fetchBlock
  extract_lets
  split
  · exact State.runsFail_wf _ _ _ _ _ _ h
  · split
    next xa u hu =>
    have hu : memoryWf u.mem := wf_of_pair hu (by simpa using h)
    split
    next xb v hv =>
    have hv : memoryWf v.mem := wf_of_pair hv (State.tileReads_wf hu)
    extract_lets
    exact State.noteCmd_wf _ _ _ (State.watchEng_wf _ _ _ _ _ (wf_foldl _ (fun _ _ hs => State.pin_wf _ _ _ hs) _
      ⟨hv.bytes, hv.tags, hv.rel, hv.tile, hv.lines⟩))

theorem execTileFetch_wf {n k : Nat} (h : memoryWf s.mem) : nextWf (execTileFetch n k s) := by
  unfold execTileFetch
  split
  · trivial
  · refine nextWf_ite trivial ?_
    split
    next x u hu =>
    have hu : memoryWf u.mem := wf_of_pair hu (by simpa using h)
    split
    · extract_lets
      exact nextWf_ite (State.fetchBlock_wf hu) (nextWf_ite trivial ⟨hu.bytes, hu.tags, hu.rel, hu.tile, hu.lines⟩)
    · trivial
    · exact State.endCmd_wf _ _ _ _ hu
    · exact State.faultCmd_wf _ _ _ _ _ _ _ hu

@[simp] theorem State.unitFor_mem (s : State) (n : Nat) (T : Team) (c : Cmd) : (s.unitFor n T c).mem = s.mem := rfl

theorem execMmaKblock_wf {n k : Nat} (h : memoryWf s.mem) : nextWf (execMmaKblock n k s) := by
  unfold execMmaKblock
  split
  · trivial
  · split
    · refine nextWf_ite trivial ?_
      split
      next ws fl _ =>
      extract_lets _ _ v
      have hv : memoryWf v.mem := memoryWf_putWords _ _ (memoryWf_unpin _ h)
      exact nextWf_next.2 (wf_ite (State.endCmd_wf _ _ _ _ hv) (State.noteCmd_wf _ _ _ hv))
    · trivial

@[simp] theorem State.rowDone_wf (n : Nat) (c : Cmd) (h : memoryWf s.mem) : memoryWf (s.rowDone n c).mem :=
  wf_ite (State.endCmd_wf _ _ _ _ h) (by simpa using h)

theorem State.tileRow_wf {n : Nat} {T : Team} {c : Cmd} (h : memoryWf s.mem) : memoryWf (s.tileRow n T c).mem := by
  unfold State.tileRow
  extract_lets
  split
  · exact State.runsFail_wf _ _ _ _ _ _ h
  · refine wf_ite ?_ ?_
    · split
      next bs u hu =>
      have hu : memoryWf u.mem := wf_of_pair hu (by simpa using h)
      extract_lets
      exact State.rowDone_wf _ _ (State.watchEng_wf _ _ _ _ _ (memoryWf_putWords _ _ hu))
    · exact State.rowDone_wf _ _ (State.watchEng_wf _ _ _ _ _ (State.engStore_wf _ _ _ h))

theorem execTileStoreRowOperation_wf {n k : Nat} (h : memoryWf s.mem) : nextWf (execTileStoreRowOperation n k s) := by
  unfold execTileStoreRowOperation
  split
  · trivial
  · refine nextWf_ite trivial (nextWf_ite ?_ (State.tileRow_wf h))
    extract_lets
    exact State.rowDone_wf _ _ (memoryWf_clearTile _ _ h)

theorem execDrainRowStaging_wf {n k : Nat} (h : memoryWf s.mem) : nextWf (execDrainRowStaging n k s) := by
  unfold execDrainRowStaging
  split
  · trivial
  · extract_lets
    split
    · refine nextWf_ite trivial ?_
      extract_lets
      exact State.noteCmd_wf _ _ _ ((State.setGroup_mem ..).symm ▸ h)
    · trivial

end Sys2Proof.Machine

/-! PROOFS. Every step keeps storage in its canonical form: collectives, the group window, pools, tasks, fences, walks. -/

namespace Sys2Proof.Machine

open Sys2Proof.Safety Sys2Proof.Rules

variable {s t : State} {i j : Iss} {m : Mem} {o : Op} {w : Long}

/-- A state that may be answered has canonical storage. -/
def optWf (x : Option State) : Prop := ∀ t, x = some t → memoryWf t.mem

@[simp] theorem optWf_none : optWf none := fun _ h => nomatch h
@[simp] theorem optWf_some : optWf (some s) ↔ memoryWf s.mem := by simp [optWf]

theorem optWf_ite {c : Prop} [Decidable c] {x y : Option State} (hx : optWf x) (hy : optWf y) :
    optWf (if c then x else y) := by
  split <;> assumption

/-! Collectives (R215, R216, R322 to R327). -/

@[simp] theorem State.collFail_wf (n : Nat) (c : Cmd) (e : EngErr) (h : memoryWf s.mem) :
    memoryWf (s.collFail n c e).mem := by
  unfold State.collFail
  extract_lets
  exact wf_foldl _ (fun s _ hs => (s.send_mem _).symm ▸ hs) _ (State.failCmd_wf _ _ _ _ _ h)

@[simp] theorem State.collEnd_wf (n : Nat) (c : Cmd) (h : memoryWf s.mem) : memoryWf (s.collEnd n c).mem :=
  wf_ite (State.endCmd_wf _ _ _ _ h) (State.noteCmd_wf _ _ _ h)

theorem State.acceptColl_wf {n : Nat} {T : Team} {c : Cmd} (h : memoryWf s.mem) : memoryWf (s.acceptColl n T c).mem := by
  unfold State.acceptColl
  split
  · exact State.collFail_wf _ _ _ h
  · exact State.collEnd_wf _ _ ((State.markHull_mem ..).symm ▸ h)

theorem State.ownBytes_wf {T : Team} {c : Cmd} {u lo hi : Nat} (h : memoryWf s.mem) : okWf (s.ownBytes T c u lo hi) := by
  unfold State.ownBytes
  split
  · exact h
  · extract_lets
    split
    · trivial
    · simpa using h

theorem State.deliver_wf {n : Nat} {T : Team} {c : Cmd} {p : Nat} {bs : List Byte} (h : memoryWf s.mem) :
    okWf (s.deliver n T c p bs) := by
  unfold State.deliver
  refine okP_ite h ?_
  split
  next lo hi _ =>
  extract_lets
  split
  · trivial
  · exact State.noteCmd_wf _ _ _ (State.watchEng_wf _ _ _ _ _ (State.engStores_wf _ _ _ h))

theorem State.deliverFormed_wf {n u : Nat} {T : Team} {ps : List Nat} {c : Cmd} (h : memoryWf s.mem) :
    okWf (State.deliverFormed n T u ps c s) := by
  induction ps generalizing c s with
  | nil => exact h
  | cons p ps ih =>
    unfold State.deliverFormed
    split
    · refine okP_ite ?_ h
      split
      · trivial
      next c' u' hu => exact ih ((State.deliver_wf h).of_eq hu)
    · exact ih h

theorem State.contribute_wf {n : Nat} {T : Team} {c : Cmd} {p r : Nat} {bs : List Byte} (h : memoryWf s.mem) :
    okWf (s.contribute n T c p r bs) := by
  unfold State.contribute
  extract_lets
  exact okP_ite h (State.deliverFormed_wf h)

theorem State.collStep_wf {n : Nat} {c : Cmd} {x : Except EngErr (Cmd × State)} (h : memoryWf s.mem) (hx : okWf x) :
    memoryWf (s.collStep n c x).mem := by
  unfold State.collStep
  split
  · exact State.collFail_wf _ _ _ h
  · exact State.collEnd_wf _ _ hx

theorem State.collSend_wf {n : Nat} {T : Team} {c : Cmd} {p r : Nat} {src : Except EngErr (List Byte × State)} {kind : Nat}
    (h : memoryWf s.mem) (hsrc : okWf src) : memoryWf (s.collSend n T c p r src kind).mem := by
  unfold State.collSend
  split
  · exact State.collFail_wf _ _ _ h
  next bs u =>
  have hu : memoryWf u.mem := hsrc
  extract_lets note rest
  have hrest : ∀ x, okWf x → okWf (rest x) := fun x hx => by
    cases x with
    | ok y => exact State.deliverFormed_wf hx
    | error e => trivial
  refine wf_ite (State.collStep_wf hu (hrest _ (State.contribute_wf hu))) ?_
  split
  next v hv =>
    have hv : memoryWf v.mem := State.sendPeer_mem hv ▸ hu
    exact State.collStep_wf hv (hrest (.ok (note, v)) hv)
  · exact State.collFail_wf _ _ _ hu

@[simp] theorem State.servedCl_mem (s : State) (T : Team) : (s.servedCl T).mem = s.mem := rfl

theorem State.collOut_wf {n k : Nat} {T : Team} {c : Cmd} {p : Nat} {result : Bool} (h : memoryWf s.mem) :
    nextWf (s.collOut n k T c p result) := by
  unfold State.collOut
  extract_lets
  split
  next lo hi _ =>
  have hsend : ∀ r kind, ∀ v : State, memoryWf v.mem →
      memoryWf ((v.servedCl T).collSend n T c p r ((v.servedCl T).ownBytes T c (pieceUnit p) lo hi) kind).mem :=
    fun r kind v hv => State.collSend_wf (by simpa using hv) (State.ownBytes_wf (by simpa using hv))
  refine nextWf_ite trivial (nextWf_ite ?_ (nextWf_ite trivial ?_))
  · extract_lets
    exact nextWf_ite trivial (State.charged_wf (hsend _ _) h)
  · split
    · exact State.charged_wf (fun v hv => State.collSend_wf (by simpa using hv) (by simpa using hv)) h
    · exact State.charged_wf (hsend _ _) h
    · trivial

theorem State.collToSwitch_wf {n k : Nat} {T : Team} {c : Cmd} {u : Nat} (h : memoryWf s.mem) :
    nextWf (s.collToSwitch n k T c u) := by
  unfold State.collToSwitch
  extract_lets
  refine nextWf_ite trivial (State.charged_wf (fun v hv => ?_) h)
  have hv : memoryWf (v.servedCl T).mem := hv
  extract_lets
  split
  · exact State.collFail_wf _ _ _ hv
  next bs x hx =>
    have hx : memoryWf x.mem := (State.ownBytes_wf hv).of_eq hx
    split
    next y hy => exact State.noteCmd_wf _ _ _ (State.sendPeer_mem hy ▸ hx)
    · exact State.collFail_wf _ _ _ hx

@[simp] theorem State.refuseMsg_mem (s : State) (c : Cmd) (m : PeerMsg) (e : Nat × Nat) (colour : Nat) :
    (s.refuseMsg c m e colour).mem = s.mem := by simp [State.refuseMsg]

theorem State.collIn_wf {n : Nat} {T : Team} {c : Cmd} {m : PeerMsg} (h : memoryWf s.mem) : optWf (s.collIn n T c m) := by
  unfold State.collIn
  extract_lets
  refine optWf_ite optWf_none ?_
  split
  · simpa using h
  · refine optWf_ite (optWf_some.2 (State.collFail_wf _ _ _ h))
      (optWf_ite (optWf_ite optWf_none ?_) (optWf_ite optWf_none ?_))
    · exact optWf_some.2 (State.collStep_wf h (State.contribute_wf h))
    · exact optWf_some.2 (State.collStep_wf h (State.deliver_wf h))

theorem execCollMessage_wf {n k : Nat} {m : PeerMsg} (h : memoryWf s.mem) : nextWf (execCollMessage n k m s) := by
  unfold execCollMessage
  split
  · exact nextWf_ite (nextWf_ite (State.collToSwitch_wf h) (State.collOut_wf h)) (nextWf_stepSome (State.collIn_wf h))
  · split
    · exact nextWf_ite (nextWf_stepSome fun _ hd => State.peerData_wf h hd) trivial
    · trivial

theorem execAbortNotice_wf {n k cause sub : Nat} (h : memoryWf s.mem) : nextWf (execAbortNotice n k cause sub s) := by
  unfold execAbortNotice
  split
  · exact nextWf_ite (State.failCmd_wf _ _ _ _ _ h) trivial
  · trivial

theorem State.deliverAll_wf {n u : Nat} {T : Team} {bs : List Byte} {ps : List Nat} {c : Cmd} (h : memoryWf s.mem) :
    okWf (State.deliverAll n T u bs ps c s) := by
  induction ps generalizing c s with
  | nil => exact h
  | cons p ps ih =>
    unfold State.deliverAll
    split
    next lo hi _ =>
    split
    · trivial
    next c' u' hu => exact ih ((State.deliver_wf h).of_eq hu)

theorem execSwitchReductionResult_wf {n k u : Nat} {data : List Byte} (h : memoryWf s.mem) :
    nextWf (execSwitchReductionResult n k u data s) := by
  unfold execSwitchReductionResult
  split
  · extract_lets
    exact nextWf_ite trivial (State.collStep_wf h (State.deliverAll_wf h))
  · trivial

theorem execSwitchStateLost_wf {n k : Nat} {us : List Nat} (h : memoryWf s.mem) :
    nextWf (execSwitchStateLost n k us s) := by
  unfold execSwitchStateLost
  split
  · exact nextWf_ite trivial (State.noteCmd_wf _ _ _ h)
  · trivial

theorem execCopyChunk_wf {n ch k c : Nat} (h : memoryWf s.mem) : nextWf (execCopyChunk n ch k c s) := by
  unfold execCopyChunk
  split
  · trivial
  · extract_lets
    refine nextWf_ite trivial (nextWf_ite (nextWf_ite trivial (State.charged_wf (fun v hv => ?_) h)) (nextWf_ite ?_
      (nextWf_ite trivial (State.charged_wf (fun v hv => by simpa using hv) h))))
    · exact State.copyPeer_wf (by simpa using hv)
    · exact nextWf_next.2 (wf_ite (State.copyCipher_wf h) (State.copyLocal_wf h))

theorem execPeerAcknowledgement_wf {n k c : Nat} (h : memoryWf s.mem) : nextWf (execPeerAcknowledgement n k c s) := by
  unfold execPeerAcknowledgement State.peerAnswers
  split
  · trivial
  · extract_lets
    split
    · exact nextWf_ite (nextWf_stepIf (State.failCmd_wf _ _ _ _ _ h)) (nextWf_stepIf (State.collFail_wf _ _ _ h))
    · exact nextWf_stepIf (State.chunksDone_wf _ _ _ _ _ (State.setChunkBit_wf _ _ _ h))

theorem execChainEntryAcceptance_wf {n ch : Nat} (h : memoryWf s.mem) : nextWf (execChainEntryAcceptance n ch s) := by
  unfold execChainEntryAcceptance
  split
  · trivial
  · split
    · trivial
    · refine nextWf_ite trivial ?_
      extract_lets c u
      have hu : memoryWf u.mem := State.putCmd_wf _ _ _ h
      exact nextWf_next.2 (wf_ite (State.acceptCopy_wf hu) (wf_ite (State.acceptColl_wf hu) (State.acceptMatrix_wf hu)))

/-! The group window and the pools (R214, R220, R230, R231). -/

@[simp] theorem Iss.target_answers {P : Nat × Group → Prop} (h : ∀ x, P x) : answers P (i.target w) := by
  unfold Iss.target
  split
  · split <;> exact h _
  · trivial

theorem winGstop_wf (h : memoryWf s.mem) : nextWf (winGstop o w s) :=
  runInstr_wf (fun i hi => answers_bind.2 (Iss.target_answers fun ⟨g, G⟩ => answers_ite hi (answers_ite (by simpa using hi)
    (fun _ hs => by simpa using hs)))) h

theorem winGrd_wf (h : memoryWf s.mem) : nextWf (winGrd o w s) :=
  runInstr_wf (fun i hi => answers_bind.2 (Iss.target_answers fun ⟨_, G⟩ => answers_ite trivial (by
    split
    · exact hi
    · trivial))) h

theorem winGwr_wf (h : memoryWf s.mem) : nextWf (winGwr o w s) :=
  runInstr_wf (fun i hi => answers_bind.2 (Iss.target_answers fun ⟨_, G⟩ => answers_ite trivial (by
    split
    · exact hi
    · trivial))) h

theorem winGres_wf (h : memoryWf s.mem) : nextWf (winGres o w s) :=
  runInstr_wf (fun _ hi => answers_bind.2 (Iss.target_answers fun _ => answers_ite hi (answers_ite hi hi))) h

theorem winGstat_wf (h : memoryWf s.mem) : nextWf (winGstat o w s) :=
  runInstr_wf (fun _ hi => answers_bind.2 (Iss.target_answers fun _ => hi)) h

@[simp] theorem State.zeroTiles_wf (core u n : Nat) (h : memoryWf s.mem) : memoryWf (s.zeroTiles core u n).mem :=
  memoryWf_clearTile _ _ h

theorem poolClaim_wf (h : memoryWf s.mem) : nextWf (poolClaim o w s) :=
  runInstr_wf (fun i hi => answers_bind.2 (answers_ecc (answers_ite hi (answers_ite trivial (answers_ite answers_waitOnly (by
    simpa using hi)))))) h

theorem poolRelease_wf (h : memoryWf s.mem) : nextWf (poolRelease o w s) :=
  runInstr_wf (fun i hi => answers_bind.2 (answers_ecc (answers_ite hi (answers_ite trivial (answers_ite trivial (by
    simpa using hi)))))) h

theorem poolTclaim_wf (h : memoryWf s.mem) : nextWf (poolTclaim o w s) :=
  runInstr_wf (fun i hi => answers_bind.2 (answers_ecc (answers_ite trivial (answers_ite trivial (by
    split
    · exact answers_waitOnly
    · exact answers_ite answers_waitOnly (by simpa using State.zeroTiles_wf _ _ _ (by simpa using hi))))))) h

theorem poolTrelease_wf (h : memoryWf s.mem) : nextWf (poolTrelease o w s) :=
  runInstr_wf (fun i hi => answers_bind.2 (answers_ecc (answers_ite trivial (answers_ite answers_waitOnly (by
    simpa using State.zeroTiles_wf _ _ _ (by simpa using hi)))))) h

/-! Tasks (R349 to R361, R378, R379). -/

theorem State.schedRead_wf {colour a n : Nat} (h : memoryWf s.mem) : okWf (s.schedRead colour a n) := by
  unfold State.schedRead
  split
  · trivial
  · simpa using h

theorem State.takeSlots_wf {colour a n : Nat} (h : memoryWf s.mem) :
    okP (fun u : State => memoryWf u.mem) (s.takeSlots colour a n) := by
  induction n generalizing s a with
  | zero => exact h
  | succ n ih =>
    unfold State.takeSlots
    refine okP_bind (State.schedRead_wf h) fun ⟨bs, u⟩ hu => ?_
    dsimp only
    split
    · trivial
    · exact ih hu

theorem State.checkCaps_wf {k : Task} {q : Bool} (h : memoryWf s.mem) :
    okP (fun x : Task × Header × State => memoryWf x.2.2.mem) (s.checkCaps k q) := by
  unfold State.checkCaps
  extract_lets
  refine okP_check fun c0 => okP_bind (State.schedRead_wf h) fun ⟨hb, u⟩ hu => ?_
  dsimp only
  split
  · trivial
  · exact okP_check fun _ => okP_check fun _ => okP_check fun _ => okP_bind (State.schedRead_wf hu) fun ⟨rb, v⟩ hv =>
      okP_check fun rs => okP_ite (okP_bind (State.takeSlots_wf hv) fun z hz => okP_ok.2 hz) hv

theorem State.checkRecord_wf {k : Task} {q : Bool} (h : memoryWf s.mem) : okWf (s.checkRecord k q) := by
  unfold State.checkRecord
  refine okP_bind (State.checkCaps_wf h) fun ⟨k, hd, u⟩ hu => okP_ite trivial (okP_ite trivial ?_)
  exact okP_bind (State.schedRead_wf hu) fun ⟨rb, v⟩ hv =>
    okP_ite trivial (okP_ite trivial (okP_ite trivial (okP_ite trivial hv)))

@[simp] theorem State.ringStore_wf (k : Task) (key : Nat) (h : memoryWf s.mem) : memoryWf (s.ringStore k key).mem := by
  unfold State.ringStore
  extract_lets
  exact wf_ite h (wf_ite h (wf_ite h (memoryWf_homeWrite _ _ h)))

@[simp] theorem State.completeTask_wf (key a b c : Nat) (h : memoryWf s.mem) : memoryWf (s.completeTask key a b c).mem := by
  unfold State.completeTask
  split
  · exact h
  · exact wf_ite h (State.ringStore_wf _ _ (by simpa using h))

@[simp] theorem State.tagSlots_wf (k : Task) (h : memoryWf s.mem) : memoryWf (s.tagSlots k).mem := by
  unfold State.tagSlots
  extract_lets
  exact wf_ite h ⟨h.bytes, Store.wf_fold _ (fun _ _ w => Store.wf_write _ _ _ w) _ h.tags, h.rel, h.tile, h.lines⟩

@[simp] theorem State.appendTask_wf (q f : Nat) (record : BitVec 2048) (tags : BitVec 16) (qsub : Bool) (rank : Nat)
    (h : memoryWf s.mem) : memoryWf (s.appendTask q f record tags qsub rank).2.mem := by
  unfold State.appendTask
  extract_lets
  dsimp only
  split
  · exact State.completeTask_wf _ _ _ _ h
  next c k' z hz =>
    have hz : memoryWf z.mem := (State.checkRecord_wf (by exact h)).of_eq hz
    exact wf_ite (State.tagSlots_wf _ hz) hz

@[simp] theorem State.growEdge_mem (s : State) (k : Task) (n : Nat) : (s.growEdge k n).mem = s.mem := by
  unfold State.growEdge
  split
  · split <;> rfl
  · rfl

@[simp] theorem State.examine_mem (s : State) (key : Nat) (k : Task) : (s.examine key k).mem = s.mem :=
  mem_foldl _ (fun s on => s.growEdge_mem k on) _ s

theorem execRecordExamination_wf {q : Nat} (h : memoryWf s.mem) : nextWf (execRecordExamination q s) := by
  unfold execRecordExamination
  split
  · simpa using h
  · trivial

theorem execQctlRelease_wf {f q n : Nat} (h : memoryWf s.mem) : nextWf (execQctlRelease f q n s) := by
  unfold execQctlRelease
  split
  · exact nextWf_ite h h
  · exact h

@[simp] theorem State.dropQueued_mem (s : State) (p : QTeam → Bool) : (s.dropQueued p).mem = s.mem := rfl

theorem execQctlCancel_wf {f q n : Nat} (h : memoryWf s.mem) : nextWf (execQctlCancel f q n s) := by
  unfold execQctlCancel
  split
  · exact nextWf_ite h (State.completeTask_wf _ _ _ _ h)
  · exact h

/-! Fences and walks (R190 to R193, R290, R291, R383, R385 to R387). -/

@[simp] theorem State.fence_wf (core colour sc : Nat) (acq rel : Bool) (h : memoryWf s.mem) :
    memoryWf (s.fence core colour sc acq rel).mem := by
  unfold State.fence
  extract_lets u
  have hu : memoryWf u.mem := wf_ite (memoryWf_releaseFence _ _ _ h) h
  exact wf_ite (memoryWf_acquireFence _ _ _ hu) hu

theorem fenceOp_wf (h : memoryWf s.mem) : nextWf (fenceOp o w s) :=
  runInstr_wf (fun _ hi => answers_ite answers_waitOnly (State.fence_wf _ _ _ _ _ hi)) h

theorem fencexOp_wf (h : memoryWf s.mem) : nextWf (fencexOp o w s) :=
  runInstr_wf (fun i hi => answers_ite answers_waitOnly (answers_ite (State.fence_wf _ _ _ _ _ hi) (by
    have hm : memoryWf (if w.bits 31 29 = 0 then i.s.mem.drain i.core i.colour else i.s.mem) := by
      split
      · exact memoryWf_drain _ _ hi
      · exact hi
    simp only [answers_ok, Done.only_s]
    split
    · exact memoryWf_dropClean _ _ hm
    · exact hm))) h

@[simp] theorem State.setWalk_mem (s : State) (n : Nat) (x : Walk) : (s.setWalk n x).mem = s.mem := rfl
@[simp] theorem State.dropWalk_mem (s : State) (n : Nat) : (s.dropWalk n).mem = s.mem := rfl
@[simp] theorem State.moveWalks_mem (s : State) (a b : Nat) : (s.moveWalks a b).mem = s.mem := rfl

theorem State.takeWalker_mem {tower c k : Nat} (h : s.takeWalker tower c = some (k, t)) : t.mem = s.mem := by
  unfold State.takeWalker at h
  extract_lets at h
  repeat' split at h
  all_goals cases h
  all_goals rfl

@[simp] theorem answers_rangeCheck {P : Unit → Prop} {c : CapV} {perms n : Nat} (h : P ()) :
    answers P (i.rangeCheck c perms n) :=
  answers_bind.2 (answers_lsCheck (answers_ite (answers_ite trivial h) h))

theorem walkOp_wf {inv : Bool} (h : memoryWf s.mem) : nextWf (walkOp o w inv s) :=
  runInstr_wf (fun i hi => answers_bind.2 (answers_ecc (answers_bind.2 (answers_rangeCheck (answers_ite hi (by
    extract_lets
    split
    · exact answers_waitOnly
    next k u hu =>
      have hu : memoryWf u.mem := State.takeWalker_mem hu ▸ hi
      simpa using hu)))))) h

theorem icinvOp_wf (h : memoryWf s.mem) : nextWf (icinvOp o w s) :=
  runInstr_wf (fun i hi => answers_bind.2 (answers_ecc (answers_bind.2 (answers_rangeCheck (by
    have hm : ∀ p q, answers (fun d => memoryWf d.s.mem)
        (.ok (Done.only { i.s with mem := (i.s.mem.backWhere p true).dropCode q })) := fun p q =>
      memoryWf_dropCode q (memoryWf_backWhere p true hi)
    exact hm _ _))))) h

@[simp] theorem State.l2Room_wf (tower : Nat) (h : memoryWf s.mem) : memoryWf (s.l2Room tower).mem := by
  unfold State.l2Room
  extract_lets
  refine wf_ite h ?_
  split
  next x u hu => exact memoryWf_dropL2 _ _ (wf_of_pair hu h)

@[simp] theorem State.visitLine_wf (x : Walk) (line : Nat) (h : memoryWf s.mem) : memoryWf (s.visitLine x line).mem := by
  have hback : ∀ (p : Nat → Bool) keep, memoryWf ({ s with mem := s.mem.backWhere p keep } : State).mem :=
    fun p keep => memoryWf_backWhere p keep h
  have hroom : ∀ l : List Nat, memoryWf (l.foldl State.l2Room s).mem := fun l =>
    wf_foldl _ (fun _ _ hs => State.l2Room_wf _ hs) l h
  unfold State.visitLine
  extract_lets
  split
  · exact hback _ _
  · exact memoryWf_dropL2 _ _ (memoryWf_backWhere _ _ h)
  · exact hback _ _
  · exact ⟨(hroom _).bytes, (hroom _).tags, (hroom _).rel, (hroom _).tile, (hroom _).lines⟩

theorem State.visitLines_wf {n : Nat} {x : Walk} (h : memoryWf s.mem) : memoryWf (State.visitLines n x s).2.mem := by
  induction n generalizing x s with
  | zero => exact h
  | succ n ih =>
    unfold State.visitLines
    split
    · exact h
    · exact ih (State.visitLine_wf _ _ h)

theorem State.visitWalk_wf {a n : Nat} (h : memoryWf s.mem) : nextWf (s.visitWalk a n) := by
  unfold State.visitWalk
  split
  · refine nextWf_ite trivial ?_
    split
    next x u hu => exact (wf_of_pair hu (State.visitLines_wf h) : memoryWf u.mem)
  · trivial

theorem State.startWalk_mem {a : Nat} {x : Walk} (h : s.startWalk a x = some t) : t.mem = s.mem := by
  unfold State.startWalk at h
  extract_lets at h
  split at h
  · cases h
  · obtain ⟨⟨k, u⟩, hu, rfl⟩ := Option.map_eq_some_iff.1 h
    exact (State.takeWalker_mem hu : u.mem = s.mem)

theorem execCacheWalk_wf {a : Nat} (h : memoryWf s.mem) : nextWf (execCacheWalk a s) := by
  unfold execCacheWalk
  split
  · exact nextWf_ite (nextWf_stepSome fun _ hx => State.startWalk_mem hx ▸ h) trivial
  · trivial

theorem execWalkResume_wf {a : Nat} (h : memoryWf s.mem) : nextWf (execWalkResume a s) := by
  unfold execWalkResume
  split
  · exact nextWf_ite (nextWf_stepSome fun _ hx => State.startWalk_mem hx ▸ h) trivial
  · trivial

@[simp] theorem State.walkArrival_mem (s : State) (x : Walk) : (s.walkArrival x).mem = s.mem := by
  unfold State.walkArrival
  repeat' split
  all_goals simp

theorem execWalkEnd_wf {a : Nat} (h : memoryWf s.mem) : nextWf (execWalkEnd a s) := by
  unfold execWalkEnd
  split
  · refine nextWf_ite trivial ?_
    extract_lets
    rw [nextWf_next]
    split
    · exact (State.walkArrival_mem ..).symm ▸ h
    · exact (State.walkArrival_mem ..).symm ▸ h
    · exact h
  · trivial

theorem execForward_wf {a : Nat} (h : memoryWf s.mem) : nextWf (execForward a s) := by
  unfold execForward
  split
  · exact nextWf_ite (State.visitWalk_wf h) trivial
  · trivial

@[simp] theorem State.addStripe_mem (s : State) (kind : WalkKind) (k : Nat) (T : Task) (scope : Nat) (r : Nat × Nat) :
    (s.addStripe kind k T scope r).mem = s.mem := rfl

@[simp] theorem State.addForwards_mem (s : State) (k : Nat) (T : Task) (targets : List Nat) (rs : List (Nat × Nat)) :
    (s.addForwards k T targets rs).mem = s.mem := by
  suffices hf : ∀ (l : List (Nat × Nat)) (acc : State × List Nat), acc.1.mem = s.mem →
      (l.foldl (fun (acc : State × List Nat) r =>
        let (l, left) := forwardTo targets 5 acc.2 r
        (l.foldl (fun s e => s.addStripe .forward k T e.1 e.2) acc.1, left)) acc).1.mem = s.mem from hf _ _ rfl
  intro l
  induction l with
  | nil => exact fun _ ha => ha
  | cons r l ih =>
    refine fun acc ha => ih _ ?_
    exact (mem_foldl (fun s (e : Nat × Nat × Nat) => s.addStripe .forward k T e.1 e.2) (fun _ _ => rfl) _ _).trans ha

theorem execDrainRequest_wf {core colour : Nat} (h : memoryWf s.mem) : nextWf (execDrainRequest core colour s) :=
  nextWf_stepIf (memoryWf_drain _ _ h)

theorem execReleaseRecordRetirement_wf {line colour : Nat} (h : memoryWf s.mem) :
    nextWf (execReleaseRecordRetirement line colour s) :=
  nextWf_stepIf (memoryWf_retireRel _ _ h)

end Sys2Proof.Machine

/-! PROOFS. Every step keeps storage in its canonical form: teams, the scheduler, saves and restores, functions. -/

namespace Sys2Proof.Machine

open Sys2Proof.Safety Sys2Proof.Rules

variable {s t : State} {i j : Iss} {m : Mem} {o : Op} {w : Long}

/-! Teams (R20, R245 to R249, R364, R366, R380 to R382). -/

/-- Dirty copies written back, as a part of the state. -/
theorem State.backWhere_wf (p : Nat → Bool) (keep : Bool) (h : memoryWf s.mem) :
    memoryWf ({ s with mem := s.mem.backWhere p keep } : State).mem := memoryWf_backWhere p keep h

/-- A capability stored at the home, as a part of the state. -/
theorem State.homeWriteTagged_wf (a : Nat) (bs : List Byte) (b : Bool) (h : memoryWf s.mem) :
    memoryWf ({ s with mem := s.mem.homeWriteTagged a bs b } : State).mem := memoryWf_homeWriteTagged a bs b h

@[simp] theorem State.scanL1_wf (core colour : Nat) (rs : List Region) (h : memoryWf s.mem) :
    memoryWf (s.scanL1 core colour rs).mem := State.backWhere_wf _ _ h

@[simp] theorem State.image_mem (s : State) (k : Task) : (s.image k).2.2.mem = s.mem := by
  simp [State.image]

@[simp] theorem State.startAt_wf (core key idx : Nat) (k : Task) (p : Spot) (h : memoryWf s.mem) :
    memoryWf (s.startAt core key idx k p).mem := by
  unfold State.startAt
  extract_lets n
  split
  next hd rtab u hu =>
  have hu : memoryWf u.mem := by
    have hi := s.image_mem k
    rw [hu] at hi
    exact hi ▸ h
  extract_lets
  rename_i v z
  have hv : memoryWf v.mem := by
    refine wf_foldl _ ?_ _ (by exact hu)
    exact fun _ _ hs => hs
  have hz : memoryWf z.mem := by
    exact wf_ite (State.homeWriteTagged_wf _ _ _ hv) hv
  split
  · exact hz
  · exact hz

theorem execL1RegionScan_wf {core : Nat} (h : memoryWf s.mem) : nextWf (execL1RegionScan core s) := by
  unfold execL1RegionScan
  split
  · split
    · exact nextWf_ite trivial (State.scanL1_wf _ _ _ h)
    · trivial
  · trivial

theorem execTeamStart_wf {core : Nat} (h : memoryWf s.mem) : nextWf (execTeamStart core s) := by
  unfold execTeamStart
  extract_lets
  split
  · split
    · split
      · exact nextWf_ite trivial (State.startAt_wf _ _ _ _ _ h)
      · trivial
    · trivial
  · trivial

@[simp] theorem State.teamWriteBack_wf (T : Team) (h : memoryWf s.mem) : memoryWf (s.teamWriteBack T).mem := by
  unfold State.teamWriteBack
  split
  · exact State.backWhere_wf _ _ h
  · exact h

@[simp] theorem State.moveFlights_mem (s : State) (a b : Nat) : (s.moveFlights a b).mem = s.mem := rfl

@[simp] theorem State.freeTeam_wf (n : Nat) (T : Team) (h : memoryWf s.mem) : memoryWf (s.freeTeam n T).mem :=
  memoryWf_unpin _ (memoryWf_zeroRange _ _ (memoryWf_zeroRange _ _
    (wf_foldl _ (fun _ _ hs => State.zeroTiles_wf _ _ _ hs) _ h)))

@[simp] theorem State.teamEnded_mem (s : State) (key : Nat) : (s.teamEnded key).mem = s.mem := by
  unfold State.teamEnded
  split
  · rfl
  · extract_lets
    split
    · rfl
    · exact mem_foldl _ (fun s r => s.addStripe_mem _ _ _ _ r) _ _

@[simp] theorem State.endTeam_wf (n : Nat) (T : Team) (h : memoryWf s.mem) : memoryWf (s.endTeam n T).mem := by
  unfold State.endTeam
  simpa using State.freeTeam_wf n T (State.teamWriteBack_wf T h)

theorem execTeamEnd_wf {n : Nat} (h : memoryWf s.mem) : nextWf (execTeamEnd n s) := by
  unfold execTeamEnd
  split
  · exact nextWf_stepIf (State.endTeam_wf _ _ h)
  · trivial

theorem execTaskCompletion_wf {key : Nat} (h : memoryWf s.mem) : nextWf (execTaskCompletion key s) := by
  unfold execTaskCompletion
  split
  · refine nextWf_ite trivial ?_
    split <;> exact State.completeTask_wf _ _ _ _ h
  · trivial

@[simp] theorem State.killTeam_wf (n : Nat) (T : Team) (trig cause sub : Nat) (word : Word) (h : memoryWf s.mem) :
    memoryWf (s.killTeam n T trig cause sub word).mem := by
  unfold State.killTeam
  have hu : memoryWf ((List.range 3).foldl (fun s ch => s.abandonAll n ch) s).mem :=
    wf_foldl _ (fun _ _ hs => State.abandonAll_wf _ _ hs) _ h
  dsimp only
  refine State.endTeam_wf _ _ ?_
  split
  · exact hu
  · exact hu

theorem execLevel2Fault_wf {n : Nat} (h : memoryWf s.mem) : nextWf (execLevel2Fault n s) := by
  unfold execLevel2Fault
  split
  · split
    · exact State.killTeam_wf _ _ _ _ _ _ h
    · trivial
  · trivial

/-! The scheduler (R232, R355, R362 to R368, R383, R394). -/

theorem State.qsubRead_wf {f addr : Nat} {data : Option (List Byte)} {r : BitVec 2048} (h : memoryWf s.mem)
    (hq : s.qsubRead f addr data = some (r, t)) : memoryWf t.mem := by
  unfold State.qsubRead at hq
  extract_lets got at hq
  have hgot : ∀ bs (u : State), got bs u = some (r, t) → t = u := fun bs u hg => by
    by_cases hl : bs.length = 256
    · simp only [got, if_pos hl, Option.some.injEq, Prod.mk.injEq] at hg
      exact hg.2.symm
    · simp [got, hl] at hg
  by_cases h1 : isHost addr = true
  · rw [if_pos h1] at hq
    obtain ⟨bs, -, hg⟩ := Option.bind_eq_some_iff.1 hq
    exact hgot _ _ hg ▸ h
  · rw [if_neg h1] at hq
    by_cases h2 : hbmTop < addr + 256 ∨ (s.mem.poisonIn addr 256).isSome
    · rw [if_pos h2] at hq
      cases hq
    · rw [if_neg h2] at hq
      split at hq
      · cases hq
      · rw [hgot _ _ hq]
        exact State.watchEng_wf _ _ _ _ _ h

theorem execQsub_wf {f q addr : Nat} {data : Option (List Byte)} (h : memoryWf s.mem) :
    nextWf (execQsub f q addr data s) := by
  unfold execQsub
  extract_lets
  refine nextWf_ite h (nextWf_ite h ?_)
  split
  next r u hu => exact State.appendTask_wf _ _ _ _ _ _ (State.qsubRead_wf h hu)
  · exact h

theorem schedTlaunch_wf (h : memoryWf s.mem) : nextWf (schedTlaunch o w s) :=
  runInstr_wf (fun i hi => by
    extract_lets
    split
    · trivial
    · trivial
    · trivial
    · split
      · trivial
      · refine answers_ite answers_waitOnly (answers_ite answers_waitOnly ?_)
        have hf := State.fence_wf i.core i.colour 6 false true hi
        split
        · trivial
        · split
          next bs u hu =>
          have hu : memoryWf u.mem := wf_of_pair hu (by simpa using hf)
          exact answers_ok.2 (State.appendTask_wf _ _ _ _ _ _ hu)) h

theorem startOn_wf {key : Nat} {k : Task} {a : Nat} {l : List Nat} (h : memoryWf s.mem) : optWf (startOn key k a l s) := by
  induction l generalizing a s with
  | nil => exact optWf_some.2 h
  | cons c l ih =>
    unfold startOn
    split
    · exact ih (State.startAt_wf _ _ _ _ _ (State.scanL1_wf _ _ _ h))
    · exact optWf_none

theorem State.reservation_wf {key : Nat} {k : Task} {x : List Nat × State} (h : memoryWf s.mem)
    (hx : s.reservation key k = some x) : memoryWf x.2.mem := by
  unfold State.reservation at hx
  split at hx
  · cases hx
  · split at hx
    · obtain ⟨u, hu, rfl⟩ := Option.map_eq_some_iff.1 hx
      exact startOn_wf h u hu
    · cases hx

@[simp] theorem State.dealtTo_mem (s : State) (key : Nat) (cores : List Nat) : (s.dealtTo key cores).mem = s.mem := by
  unfold State.dealtTo
  split
  · rfl
  · dsimp only
    split
    · rfl
    · simp

theorem execAdmission_wf {key : Nat} (h : memoryWf s.mem) : nextWf (execAdmission key s) := by
  unfold execAdmission
  split
  · trivial
  · refine nextWf_ite trivial ?_
    extract_lets u
    have hu : memoryWf u.mem := h
    refine nextWf_ite hu ?_
    split
    next cores v hv => simpa using State.reservation_wf hu hv
    · trivial

@[simp] theorem State.enqueue_mem (s : State) (core : Nat) (x : QTeam) : (s.enqueue core x).mem = s.mem := rfl

theorem execTeamDeal_wf {key : Nat} (h : memoryWf s.mem) : nextWf (execTeamDeal key s) := by
  unfold execTeamDeal
  split
  · trivial
  · refine nextWf_ite trivial (nextWf_ite ?_ ?_)
    · split
      next cores v hv => simpa using State.reservation_wf h hv
      · trivial
    · split
      · trivial
      · simpa using h

theorem execGlean_wf {core : Nat} (h : memoryWf s.mem) : nextWf (execGlean core s) := by
  unfold execGlean
  extract_lets
  split
  · trivial
  · refine nextWf_ite trivial ?_
    extract_lets
    split <;> exact h

theorem execGleanAnswer_wf {core : Nat} (h : memoryWf s.mem) : nextWf (execGleanAnswer core s) := by
  unfold execGleanAnswer
  extract_lets
  split
  · extract_lets
    refine nextWf_ite trivial ?_
    extract_lets
    split
    exact h
  · trivial

theorem execGleanAnswerArrival_wf {core : Nat} (h : memoryWf s.mem) : nextWf (execGleanAnswerArrival core s) := by
  unfold execGleanAnswerArrival
  extract_lets
  split
  · exact nextWf_ite trivial h
  · trivial

@[simp] theorem State.giveHolder_mem (s : State) (f : Option Nat) : (s.giveHolder f).mem = s.mem := rfl

theorem execHolderChange_wf (h : memoryWf s.mem) : nextWf (execHolderChange s) := by
  unfold execHolderChange
  split
  · split
    · exact h
    · trivial
  · exact nextWf_stepIf h

theorem execQuantumEnd_wf (h : memoryWf s.mem) : nextWf (execQuantumEnd s) := by
  unfold execQuantumEnd
  split
  · trivial
  · extract_lets
    exact nextWf_ite trivial (nextWf_ite h (nextWf_stepIf h))

/-! Saves and restores (R395 to R400). -/

theorem State.flushCopies_wf {g n : Nat} (h : memoryWf s.mem) : memoryWf (State.flushCopies g n s).mem := by
  induction n generalizing s with
  | zero => exact h
  | succ n ih =>
    unfold State.flushCopies
    split
    · exact h
    · split
      · exact ih (State.lineOp_wf h)
      · exact h

@[simp] theorem State.requeue_mem (s : State) (T : Team) (x : Option Nat) : (s.requeue T x).mem = s.mem := rfl

@[simp] theorem State.flushTeam_wf (n : Nat) (h : memoryWf s.mem) : memoryWf (s.flushTeam n).mem :=
  wf_foldl _ (fun _ _ hs => State.flushCopies_wf hs) _ h

@[simp] theorem State.haltTeam_wf (n : Nat) (h : memoryWf s.mem) : memoryWf (s.haltTeam n).mem := by
  unfold State.haltTeam
  split
  · exact h
  next T _ =>
    refine wf_ite ?_ ?_
    · extract_lets u
      have hu : memoryWf u.mem := (State.detect_mem ..).symm ▸ State.freeTeam_wf n T h
      split
      · exact hu
      · exact hu
    · extract_lets u
      have hu : memoryWf u.mem := State.flushTeam_wf n h
      split
      · exact hu
      · exact hu

theorem execPreemptionRequest_wf {ts : List Nat} (h : memoryWf s.mem) : nextWf (execPreemptionRequest ts s) :=
  nextWf_stepIf (wf_foldl _ (fun _ _ hs => State.haltTeam_wf _ hs) _ h)

@[simp] theorem State.eachCmd_wf (n : Nat) (which : Cmd → Bool) (f : Cmd → Cmd) (h : memoryWf s.mem) :
    memoryWf (s.eachCmd n which f).mem := by
  unfold State.eachCmd
  split
  · exact h
  · exact wf_foldl _ (fun _ _ hs => wf_foldl _ (fun _ _ ht => State.putCmd_wf _ _ _ ht) _ hs) _ h

@[simp] theorem State.reportPoison_mem (s : State) (T : Team) (v : Save) : (s.reportPoison T v).mem = s.mem := by
  unfold State.reportPoison
  split <;> rfl

@[simp] theorem State.sealImage_wf (v : Save) (h : memoryWf s.mem) : memoryWf (s.sealImage v).mem := by
  unfold State.sealImage
  split
  · exact h
  · exact memoryWf_homeWrite _ _ h

@[simp] theorem State.zeroImage_wf (v : Save) (h : memoryWf s.mem) : memoryWf (s.zeroImage v).mem := by
  unfold State.zeroImage
  split
  · exact h
  · exact memoryWf_zeroRange _ _ h

@[simp] theorem State.watchSave_mem (s : State) (T : Team) (x : Nat) : (s.watchSave T x).mem = s.mem := by
  simp [State.watchSave]

theorem execTeamSave_wf {n : Nat} (h : memoryWf s.mem) : nextWf (execTeamSave n s) := by
  unfold execTeamSave
  split
  next T C _ _ =>
    refine nextWf_ite trivial ?_
    have hd : memoryWf ({ s.flushTeam n with mem := (s.flushTeam n).mem.drain T.core T.colour } : State).mem :=
      memoryWf_drain _ _ (State.flushTeam_wf n h)
    have hc := State.eachCmd_wf n Cmd.running Cmd.stopped hd
    extract_lets _ _ u T' v _ x
    have hx : memoryWf x.mem := State.sealImage_wf v ((State.reportPoison_mem ..).symm ▸ hc)
    rw [nextWf_next, State.detect_mem, State.requeue_mem]
    refine State.freeTeam_wf _ _ ?_
    rw [State.watchSave_mem]
    exact hx
  · trivial

theorem memoryWf_putCells (base : Nat) (l : List Host.Cell) (h : memoryWf m) : memoryWf (putCells base l m) :=
  ⟨Store.wf_fold (w := 8) _ (fun _ _ hb => Memory.wf_write _ _ _ hb) l h.bytes, h.tags, h.rel, h.tile, h.lines⟩

theorem memoryWf_putTags (base : Nat) (l : Store 1) (h : memoryWf m) : memoryWf (putTags base l m) :=
  ⟨h.bytes, Store.wf_fold _ (fun _ _ w => Store.wf_write _ _ _ w) l h.tags, h.rel, h.tile, h.lines⟩

theorem memoryWf_putPoison (base : Nat) (l : List (Nat × Nat)) (h : memoryWf m) : memoryWf (putPoison base l m) :=
  ⟨h.bytes, h.tags, h.rel, h.tile, h.lines⟩

theorem memoryWf_dropCodeOf (core : Nat) (cs : List CapV) (h : memoryWf m) : memoryWf (m.dropCodeOf core cs) :=
  memoryWf_dropCode _ h

theorem memoryWf_putTiles (base : Nat) (l : Store 32) (h : memoryWf m) :
    memoryWf { m with tile := l.foldl (fun tl e => Store.write tl (base + e.1) e.2) m.tile } :=
  ⟨h.bytes, h.tags, h.rel, Store.wf_fold _ (fun _ _ w => Store.wf_write _ _ _ w) l h.tile, h.lines⟩

@[simp] theorem State.putBack_wf (n core tslot : Nat) (v : Save) (slots : List Nat) (h : memoryWf s.mem) :
    memoryWf (s.putBack n core tslot v slots).mem := by
  have hgroups : ∀ (l : List (Nat × Nat × Group)) (u : State), memoryWf u.mem →
      memoryWf (l.foldl (fun u x => u.setGroup x.2.1 x.2.2) u).mem := fun l _ hu =>
    (mem_foldl (fun u x => u.setGroup x.2.1 x.2.2) (fun _ _ => rfl) l _).symm ▸ hu
  have harr : ∀ (l : List Nat) (u : State), memoryWf u.mem →
      memoryWf (l.foldl (fun u b => u.arrive core b 1 0) u).mem := fun l _ hu =>
    (mem_foldl (fun u b => u.arrive core b 1 0) (fun _ _ => rfl) l _).symm ▸ hu
  have hdrop : ∀ (m : Mem) cs, memoryWf m → memoryWf (if core = v.team.core then m else m.dropCodeOf core cs) :=
      fun _ _ hm => by
    split
    · exact hm
    · exact memoryWf_dropCodeOf _ _ hm
  have hput : ∀ (m : Mem) base cells tags poison, memoryWf m →
      memoryWf (putCells base cells (putTags base tags (putPoison base poison m))) :=
    fun _ _ _ _ _ hm => memoryWf_putCells _ _ (memoryWf_putTags _ _ (memoryWf_putPoison _ _ hm))
  unfold State.putBack
  extract_lets
  rename_i m0 m1 m2 m3 _ _ s0 s1 s2 _ s3 s4 s5 s6
  have hm3 : memoryWf m3 := hdrop _ _ (memoryWf_putTiles _ _ (hput _ _ _ _ _ (hput _ _ _ _ _ h)))
  have hs2 : memoryWf s2.mem := by
    refine wf_foldl _ ?_ _ (hgroups _ _ hm3)
    exact fun _ _ hs => hs
  have hs4 : memoryWf s4.mem := (State.watchSave_mem ..).symm ▸ State.scanL1_wf _ _ _ (by exact hs2)
  have hs6 : memoryWf s6.mem := State.eachCmd_wf _ _ _ (harr _ _ hs4)
  split
  · exact hs6
  · exact hs6

theorem State.restoreAll_wf {ps : List (Nat × Nat × Nat)} (h : memoryWf s.mem) : optWf (State.restoreAll ps s) := by
  induction ps generalizing s with
  | nil => exact optWf_some.2 h
  | cons p ps ih =>
    unfold State.restoreAll
    split
    · exact optWf_none
    · split
      · exact optWf_none
      · exact ih ((State.detect_mem ..).symm ▸ State.putBack_wf _ _ _ _ _ h)

theorem execTeamRestore_wf {n core tslot : Nat} (h : memoryWf s.mem) : nextWf (execTeamRestore n core tslot s) := by
  unfold execTeamRestore
  extract_lets
  refine nextWf_ite trivial ?_
  split
  next u hu => exact State.restoreAll_wf h u hu
  · trivial

/-! Functions (R392 to R394, R401 to R403). -/

@[simp] theorem State.tickFn_mem (s : State) (f : Nat) : (s.tickFn f).mem = s.mem := by
  unfold State.tickFn
  extract_lets
  split
  · rfl
  · split
    · rfl
    · split
      split
      rfl

theorem execTokenTick_wf (h : memoryWf s.mem) : nextWf (execTokenTick s) :=
  nextWf_stepIf (wf_foldl _ (fun s f hs => (s.tickFn_mem f).symm ▸ hs) _ h)

@[simp] theorem State.dropHolder_mem (s : State) (f : Nat) : (s.dropHolder f).mem = s.mem := by
  unfold State.dropHolder
  split <;> rfl

@[simp] theorem State.fcfgWord7_mem (s : State) (f : Nat) (w : Word) : (s.fcfgWord7 f w).mem = s.mem := by
  unfold State.fcfgWord7
  extract_lets
  split
  · split <;> rfl
  · split
    · rfl
    · simp
  · rfl

@[simp] theorem State.fcfgWrite_mem (s : State) (f n : Nat) (w : Word) : (s.fcfgWrite f n w).mem = s.mem := by
  unfold State.fcfgWrite
  extract_lets
  exact State.mem_ite rfl (State.mem_ite rfl (State.mem_ite rfl (State.mem_ite (State.fcfgWord7_mem ..)
    (State.mem_ite rfl (State.mem_ite rfl (State.mem_ite rfl rfl))))))

theorem execFcfgEnable_wf {f : Nat} {w : Word} (h : memoryWf s.mem) : nextWf (execFcfgEnable f w s) :=
  nextWf_ite h (nextWf_stepIf (by simpa using h))

theorem execFcfgDisable_wf {f : Nat} {w : Word} (h : memoryWf s.mem) : nextWf (execFcfgDisable f w s) :=
  nextWf_ite h (nextWf_stepIf (by simpa using h))

end Sys2Proof.Machine

/-! PROOFS. Every step keeps storage in its canonical form: management commands, resets, errors, logs, checkpoints, ports. -/

namespace Sys2Proof.Machine

open Sys2Proof.Safety Sys2Proof.Rules

variable {s t : State} {i j : Iss} {m : Mem} {o : Op} {w : Long}

/-! Storage. -/

theorem Tbl.above_filter {α : Type} (l : Tbl α) (p : Nat × α → Bool) {lo : Nat} (h : Tbl.above lo l = true) :
    Tbl.above lo (l.filter p) = true := by
  induction l generalizing lo with
  | nil => rfl
  | cons e r ih =>
    obtain ⟨k, a⟩ := e
    simp only [Tbl.above, Bool.and_eq_true, decide_eq_true_eq] at h
    rw [List.filter_cons]
    split
    · simp only [Tbl.above, Bool.and_eq_true, decide_eq_true_eq]
      exact ⟨h.1, ih h.2⟩
    · exact Tbl.above_mono _ (by omega) (ih h.2)

theorem Store.wf_filter {w : Nat} (l : Store w) (p : Nat × BitVec w → Bool) (h : Store.wf l = true) :
    Store.wf (l.filter p) = true := by
  simp only [Store.wf, Bool.and_eq_true, List.all_eq_true] at *
  exact ⟨Tbl.above_filter l p h.1, fun e he => h.2 e (List.mem_of_mem_filter he)⟩

theorem memoryWf_reseal (lo hi : Nat) (k : Option Nat) (free : Nat) (h : memoryWf m) : memoryWf (m.reseal lo hi k free) :=
  ⟨h.bytes, h.tags, h.rel, h.tile, h.lines⟩

theorem memoryWf_dropLines (lo hi : Nat) (h : memoryWf m) : memoryWf (m.dropLines lo hi) := memoryWf_filterL1 _ h

theorem memoryWf_sealed (l : List (Nat × Nat × Nat)) (h : memoryWf m) : memoryWf { m with sealed := l } :=
  ⟨h.bytes, h.tags, h.rel, h.tile, h.lines⟩

theorem memoryWf_sweep (m' : Memory) (bad : CapV → Bool) (h : memoryWf m) :
    memoryWf { m with tags := untagStore m' m.tags bad, l1 := m.l1.map (fun e => (e.1, e.2.sweep bad)) } :=
  ⟨h.bytes, Store.wf_filter _ _ h.tags, h.rel, h.tile, fun e he => by
    obtain ⟨e', he', rfl⟩ := List.mem_map.1 he
    exact h.lines e' he'⟩

theorem memoryWf_poisonLine (line : Nat) (h : memoryWf m) : memoryWf (m.poisonLine line) :=
  memoryWf_fold _ (fun _ _ w => memoryWf_addPoison _ _ w) _ h

theorem memoryWf_putRing (base len n : Nat) (bs : List Byte) (h : memoryWf m) : memoryWf (putRing base len n bs m) := by
  induction bs generalizing m n with
  | nil => exact h
  | cons b bs ih => exact ih _ (memoryWf_homeWrite _ _ h)

/-! Management commands (R404 to R422). -/

theorem State.reseal_wf (lo hi : Nat) (k : Option Nat) (a b : Nat) (h : memoryWf s.mem) :
    memoryWf ({ s with mem := s.mem.reseal lo hi k a, fresh := b } : State).mem := memoryWf_reseal lo hi k a h

theorem State.command_wf {f op : Nat} {put : BitVec 448 → BitVec 448} {run : State → State}
    (hrun : ∀ s, memoryWf s.mem → memoryWf (run s).mem) (h : memoryWf s.mem) : nextWf (s.command f op put run) :=
  nextWf_ite trivial (nextWf_ite h (hrun _ h))

@[simp] theorem State.ends_mem (s : State) (f st : Nat) : (s.ends f st).mem = s.mem := rfl
@[simp] theorem State.endsLate_mem (s : State) (f n : Nat) : (s.endsLate f n).mem = s.mem := rfl
@[simp] theorem State.waitsOn_mem (s : State) (f n : Nat) : (s.waitsOn f n).mem = s.mem := rfl
@[simp] theorem State.setExt_mem (s : State) (n : Nat) (e : Ext) : (s.setExt n e).mem = s.mem := rfl
@[simp] theorem State.freeExt_mem (s : State) (n : Nat) : (s.freeExt n).mem = s.mem := rfl
@[simp] theorem State.setColour_mem (s : State) (n : Nat) (x : Colour) : (s.setColour n x).mem = s.mem := rfl

theorem execMcmdUnlistedOp_wf {f op : Nat} (h : memoryWf s.mem) : nextWf (execMcmdUnlistedOp f op s) :=
  nextWf_ite trivial (State.command_wf (fun _ hs => hs) h)

theorem State.extAdd_wf (f n : Nat) (e : Ext) (h : memoryWf s.mem) : memoryWf (s.extAdd f n e).mem := by
  unfold State.extAdd
  refine wf_ite h (wf_ite h (wf_ite h (wf_ite h ?_)))
  dsimp only
  rw [State.ends_mem, State.setExt_mem]
  exact wf_ite (memoryWf_reseal _ _ _ _ h) h

theorem execExtAdd_wf {f n : Nat} {img : BitVec 128} (h : memoryWf s.mem) : nextWf (execExtAdd f n img s) :=
  State.command_wf (fun _ hs => State.extAdd_wf _ _ _ hs) h

@[simp] theorem State.fallow_mem (s : State) (n : Nat) : (s.fallow n).mem = s.mem := by
  unfold State.fallow
  dsimp only
  split <;> rfl

@[simp] theorem State.takeBack_mem (s : State) (f n : Nat) (free : Bool) : (s.takeBack f n free).mem = s.mem := by
  unfold State.takeBack
  extract_lets
  refine State.mem_ite rfl (State.mem_ite rfl (State.mem_ite rfl (State.mem_ite rfl (State.mem_ite rfl ?_))))
  exact State.mem_ite (State.fallow_mem ..) rfl

theorem execExtRevoke_wf {f n : Nat} (h : memoryWf s.mem) : nextWf (execExtRevoke f n s) :=
  State.command_wf (fun _ hs => by simpa using hs) h

theorem execExtFree_wf {f n : Nat} (h : memoryWf s.mem) : nextWf (execExtFree f n s) :=
  State.command_wf (fun _ hs => by simpa using hs) h

theorem execRevocationPoint_wf {n : Nat} (h : memoryWf s.mem) : nextWf (execRevocationPoint n s) := by
  unfold execRevocationPoint
  refine nextWf_ite trivial (nextWf_next.2 ?_)
  rw [State.setExt_mem]
  exact State.backWhere_wf _ _ h

@[simp] theorem State.colSet_mem (s : State) (f c fn prot ks : Nat) : (s.colSet f c fn prot ks).mem = s.mem := by
  unfold State.colSet
  extract_lets
  exact State.mem_ite rfl (State.mem_ite rfl (State.mem_ite rfl rfl))

theorem execColSet_wf {f colour fn prot kslot : Nat} (h : memoryWf s.mem) : nextWf (execColSet f colour fn prot kslot s) :=
  State.command_wf (fun _ hs => by simpa using hs) h

@[simp] theorem State.imgBind_mem (s : State) (f c n : Nat) : (s.imgBind f c n).mem = s.mem := by
  unfold State.imgBind
  extract_lets
  exact State.mem_ite rfl (State.mem_ite rfl (State.mem_ite rfl rfl))

theorem execImgBind_wf {f colour n : Nat} (h : memoryWf s.mem) : nextWf (execImgBind f colour n s) :=
  State.command_wf (fun _ hs => by simpa using hs) h

@[simp] theorem State.loadKey_wf (c : Nat) (x : Colour) (key : BitVec 512) (h : memoryWf s.mem) :
    memoryWf (s.loadKey c x key).mem := by
  unfold State.loadKey
  refine wf_foldl _ (fun u e hu => ?_) _ h
  have hz : memoryWf ((u.mem.dropLines e.lo e.hi').zeroRange e.lo e.hi') :=
    memoryWf_zeroRange _ _ (memoryWf_dropLines _ _ hu)
  dsimp only
  split
  · exact memoryWf_sealed _ hz
  · exact hz

@[simp] theorem State.keyRelease_wf (f c addr : Nat) (blob : Option (List Byte)) (h : memoryWf s.mem) :
    memoryWf (s.keyRelease f c addr blob).mem := by
  unfold State.keyRelease
  extract_lets
  refine wf_ite h (wf_ite h (wf_ite h (wf_ite h (wf_ite h ?_))))
  split
  · exact h
  · split
    · exact h
    next key _ => exact State.loadKey_wf _ _ key h

theorem execKeyRelease_wf {f colour addr : Nat} {blob : Option (List Byte)} (h : memoryWf s.mem) :
    nextWf (execKeyRelease f colour addr blob s) :=
  State.command_wf (fun _ hs => State.keyRelease_wf _ _ _ _ hs) h

@[simp] theorem State.zeroise_wf (c : Nat) (x : Colour) (h : memoryWf s.mem) : memoryWf (s.zeroise c x).mem := by
  unfold State.zeroise
  extract_lets
  refine wf_ite h ?_
  refine memoryWf_filterL1 _ (wf_foldl _ (fun u e hu => ?_) _ h)
  exact wf_ite (State.reseal_wf _ _ _ _ _ hu) hu

@[simp] theorem State.keyZero_wf (f c : Nat) (h : memoryWf s.mem) : memoryWf (s.keyZero f c).mem := by
  unfold State.keyZero
  exact wf_ite h (wf_ite h (wf_ite h (wf_ite h (State.zeroise_wf _ _ h))))

theorem execKeyZero_wf {f colour : Nat} (h : memoryWf s.mem) : nextWf (execKeyZero f colour s) :=
  State.command_wf (fun _ hs => State.keyZero_wf _ _ hs) h

@[simp] theorem State.preempt_mem (s : State) (f fn : Nat) : (s.preempt f fn).mem = s.mem := by
  unfold State.preempt
  exact State.mem_ite rfl (State.mem_ite rfl (State.mem_ite rfl (State.mem_ite rfl rfl)))

theorem execPreempt_wf {f fn : Nat} (h : memoryWf s.mem) : nextWf (execPreempt f fn s) :=
  State.command_wf (fun _ hs => by simpa using hs) h

@[simp] theorem State.sweep_mem (s : State) (f : Nat) : (s.sweep f).mem = s.mem := by
  unfold State.sweep
  repeat' split
  all_goals rfl

theorem execSweep_wf {f : Nat} (h : memoryWf s.mem) : nextWf (execSweep f s) :=
  State.command_wf (fun _ hs => by simpa using hs) h

@[simp] theorem State.sweepAll_wf (h : memoryWf s.mem) : memoryWf s.sweepAll.mem := by
  have hw : ∀ (f : State → Nat × BitVec 1 → State), (∀ u e, (f u e).mem = u.mem) → ∀ l, (List.foldl f s l).mem = s.mem :=
    fun f hf l => mem_foldl f hf l s
  unfold State.sweepAll
  extract_lets bad tags u
  have hu : u.mem = s.mem := hw _ (fun u e => State.watchEng_mem ..) _
  have hsw := memoryWf_sweep s.mem.bytes bad h
  rw [← hu] at hsw
  dsimp only [tags]
  rw [← hu]
  exact hsw

theorem execSweepPassComplete_wf (h : memoryWf s.mem) : nextWf (execSweepPassComplete s) := by
  unfold execSweepPassComplete
  refine nextWf_ite trivial ?_
  extract_lets u v
  have hv : memoryWf v.mem := wf_foldl _ (fun u n hu => (u.freeExt_mem n).symm ▸ hu) _ (State.sweepAll_wf h)
  exact hv

@[simp] theorem State.finish_mem (s : State) (f : Nat) : (s.finish f).mem = s.mem := rfl

theorem State.resolveCmd_wf {f : Nat} (h : memoryWf s.mem) : optWf (s.resolveCmd f) := by
  have hfallow : ∀ (c : Prop) [Decidable c] n, memoryWf (if c then s.fallow n else s).mem := fun c _ n =>
    wf_ite (by simpa using h) h
  unfold State.resolveCmd
  extract_lets
  split
  · exact optWf_ite optWf_none (optWf_some.2 (State.keyZero_wf _ _ h))
  · exact optWf_ite optWf_none (optWf_some.2 h)
  · refine optWf_ite optWf_none ?_
    extract_lets
    refine optWf_ite (optWf_ite optWf_none (optWf_some.2 ?_)) (optWf_ite optWf_none (optWf_some.2 ?_))
    · exact hfallow _ _
    · exact hfallow _ _
  · exact optWf_none

theorem execManagementCommandEnd_wf {f : Nat} (h : memoryWf s.mem) : nextWf (execManagementCommandEnd f s) := by
  unfold execManagementCommandEnd
  extract_lets
  refine nextWf_ite trivial (nextWf_ite h ?_)
  split
  next u hu => exact State.resolveCmd_wf h u hu
  · trivial

/-! Resets of functions and the host interface (R423, R424, R442, R443, R457). -/

@[simp] theorem State.discardTasks_mem (s : State) (f : Nat) : (s.discardTasks f).mem = s.mem := rfl

@[simp] theorem State.abandonTeams_wf (f : Nat) (h : memoryWf s.mem) : memoryWf (s.abandonTeams f).mem := by
  unfold State.abandonTeams
  extract_lets _ gone _ u
  have hu : memoryWf u.mem := wf_foldl _ (fun _ _ hs => State.zeroImage_wf _ hs) _ h
  refine wf_foldl _ (fun v e hv => ?_) _ (by exact hu)
  rw [State.detect_mem]
  exact State.freeTeam_wf _ _ hv

@[simp] theorem State.endCommands_mem (s : State) (f : Nat) : (s.endCommands f).mem = s.mem := by
  unfold State.endCommands
  refine mem_foldl _ (fun u g => ?_) _ s
  dsimp only
  split
  · split <;> rfl
  · split <;> rfl
  · rfl

@[simp] theorem State.scrubColours_wf (f : Nat) (h : memoryWf s.mem) : memoryWf (s.scrubColours f).mem := by
  unfold State.scrubColours
  refine wf_foldl _ (fun u c hu => ?_) _ h
  extract_lets x v v' _ mine z
  have hv : memoryWf v.mem := wf_ite (State.zeroise_wf _ _ hu) hu
  have hz : memoryWf z.mem := by
    refine wf_foldl _ (fun y e hy => ?_) _ (by exact hv)
    exact memoryWf_zeroRange _ _ (memoryWf_dropLines _ _ hy)
  exact memoryWf_sealed _ (memoryWf_filterL1 _ hz)

@[simp] theorem State.spend_mem (s : State) : s.spend.mem = s.mem := rfl
@[simp] theorem State.awaitReceipt_mem (s : State) (f : Nat) (l : List Scrub) : (s.awaitReceipt f l).mem = s.mem := rfl
@[simp] theorem State.abortCk_mem (s : State) (f : Nat) : (s.abortCk f).mem = s.mem := by
  unfold State.abortCk
  split <;> rfl

@[simp] theorem State.resetFn_wf (f : Nat) (h : memoryWf s.mem) : memoryWf (s.resetFn f).mem := by
  unfold State.resetFn
  extract_lets u v
  have hv : memoryWf v.mem := by
    simp only [v, State.endCommands_mem, State.dropHolder_mem]
    exact State.abandonTeams_wf _ h
  simpa using State.scrubColours_wf _ hv

theorem State.startReset_wf {f : Nat} (h : memoryWf s.mem) : nextWf (s.startReset f) :=
  nextWf_ite h (nextWf_stepIf (State.resetFn_wf _ h))

theorem execFunctionLevelReset_wf {f : Nat} (h : memoryWf s.mem) : nextWf (execFunctionLevelReset f s) :=
  nextWf_ite trivial (State.startReset_wf h)

@[simp] theorem State.endReset_mem (s : State) (f : Nat) : (s.endReset f).mem = s.mem := by
  have hq : ∀ (l : List Nat) (u : State),
      (l.foldl (fun u q => u.setQueue q { u.queue q with qseq := 0, qdone := 0, qcnt := 0 }) u).mem = u.mem := fun l u => by
    refine mem_foldl _ ?_ l u
    exact fun _ _ => rfl
  unfold State.endReset
  dsimp only
  split <;> split
  · exact hq _ _
  · rfl
  · exact hq _ _
  · rfl

theorem execScrubReceipt_wf {f : Nat} (h : memoryWf s.mem) : nextWf (execScrubReceipt f s) := by
  unfold execScrubReceipt
  extract_lets
  refine nextWf_ite trivial ?_
  rw [nextWf_next, State.endReset_mem]
  exact memoryWf_putRing _ _ _ _ h

theorem execLockInterface_wf {f : Nat} (h : memoryWf s.mem) : nextWf (execLockInterface f s) :=
  nextWf_ite trivial (nextWf_ite h h)

theorem execStartInterface_wf {f : Nat} (h : memoryWf s.mem) : nextWf (execStartInterface f s) :=
  nextWf_ite trivial (nextWf_ite h h)

theorem execStopInterface_wf {f : Nat} (h : memoryWf s.mem) : nextWf (execStopInterface f s) :=
  nextWf_ite trivial (nextWf_ite h (State.startReset_wf h))

theorem execSpdmRequest_wf {rq : SpdmRq} (h : memoryWf s.mem) : nextWf (execSpdmRequest rq s) := nextWf_stepIf h

@[simp] theorem State.failReq_wf (id n : Nat) (h : memoryWf s.mem) : memoryWf (s.failReq id n).mem := by
  induction n generalizing s with
  | zero => exact h
  | succ n ih =>
    unfold State.failReq
    split
    next u hu => exact ih (State.hostDone_wf h hu)
    · exact h

theorem execIdeIntegrityFailure_wf {f : Nat} (h : memoryWf s.mem) : nextWf (execIdeIntegrityFailure f s) := by
  unfold execIdeIntegrityFailure
  exact nextWf_ite trivial (wf_foldl _ (fun _ _ hs => State.failReq_wf _ _ hs) _ (by exact h))

/-! Errors and logs (R445 to R456). -/

@[simp] theorem State.countUe_mem (s : State) (k : Nat) : (s.countUe k).mem = s.mem := rfl
@[simp] theorem State.mustRetire_mem (s : State) (core : Nat) : (s.mustRetire core).mem = s.mem := rfl
@[simp] theorem State.countCe_mem (s : State) (k : Nat) (core : Option Nat) : (s.countCe k core).mem = s.mem := by
  cases core <;> rfl
@[simp] theorem State.poisonWord_mem (s : State) (g : Nat) (p : Poison) : (s.poisonWord g p).mem = s.mem := by
  unfold State.poisonWord
  split <;> rfl
@[simp] theorem State.eccLevel2_mem (s : State) (a : ErrAt) (n : Nat) : (s.eccLevel2 a n).mem = s.mem := by
  unfold State.eccLevel2
  split
  · simp
  · rfl

theorem State.poisonLine_wf (core line : Nat) (h : memoryWf m) :
    memoryWf (({ s with mem := m.poisonLine line } : State).mustRetire core).mem := by
  simpa only [State.mustRetire_mem] using memoryWf_poisonLine line h

@[simp] theorem State.uncorrectable_wf (a : ErrAt) (h : memoryWf s.mem) : memoryWf (s.uncorrectable a).mem := by
  have hp := fun base n => memoryWf_addPoison base n h
  have herase : ∀ k, memoryWf { s.mem with l1 := Tbl.erase s.mem.l1 k } := fun k =>
    memoryWf_filterL1 (fun e => e.1 != k) h
  cases a with
  | v g row lane => simpa [State.uncorrectable] using h
  | k g n => simpa [State.uncorrectable] using h
  | q g n lane => simpa [State.uncorrectable] using h
  | vtag g quad lane => simpa [State.uncorrectable] using h
  | ktag g quad => simpa [State.uncorrectable] using h
  | store a =>
    simp only [State.uncorrectable]
    split
    · exact hp _ _
    · simpa using h
    · exact hp _ _
  | tile a b => simpa [State.uncorrectable] using h
  | l1 core line colour gran =>
    simp only [State.uncorrectable]
    split
    next l hl => exact memoryWf_setLine _ _ _ _ h (h.lines _ (Tbl.get_mem hl))
    · exact h
  | l2 a => exact hp _ _
  | l1Tag core line colour =>
    simp only [State.uncorrectable]
    split
    next l hl =>
      exact wf_ite (herase _) (State.poisonLine_wf core line (herase _))
    · exact h
  | l2Tag core line dirty =>
    simp only [State.uncorrectable]
    exact wf_ite (State.poisonLine_wf core line h) h

theorem execSoftError_wf {loc : ErrAt} {multi : Bool} (h : memoryWf s.mem) : nextWf (execSoftError loc multi s) := by
  unfold execSoftError
  split
  · trivial
  · exact nextWf_ite (State.uncorrectable_wf _ h) (by simpa using h)

theorem execParityError_wf {core : Nat} (h : memoryWf s.mem) : nextWf (execParityError core s) := nextWf_stepIf h

@[simp] theorem State.redeal_mem (s : State) (core : Nat) : (s.redeal core).mem = s.mem := by
  unfold State.redeal
  extract_lets _ _ _ u
  refine (mem_foldl _ (fun v x => ?_) _ u).trans rfl
  split <;> rfl

@[simp] theorem State.killUnsavable_wf (core : Nat) (h : memoryWf s.mem) : memoryWf (s.killUnsavable core).mem := by
  refine wf_foldl _ (fun v x hv => ?_) _ h
  split
  · exact State.killTeam_wf _ _ _ _ _ _ hv
  · exact hv

theorem execCoreRetirement_wf {core : Nat} (h : memoryWf s.mem) : nextWf (execCoreRetirement core s) := by
  unfold execCoreRetirement
  extract_lets
  refine nextWf_ite (nextWf_stepIf (by simpa using h)) (nextWf_ite trivial ?_)
  split
  next x u hu =>
  have hu : memoryWf u.mem := wf_of_pair hu h
  have hk : memoryWf ({ u.killUnsavable core with
      mem := (u.killUnsavable core).mem.backWhere (fun k => l1Core k == core) false } : State).mem :=
    State.backWhere_wf _ _ (State.killUnsavable_wf core hu)
  have hr : ∀ v : State, memoryWf v.mem → memoryWf (v.redeal core).mem := fun v hv => (v.redeal_mem core).symm ▸ hv
  exact hr _ hk

@[simp] theorem State.requestSnap_mem (s : State) : s.requestSnap.mem = s.mem := by
  unfold State.requestSnap
  split <;> rfl

theorem execSnapshotRequest_wf (h : memoryWf s.mem) : nextWf (execSnapshotRequest s) := by
  simpa [execSnapshotRequest] using h

theorem execSnapshotWrite_wf (h : memoryWf s.mem) : nextWf (execSnapshotWrite s) := by
  unfold execSnapshotWrite
  split
  · trivial
  · extract_lets
    split
    · exact nextWf_ite h (memoryWf_homeWrite _ _ h)
    · exact h

@[simp] theorem State.setRing_mem (s : State) (g : Nat) (r : LogRing) : (s.setRing g r).mem = s.mem := rfl

@[simp] theorem State.closeSegment_wf (g : Nat) (h : memoryWf s.mem) : memoryWf (s.closeSegment g).mem :=
  memoryWf_homeWrite _ _ h

@[simp] theorem State.putRec_wf (g : Nat) (x : BitVec 512) (h : memoryWf s.mem) : memoryWf (s.putRec g x).mem := by
  unfold State.putRec
  extract_lets r u v
  have hv : memoryWf v.mem := memoryWf_homeWrite _ _ h
  exact wf_ite (State.closeSegment_wf _ hv) hv

@[simp] theorem State.putGaps_wf (g : Nat) (h : memoryWf s.mem) : memoryWf (s.putGaps g).mem := by
  unfold State.putGaps
  extract_lets
  refine wf_ite h (wf_foldl _ (fun u e hu => ?_) _ (by exact h))
  exact State.putRec_wf _ _ hu

@[simp] theorem State.logRec_wf (g tower win : Nat) (x : BitVec 512) (h : memoryWf s.mem) :
    memoryWf (s.logRec g tower win x).mem := by
  unfold State.logRec
  extract_lets
  refine wf_ite h (wf_ite ?_ (State.putRec_wf _ _ (State.putGaps_wf _ h)))
  split
  exact h

theorem execSegmentClose_wf {g : Nat} (h : memoryWf s.mem) : nextWf (execSegmentClose g s) :=
  nextWf_stepIf (State.closeSegment_wf _ h)

@[simp] theorem State.logWatched_wf (win : Nat) (e : Bool × Watched) (h : memoryWf s.mem) :
    memoryWf (s.logWatched win e).mem := by
  unfold State.logWatched
  extract_lets
  refine wf_ite ?_ (State.logRec_wf _ _ _ _ h)
  exact State.logRec_wf _ _ _ _ h

theorem execWatchWindowEnd_wf (h : memoryWf s.mem) : nextWf (execWatchWindowEnd s) := by
  unfold execWatchWindowEnd
  split
  · trivial
  · exact wf_foldl _ (fun _ _ hs => State.logWatched_wf _ _ hs) _ (by exact h)

/-! Checkpoints (R458). -/

@[simp] theorem State.ckEnd_mem (s : State) (n : Nat) : (s.ckEnd n).mem = s.mem := rfl

theorem execCheckpoint_wf (h : memoryWf s.mem) : nextWf (execCheckpoint s) := nextWf_ite h h

@[simp] theorem State.sendImage_mem (s : State) (bs : List Byte) : (s.sendImage bs).mem = s.mem := by
  unfold State.sendImage
  dsimp only
  split <;> rfl

theorem execCheckpointImageWrite_wf (h : memoryWf s.mem) : nextWf (execCheckpointImageWrite s) := by
  unfold execCheckpointImageWrite
  refine nextWf_ite trivial (nextWf_ite h ?_)
  have hsend : ∀ (v : State) bs, memoryWf v.mem → memoryWf (v.sendImage bs).mem := fun v bs hv =>
    (v.sendImage_mem bs).symm ▸ hv
  extract_lets
  refine nextWf_ite h (hsend _ _ (wf_foldl _ ?_ _ (by exact h)))
  exact fun v e hv => (v.watchEng_mem ..).symm ▸ hv

@[simp] theorem State.ckWrite_wf (x : CkExtent) (h : memoryWf s.mem) : memoryWf (s.ckWrite x).mem :=
  memoryWf_putTags _ _ (memoryWf_putPoison _ _ (memoryWf_homeWrite _ _ (memoryWf_dropLines _ _ h)))

@[simp] theorem State.ckSave_wf (v : Save) (h : memoryWf s.mem) : memoryWf (s.ckSave v).mem :=
  State.sealImage_wf _ h

theorem execCheckpointRestore_wf {img : Option (List Byte)} (h : memoryWf s.mem) :
    nextWf (execCheckpointRestore img s) := by
  unfold execCheckpointRestore
  refine nextWf_ite h ?_
  extract_lets
  split
  · exact h
  · refine nextWf_ite h ?_
    split
    · exact h
    · refine nextWf_ite h ?_
      extract_lets
      rw [nextWf_next, State.ckEnd_mem]
      exact wf_foldl _ (fun _ _ hs => State.ckSave_wf _ hs) _
        (wf_foldl _ (fun _ _ hs => State.ckWrite_wf _ hs) _ (by exact h))

/-! Ports (R437 to R441). -/

theorem State.portStep_wf {p n : Nat} {f : Port → Port} (h : memoryWf s.mem) : nextWf (s.portStep p n f) := nextWf_stepIf h

theorem execPartnerSignal_wf {p : Nat} (h : memoryWf s.mem) : nextWf (execPartnerSignal p s) := State.portStep_wf h
theorem execDetectTimeout_wf {p : Nat} (h : memoryWf s.mem) : nextWf (execDetectTimeout p s) :=
  nextWf_ite trivial (State.portStep_wf h)
theorem execDetectRetry_wf {p : Nat} (h : memoryWf s.mem) : nextWf (execDetectRetry p s) :=
  nextWf_ite trivial (State.portStep_wf h)
theorem execNegotiate_wf {p : Nat} {offer : LinkOffer} (h : memoryWf s.mem) : nextWf (execNegotiate p offer s) :=
  State.portStep_wf h
theorem execAttest_wf {p : Nat} {proof : LinkProof} (h : memoryWf s.mem) :
    nextWf (execAttest p proof s) := State.portStep_wf h
theorem execFlitReceived_wf {p : Nat} {fl : FlitIn} (h : memoryWf s.mem) : nextWf (execFlitReceived p fl s) :=
  nextWf_ite trivial (nextWf_ite h h)

theorem execFlitResend_wf {p : Nat} (h : memoryWf s.mem) : nextWf (execFlitResend p s) := by
  unfold execFlitResend
  extract_lets
  split
  · exact nextWf_stepIf h
  · trivial

@[simp] theorem State.lostFlight_wf (f : Flight) (h : memoryWf s.mem) : memoryWf (s.lostFlight f).mem := by
  unfold State.lostFlight
  split
  · split
    · exact wf_ite h h
    · exact h
  · split
    · exact wf_ite h (wf_ite h (wf_ite (State.collFail_wf _ _ _ h) (State.failCmd_wf _ _ _ _ _ h)))
    · exact h

@[simp] theorem State.lose_wf (p : Nat) (h : memoryWf s.mem) : memoryWf (s.lose p).mem :=
  wf_foldl _ (fun _ _ hs => State.lostFlight_wf _ hs) _ (by exact h)

theorem execRetryLimit_wf {p : Nat} (h : memoryWf s.mem) : nextWf (execRetryLimit p s) :=
  nextWf_stepIf (State.lose_wf _ h)

@[simp] theorem State.retrainPort_mem (s : State) (p : Nat) : (s.retrainPort p).mem = s.mem := by
  unfold State.retrainPort
  dsimp only
  split <;> rfl

@[simp] theorem State.disablePort_wf (p : Nat) (h : memoryWf s.mem) : memoryWf (s.disablePort p).mem :=
  wf_ite (State.lose_wf _ h) h

theorem execPortRetrain_wf {p : Nat} (h : memoryWf s.mem) : nextWf (execPortRetrain p s) := by
  simpa [execPortRetrain] using h

theorem execPortDisable_wf {p : Nat} (h : memoryWf s.mem) : nextWf (execPortDisable p s) := State.disablePort_wf _ h

end Sys2Proof.Machine

/-! PROOFS. Every step keeps storage in its canonical form: register writes, system instructions, uniform
instructions. -/

namespace Sys2Proof.Machine

open Sys2Proof.Safety Sys2Proof.Rules

variable {s t : State} {i j : Iss} {m : Mem} {o : Op} {w : Long}

/-! Register writes (R392, R404, R434, R441, R449 to R458). -/

theorem State.writeBrdesc_wf {n : Nat} {w : Word} (h : memoryWf s.mem) : nextWf (s.writeBrdesc n w) := by
  unfold State.writeBrdesc
  extract_lets b put
  refine nextWf_ite h ?_
  split
  · exact h
  · exact h
  · exact h
  · exact h
  · exact h
  · exact h
  · exact nextWf_ite (execGo_wf h) h
  · exact h

theorem State.writeMcmd_wf {f n : Nat} {w : Word} (h : memoryWf s.mem) : nextWf (s.writeMcmd f n w) := by
  unfold State.writeMcmd
  extract_lets
  refine nextWf_ite h (nextWf_ite h (nextWf_ite h ?_))
  split
  · exact execExtAdd_wf h
  · exact execExtRevoke_wf h
  · exact execExtFree_wf h
  · exact execColSet_wf h
  · exact execImgBind_wf h
  · exact nextWf_ite trivial (execKeyRelease_wf h)
  · exact execKeyZero_wf h
  · exact execPreempt_wf h
  · exact execSweep_wf h
  · exact execMcmdUnlistedOp_wf h

@[simp] theorem State.writeWsplit_mem (s : State) (n : Nat) (w : Word) : (s.writeWsplit n w).mem = s.mem :=
  State.mem_ite rfl rfl

@[simp] theorem State.writeLogring_mem (s : State) (g n : Nat) (w : Word) : (s.writeLogring g n w).mem = s.mem := by
  unfold State.writeLogring
  extract_lets
  split
  · exact State.mem_ite rfl rfl
  · exact State.mem_ite rfl rfl
  · exact State.mem_ite rfl rfl
  all_goals rfl

@[simp] theorem State.writeSnap_mem (s : State) (n : Nat) (w : Word) : (s.writeSnap n w).mem = s.mem := by
  unfold State.writeSnap
  split
  · rfl
  · rfl
  · exact State.mem_ite (State.requestSnap_mem s) rfl
  · rfl

@[simp] theorem State.writeRcpt_mem (s : State) (n : Nat) (w : Word) : (s.writeRcpt n w).mem = s.mem := by
  unfold State.writeRcpt
  extract_lets
  split <;> rfl

@[simp] theorem State.writeQueue_mem (s : State) (f q n : Nat) (w : Word) : (s.writeQueue f q n w).mem = s.mem :=
  State.mem_ite rfl rfl

theorem State.writeCkpt_wf {n : Nat} {w : Word} (h : memoryWf s.mem) : nextWf (s.writeCkpt n w) := by
  unfold State.writeCkpt
  extract_lets r put u
  have hu : memoryWf u.mem := h
  split
  · exact h
  · exact h
  · exact h
  · exact h
  · split
    · exact execCheckpoint_wf hu
    · exact nextWf_ite hu trivial
    · exact hu
  · exact h

theorem State.writePort_wf (p n : Nat) (w : Word) (h : memoryWf s.mem) : memoryWf (s.writePort p n w).mem := by
  unfold State.writePort
  refine wf_ite h ?_
  split
  · simpa using h
  · exact State.disablePort_wf _ h
  · exact h

theorem execRegisterWrite_wf {f off : Nat} {w : Word} (h : memoryWf s.mem) : nextWf (execRegisterWrite f off w s) := by
  unfold execRegisterWrite
  extract_lets r
  refine nextWf_ite h ?_
  cases r with
  | brdesc n => exact State.writeBrdesc_wf h
  | fwkpst p n => exact State.writePort_wf _ _ _ h
  | wsplit n => simpa using h
  | fcfg g n => simpa using h
  | mcmd n => exact State.writeMcmd_wf h
  | watch x n => exact h
  | logring g n => simpa using h
  | snap n => simpa using h
  | rnonce g n => exact h
  | rcpt n => simpa using h
  | ckpt n => exact State.writeCkpt_wf h
  | queue q n => simpa using h
  | brstat => exact h
  | revpass => exact h
  | coreret => exact h
  | phys => exact h
  | errcnt => exact h
  | none => exact h

/-! System instructions (R224 to R229, R334). -/

theorem sysTrap_wf (h : memoryWf s.mem) : nextWf (sysTrap o w s) :=
  runInstr_wf (fun _ hi => answers_bind.2 (answers_ecc (answers_ite hi trivial))) h

@[simp] theorem answers_rttWindow {P : Unit → Prop} {x : Handler} {c : SpanCmd} (h : P ()) : answers P (i.rttWindow x c) :=
  answers_ite trivial (answers_ite trivial h)

/-- The rows that leave a window go to its spill area as capabilities (R334). -/
theorem State.moveSpan_wf (G : Group) (c : SpanCmd) (h : memoryWf s.mem) : memoryWf (s.moveSpan G c).1.mem := by
  unfold State.moveSpan
  refine memoryWf_fold _ (fun m q hm => memoryWf_fold _ (fun m l hm => ?_) _ hm) _ h
  split
  exact memoryWf_homeWriteTagged _ _ _ hm

theorem sysRtt_wf (h : memoryWf s.mem) : nextWf (sysRtt o w s) :=
  runInstr_wf (fun i hi => answers_bind.2 (answers_ecc (by
    split
    · trivial
    · split
      next G _ _ =>
      extract_lets
      refine answers_ite trivial (answers_bind.2 (answers_rttWindow (answers_ite ?_ ?_)))
      · have hl : ∀ w, memoryWf (i.s.toLevel2 i.team cECC 0 w).mem := fun w => (State.toLevel2_mem ..).symm ▸ hi
        exact hl _
      · split
        next u G' hu =>
        have hm := i.s.moveSpan_wf G G.spanCmd hi
        rw [hu] at hm
        exact hm))) h

theorem sysSysrd_wf (h : memoryWf s.mem) : nextWf (sysSysrd o w s) :=
  runInstr_wf (fun _ hi => answers_bind.2 (answers_ecc (answers_ite hi hi))) h

theorem sysSyswr_wf (h : memoryWf s.mem) : nextWf (sysSyswr o w s) :=
  runInstr_wf (fun _ hi => answers_bind.2 (answers_ecc (answers_ite hi (answers_ite hi
    (answers_ite (State.abandonFaulted_wf _ _ hi) (answers_ite (State.abandonAll_wf _ _ hi) hi)))))) h

theorem sysClock_wf {d : Nat} (h : memoryWf s.mem) : nextWf (sysClock o d s) := runInstr_wf (fun _ hi => hi) h

theorem sysPmrd_wf (h : memoryWf s.mem) : nextWf (sysPmrd o w s) := runInstr_wf (fun _ hi => hi) h

theorem sysSleep_wf (h : memoryWf s.mem) : nextWf (sysSleep o w s) :=
  runInstr_wf (fun _ hi => answers_bind.2 (answers_ecc (answers_ite hi answers_waitOnly))) h

/-! Uniform instructions (R115). -/

theorem uniOp_wf {legal : Iss → Bool} {regs : Iss → List SrcReg} {res : Iss → List RegWrite} (h : memoryWf s.mem) :
    nextWf (uniOp o w legal regs res s) :=
  runInstr_wf (fun _ hi => answers_bind.2 (answers_ecc hi)) h

theorem uniMov_wf (h : memoryWf s.mem) : nextWf (uniMov o w s) := nextWf_ite (uniOp_wf h) (uniOp_wf h)

end Sys2Proof.Machine

/-! PROOFS. Every step keeps storage in its canonical form: every instruction and device step, the choice of what runs
next, the step. -/

namespace Sys2Proof.Machine

open Sys2Proof.Safety Sys2Proof.Rules

variable {s t : State} {i j : Iss} {m : Mem} {o : Op} {w : Long}

/-! Shapes of the float and packed instructions (R133 to R152): each is the float operation with its own checks and
results. -/

theorem float1_wf {f : Fmt → Nat → Nat → Nat × Nat} (h : memoryWf s.mem) : nextWf (float1 o w f s) := by
  unfold float1
  exact floatOp_wf h
theorem float2_wf {rnd : Bool} {f : Fmt → Nat → Nat → Nat → Nat × Nat} (h : memoryWf s.mem) :
    nextWf (float2 o w rnd f s) := by
  unfold float2
  exact floatOp_wf h
theorem float3_wf {f : Fmt → Nat → Nat → Nat → Nat → Nat × Nat} (h : memoryWf s.mem) : nextWf (float3 o w f s) := by
  unfold float3
  exact floatOp_wf h
theorem floatCompare_wf {dOk : Iss → Bool} {out : Iss → List Bool → List RegWrite} {n : Nat} (h : memoryWf s.mem) :
    nextWf (floatCompare o w dOk out n s) := by
  unfold floatCompare
  exact floatOp_wf h
theorem floatClass_wf (h : memoryWf s.mem) : nextWf (floatClass o w s) := by
  unfold floatClass
  exact floatOp_wf h
theorem floatScale_wf (h : memoryWf s.mem) : nextWf (floatScale o w s) := by
  unfold floatScale
  exact floatOp_wf h
theorem floatExpt_wf (h : memoryWf s.mem) : nextWf (floatExpt o w s) := by
  unfold floatExpt
  exact floatOp_wf h
theorem floatIcvt_wf (h : memoryWf s.mem) : nextWf (floatIcvt o w s) := by
  unfold floatIcvt
  exact floatOp_wf h
theorem floatCvt1_wf (h : memoryWf s.mem) : nextWf (floatCvt1 o w s) := by
  unfold floatCvt1
  exact floatOp_wf h
theorem floatCvt2_wf (h : memoryWf s.mem) : nextWf (floatCvt2 o w s) := by
  unfold floatCvt2
  exact floatOp_wf h
theorem floatOfInt_wf (h : memoryWf s.mem) : nextWf (floatOfInt o w s) := by
  unfold floatOfInt
  exact floatOp_wf h
theorem floatToInt_wf (h : memoryWf s.mem) : nextWf (floatToInt o w s) := by
  unfold floatToInt
  exact floatOp_wf h
theorem specialOp_wf {n : Nat} (h : memoryWf s.mem) : nextWf (specialOp o w n s) := by
  unfold specialOp
  exact floatOp_wf h
theorem packed2_wf {f : Fmt → Nat → Nat → Nat → Nat × Nat} (h : memoryWf s.mem) : nextWf (packed2 o w f s) := by
  unfold packed2
  exact floatOp_wf h
theorem packedFma_wf (h : memoryWf s.mem) : nextWf (packedFma o w s) := by
  unfold packedFma
  exact floatOp_wf h
theorem packedDot4_wf (h : memoryWf s.mem) : nextWf (packedDot4 o w s) := by
  unfold packedDot4
  exact laneOp_wf h
theorem packedDot2_wf (h : memoryWf s.mem) : nextWf (packedDot2 o w s) := by
  unfold packedDot2
  exact floatOp_wf h
theorem packedMxq_wf (h : memoryWf s.mem) : nextWf (packedMxq o w s) := by
  unfold packedMxq
  exact floatOp_wf h
theorem packedMxdq_wf (h : memoryWf s.mem) : nextWf (packedMxdq o w s) := by
  unfold packedMxdq
  exact floatOp_wf h

/-! Shapes of the capability instructions (R184 to R187). -/

theorem capByInt_wf {tys : List Nat} {legal : Bool} {f : ITy → CapV → Nat → Except CapErr CapV} (h : memoryWf s.mem) :
    nextWf (capByInt o w tys legal f s) := by
  unfold capByInt
  exact capDerive_wf h
theorem capAdd_wf (h : memoryWf s.mem) : nextWf (capAdd o w s) := capByInt_wf h
theorem capSet_wf (h : memoryWf s.mem) : nextWf (capSet o w s) := capByInt_wf h
theorem capPerm_wf (h : memoryWf s.mem) : nextWf (capPerm o w s) := capByInt_wf h
theorem execCget_wf (h : memoryWf s.mem) : nextWf (execCget w s) := by
  unfold execCget
  exact capRead_wf h
theorem execCtest_wf (h : memoryWf s.mem) : nextWf (execCtest w s) := by
  unfold execCtest
  exact capRead_wf h
theorem execCseal_wf (h : memoryWf s.mem) : nextWf (execCseal w s) := by
  unfold execCseal
  exact capDerive_wf h
theorem execCunseal_wf (h : memoryWf s.mem) : nextWf (execCunseal w s) := by
  unfold execCunseal
  exact capDerive_wf h
theorem capClr_wf (h : memoryWf s.mem) : nextWf (capClr o w s) := capDerive_wf h

/-! Instructions whose shape depends on a field. -/

theorem execFcvt_wf (h : memoryWf s.mem) : nextWf (execFcvt w s) := by
  unfold execFcvt
  split
  · exact floatCvt2_wf h
  · exact floatCvt1_wf h

theorem execFicvt_wf (h : memoryWf s.mem) : nextWf (execFicvt w s) := by
  unfold execFicvt
  split
  · exact floatOfInt_wf h
  · exact floatToInt_wf h

theorem execRed_wf (h : memoryWf s.mem) : nextWf (execRed w s) := by
  unfold execRed
  split
  · exact memAtomic_wf h
  · exact memAtomic_wf h

/-- Every instruction and every device step keeps storage canonical. -/
theorem exec_wf (x : Instr) (h : memoryWf s.mem) : nextWf (exec x s) := by
  cases x with
  | iadd32 | iadd64 | isub32 | isub64 | imul32 | imul64 | imulh32 | imulh64 | idiv | irem | imin32 | imin64 | imax32
  | imax64 | and32 | and64 | or32 | or64 | xor32 | xor64 | andn32 | andn64 | iaddUb | isubUb | imulUb | andUb | orUb
  | xorUb | iadc32 | iadc64 | imad | shf | bfi | perm | imadw | iabs32 | iabs64 | ineg32 | ineg64 | not32 | not64
  | brev32 | brev64 | sel | iset | icmp | mov32 | mov64 | movl | shl32 | shl64 | shr32 | shr64 | sar32 | sar64
  | rot32 | rot64 | bfx | shlUb | shrUb | popc32 | popc64 | clz32 | clz64 | ctz32 | ctz64 | plop | p2k32 | p2k64
  | k2p32 | k2p64 | pmov32 | pmov64 | lid32 | lid64 =>
    exact laneOp_wf h
  | uadd32 | uadd64 | usub32 | usub64 | umul32 | umul64 | uand32 | uand64 | uor32 | uor64 | uxor32 | uxor64 | umin32
  | umin64 | umax32 | umax64 | umad | usel | ushl32 | ushl64 | ushr32 | ushr64 | usar32 | usar64 | ubfx | ucmp
  | upopc32 | upopc64 | uclz32 | uclz64 =>
    exact uniOp_wf h
  | umov32 o => exact (uniMov_wf h : nextWf (execUmov32 o s))
  | umov64 w => exact (uniMov_wf h : nextWf (execUmov64 w s))
  | fadd32 | fadd64 | fsub32 | fsub64 | fmul32 | fmul64 | fmin32 | fmin64 | fmax32 | fmax64 | fdiv =>
    exact float2_wf h
  | ffma => exact float3_wf h
  | fset | fcmp => exact floatCompare_wf h
  | fclass => exact floatClass_wf h
  | frnd32 | frnd64 | fsqrt => exact float1_wf h
  | fscale32 | fscale64 => exact floatScale_wf h
  | fexpt32 | fexpt64 => exact floatExpt_wf h
  | fcvt => exact execFcvt_wf h
  | ficvt => exact execFicvt_wf h
  | red => exact execRed_wf h
  | teamRestore => exact execTeamRestore_wf h
  | qsub => exact execQsub_wf h
  | fcfgEnable => exact execFcfgEnable_wf h
  | fcfgDisable => exact execFcfgDisable_wf h
  | registerWrite => exact execRegisterWrite_wf h
  | revocationPoint => exact execRevocationPoint_wf h
  | mcmdUnlistedOp => exact execMcmdUnlistedOp_wf h
  | managementCommandEnd => exact execManagementCommandEnd_wf h
  | sweepPassComplete => exact execSweepPassComplete_wf h
  | functionLevelReset => exact execFunctionLevelReset_wf h
  | stopInterface => exact execStopInterface_wf h
  | scrubReceipt => exact execScrubReceipt_wf h
  | ideIntegrityFailure => exact execIdeIntegrityFailure_wf h
  | hostInboundRequest => exact execHostInboundRequest_wf h
  | go => exact execGo_wf h
  | firmwareVerify => exact execFirmwareVerify_wf h
  | configApply => exact execConfigApply_wf h
  | detectTimeout => exact execDetectTimeout_wf h
  | detectRetry => exact execDetectRetry_wf h
  | flitReceived => exact execFlitReceived_wf h
  | coreRetirement => exact execCoreRetirement_wf h
  | checkpoint => exact execCheckpoint_wf h
  | checkpointRestore => exact execCheckpointRestore_wf h
  | checkpointImageWrite => exact execCheckpointImageWrite_wf h
  | lockInterface => exact execLockInterface_wf h
  | startInterface => exact execStartInterface_wf h
  | icvt => exact floatIcvt_wf h
  | frcp | frsq | fexp2 | flog2 | fsin | fcos | ftanh => exact specialOp_wf h
  | hadd232 | hadd264 | hmul232 | hmul264 => exact packed2_wf h
  | hfma2 => exact packedFma_wf h
  | dot4 => exact packedDot4_wf h
  | dot2 => exact packedDot2_wf h
  | mxq => exact packedMxq_wf h
  | mxdq => exact packedMxdq_wf h
  | shfl => exact gwShfl_wf h
  | vote => exact gwVote_wf h
  | rdfl => exact gwRdfl_wf h
  | rdln => exact gwRdln_wf h
  | redg => exact gwRedg_wf h
  | scang => exact gwScang_wf h
  | matchg => exact gwMatch_wf h
  | ld => exact memLd_wf h
  | st => exact memSt_wf h
  | ldu => exact memLdu_wf h
  | stu => exact memStu_wf h
  | ldc => exact memLdc_wf h
  | stc => exact memStc_wf h
  | pref => exact memPref_wf h
  | atom | atomf => exact memAtomic_wf h
  | cas => exact memCas_wf h
  | cadd32 | cadd64 => exact capAdd_wf h
  | cset32 | cset64 => exact capSet_wf h
  | cbnd w => exact (capByInt_wf h : nextWf (execCbnd w s))
  | cperm32 | cperm64 => exact capPerm_wf h
  | cget => exact execCget_wf h
  | ctest => exact execCtest_wf h
  | cseal => exact execCseal_wf h
  | cunseal => exact execCunseal_wf h
  | cclr32 | cclr64 => exact capClr_wf h
  | fence => exact fenceOp_wf h
  | fencex => exact fencexOp_wf h
  | cflush | cinv => exact walkOp_wf h
  | icinv => exact icinvOp_wf h
  | bra32 | bra96 => exact ctlBra_wf h
  | brc32 | brc96 => exact ctlBrc_wf h
  | brx => exact ctlBrx_wf h
  | brd => exact ctlBrd_wf h
  | join32 | join64 => exact ctlJoin_wf h
  | call32 | call96 => exact ctlCall_wf h
  | calli => exact ctlCalli_wf h
  | ret32 | ret64 => exact ctlRet_wf h
  | winb32 | winb64 => exact ctlWinb_wf h
  | exit32 | exit64 => exact ctlExit_wf h
  | take => exact ctlTake_wf h
  | yield32 | yield64 => exact ctlYield_wf h
  | nop32 | nop64 => exact ctlNop_wf h
  | hint => exact ctlHint_wf h
  | cpl => exact engCpl_wf h
  | sheaf => exact engSheaf_wf h
  | wsheaf => exact engWsheaf_wf h
  | tcopy | rcopy => exact engCopy_wf h
  | wchk => exact engWchk_wf h
  | apnd => exact engApnd_wf h
  | wseq => exact engWseq_wf h
  | dpost => exact engDpost_wf h
  | mma => exact engMma_wf h
  | mzero | mload | mstore | mdrain => exact engTile_wf h
  | coll => exact engColl_wf h
  | crec => exact engCrec_wf h
  | binit => exact barInit_wf h
  | barv => exact barArrive_wf h
  | bwait => exact barWaitOp_wf h
  | bsync => exact barSync_wf h
  | claim => exact poolClaim_wf h
  | release => exact poolRelease_wf h
  | tclaim => exact poolTclaim_wf h
  | trelease => exact poolTrelease_wf h
  | trap => exact sysTrap_wf h
  | rtt => exact sysRtt_wf h
  | sysrd => exact sysSysrd_wf h
  | syswr => exact sysSyswr_wf h
  | clock32 | clock64 => exact sysClock_wf h
  | pmrd => exact sysPmrd_wf h
  | sleep => exact sysSleep_wf h
  | gstop => exact winGstop_wf h
  | grd => exact winGrd_wf h
  | gwr => exact winGwr_wf h
  | gres => exact winGres_wf h
  | gstat => exact winGstat_wf h
  | tlaunch => exact schedTlaunch_wf h
  | chctlAbandonFaulted => exact execChctlAbandonFaulted_wf h
  | chctlAbandonAll => exact execChctlAbandonAll_wf h
  | drainRequest => exact execDrainRequest_wf h
  | releaseRecordRetirement => exact execReleaseRecordRetirement_wf h
  | preemptionRequest => exact execPreemptionRequest_wf h
  | tokenTick => exact execTokenTick_wf h
  | spdmRequest => exact execSpdmRequest_wf h
  | conventionalReset => exact execConventionalReset_wf
  | pcieTraining => exact execPcieTraining_wf h
  | hbmTraining => exact execHbmTraining_wf h
  | fewickStageEnd => exact execFewickStageEnd_wf h
  | retryLimit => exact execRetryLimit_wf h
  | parityError => exact execParityError_wf h
  | segmentClose => exact execSegmentClose_wf h
  | loadResult => exact execLoadResult_wf h
  | hostWindowCompletion => exact execHostWindowCompletion_wf h
  | lateFault => exact execLateFault_wf h
  | noticeRecord => exact execNoticeRecord_wf h
  | level2Fault => exact execLevel2Fault_wf h
  | groupRetirement => exact execGroupRetirement_wf h
  | starvationRaise => exact execStarvationRaise_wf h
  | hintCyclesExpiry => exact execHintCyclesExpiry_wf h
  | sleepEnd => exact execSleepEnd_wf h
  | chainEntryAcceptance => exact execChainEntryAcceptance_wf h
  | copyChunk => exact execCopyChunk_wf h
  | lineOperation => exact execLineOperation_wf h
  | gcmRecord => exact execGcmRecord_wf h
  | tileFetch => exact execTileFetch_wf h
  | mmaKblock => exact execMmaKblock_wf h
  | tileStoreRowOperation => exact execTileStoreRowOperation_wf h
  | drainRowStaging => exact execDrainRowStaging_wf h
  | collMessage => exact execCollMessage_wf h
  | abortNotice => exact execAbortNotice_wf h
  | switchReductionResult => exact execSwitchReductionResult_wf h
  | switchStateLost => exact execSwitchStateLost_wf h
  | engineCompletionRecord => exact execEngineCompletionRecord_wf h
  | cacheWalk => exact execCacheWalk_wf h
  | walkResume => exact execWalkResume_wf h
  | walkEnd => exact execWalkEnd_wf h
  | teamStart => exact execTeamStart_wf h
  | l1RegionScan => exact execL1RegionScan_wf h
  | teamEnd => exact execTeamEnd_wf h
  | forward => exact execForward_wf h
  | taskCompletion => exact execTaskCompletion_wf h
  | teamSave => exact execTeamSave_wf h
  | qctlRelease => exact execQctlRelease_wf h
  | qctlCancel => exact execQctlCancel_wf h
  | recordExamination => exact execRecordExamination_wf h
  | admission => exact execAdmission_wf h
  | teamDeal => exact execTeamDeal_wf h
  | glean => exact execGlean_wf h
  | gleanAnswer => exact execGleanAnswer_wf h
  | gleanAnswerArrival => exact execGleanAnswerArrival_wf h
  | quantumEnd => exact execQuantumEnd_wf h
  | holderChange => exact execHolderChange_wf h
  | peerInboundRequest => exact execPeerInboundRequest_wf h
  | stageTimeLimit => exact execStageTimeLimit_wf h
  | flitResend => exact execFlitResend_wf h
  | softError => exact execSoftError_wf h
  | snapshotWrite => exact execSnapshotWrite_wf h
  | watchWindowEnd => exact execWatchWindowEnd_wf h
  | atomicAtHome => exact execAtomicAtHome_wf h
  | peerAcknowledgement => exact execPeerAcknowledgement_wf h
  | extAdd => exact execExtAdd_wf h
  | extRevoke => exact execExtRevoke_wf h
  | extFree => exact execExtFree_wf h
  | colSet => exact execColSet_wf h
  | imgBind => exact execImgBind_wf h
  | keyRelease => exact execKeyRelease_wf h
  | keyZero => exact execKeyZero_wf h
  | preempt => exact execPreempt_wf h
  | sweep => exact execSweep_wf h
  | flitReplay | pacing | patrolScrub => exact h
  | powerUp => exact execPowerUp_wf
  | portRetrain => exact execPortRetrain_wf h
  | portDisable => exact execPortDisable_wf h
  | snapshotRequest => exact execSnapshotRequest_wf h
  | powerOff => exact execPowerOff_wf
  | fabricBringUp => exact execFabricBringUp_wf h
  | partnerSignal => exact execPartnerSignal_wf h
  | negotiate => exact execNegotiate_wf h
  | attest => exact execAttest_wf h

/-! The choice of what runs next (R132, R235, R238, R251). -/

theorem runNext_wf (h : memoryWf s.mem) : nextWf (runNext s) := by
  unfold runNext
  split
  · trivial
  next i hi =>
    split
    · exact runInstr_wf (fun _ _ => trivial) h
    next ws u hu =>
      have hu : memoryWf u.mem := Iss.fetch_wf (by rw [State.issuing_s hi]; exact h) hu
      split
      next x _ => exact exec_wf x hu
      · exact runInstr_wf (fun _ hj => hj) hu

@[simp] theorem State.elapse_mem (s : State) (dt : Nat) : (s.elapse dt).mem = s.mem := by
  unfold State.elapse
  extract_lets
  exact State.mem_ite rfl (State.mem_ite rfl rfl)

@[simp] theorem State.rotated_mem (s : State) (core n : Nat) : (s.rotated core n).mem = s.mem := rfl
@[simp] theorem State.rotate_mem (s : State) (core : Nat) : (s.rotate core).mem = s.mem := rfl

@[simp] theorem State.handOver_mem (s : State) : s.handOver.mem = s.mem := by
  unfold State.handOver
  split
  · exact State.mem_ite rfl rfl
  · rfl

theorem runTurn_wf (a : Act) (h : memoryWf s.mem) : nextWf (runTurn a s) := by
  cases a with
  | event x =>
    simp only [runTurn]
    split
    · exact exec_wf x h
    · trivial
  | issue ag => exact runNext_wf h
  | pick core pipe =>
    simp only [runTurn]
    split
    · exact runNext_wf h
    · trivial
  | rotate core => exact runNext_wf h
  | evict core line colour => exact State.evict_wf _ _ _ h
  | evictCode core ctl line => exact State.evictCode_wf _ _ _ h
  | visit a n => exact State.visitWalk_wf h

/-- Every step keeps storage canonical. -/
theorem step_wf (h : memoryWf s.mem) : nextWf (step s) := by
  unfold step
  split
  · exact runNext_wf ((State.handOver_mem s).symm ▸ h)
  · exact runTurn_wf _ ((State.elapse_mem ..).symm ▸ h)

end Sys2Proof.Machine

section

open Sys2Proof Sys2Proof.Machine Sys2Proof.Safety Sys2Proof.Rules

/-- Settles O10: whatever runs next, each operation on storage that it may perform keeps the canonical form. -/
theorem stepKeepsStorage : Obligations.StepKeepsStorage := by
  unfold Obligations.StepKeepsStorage
  intro s t h hst
  have hn := step_wf h
  rw [show step s = .next t from hst] at hn
  exact hn

end

/-! PROOFS. Traps of levels 1 and 2 (spec/13_traps_in_kernel.md, R331, R335, R337): delivery to the control thread, and what
passes to the firmware. -/

namespace Sys2Proof.Machine

open Sys2Proof.Rules

variable {s : State} {g ix n : Nat} {G : Group} {p : Path} {t : Trap}

/-! Level 2 (R337). -/

theorem State.groups_toLevel2 (s : State) (n cause sub : Nat) (word : Word) :
    (s.toLevel2 n cause sub word).groups = s.groups := by
  unfold State.toLevel2
  dsimp only
  split <;> split <;> rfl

theorem State.ctx_toLevel2 {C : Ctx} (hC : s.ctx n = some C) (cause sub : Nat) (word : Word) :
    (s.toLevel2 n cause sub word).ctx n = some { C with trapped := some (cause, sub, word.toNat) } := by
  simp only [State.toLevel2, hC, State.team_setCtx]
  split
  · exact (State.ctx_setTeam ..).trans (State.ctx_setCtx ..)
  · exact State.ctx_setCtx ..

theorem State.team_toLevel2 {T : Team} (hT : s.team n = some T) (cause sub : Nat) (word : Word) :
    (s.toLevel2 n cause sub word).team n = some { T with halt := true } := by
  cases hC : s.ctx n <;> simp [State.toLevel2, hC, hT]

/-- With nothing outstanding a context has nothing to settle. -/
theorem settleCtx_idle {C : Ctx} (h : C.path.pend = []) (which : Pending → Bool) : settleCtx which C = C := by
  simp only [settleCtx, h, List.filter_nil, List.foldl_nil]
  rw [← h]

/-- A trap of a control thread that has nothing outstanding passes to level 2 at once (R331, R337). -/
theorem State.takeTrap_ctl {C : Ctx} (hC : s.ctx n = some C) (hf : t.toFirmware = false) (hp : C.path.pend = []) :
    s.takeTrap (.ctl n) t = (s.setCtx n { C with path := { C.path with wait := none } }).toLevel2 n t.cause t.sub
      (causeWord t false false) := by
  simp [State.takeTrap, hf, hC, hp, settleCtx_idle]

/-! Level 1 (R331, R335). -/

/-- A group stopped by a trap with a cause word, to go on as an agent. -/
def Group.trapped (G : Group) (cw : Word) (ag : Agent) : Group := { G with run := .trapped, cause := cw, resume := ag }

/-- A group that a trap of entry ix, whose path is p, stops at the boundary: no wait of p, no forwarding window, p to go
on at a resume point. -/
def Group.stopped (G : Group) (g ix : Nat) (p : Path) (cw : Word) (resume : Word64) : Group :=
  (G.withStack (G.trapStack ix { p with pc := resume })).trapped cw (.path g ix)

theorem Group.stopped_pc (h : G.stack[ix]? = some p) (g : Nat) (cw : Word) (resume : Word64) :
    ((G.stopped g ix p cw resume).stack[ix]?.map (·.pc)) = some resume := by
  obtain ⟨hlt, -⟩ := List.getElem?_eq_some_iff.1 h
  simp [Group.stopped, Group.trapped, Group.trapStack, hlt]

/-- Whether a trap of a team's groups can be delivered to its control thread (R335). -/
def State.delivers (s : State) (n : Nat) : Bool :=
  match s.ctx n with
  | some C => !C.exited && C.trapped.isNone
  | none => false

theorem State.delivers_iff : s.delivers n = true ↔ ∃ C, s.ctx n = some C ∧ C.exited = false ∧ C.trapped = none := by
  unfold State.delivers
  cases s.ctx n <;> simp

/-- The team of a group with the notice record of a trap behind its records (R335). -/
def Team.noticed (T : Team) (G : Group) (t : Trap) : Team :=
  { T with ringQ := T.ringQ ++ [{ bits := noticeRec G.grp t.cause t.sub t.lanes, chain := none, seq := 0 }] }

/-- What a trap of a stopped group tells: its control thread by a notice record, or else the firmware (R335, R337). -/
def State.notified (s : State) (G : Group) (t : Trap) (cw : Word) : State :=
  if s.delivers G.team then
    match s.team G.team with
    | some T => s.setTeam G.team (T.noticed G t)
    | none => s
  else s.toLevel2 G.team t.cause t.sub cw

/-- A path of an agent that is to go on at a resume point, its wait over. -/
def State.resumeAt (s : State) (ag : Agent) (resume : Word64) : State :=
  match s.path ag with
  | some p => s.setPath ag { p with pc := resume, wait := none }
  | none => s

/-- Delivery: the group stops, its agent gets the resume point, and the trap is told. -/
theorem State.deliver1_eq (hG : s.group g = some G) (ag : Agent) (t : Trap) (esc arm : Bool) (resume : Word64) :
    s.deliver1 g ag t esc arm resume =
      ((s.setGroup g ((G.stopAt g ag).1.trapped (causeWord t esc arm) (G.stopAt g ag).2)).resumeAt (G.stopAt g ag).2
        resume).notified (G.stopAt g ag).1 t (causeWord t esc arm) := by
  unfold State.deliver1
  rw [hG]
  rfl

/-- Delivery of a trap of a quiet group: only windows and the trapping path's wait go. -/
theorem State.deliver1_quiet (hG : s.group g = some G) (h : Rules.quietAt G ix p) (t : Trap) (esc arm : Bool)
    (resume : Word64) : s.deliver1 g (.path g ix) t esc arm resume =
      (s.setGroup g (G.stopped g ix p (causeWord t esc arm) resume)).notified G t (causeWord t esc arm) := by
  have hstop : G.stopAt g (.path g ix) = (G.withStack (G.stack.map Path.unheld), .path g ix) := by
    rw [Group.stopAt, Group.quietAt_quiet h]
  have hp : (G.stack.map Path.unheld)[ix]? = some p.unheld := by simp [h.1]
  have hresume (K : Group) (hK : K.stack = G.stack.map Path.unheld) :
      (s.setGroup g K).resumeAt (.path g ix) resume = s.setGroup g (K.withStack (G.trapStack ix { p with pc := resume })) := by
    simp only [State.resumeAt, State.path, State.group_setGroup, hK, hp, State.setPath, State.setGroup_setGroup]
    rw [Group.setPathAt, hK]
    rfl
  rw [State.deliver1_eq hG, hstop, hresume _ rfl]
  rfl

/-- A trap without flags of a quiet group that has no handler stops it at level 1 at once (R331, R335). -/
theorem State.takeTrap_level1 (hG : s.group g = some G) (h : Rules.quietAt G ix p) (hv : G.trapv = 0)
    (hf : t.toFirmware = false) (hfl : t.flags = 0) :
    s.takeTrap (.path g ix) t =
      (s.setGroup g (G.stopped g ix p (causeWord t false (parentIx G.stack ix).isSome) (t.resume.getD p.pc))).notified G t
        (causeWord t false (parentIx G.stack ix).isSome) := by
  have htake : s.takeTrap (.path g ix) t =
      (s.setGroup g (G.withStack (G.stack.set ix { p with wait := none }))).deliver1 g (.path g ix) t false
        (parentIx (G.stack.set ix { p with wait := none }) ix).isSome (t.resume.getD p.pc) := by
    simp [State.takeTrap, hf, hG, h.1, Group.allReady_quiet h, hfl, Group.raise_none, hv, Group.withStack]
  have hstack : (G.withStack (G.stack.set ix { p with wait := none })).trapStack ix
      { p with wait := none, pc := t.resume.getD p.pc } = G.trapStack ix { p with pc := t.resume.getD p.pc } := by
    simp [Group.trapStack, List.map_set, List.set_set]
  rw [htake, parentIx_clearWait h.1, State.deliver1_quiet (State.group_setGroup ..) (quietAt_clearWait h),
    State.setGroup_setGroup, Group.stopped, hstack]
  rfl

/-- Where the control thread is live, its team has one more notice record (R335). -/
theorem State.notified_live {T : Team} (hd : s.delivers G.team = true) (hT : s.team G.team = some T) (cw : Word) :
    s.notified G t cw = s.setTeam G.team (T.noticed G t) := by
  simp [State.notified, hd, hT]

/-- Where there is none, the trap passes to level 2 (R337). -/
theorem State.notified_dead (hd : s.delivers G.team = false) (cw : Word) :
    s.notified G t cw = s.toLevel2 G.team t.cause t.sub cw := by
  simp [State.notified, hd]

theorem State.group_notified (s : State) (G : Group) (t : Trap) (cw : Word) (g : Nat) :
    (s.notified G t cw).group g = s.group g := by
  unfold State.notified
  split
  · split <;> rfl
  · exact State.group_toLevel2 ..

end Sys2Proof.Machine

section

open Sys2Proof Sys2Proof.Machine Sys2Proof.Rules

/-- Settles O52: at level 1 the group stops (`State.takeTrap_level1`) and its trap is told to a live control thread
(`State.notified_live`) or passes to level 2 (`State.notified_dead`), as does a trap of a control thread
(`State.takeTrap_ctl`); what level 2 records is log 25's reading. -/
theorem trapLevels1And2 : Obligations.TrapLevels1And2 := by
  refine ⟨fun s g ix G p T tr hG h hv hf hfl hT => ?_, fun s n C T tr hC hT hf hp => ?_⟩
  · have hmem := s.takeTrap_mem (.path g ix) tr
    rw [State.takeTrap_level1 hG h hv hf hfl] at hmem ⊢
    refine ⟨⟨_, (State.group_notified ..).trans (State.group_setGroup ..), rfl, rfl, rfl, rfl, Group.stopped_pc h.1 ..⟩,
      hmem, fun hlive => ?_, fun hnone => ?_⟩
    · rw [State.notified_live (s := s.setGroup g _) (State.delivers_iff.2 hlive) hT]
      exact ⟨T.noticed G tr, State.team_setTeam .., rfl, _, rfl, rfl, rfl⟩
    · have hd : s.delivers G.team = false := by
        rw [← Bool.not_eq_true, State.delivers_iff]
        rintro ⟨C, hC, hx, ht⟩
        exact (hnone C hC).elim (by simp [hx]) (fun h => h ht)
      rw [State.notified_dead (s := s.setGroup g _) hd]
      exact ⟨_, State.team_toLevel2 ((State.team_setGroup ..).trans hT) .., rfl⟩
  · have hmem := s.takeTrap_mem (.ctl n) tr
    rw [State.takeTrap_ctl hC hf hp] at hmem ⊢
    exact ⟨⟨_, State.ctx_toLevel2 (State.ctx_setCtx ..) .., rfl, rfl⟩,
      ⟨_, State.team_toLevel2 ((State.team_setCtx ..).trans hT) .., rfl, rfl⟩, State.groups_toLevel2 .., hmem⟩

end

/-! PROOFS. Soft errors, parity, patrol and core retirement (spec/13_traps_in_kernel.md, R339; spec/20_faults_records.md, R445
to R451). -/

namespace Sys2Proof.Machine

open Sys2Proof.Rules

variable {s t : State}

/-! Frames. -/

theorem same_trans {p : Part} {u : State} (h : p.same s t) (h' : p.same t u) : p.same s u := by
  cases p <;> exact Eq.trans h' h

theorem only_trans {ps : List Part} {u : State} (h : only ps s t) (h' : only ps t u) : only ps s u :=
  fun p hp => same_trans (h p hp) (h' p hp)

theorem only_mono {ps qs : List Part} (h : only ps s t) (hsub : ∀ p ∈ ps, p ∈ qs) : only qs s t :=
  fun p hp => h p (fun hm => hp (hsub p hm))

theorem only_ras (s : State) (r : Ras) : only [.ras] s { s with ras := r } := by
  intro p hp
  cases p <;> simp_all [Part.same]

theorem only_setCore (s : State) (i : Nat) (c : Core) : only [.cores] s (s.setCore i c) := by
  intro p hp
  cases p <;> simp_all [Part.same]

/-! Counting (R447, R451). -/

theorem counted_bump (l : Store 32) (k : Nat) : counted (Store.read l k) (Store.read (bump l k) k) := by
  have hlt := (Store.read l k).isLt
  rw [bump, Store.read_write_same, counted]
  split
  · omega
  · rw [BitVec.toNat_add, show (1 : Word).toNat = 1 from rfl]
    omega

theorem State.core_setCore_other (s : State) {i j : Nat} (c : Core) (h : i ≠ j) : (s.setCore i c).core j = s.core j := by
  simp [State.core, Tbl.get_set, h]

theorem only_countCe (s : State) (k : Nat) (core : Option Nat) : only [.ras, .cores] s (s.countCe k core) := by
  have hras : only [.ras, .cores] s { s with ras := { s.ras with ce := bump s.ras.ce k } } :=
    only_mono (only_ras _ _) (by simp)
  cases core with
  | none => exact hras
  | some i => exact only_trans hras (only_mono (only_setCore _ i _) (by simp))

theorem State.ras_countCe (s : State) (k : Nat) (core : Option Nat) :
    (s.countCe k core).ras = { s.ras with ce := bump s.ras.ce k } := by
  cases core <;> rfl

/-- The 64th corrected error of a structure of a core within one second (R451). -/
theorem State.retire_countCe (s : State) (k i : Nat)
    (h : 63 ≤ ((s.core i).ces.filter (fun e => e.1 == k && s.clock < e.2 + 1800000000)).length) :
    ((s.countCe k (some i)).core i).retire = true := by
  have hlen : 64 ≤ ((((s.core i).ces.filter (fun e => s.clock < e.2 + 1800000000)) ++ [(k, s.clock)]).filter
      (fun e => e.1 == k)).length := by
    simpa [List.filter_filter] using h
  rw [State.countCe, State.core_setCore]
  exact Bool.or_eq_true_iff.2 (.inr (decide_eq_true hlen))

/-! Poison (R339, R446). -/

theorem Mem.mem_addPoison (m : Mem) (base n : Nat) : (base, n) ∈ (m.addPoison base n).poison := by
  unfold Mem.addPoison
  split
  next h => simpa using h
  · simp

theorem Mem.addPoison_keeps {m : Mem} {x : Nat × Nat} (h : x ∈ m.poison) (base n : Nat) :
    x ∈ (m.addPoison base n).poison := by
  unfold Mem.addPoison
  split
  · exact h
  · exact List.mem_append_left _ h

theorem Mem.bytes_addPoison (m : Mem) (base n : Nat) : (m.addPoison base n).bytes = m.bytes := by
  unfold Mem.addPoison
  split <;> rfl

theorem Mem.l1_addPoison (m : Mem) (base n : Nat) : (m.addPoison base n).l1 = m.l1 := by
  unfold Mem.addPoison
  split <;> rfl

/-- Every unit of a list that is poisoned one by one is poisoned in the end. -/
theorem Mem.mem_foldl_addPoison (f : Nat → Nat) (n : Nat) (l : List Nat) (m : Mem) {x : Nat × Nat}
    (h : x ∈ m.poison ∨ ∃ j ∈ l, x = (f j, n)) : x ∈ (l.foldl (fun m j => m.addPoison (f j) n) m).poison := by
  induction l generalizing m with
  | nil => simpa using h
  | cons i l ih =>
    refine ih _ ?_
    rcases h with h | ⟨j, hj, rfl⟩
    · exact .inl (Mem.addPoison_keeps h _ _)
    · rcases List.mem_cons.1 hj with rfl | hj
      · exact .inl (Mem.mem_addPoison _ _ _)
      · exact .inr ⟨j, hj, rfl⟩

theorem Mem.mem_poisonLine (m : Mem) (line : Nat) {j : Nat} (h : j < 8) :
    (128 * line + 16 * j, 16) ∈ (m.poisonLine line).poison :=
  Mem.mem_foldl_addPoison (fun j => 128 * line + 16 * j) 16 _ m (.inr ⟨j, List.mem_range.2 h, rfl⟩)

theorem Mem.l1_poisonLine (m : Mem) (line : Nat) : (m.poisonLine line).l1 = m.l1 :=
  List.foldlRecOn (motive := fun n : Mem => n.l1 = m.l1) _ _ rfl (fun _ hn _ _ => (Mem.l1_addPoison _ _ _).trans hn)

/-- A dirty line whose tag is lost: its granules are poisoned at the home and its core is to be retired (R445). -/
theorem State.mustRetire_poisonLine (s : State) (m : Mem) (core line : Nat) :
    ((({ s with mem := m.poisonLine line } : State).mustRetire core).core core).retire = true ∧ ∀ j, j < 8 →
      (128 * line + 16 * j, 16) ∈ (({ s with mem := m.poisonLine line } : State).mustRetire core).mem.poison := by
  refine ⟨by simp [State.mustRetire], fun j hj => ?_⟩
  rw [State.mustRetire_mem]
  exact Mem.mem_poisonLine m line hj

/-- A register word or tag of a group is poisoned, unless the forwarding window is still to write it; its value stays. -/
theorem State.poisonWord_inUnit (s : State) (g : Nat) (p : Poison) : poisoned.inUnit s (s.poisonWord g p) g p := by
  intro G hG
  refine ⟨G.addPoison p, by simp [State.poisonWord, hG], fun hheld => ?_, ?_⟩
  · unfold Group.addPoison
    rw [hheld]
    split
    next h => simpa using h
    · simp
  · unfold Group.addPoison
    split <;> exact ⟨rfl, rfl, rfl, rfl, rfl⟩

/-- The team that holds a unit of a control store or tile store halts (R337). -/
theorem State.halts_eccLevel2 (s : State) (loc : ErrAt) (detail : Nat) :
    ∀ n T, s.holderOf loc = some n → s.team n = some T → ∃ T', (s.eccLevel2 loc detail).team n = some T' ∧ T'.halt = true := by
  intro n T hn hT
  refine ⟨{ T with halt := true }, ?_, rfl⟩
  rw [State.eccLevel2, hn]
  exact State.team_toLevel2 hT ..

/-- An uncorrectable error leaves its unit poisoned. -/
theorem State.uncorrectable_poisons (s : State) (loc : ErrAt) : poisoned loc s (s.uncorrectable loc) := by
  cases loc with
  | v g row lane => exact s.poisonWord_inUnit g (.v row lane)
  | k g n => exact s.poisonWord_inUnit g (.k n)
  | q g n lane => exact s.poisonWord_inUnit g (.q n lane)
  | vtag g quad lane => exact s.poisonWord_inUnit g (.vtag quad lane)
  | ktag g quad => exact s.poisonWord_inUnit g (.ktag quad)
  | store a =>
    simp only [poisoned, State.uncorrectable]
    cases whereIs a with
    | hbm => exact ⟨Mem.mem_addPoison .., Mem.bytes_addPoison ..⟩
    | chip _ => exact ⟨Mem.mem_addPoison .., Mem.bytes_addPoison ..⟩
    | scratch _ => exact ⟨Mem.mem_addPoison .., Mem.bytes_addPoison ..⟩
    | cstore _ => exact s.halts_eccLevel2 (.store a) 3
    | _ => trivial
  | tile core w => exact s.halts_eccLevel2 (.tile core w) 4
  | l1 core line colour gran =>
    intro l hl
    simp only [State.uncorrectable, hl]
    exact ⟨_, Tbl.get_set_same .., rfl, rfl⟩
  | l2 a => exact Mem.mem_addPoison ..
  | l1Tag core line colour =>
    intro l hl
    have hgone : Tbl.get (Tbl.erase s.mem.l1 (l1Key core line colour)) (l1Key core line colour) = none := by
      rw [Tbl.get_erase, if_pos rfl]
    simp only [State.uncorrectable, hl]
    split
    next hclean => exact ⟨hgone, fun h => absurd hclean h⟩
    · refine ⟨?_, fun _ => s.mustRetire_poisonLine _ core line⟩
      rw [State.mustRetire_mem, Mem.l1_poisonLine]
      exact hgone
  | l2Tag core line dirty =>
    rintro rfl
    exact s.mustRetire_poisonLine _ core line

theorem State.ras_toLevel2 (s : State) (n cause sub : Nat) (word : Word) : (s.toLevel2 n cause sub word).ras = s.ras := by
  unfold State.toLevel2
  dsimp only
  split <;> split <;> rfl

theorem State.ras_poisonWord (s : State) (g : Nat) (p : Poison) : (s.poisonWord g p).ras = s.ras := by
  unfold State.poisonWord
  split <;> rfl

theorem State.ras_eccLevel2 (s : State) (loc : ErrAt) (detail : Nat) : (s.eccLevel2 loc detail).ras = s.ras := by
  unfold State.eccLevel2
  split
  · exact State.ras_toLevel2 ..
  · rfl

/-- The counts are no part of what an uncorrectable error changes. -/
theorem State.ras_uncorrectable (s : State) (loc : ErrAt) : (s.uncorrectable loc).ras = s.ras := by
  cases loc with
  | v g row lane => exact State.ras_poisonWord ..
  | k g n => exact State.ras_poisonWord ..
  | q g n lane => exact State.ras_poisonWord ..
  | vtag g quad lane => exact State.ras_poisonWord ..
  | ktag g quad => exact State.ras_poisonWord ..
  | store a =>
    simp only [State.uncorrectable]
    split
    · rfl
    · exact State.ras_eccLevel2 ..
    · rfl
  | tile core w => exact State.ras_eccLevel2 ..
  | l1 core line colour gran => simp only [State.uncorrectable]; split <;> rfl
  | l2 a => rfl
  | l1Tag core line colour =>
    simp only [State.uncorrectable]
    split
    · split <;> rfl
    · rfl
  | l2Tag core line dirty => simp only [State.uncorrectable]; split <;> rfl

/-- Counting touches nothing that poison is said of. -/
theorem poisoned_countUe (s t : State) (k : Nat) (loc : ErrAt) : poisoned loc (s.countUe k) t ↔ poisoned loc s t := Iff.rfl

/-! Teams that are gone: no end of a team, and no trap that follows from it, brings one back. -/

/-- Every team that is absent stays absent. -/
structure noNewTeam (s t : State) : Prop where
  absent : ∀ n, s.team n = none → t.team n = none

theorem noNewTeam.refl (s : State) : noNewTeam s s := ⟨fun _ h => h⟩
theorem noNewTeam.trans {u : State} (h : noNewTeam s t) (h' : noNewTeam t u) : noNewTeam s u :=
  ⟨fun n hn => h'.absent n (h.absent n hn)⟩
theorem noNewTeam_of_teams (h : t.teams = s.teams) : noNewTeam s t := ⟨fun n hn => (congrArg (Tbl.get · n) h).trans hn⟩

theorem noNewTeam_setGroup (s : State) (g : Nat) (G : Group) : noNewTeam s (s.setGroup g G) :=
  noNewTeam_of_teams (State.setGroup_teams ..)

theorem noNewTeam_setTeam {n : Nat} {T : Team} (hT : s.team n = some T) (T' : Team) : noNewTeam s (s.setTeam n T') := by
  refine ⟨fun m hm => ?_⟩
  have hne : n ≠ m := by
    rintro rfl
    rw [hT] at hm
    cases hm
  rw [State.team_setTeam_other _ _ hne, hm]

theorem noNewTeam_toLevel2 (s : State) (n cause sub : Nat) (word : Word) : noNewTeam s (s.toLevel2 n cause sub word) := by
  have hhalt (u : State) (hu : u.teams = s.teams) : noNewTeam s
      (match u.team n with | some T => u.setTeam n { T with halt := true } | none => u) := by
    refine (noNewTeam_of_teams hu).trans ?_
    split
    next T hT => exact noNewTeam_setTeam hT _
    · exact noNewTeam.refl u
  cases hC : s.ctx n <;> simp only [State.toLevel2, hC] <;> exact hhalt _ rfl

theorem State.teams_setPath (s : State) (ag : Agent) (p : Path) : (s.setPath ag p).teams = s.teams := by
  cases ag <;> simp only [State.setPath] <;> split <;> rfl

theorem State.teams_resumeAt (s : State) (ag : Agent) (resume : Word64) : (s.resumeAt ag resume).teams = s.teams := by
  unfold State.resumeAt
  split
  · exact State.teams_setPath ..
  · rfl

theorem noNewTeam_notified (s : State) (G : Group) (t : Trap) (cw : Word) : noNewTeam s (s.notified G t cw) := by
  unfold State.notified
  split
  · split
    next T hT => exact noNewTeam_setTeam hT _
    · exact noNewTeam.refl s
  · exact noNewTeam_toLevel2 ..

theorem noNewTeam_deliver1 (s : State) (g : Nat) (ag : Agent) (t : Trap) (esc arm : Bool) (resume : Word64) :
    noNewTeam s (s.deliver1 g ag t esc arm resume) := by
  cases hG : s.group g with
  | none =>
    rw [State.deliver1, hG]
    exact noNewTeam.refl s
  | some G =>
    rw [State.deliver1_eq hG]
    exact ((noNewTeam_setGroup ..).trans (noNewTeam_of_teams (State.teams_resumeAt ..))).trans (noNewTeam_notified ..)

theorem noNewTeam_takeTrap (s : State) (ag : Agent) (t : Trap) : noNewTeam s (s.takeTrap ag t) := by
  have hwait (p : Path) : noNewTeam s (s.setPath ag p) := noNewTeam_of_teams (State.teams_setPath ..)
  cases ag with
  | path g ix =>
    simp only [State.takeTrap]
    split
    · split
      · exact noNewTeam_toLevel2 ..
      · exact noNewTeam.refl s
    · split
      · exact noNewTeam.refl s
      · split
        · exact noNewTeam.refl s
        · split
          · exact hwait _
          · split
            · exact (noNewTeam_setGroup ..).trans (noNewTeam_deliver1 ..)
            · exact noNewTeam_of_teams rfl
  | handler g =>
    simp only [State.takeTrap]
    split
    · split
      · exact noNewTeam_toLevel2 ..
      · exact noNewTeam.refl s
    · split
      · exact noNewTeam.refl s
      · split
        · exact noNewTeam.refl s
        · split
          · exact hwait _
          · exact (noNewTeam_setGroup ..).trans (noNewTeam_deliver1 ..)
  | ctl n =>
    simp only [State.takeTrap]
    split
    · exact noNewTeam_toLevel2 ..
    · split
      · split
        · exact hwait _
        · exact (noNewTeam_of_teams (State.setCtx_teams ..)).trans (noNewTeam_toLevel2 ..)
      · exact noNewTeam.refl s

theorem noNewTeam_detectN (core n : Nat) (s : State) : noNewTeam s (State.detectN core n s) := by
  induction n generalizing s with
  | zero => exact noNewTeam.refl s
  | succ n ih =>
    rw [State.detectN]
    split
    · exact noNewTeam.refl s
    · split
      · exact noNewTeam.refl s
      · exact (noNewTeam_takeTrap ..).trans (ih _)

/-! The end of a team (R249, R337). -/

theorem State.teams_teamEnded (s : State) (key : Nat) : (s.teamEnded key).teams = s.teams := by
  unfold State.teamEnded
  split
  · rfl
  · extract_lets
    split
    · rfl
    · exact List.foldlRecOn (motive := fun u : State => u.teams = s.teams) _ _ rfl (fun _ hu _ _ => hu)

theorem State.team_teamWriteBack (s : State) (T : Team) (m : Nat) : (s.teamWriteBack T).team m = s.team m := by
  unfold State.teamWriteBack
  split <;> rfl

theorem State.team_freeTeam (s : State) (n : Nat) (T : Team) (m : Nat) :
    (s.freeTeam n T).team m = if n = m then none else s.team m := by
  have htiles : (T.tiles.foldl (fun (s : State) x => s.zeroTiles T.core x.1 x.2) s).teams = s.teams :=
    List.foldlRecOn (motive := fun u : State => u.teams = s.teams) _ _ rfl (fun _ hu _ _ => hu)
  exact (Tbl.get_erase _ n m).trans (by rw [State.team, ← htiles]; rfl)

/-- A team that ends is gone, and so is every team that was gone before. -/
theorem State.team_endTeam_none {n m : Nat} (h : m = n ∨ s.team m = none) (T : Team) : (s.endTeam n T).team m = none := by
  refine (congrArg (Tbl.get · m) (State.teams_teamEnded ..)).trans ((noNewTeam_detectN ..).absent m ?_)
  rw [State.team_freeTeam, State.team_teamWriteBack]
  split
  · rfl
  next hne => exact h.resolve_left (Ne.symm hne)

theorem teamOnly_abandonAll (n ch : Nat) (s : State) : teamOnly n s (s.abandonAll n ch) := by
  unfold State.abandonAll
  split
  · exact teamOnly.refl _ _
  · have hall := teamOnly_foldl n (fun (s : State) c => s.abandon n ch c) (fun _ _ => teamOnly_abandon _ _ _ _)
    dsimp only
    split
    · exact hall _ _
    · exact (hall _ _).trans (teamOnly_setTeam _ _ _)

theorem State.team_killTeam_none {n m : Nat} (h : m = n ∨ s.team m = none) (T : Team) (trig cause sub : Nat) (word : Word) :
    (s.killTeam n T trig cause sub word).team m = none := by
  have habandon := teamOnly_foldl n (fun (s : State) ch => s.abandonAll n ch) (fun _ _ => teamOnly_abandonAll _ _ _)
    (List.range 3) s
  unfold State.killTeam
  refine State.team_endTeam_none (or_iff_not_imp_left.2 fun hne => ?_) _
  refine Eq.trans ?_ ((habandon.2 m hne).trans (h.resolve_left hne))
  split <;> rfl

/-! Retirement (R451). -/

theorem Tbl.get_ne_none {α : Type} {l : Tbl α} {e : Nat × α} (h : e ∈ l) : Tbl.get l e.1 ≠ none := by
  induction l with
  | nil => cases h
  | cons f l ih =>
    obtain ⟨k, a⟩ := f
    rw [Tbl.get]
    split
    · simp
    next hne =>
      refine ih ((List.mem_cons.1 h).resolve_left ?_)
      rintro rfl
      exact hne rfl

theorem State.teamsOf_eq_nil {core : Nat} (h : ∀ n, coreOfTeam n = core → s.team n = none) : s.teamsOf core = [] := by
  refine List.filter_eq_nil_iff.2 fun e he hc => Tbl.get_ne_none he (h e.1 ?_)
  simpa using hc

/-- One step of `State.killUnsavable`: a team that is still there ends with cause ECC. -/
def State.killEcc (s : State) (e : Nat × Team) : State :=
  match s.team e.1 with
  | some T => s.killTeam e.1 T 0 cECC 0 0
  | none => s

theorem State.killUnsavable_eq (s : State) (core : Nat) : s.killUnsavable core = (s.teamsOf core).foldl State.killEcc s := rfl

theorem State.team_killEcc_none {e : Nat × Team} {m : Nat} (h : m = e.1 ∨ s.team m = none) : (s.killEcc e).team m = none := by
  unfold State.killEcc
  split
  · exact State.team_killTeam_none h ..
  next hnone => exact h.elim (fun hm => hm ▸ hnone) id

/-- Of a list of teams that end one by one none is left. -/
theorem State.team_foldl_killEcc_none (l : List (Nat × Team)) {m : Nat} (h : (∃ T, (m, T) ∈ l) ∨ s.team m = none) :
    (l.foldl State.killEcc s).team m = none := by
  induction l generalizing s with
  | nil => simpa using h
  | cons e l ih =>
    refine ih (or_iff_not_imp_left.2 fun hl => State.team_killEcc_none (h.imp_left ?_))
    rintro ⟨T, hT⟩
    rcases List.mem_cons.1 hT with rfl | hT
    · rfl
    · exact absurd ⟨T, hT⟩ hl

/-- Ending the teams that cannot be saved ends every team of the core. -/
theorem State.teamsOf_killUnsavable (s : State) (core : Nat) : (s.killUnsavable core).teamsOf core = [] := by
  rw [State.killUnsavable_eq]
  refine State.teamsOf_eq_nil fun n hn => State.team_foldl_killEcc_none _ ?_
  cases hT : s.team n with
  | none => exact .inr rfl
  | some T => exact .inl ⟨T, List.mem_filter.2 ⟨Tbl.get_mem hT, by simpa using hn⟩⟩

/-- A core put in another state is as dead as before, as are the others. -/
theorem State.dead_setCore {i : Nat} {c : Core} (h : c.dead = (s.core i).dead) (j : Nat) :
    ((s.setCore i c).core j).dead = (s.core j).dead := by
  by_cases hij : i = j
  · subst hij
    rw [State.core_setCore, h]
  · rw [State.core_setCore_other _ _ hij]

/-- Only cores change, and none of them dies or comes back. -/
def coresOnly (s t : State) : Prop := only [.cores] s t ∧ ∀ j, (t.core j).dead = (s.core j).dead

theorem coresOnly.trans {u : State} (h : coresOnly s t) (h' : coresOnly t u) : coresOnly s u :=
  ⟨only_trans h.1 h'.1, fun j => (h'.2 j).trans (h.2 j)⟩

theorem coresOnly_setCore {i : Nat} {c : Core} (h : c.dead = (s.core i).dead) : coresOnly s (s.setCore i c) :=
  ⟨only_setCore s i c, State.dead_setCore h⟩

/-- Teams dealt again move from queue to queue. -/
theorem coresOnly_redeal (s : State) (core : Nat) : coresOnly s (s.redeal core) := by
  unfold State.redeal
  extract_lets c all c' u
  have hu : coresOnly s u := coresOnly_setCore rfl
  refine List.foldlRecOn (motive := coresOnly s) _ _ hu (fun v hv x _ => hv.trans ?_)
  split
  · exact coresOnly_setCore rfl
  · exact coresOnly_setCore rfl

/-- What a core's retirement leaves: the core is dead and holds no team and no line. -/
structure coreEmptied (core : Nat) (u : State) : Prop where
  dead : (u.core core).dead = true
  teams : u.teamsOf core = []
  lines : ∀ e ∈ u.mem.l1, l1Core e.1 ≠ core

theorem Mem.l1Core_backWhere (m : Mem) (core : Nat) :
    ∀ e ∈ (m.backWhere (fun k => l1Core k == core) false).l1, l1Core e.1 ≠ core := by
  intro e he hc
  exact Mem.lacks_backWhere m (k := e.1) (by simpa using hc) e he rfl

/-- The queue dealt again leaves the core emptied. -/
theorem coreEmptied.redeal {core : Nat} {u : State} (h : coreEmptied core u) : coreEmptied core (u.redeal core) := by
  obtain ⟨honly, hsame⟩ := coresOnly_redeal u core
  have hteams : (u.redeal core).teams = u.teams := honly .teams (by decide)
  exact ⟨(hsame core).trans h.dead, (congrArg (List.filter _) hteams).trans h.teams, (u.redeal_mem core).symm ▸ h.lines⟩

/-- Retirement of a core that is to be retired and holds no team that can be saved: its queue dealt again, a snapshot
queued (R449, R451). -/
theorem coreRetirement_alive {core : Nat} (hdead : (s.core core).dead = false) (hretire : (s.core core).retire = true)
    (hsave : ∀ e ∈ s.teamsOf core, s.savable e.2 = false) :
    ∃ (u : State) (l : List SnapTrig) (g : SnapTrig), exec (.coreRetirement core) s =
      .next { u with ras := { u.ras with trigs := l ++ [g] } } ∧ coreEmptied core u ∧ g.trig = 2 ∧ g.core = core := by
  have hx : exec (.coreRetirement core) s = execCoreRetirement core s := rfl
  have hgo : ¬((!(s.core core).retire) = true ∨ (s.teamsOf core).any (fun e => s.savable e.2) = true) := by
    simpa [hretire] using fun a b h => hsave (a, b) h
  rw [hx]
  unfold execCoreRetirement
  dsimp only
  rw [hdead, if_neg Bool.false_ne_true, if_neg hgo]
  refine ⟨_, _, _, rfl, coreEmptied.redeal ⟨?_, ?_, ?_⟩, rfl, rfl⟩
  · rw [State.core_setCore]
  · exact State.teamsOf_killUnsavable ..
  · exact Mem.l1Core_backWhere _ core

/-! The steps. -/

theorem softError_comes {loc : ErrAt} {k : Nat} {c : Option Nat} (h : errStructure loc = some (k, c)) (multi : Bool) :
    exec (.softError loc multi) s =
      .next (if multi then (s.countUe k).uncorrectable loc else s.countCe k c) := by
  have hx : exec (.softError loc multi) s = execSoftError loc multi s := rfl
  rw [hx, execSoftError, h]
  cases multi <;> rfl

theorem parityError_comes {core : Nat} (h : core < 256) : exec (.parityError core) s = .next (s.mustRetire core) := by
  have hx : exec (.parityError core) s = stepIf (core < 256) (s.mustRetire core) := rfl
  rw [hx, stepIf, decide_eq_true h, if_pos rfl]

theorem coreRetirement_dead {core : Nat} (hdead : (s.core core).dead = true)
    (h : ∃ x ∈ (s.core core).queued, x.saved = none) : exec (.coreRetirement core) s = .next (s.redeal core) := by
  have hx : exec (.coreRetirement core) s = execCoreRetirement core s := rfl
  have hany : (s.core core).queued.any (fun x => x.saved.isNone) = true := by simpa using h
  simp [hx, execCoreRetirement, hdead, stepIf, hany]

end Sys2Proof.Machine

section

open Sys2Proof Sys2Proof.Machine Sys2Proof.Rules

/-- Settles O47: a soft error is counted and, where it is uncorrectable, poisons its unit (`State.uncorrectable_poisons`); a
parity error marks its core; a patrol read changes nothing; a core retires empty (`coreRetirement_alive`), and a dead one
deals again what could not be dealt (`coresOnly_redeal`). That a patrol read changes nothing, that a dead core's retirement
comes again and what counts as one second are readings of log 42. -/
theorem errorSteps : Obligations.ErrorSteps := by
  unfold Obligations.ErrorSteps comes
  intro x r s hr hok
  cases x with
  | softError loc multi =>
    cases hr
    obtain ⟨⟨k, c⟩, hk⟩ := Option.ne_none_iff_exists'.1 hok
    refine ⟨if multi then (s.countUe k).uncorrectable loc else s.countCe k c, softError_comes hk multi, fun k' c' hk' => ?_⟩
    obtain ⟨rfl, rfl⟩ : k = k' ∧ c = c' := by simpa using hk.symm.trans hk'
    cases multi with
    | true =>
      rw [if_pos rfl, if_pos rfl, State.ras_uncorrectable]
      exact ⟨counted_bump .., rfl, (poisoned_countUe ..).1 (State.uncorrectable_poisons ..)⟩
    | false =>
      rw [if_neg Bool.false_ne_true, if_neg Bool.false_ne_true, State.ras_countCe]
      refine ⟨counted_bump .., rfl, only_countCe s k c, fun i hi hmany => ?_⟩
      subst hi
      exact State.retire_countCe s k i hmany
  | parityError core =>
    cases hr
    exact ⟨_, parityError_comes hok, by simp [State.mustRetire],
      fun c hc => State.core_setCore_other _ _ (Ne.symm hc), only_setCore s core _⟩
  | patrolScrub addr =>
    cases hr
    exact ⟨s, rfl, rfl⟩
  | coreRetirement core =>
    cases hr
    cases hdead : (s.core core).dead with
    | true =>
      have hredeal := coresOnly_redeal s core
      exact ⟨_, coreRetirement_dead hdead (by simpa [hdead] using hok), (hredeal.2 core).trans hdead, fun _ => hredeal.1,
        fun h => Bool.noConfusion (hdead.symm.trans h)⟩
    | false =>
      obtain ⟨hretire, hsave⟩ : (s.core core).retire = true ∧ ∀ e ∈ s.teamsOf core, s.savable e.2 = false := by
        simpa [hdead] using hok
      obtain ⟨u, l, g, hx, hu, htrig, hcore⟩ := coreRetirement_alive hdead hretire hsave
      exact ⟨_, hx, hu.dead, fun h => Bool.noConfusion (hdead.symm.trans h),
        fun _ => ⟨hu.teams, hu.lines, l, g, rfl, htrig, hcore⟩⟩
  | _ => cases hr

end
